-- ==== Sys2Proof/Word.lean ====
section
/-! DEFINITION. The word types of the SLX-C64 (00 R9, R10): bytes, 32-bit words, 64-bit doublewords, and the
names the spec gives to its object numbers. -/

namespace Sys2Proof

/-- Eight bits, the unit of memory (00 R10). -/
abbrev Byte := BitVec 8
/-- A 32-bit register or instruction word (07 R190, R199). -/
abbrev Word := BitVec 32
/-- A 64-bit value: a tag, a token value, a register pair (02 R37). -/
abbrev DWord := BitVec 64

/-- A general register number g0 to g31 (07 R190). -/
abbrev GReg := BitVec 5
/-- A hardware thread. Bit 12 clear: a fabric thread, cluster in 11:6, PE in 5:3, thread in 2:0. Bit 12 set: a
steward thread, core in 3:2, thread in 1:0, bits 11:4 zero (01 R32, 07 R197, R198). -/
abbrev Tid := BitVec 13
/-- Cluster 0-63 (01 R32). -/
abbrev ClusterId := BitVec 6
/-- Context 0-8,191 (02 R37). -/
abbrev CtxId := BitVec 13
/-- Host function 0-127 (12 R340). -/
abbrev FuncId := BitVec 7
/-- Ring number 0-63 of a function (12 R345). -/
abbrev RingId := BitVec 6

end Sys2Proof
end

