-- ==== Sys2Proof/Syntax.lean ====
section
/-! DEFINITION. The commands of the block: one constructor of `Instr` for each row of spec/opcode_table.json, in the
table's order, with the operands the row's rule gives it, and the small types those operands use. An operand with a default
says what a check or an arbiter found; left out, it found nothing. -/

namespace Sys2Proof

/-- What a device read of host memory by DMA brings back (13 R378, 12 R339). -/
inductive DmaIn where
  /-- The bytes read. -/
  | data (bytes : List Byte)
  /-- Completion timeout. -/
  | timeout
  /-- Poisoned completion. -/
  | poisoned
  /-- Unsupported Request or Completer Abort. -/
  | urca
  deriving DecidableEq, Repr

/-- Who asks for a reel or channel credit (06 R171, 11 R317 CRD_REQ): a thread's waiting send, or a headbox ring. -/
inductive Requester where
  | thread (t : Tid)
  | ring (f : FuncId) (r : RingId)
  deriving DecidableEq, Repr

/-- The boundaries of 01 R28 at which the hardware returns credits of its own (the ring boundaries return theirs by
the host's index and by the reel's write). -/
inductive Boundary where
  /-- Headbox to spine: VC0 flit places of host-hub link A (false) or B (true). -/
  | headbox (link : Bool)
  /-- Spine to cluster: VC0 flit places of the inbound couch. -/
  | couchIn (c : ClusterId)
  /-- Matching store to dispatcher: activation places. -/
  | dispatch (c : ClusterId)
  /-- PE to spine: VC0 flit places of the outbound couch. -/
  | couchOut (c : ClusterId)
  /-- Process I/O to spine: VC0 flit places. -/
  | processIo
  deriving DecidableEq, Repr

/-- What the SEC-DED check of the word read finds (10 R300, R302). -/
inductive Ecc where
  | clean
  | corrected
  | uncorrected
  deriving DecidableEq, Repr

/-- What the SEC-DED checks find in what a read of a waiting operand meets (03 R93, 05 R158): nothing, a single-bit error, a
double-bit error in VALUE, or one in the key half or the tag array; of an item of the reorder store, in its sequence number (16
R441). -/
inductive EntryErr where
  | clean
  | corrected
  | value
  | key
  deriving DecidableEq, Repr

/-- A near access presented at port A of a bank (10 R295): a thread's load or store at a byte offset of the bank. -/
structure PortA where
  thread : Tid
  store  : Bool
  offset : BitVec 18
  size   : BitVec 2
  signed : Bool
  rd     : GReg
  data   : DWord
  deriving DecidableEq, Repr

/-- What a router meets on a flit of the packet it moves (11 R319, R320). -/
inductive HopErr where
  | none
  | corrected
  | link
  | stored
  deriving DecidableEq, Repr

/-- What a probe does with the flits that match it (11 R335): it captures them, another flit of the same sc was captured, or its
FIFO is full. -/
inductive Capture where
  | kept
  | missed
  | dropped
  deriving DecidableEq, Repr

/-- A unit that answers at a management endpoint (16 R443). -/
inductive MgmtUnit where
  | pseudoChannel (p : BitVec 4)
  | hubLink (b : Bool)
  | router (r : BitVec 4)
  deriving DecidableEq, Repr

/-- A 256-byte SRAM window of the background test engine (10 R310, R311). -/
inductive SramWin where
  | bank (n : BitVec 8) (w : BitVec 10)
  | matching (c : ClusterId) (w : BitVec 10)
  | taskStore (c : ClusterId) (w : BitVec 10)
  | codeStore (c : ClusterId) (w : BitVec 10)
  | steward (w : BitVec 12)
  | keeper (w : BitVec 10)
  deriving DecidableEq, Repr

/-- How a background test step ends (10 R310, R312, R313). -/
inductive BteResult where
  | pass
  | aborted
  | marchFail
  | shadowUe
  deriving DecidableEq, Repr

/-- The phase-locked loops of 15 R419 and R422. -/
inductive Pll where
  | safe
  | core
  | memory
  | port (p : BitVec 2)
  | ethernet
  | time
  | sect (s : BitVec 4)
  deriving DecidableEq, Repr

/-- A protection-table row that an uncorrected error makes refuse every check (16 R441). -/
inductive ProtRow where
  | func (f : FuncId)
  | ring (f : FuncId) (r : RingId)
  | lockGroup (g : BitVec 6)
  | rule (n : BitVec 12)
  /-- A register of a fabric thread, the oldest record of the queue toward the stewards or the keeper, and the first entry of the
  broke queue: what else 16 R441 lists (log 134). -/
  | register (t : Tid) (r : GReg)
  | record (keeper : Bool)
  | broke
  deriving DecidableEq, Repr

/-- What a received frame is, as the MAC hands it on (14 R402, R403): the bytes from the destination address on with
the FCS left out, whether the FCS was good, and whether it is a pause frame. -/
structure Frame where
  bytes : List Byte
  fcsOk : Bool
  pause : Bool
  deriving DecidableEq, Repr

/-- The registers that a write reaches without a row of its own (00 R12). -/
inductive RegName where
  | msRes (c : ClusterId) (n : BitVec 8)
  | dlRes (c : ClusterId) (n : BitVec 8)
  | cdRes (c : ClusterId) (n : BitVec 8)
  | cdCfg (c : ClusterId)
  | cdFwd (c : ClusterId) (n : BitVec 8)
  | spdFwd (n : BitVec 8)
  | dlWmCfg (c : ClusterId)
  | dlWmStat (c : ClusterId)
  | tbTk
  | tbRate
  | tbSrc
  | rlFlow (f : BitVec 14)
  | lckGrpF0 (g : BitVec 6)
  | lckGrpF1 (g : BitVec 6)
  | lckGrpCl (g : BitVec 6)
  | nocRtBank (r : BitVec 4) (b : Bool)
  | hbFuncCfg (f : FuncId)
  | hbFuncBud (f : FuncId) (k : BitVec 2)
  | hbRstat (f : FuncId) (r : RingId)
  | hbRwmCfg (f : FuncId) (r : RingId)
  | hbRwmStat (f : FuncId) (r : RingId)
  | mbStatus (f : FuncId)
  | clkRefStat
  | clkXing (d : BitVec 5)
  | rstCause
  | monVwin (n : BitVec 5)
  | msixVectorControl (f : FuncId) (v : BitVec 6)
  | msixMessageControl (f : FuncId)
  | msixMessageAddress (f : FuncId) (v : BitVec 6)
  | msixMessageData (f : FuncId) (v : BitVec 6)
  /-- Any register whose every field is RO, RC or reserved: the write is ignored. -/
  | readOnly
  deriving DecidableEq, Repr

/-- The registers that a steward or DIAG_READ may read (00 R12, 13 R398). The blocks of 13 R397 are numbered as STATS_READ lists them. -/
inductive DevReg where
  | rw (n : RegName)
  | context (x : CtxId) (k : Nat)
  | flow (f : BitVec 14) (k : Nat)
  | cluster (c : ClusterId) (k : Nat)
  | router (r : BitVec 4) (k : Nat)
  /-- A word of 8 bytes of BAR0 of a function. -/
  | bar0 (f : FuncId) (o : BitVec 13)
  | dlLevel (c : ClusterId)
  | dlWmCnt (c : ClusterId)
  | tbNow
  | tbTc
  | tbStep
  | nocEpoch
  | nocRtOld (r : BitVec 4)
  | nocEpState (r : BitVec 4)
  | prbCfg (k : BitVec 5)
  | prbHdr (k : BitVec 5)
  | prbTag (k : BitVec 5)
  | prbTagm (k : BitVec 5)
  | bankOwner (n : Byte)
  | hbmCe (p : BitVec 4)
  | hbmUe (p : BitVec 4)
  | bteAbort
  | lckHolder (n : BitVec 12)
  | lckPend
  | hbSpledger (x : CtxId)
  | brokeLvl
  | brokeOvf (f : FuncId)
  | brokeOrph
  | ethStat (p : BitVec 2)
  | ethCnt (p : BitVec 2) (k : BitVec 3)
  | ruleCnt (n : BitVec 12)
  | tplCnt (t : BitVec 10)
  | clkFab (s : BitVec 4)
  | pwrSec (s : BitVec 4)
  /-- A register of whose behaviour the manual says nothing. -/
  | unlisted (n : Nat)
  deriving DecidableEq, Repr

/-- What resets a port (12 R366). -/
inductive PortReset where
  /-- PERST_N_p low. -/
  | pin
  | hot
  | dlDown
  deriving DecidableEq, Repr

/-- The AtomicOp requests of PCI Express (12 R338, R344). -/
inductive AtomicOp where
  | cas64
  | cas32
  | cas128
  | fetchAdd
  | swap
  deriving DecidableEq, Repr

/-- The commands, in the order of spec/opcode_table.json: the row's summary stands with each. -/
inductive Instr where
  /-- ADD (R237): Writes rs1 plus rs2, wrapping, to rd. -/
  | add (t : Tid) (rd rs1 rs2 : GReg)
  /-- SUB (R237): Writes rs1 minus rs2, wrapping, to rd. -/
  | sub (t : Tid) (rd rs1 rs2 : GReg)
  /-- AND (R237): Writes the bitwise AND of rs1 and rs2 to rd. -/
  | andR (t : Tid) (rd rs1 rs2 : GReg)
  /-- OR (R237): Writes the bitwise OR of rs1 and rs2 to rd. -/
  | orR (t : Tid) (rd rs1 rs2 : GReg)
  /-- XOR (R237): Writes the bitwise XOR of rs1 and rs2 to rd. -/
  | xorR (t : Tid) (rd rs1 rs2 : GReg)
  /-- NOR (R237): Writes not (rs1 or rs2) to rd. -/
  | nor (t : Tid) (rd rs1 rs2 : GReg)
  /-- SLL (R269): Shifts rs1 left by rs2[5:0], giving 0 for amounts of 32 or more. -/
  | sll (t : Tid) (rd rs1 rs2 : GReg)
  /-- SRL (R269): Shifts rs1 right logically by rs2[5:0], giving 0 for amounts of 32 or more. -/
  | srl (t : Tid) (rd rs1 rs2 : GReg)
  /-- SRA (R269): Shifts rs1 right arithmetically by rs2[5:0], filling with the sign for amounts of 32 or more. -/
  | sra (t : Tid) (rd rs1 rs2 : GReg)
  /-- CMPEQ (R237): Writes 1 to rd when rs1 equals rs2, else 0. -/
  | cmpeq (t : Tid) (rd rs1 rs2 : GReg)
  /-- CMPNE (R237): Writes 1 to rd when rs1 differs from rs2, else 0. -/
  | cmpne (t : Tid) (rd rs1 rs2 : GReg)
  /-- CMPLT (R237): Writes 1 to rd when rs1 is below rs2 signed, else 0. -/
  | cmplt (t : Tid) (rd rs1 rs2 : GReg)
  /-- CMPLTU (R237): Writes 1 to rd when rs1 is below rs2 unsigned, else 0. -/
  | cmpltu (t : Tid) (rd rs1 rs2 : GReg)
  /-- SEL (R237): Writes rs1 to rd when rd is nonzero at issue, else rs2. -/
  | sel (t : Tid) (rd rs1 rs2 : GReg)
  /-- MIN (R237): Writes the signed minimum of rs1 and rs2 to rd. -/
  | min (t : Tid) (rd rs1 rs2 : GReg)
  /-- MAX (R237): Writes the signed maximum of rs1 and rs2 to rd. -/
  | max (t : Tid) (rd rs1 rs2 : GReg)
  /-- NEG (R237): Writes 0 minus rs1, wrapping, to rd. -/
  | neg (t : Tid) (rd rs1 : GReg)
  /-- ADD_IMMEDIATE (R237): Writes rs1 plus the sign-extended imm15 to rd. -/
  | addImmediate (t : Tid) (rd rs1 : GReg) (imm : BitVec 15)
  /-- AND_IMMEDIATE (R237): Writes rs1 AND the zero-extended imm15 to rd. -/
  | andImmediate (t : Tid) (rd rs1 : GReg) (imm : BitVec 15)
  /-- OR_IMMEDIATE (R237): Writes rs1 OR the zero-extended imm15 to rd. -/
  | orImmediate (t : Tid) (rd rs1 : GReg) (imm : BitVec 15)
  /-- XOR_IMMEDIATE (R237): Writes rs1 XOR the zero-extended imm15 to rd. -/
  | xorImmediate (t : Tid) (rd rs1 : GReg) (imm : BitVec 15)
  /-- SLL_IMMEDIATE (R269): Shifts rs1 left by imm15[4:0]. -/
  | sllImmediate (t : Tid) (rd rs1 : GReg) (imm : BitVec 15)
  /-- SRL_IMMEDIATE (R269): Shifts rs1 right logically by imm15[4:0]. -/
  | srlImmediate (t : Tid) (rd rs1 : GReg) (imm : BitVec 15)
  /-- SRA_IMMEDIATE (R269): Shifts rs1 right arithmetically by imm15[4:0]. -/
  | sraImmediate (t : Tid) (rd rs1 : GReg) (imm : BitVec 15)
  /-- CMPEQ_IMMEDIATE (R237): Compares rs1 with the sign-extended imm15 for equality. -/
  | cmpeqImmediate (t : Tid) (rd rs1 : GReg) (imm : BitVec 15)
  /-- CMPNE_IMMEDIATE (R237): Compares rs1 with the sign-extended imm15 for inequality. -/
  | cmpneImmediate (t : Tid) (rd rs1 : GReg) (imm : BitVec 15)
  /-- CMPLT_IMMEDIATE (R237): Compares rs1 below the sign-extended imm15, signed. -/
  | cmpltImmediate (t : Tid) (rd rs1 : GReg) (imm : BitVec 15)
  /-- CMPLTU_IMMEDIATE (R268): Compares rs1 below the sign-extended imm15, unsigned. -/
  | cmpltuImmediate (t : Tid) (rd rs1 : GReg) (imm : BitVec 15)
  /-- LUI (R237): Writes off20 shifted left by 12 to rd. -/
  | lui (t : Tid) (rd : GReg) (off : BitVec 20)
  /-- MUL (R212): Writes the low 32 bits of rs1 times rs2, holding the multiplier for a time set by rs2. -/
  | mul (t : Tid) (rd rs1 rs2 : GReg)
  /-- MULH (R237): Writes the high 32 bits of the signed 64-bit product. -/
  | mulh (t : Tid) (rd rs1 rs2 : GReg)
  /-- MULHU (R237): Writes the high 32 bits of the unsigned 64-bit product. -/
  | mulhu (t : Tid) (rd rs1 rs2 : GReg)
  /-- DIV (R238): Writes the signed quotient truncated toward zero, with the division-by-zero result and DZT fault. -/
  | div (t : Tid) (rd rs1 rs2 : GReg)
  /-- DIVU (R238): Writes the unsigned quotient, with the division-by-zero result and DZT fault. -/
  | divu (t : Tid) (rd rs1 rs2 : GReg)
  /-- REM (R238): Writes the signed remainder with the dividend's sign. -/
  | rem (t : Tid) (rd rs1 rs2 : GReg)
  /-- REMU (R238): Writes the unsigned remainder. -/
  | remu (t : Tid) (rd rs1 rs2 : GReg)
  /-- LB (R239): Near load of a sign-extended byte. -/
  | lb (t : Tid) (rd rs1 : GReg) (imm : BitVec 15)
  /-- LBU (R239): Near load of a zero-extended byte. -/
  | lbu (t : Tid) (rd rs1 : GReg) (imm : BitVec 15)
  /-- LH (R239): Near load of a sign-extended half-word. -/
  | lh (t : Tid) (rd rs1 : GReg) (imm : BitVec 15)
  /-- LHU (R239): Near load of a zero-extended half-word. -/
  | lhu (t : Tid) (rd rs1 : GReg) (imm : BitVec 15)
  /-- LW (R239): Near load of a word. -/
  | lw (t : Tid) (rd rs1 : GReg) (imm : BitVec 15)
  /-- LDP (R239): Near load of a 64-bit pair. -/
  | ldp (t : Tid) (rd rs1 : GReg) (imm : BitVec 15)
  /-- SB (R239): Near store of a byte. -/
  | sb (t : Tid) (rd rs1 : GReg) (imm : BitVec 15)
  /-- SH (R239): Near store of a half-word. -/
  | sh (t : Tid) (rd rs1 : GReg) (imm : BitVec 15)
  /-- SW (R239): Near store of a word. -/
  | sw (t : Tid) (rd rs1 : GReg) (imm : BitVec 15)
  /-- SDP (R239): Near store of a 64-bit pair. -/
  | sdp (t : Tid) (rd rs1 : GReg) (imm : BitVec 15)
  /-- LDX_B (R240): Issues a split load of a sign-extended byte, counted in LDOUT. -/
  | ldxB (t : Tid) (rd rs1 rs2 : GReg)
  /-- LDX_BU (R240): Issues a split load of a zero-extended byte. -/
  | ldxBu (t : Tid) (rd rs1 rs2 : GReg)
  /-- LDX_H (R240): Issues a split load of a sign-extended half-word. -/
  | ldxH (t : Tid) (rd rs1 rs2 : GReg)
  /-- LDX_HU (R240): Issues a split load of a zero-extended half-word. -/
  | ldxHu (t : Tid) (rd rs1 rs2 : GReg)
  /-- LDX_W (R240): Issues a split load of a word. -/
  | ldxW (t : Tid) (rd rs1 rs2 : GReg)
  /-- LDX_P (R240): Issues a split load of a 64-bit pair. -/
  | ldxP (t : Tid) (rd rs1 rs2 : GReg)
  /-- STX_B (R240): Issues a split store of a byte. -/
  | stxB (t : Tid) (rd rs1 rs2 : GReg)
  /-- STX_H (R240): Issues a split store of a half-word. -/
  | stxH (t : Tid) (rd rs1 rs2 : GReg)
  /-- STX_W (R240): Issues a split store of a word. -/
  | stxW (t : Tid) (rd rs1 rs2 : GReg)
  /-- STX_P (R240): Issues a split store of a 64-bit pair. -/
  | stxP (t : Tid) (rd rs1 rs2 : GReg)
  /-- CAS (R242): Issues a memory-side compare-and-swap of a 64-bit word, counted in LDOUT. -/
  | cas (t : Tid) (rd rs1 rs2 : GReg)
  /-- WAITLD (R241): Waits until LDOUT is 0 and reports the earliest split-access error. -/
  | waitld (t : Tid)
  /-- FENCE (R243): Waits until every earlier access of the thread is performed at its target. -/
  | fence (t : Tid)
  /-- FADD (R272): IEEE addition in binary32 or binary64 under RM, accruing flags. -/
  | fadd (t : Tid) (d : Bool) (rd rs1 rs2 : GReg)
  /-- FSUB (R271): IEEE subtraction in binary32 or binary64. -/
  | fsub (t : Tid) (d : Bool) (rd rs1 rs2 : GReg)
  /-- FMUL (R273): IEEE multiplication in binary32 or binary64. -/
  | fmul (t : Tid) (d : Bool) (rd rs1 rs2 : GReg)
  /-- FMA (R276): Fused multiply-add into rd with a single rounding. -/
  | fma (t : Tid) (d : Bool) (rd rs1 rs2 : GReg)
  /-- FDIV (R274): IEEE division, occupying the divide and square-root unit. -/
  | fdiv (t : Tid) (d : Bool) (rd rs1 rs2 : GReg)
  /-- FSQRT (R275): IEEE square root, occupying the divide and square-root unit. -/
  | fsqrt (t : Tid) (d : Bool) (rd rs1 : GReg)
  /-- FMIN (R256): Writes minimumNumber of the operands. -/
  | fmin (t : Tid) (d : Bool) (rd rs1 rs2 : GReg)
  /-- FMAX (R256): Writes maximumNumber of the operands. -/
  | fmax (t : Tid) (d : Bool) (rd rs1 rs2 : GReg)
  /-- FCMPEQ (R256): Writes 1 when the operands are equal, else 0. -/
  | fcmpeq (t : Tid) (d : Bool) (rd rs1 rs2 : GReg)
  /-- FCMPLT (R256): Writes 1 when rs1 is less than rs2, setting NV for any NaN. -/
  | fcmplt (t : Tid) (d : Bool) (rd rs1 rs2 : GReg)
  /-- FCMPLE (R256): Writes 1 when rs1 is less than or equal to rs2, setting NV for any NaN. -/
  | fcmple (t : Tid) (d : Bool) (rd rs1 rs2 : GReg)
  /-- FCLASS (R257): Writes a one-hot class mask of the operand. -/
  | fclass (t : Tid) (d : Bool) (rd rs1 : GReg)
  /-- FCVT_FROM_SIGNED_WORD (R258): Converts a signed word to binary32 or binary64. -/
  | fcvtFromSignedWord (t : Tid) (d : Bool) (rd rs1 : GReg)
  /-- FCVT_FROM_UNSIGNED_WORD (R258): Converts an unsigned word to binary32 or binary64. -/
  | fcvtFromUnsignedWord (t : Tid) (d : Bool) (rd rs1 : GReg)
  /-- FCVT_TO_SIGNED_WORD (R258): Converts to a signed word under RM, saturating with NV. -/
  | fcvtToSignedWord (t : Tid) (d : Bool) (rd rs1 : GReg)
  /-- FCVT_TO_UNSIGNED_WORD (R258): Converts to an unsigned word under RM, saturating with NV. -/
  | fcvtToUnsignedWord (t : Tid) (d : Bool) (rd rs1 : GReg)
  /-- FCVT_BETWEEN_FORMATS (R258): Converts between binary64 and binary32. -/
  | fcvtBetweenFormats (t : Tid) (d : Bool) (rd rs1 : GReg)
  /-- BZ (R217): Branches when rs1 is zero, after executing the delay slot. -/
  | bz (t : Tid) (rs1 : GReg) (off : BitVec 20)
  /-- BNZ (R217): Branches when rs1 is nonzero, after executing the delay slot. -/
  | bnz (t : Tid) (rs1 : GReg) (off : BitVec 20)
  /-- J (R217): Jumps to the relative target after the delay slot. -/
  | jump (t : Tid) (off : BitVec 20)
  /-- JL (R217): Jumps to the relative target and writes the link PC + 8. -/
  | jl (t : Tid) (rd : GReg) (off : BitVec 20)
  /-- JR (R218): Jumps to rs1 and writes the link, faulting ALIGN on an unaligned target. -/
  | jr (t : Tid) (rd rs1 : GReg)
  /-- REP_I (R219): Repeats the next word gc times, interruptibly. -/
  | repI (t : Tid) (rs1 : GReg)
  /-- REP_N (R220): Repeats the next word n times, 1 to 64, without interruption. -/
  | repN (t : Tid) (n : BitVec 15)
  /-- SEND (R246): Sends a token to destination d of the activation's node with release semantics. -/
  | send (t : Tid) (rs1 rs2 : GReg) (dsel : BitVec 7)
  /-- SENDX (R247): Sends a token with an explicit tag, checked by the PE outbox. -/
  | sendx (t : Tid) (rs1 rs2 : GReg)
  /-- SENDT (R246): Sends a time-tagged token to destination d, checking the horizon. -/
  | sendt (t : Tid) (rd rs1 rs2 : GReg) (dsel : BitVec 7)
  /-- SENDC (R249): Puts one channel word on a task channel, or replies to a trap. -/
  | sendc (t : Tid) (rs1 rs2 : GReg) (dsel : BitVec 7)
  /-- CPUT (R129): Puts a channel word into the outbox of a message, requesting the channel reservation. -/
  | cput (t : Tid) (rs1 rs2 : GReg) (dsel : BitVec 7)
  /-- CEND (R129): Completes a message with its end word once the reservation and credits are held. -/
  | cend (t : Tid) (rs1 rs2 : GReg) (dsel : BitVec 7)
  /-- SETEV (R250): Sends an event message setting software flag f of a target task. -/
  | setev (t : Tid) (rs1 : GReg) (dsel : BitVec 7)
  /-- CLREV (R250): Clears software flags of the issuing task. -/
  | clrev (t : Tid) (rs1 : GReg) (meet : Word)
  /-- RECV (R252): Takes the head visible channel word, blocking while there is none. -/
  | recv (t : Tid) (rd rt : GReg) (dsel : BitVec 7)
  /-- TRYRECV (R252): Takes the head visible channel word without blocking. -/
  | tryrecv (t : Tid) (rd rt : GReg) (dsel : BitVec 7)
  /-- WAITEV_ANY (R133): Waits until any masked event flag is set. -/
  | waitevAny (t : Tid) (rd rs1 : GReg)
  /-- WAITEV_ALL (R133): Waits until all masked event flags are set. -/
  | waitevAll (t : Tid) (rd rs1 : GReg)
  /-- SLEEP (R253): Inserts a sleep entry, relative or absolute, and makes the task DELAYED. -/
  | sleep (t : Tid) (rs1 : GReg) (dsel : BitVec 7)
  /-- YIELD (R120): Saves the task's registers and returns it to the tail of its ready list. -/
  | yield (t : Tid)
  /-- END (R254): Waits for LDOUT 0, reports errors, and frees the activation or makes the task DORMANT. -/
  | endWork (t : Tid)
  /-- NOP (R236): Occupies one issue with no effect. -/
  | nop (t : Tid)
  /-- TRAP (R235): Acts as an extension trap in context mode, or enters the firmware trap vector in steward mode. -/
  | trap (t : Tid) (rd rs1 rs2 : GReg)
  /-- BRK (R236): Stops the work for an attached debugger, or faults with BREAK. -/
  | brk (t : Tid)
  /-- MFSR (R267): Reads the thread state or system register numbered imm15 into rd. -/
  | mfsr (t : Tid) (rd : GReg) (sr : BitVec 15)
  /-- MTSR (R267): Writes the thread state or system register numbered imm15 from rs1. -/
  | mtsr (t : Tid) (rs1 : GReg) (sr : BitVec 15)
  /-- DADD (R260): Adds packed BCD operands with carry into the partner register. -/
  | dadd (t : Tid) (p : Bool) (rd rs1 rs2 : GReg)
  /-- DSUB (R260): Subtracts packed BCD operands with borrow into the partner register. -/
  | dsub (t : Tid) (p : Bool) (rd rs1 rs2 : GReg)
  /-- DADJ (R260): Writes the ten's complement of a BCD operand. -/
  | dadj (t : Tid) (p : Bool) (rd rs1 : GReg)
  /-- DMULS (R260): Multiplies a BCD operand by one digit. -/
  | dmuls (t : Tid) (p : Bool) (rd rs1 rs2 : GReg)
  /-- DSHL (R260): Shifts BCD digits left by k. -/
  | dshl (t : Tid) (p : Bool) (rd rs1 rs2 : GReg)
  /-- DSHR (R260): Shifts BCD digits right by k, setting INEXACT on lost digits. -/
  | dshr (t : Tid) (p : Bool) (rd rs1 rs2 : GReg)
  /-- DCMP (R260): Writes 1 when the first BCD value is below the second. -/
  | dcmp (t : Tid) (p : Bool) (rd rs1 rs2 : GReg)
  /-- DROUND (R261): Divides by 10^k and rounds under the context's DRND regime. -/
  | dround (t : Tid) (p : Bool) (rd rs1 rs2 : GReg)
  /-- DTOB (R260): Converts BCD divided by 10^k to a binary word. -/
  | dtob (t : Tid) (p : Bool) (rd rs1 rs2 : GReg)
  /-- BTOD (R260): Converts an unsigned binary word to BCD digits. -/
  | btod (t : Tid) (p : Bool) (rd rs1 : GReg)
  /-- TLI1 (R263): Interpolates a one-dimensional table at x. -/
  | tli1 (t : Tid) (rd rs1 rs2 : GReg)
  /-- TLI2 (R264): Interpolates a two-dimensional table at x and y. -/
  | tli2 (t : Tid) (rd rs1 rs2 : GReg)
  /-- PAIRED_WORD (R200): Executes two short operations in slots A and B as one issue. -/
  | pairedWord (t : Tid) (x : BitVec 31)
  /-- EXTENSION_TRAP (R233): Blocks the work unevicted and sends a trap request to the extension handler's channel 6. -/
  | extensionTrap (t : Tid) (op : BitVec 2) (x : BitVec 25)
  /-- INJECTION_WAIT_TIMEOUT (R172): After 256 fc of waiting for VC0 credit, the thread's token parks. -/
  | injectionWaitTimeout (t : Tid)
  /-- PARK_REINJECT (R173): The send park reinjects its oldest token on VC0, translating PLACE at that time. -/
  | parkReinject (c : ClusterId) (ecc : Ecc := .clean)
  /-- PARK_FULL_TIMEOUT (R173): A park full for 10 ms makes the firmware fence the context with the most parked tokens. -/
  | parkFullTimeout (c : ClusterId)
  /-- TRAP_REPLY (R234): A handler's reply reaches the trapped thread, writing RESULT and resuming it or faulting it. -/
  | trapReply (t : Tid)
  /-- SPLIT_ACCESS_COMPLETION (R214): A response to a split access or CAS arrives, writing its destination or recording its error and lowering LDOUT. -/
  | splitAccessCompletion (t : Tid) (txn : BitVec 16)
  /-- HEADBOX_ENTRY (R349): The headbox checks a ring entry read from host memory and injects, holds or rejects its token. -/
  | headboxEntry (f : FuncId) (r : RingId) (e : BitVec 256)
  /-- RING_DOORBELL (R346): A write to HB_RDB publishes a new host or consumed index, or faults the ring when invalid. -/
  | ringDoorbell (f : FuncId) (r : RingId) (v : Word)
  /-- RING_READ_FAILURE (R339): A ring read times out or completes with an error, placing the ring in RING_FAULT. -/
  | ringReadFailure (f : FuncId) (r : RingId) (e : DmaIn)
  /-- MEMORY_RING_TRANSFER (R354): The hub performs a memory-ring entry's transfer and writes its MEMDONE entry. -/
  | memoryRingTransfer (f : FuncId) (r : RingId) (e : BitVec 256) (host : List DWord) (lostAt : Option Nat)
    (ceAt : Option Nat := none)
  /-- REEL_TOKEN_ARRIVAL (R161): A reel-value token reaches the reel and is written, held in the reorder store, or rejected. -/
  | reelTokenArrival
  /-- REEL_CREDIT_REQUEST (R162): A sender requests a reel-staging credit, which is granted, withheld or not needed. -/
  | reelCreditRequest (q : Requester)
  /-- ORDERED_RELEASE (R163): The reel releases the item at NEXT of a flow when it is present and the ring has room. -/
  | orderedRelease (flow : BitVec 14) (ecc : EntryErr := .clean)
  /-- GAP_TIMEOUT (R165): A flow's gap timer reaching GAPTO writes a GAP record and advances NEXT. -/
  | gapTimeout (flow : BitVec 14)
  /-- REEL_ENTRY_WRITE (R351): The reel writes one entry with its phase bit into a ring or result-window slot. -/
  | reelEntryWrite (f : FuncId) (r : RingId)
  /-- REEL_MODERATION_TIMEOUT (R351): TIME µs after the first uncovered entry, the reel raises the ring's vector. -/
  | reelModerationTimeout (f : FuncId) (r : RingId)
  /-- RESULT_WINDOW_READ (R357): A read including byte 0x27 of a READY slot consumes it and returns a credit. -/
  | resultWindowRead (f : FuncId) (off : BitVec 16) (wide : Bool)
  /-- TEMPLATE_TOKEN_ARRIVAL (R412): A reel-value token for a claimed ring number fills an egress template's staging place. -/
  | templateTokenArrival
  /-- BROKE_INTAKE (R359): The broke queue takes an undeliverable token or records it as lost when full. -/
  | brokeIntake
  /-- BROKE_ENTRY_WRITE (R359): The broke queue writes a BROKE entry to the owner's or administrator's fault ring once it has room. -/
  | brokeEntryWrite (f : FuncId)
  /-- FAULT_RECORD_SEND (R136): A fault record leaves the fault buffer for the supervisor's channel 7 or the owner's fault ring. -/
  | faultRecordSend (c : ClusterId) (i : BitVec 6)
  /-- MSIX_VECTOR_UNMASK (R358): Unmasking a vector sends one message if its pending bit is set. -/
  | msixVectorUnmask (f : FuncId) (v : BitVec 6)
  /-- MSIX_ENABLE (R358): Setting MSI-X Enable sends messages for pending unmasked vectors. -/
  | msixEnable (f : FuncId)
  /-- FUNCTION_MASK_CLEAR (R358): Clearing Function Mask sends messages for pending unmasked vectors. -/
  | functionMaskClear (f : FuncId)
  /-- BAR2_READ (R344): A host read of a lock word returns it when the function has the group's rights, else zero. -/
  | bar2Read (f : FuncId) (off : BitVec 15) (wide : Bool)
  /-- BAR2_CAS (R344): A host AtomicOp CAS on a lock word is performed by the lock unit. -/
  | bar2Cas (f : FuncId) (off : BitVec 15) (expect new : DWord) (op : AtomicOp := .cas64)
  /-- BAR2_MEMORY_WRITE (R344): A host memory write to BAR2 is discarded and counted. -/
  | bar2MemoryWrite (f : FuncId) (off : BitVec 15) (v : DWord)
  /-- FLR (R364): Function-level reset kills the function's contexts, abandons its locks, destroys its rings and unloads its images. -/
  | flr (f : FuncId)
  /-- VF_ENABLE_CLEAR (R365): Clearing VF Enable acts as FLR of every VF of the port. -/
  | vfEnableClear (p : BitVec 2)
  /-- PERST_N_ASSERT (R366): PERST_N_p, hot reset or DL_Down acts as FLR of the port's PF and VFs. -/
  | perstNAssert (p : BitVec 2) (why : PortReset := .pin)
  /-- PERST_N_RELEASE (R433): Release of PERST_N_p starts training and enabling of that port. -/
  | perstNRelease (p : BitVec 2)
  /-- PORT_ENABLE (R433): The port's functions are enabled, Retry Status ends and NOTRDY clears. -/
  | portEnable (p : BitVec 2)
  /-- ADMIN_OFFER_LAPSE (R362): An ADMIN_MOVE offer lapses 10 s after it is made. -/
  | adminOfferLapse
  /-- MAILBOX_DOORBELL (R370): GO latches the command buffer and sets PEND, or is answered BUSY, KEEPER_MODE or discarded. -/
  | mailboxDoorbell (f : FuncId) (v : DWord)
  /-- MAILBOX_COMMAND_BUFFER_WRITE (R371): A command-buffer write retires a completed response or sets OVERLAP. -/
  | mailboxCommandBufferWrite (f : FuncId) (off : BitVec 8) (wide : Bool) (v : DWord)
  /-- DEV_INFO (R382): Returns part, stepping, interface level and device configuration. -/
  | devInfo (f : FuncId)
  /-- DEV_HEALTH (R383): Returns the caller's budget use and device health summary. -/
  | devHealth (f : FuncId)
  /-- FW_STAGE (R384): Verifies a firmware image and writes it to the inactive flash bank. -/
  | fwStage (f : FuncId) (dma : DmaIn)
  /-- FW_ACTIVATE (R451): Pauses the mailboxes and starts the staged steward firmware. -/
  | fwActivate (f : FuncId)
  /-- FW_ACTIVATE_TIMEOUT (R451): New firmware not ready within 100 ms makes the keeper revert to the previous image. -/
  | fwActivateTimeout
  /-- GRAPH_LOAD (R65): Reads an EZG image by DMA, checks it and returns an image handle. -/
  | graphLoad (f : FuncId) (dma : DmaIn)
  /-- GRAPH_UNLOAD (R65): Removes an image that no non-FREE context names. -/
  | graphUnload (f : FuncId)
  /-- TABLE_LOAD (R386): Loads or replaces an interpolation table of a CONTROL context. -/
  | tableLoad (f : FuncId) (dma : DmaIn)
  /-- TABLE_REMOVE (R386): Removes an interpolation table handle of a context. -/
  | tableRemove (f : FuncId)
  /-- CTX_ADMIT (R68): Checks an image against budgets and placement and admits a context in ADMITTED. -/
  | ctxAdmit (f : FuncId)
  /-- CTX_START (R52): Moves a context from ADMITTED or STOPPED to RUNNING. -/
  | ctxStart (f : FuncId)
  /-- CTX_STOP (R52): Moves a RUNNING context to QUIESCING. -/
  | ctxStop (f : FuncId)
  /-- CTX_KILL (R56): Discards a context's work and releases its reservations, returning it to FREE. -/
  | ctxKill (f : FuncId)
  /-- PURGE_COMPLETE (R95): The store and spill walks of a killed context end, freeing its residency slot and completing CTX_KILL. -/
  | purgeComplete (x : CtxId) (c : ClusterId)
  /-- CTX_UPDATE (R55): Checks a new image and moves a RUNNING context to UPDATING at boundary B. -/
  | ctxUpdate (f : FuncId)
  /-- CTX_UPDATE_POLICY (R387): With IMAGE 0, writes only FOF and DZT of a context. -/
  | ctxUpdatePolicy (f : FuncId)
  /-- UPDATE_TIMEOUT (R52): An update not drained by its timeout returns the context to RUNNING on the old image. -/
  | updateTimeout (x : CtxId)
  /-- DRAIN_CONDITION (R50): The drain record makes the firmware write STOPPED after QUIESCING or switch the image after UPDATING. -/
  | drainCondition (x : CtxId)
  /-- CTX_QUERY (R388): Returns the context-table entry and cluster map, optionally with windows and placement groups. -/
  | ctxQuery (f : FuncId)
  /-- FLOW_DEFINE (R160): Binds a context's flow to a REEL ring with a reorder quota. -/
  | flowDefine (f : FuncId)
  /-- RING_CREATE (R345): Creates a HEADBOX, REEL or MEMORY ring of the calling function. -/
  | ringCreate (f : FuncId)
  /-- RING_DESTROY (R355): Destroys a ring, disposing of its staged and in-progress work. -/
  | ringDestroy (f : FuncId)
  /-- RING_REWIND (R104): Sets a headbox ring's read pointer back to its VALID rewind mark. -/
  | ringRewind (f : FuncId)
  /-- BANK_ASSIGN (R298): Changes a scratchpad bank's owner, zero-filling it when required. -/
  | bankAssign (f : FuncId)
  /-- WINDOW_SET (R294): Writes a window-table entry and invalidates it in the context's clusters. -/
  | windowSet (f : FuncId)
  /-- LOCKGRP_RIGHTS (R309): Writes the class and function masks of a lock group. -/
  | lockgrpRights (f : FuncId)
  /-- FUNC_SET (R391): Writes a function-table entry's configuration and budgets. -/
  | funcSet (f : FuncId)
  /-- FUNC_SET_MOVE_CONTEXT (R391): Moves a context and its image to a new owning function. -/
  | funcSetMoveContext (f : FuncId)
  /-- ADMIN_MOVE (R392): Records an offer of the administrative role or confirms it. -/
  | adminMove (f : FuncId)
  /-- SEAL_KEY_SET (R70): Installs a P-384 public key in a seal-key slot. -/
  | sealKeySet (f : FuncId)
  /-- SEAL_KEY_CLEAR (R70): Empties a seal-key slot. -/
  | sealKeyClear (f : FuncId)
  /-- TIME_SET (R144): Steps TB to a given value while the source is FREE. -/
  | timeSet (f : FuncId)
  /-- TIME_SOURCE (R393): Restarts the time servo on a named discipline source. -/
  | timeSource (f : FuncId)
  /-- TICK_SET (R146): Changes the tick length TK while every context is FREE. -/
  | tickSet (f : FuncId)
  /-- IO_RULE_SET (R406): Writes a classifier rule owned by a context. -/
  | ioRuleSet (f : FuncId)
  /-- IO_RULE_CLEAR (R394): Clears a classifier rule slot. -/
  | ioRuleClear (f : FuncId)
  /-- IO_TEMPLATE_SET (R412): Writes an egress template and its ring-number claim. -/
  | ioTemplateSet (f : FuncId)
  /-- IO_TEMPLATE_CLEAR (R412): Clears an egress template and releases its claim. -/
  | ioTemplateClear (f : FuncId)
  /-- IO_GATE_SET (R414): Installs a port's gate control list. -/
  | ioGateSet (f : FuncId) (dma : DmaIn)
  /-- SECTION_FENCE (R444): Fences a section, moving every position placed in it to other clusters. -/
  | sectionFence (f : FuncId)
  /-- SECTION_REPAIR (R450): Powers a fenced section off and on and starts its full test. -/
  | sectionRepair (f : FuncId)
  /-- SECTION_RETURN (R450): Opens a passed section and returns its clusters to the reserve and admission. -/
  | sectionReturn (f : FuncId)
  /-- BTE_CONFIG (R395): Sets background-test pacing and the repair-reserve size. -/
  | bteConfig (f : FuncId)
  /-- ROUTE_EPOCH (R329): Writes new routing tables into the inactive bank, checks them and flips the epoch. -/
  | routeEpoch (f : FuncId)
  /-- MON_READ (R396): Returns all temperature, voltage and process readings of one MON cycle. -/
  | monRead (f : FuncId)
  /-- STATS_READ (R397): Writes a block of counters by DMA, clearing the RC fields returned. -/
  | statsRead (f : FuncId)
  /-- PROBE_SET (R335): Writes a probe's configuration and match fields and clears its counters. -/
  | probeSet (f : FuncId)
  /-- TRACE_READ (R335): Returns trace records with a paired SCNT and TB sample. -/
  | traceRead (f : FuncId)
  /-- DIAG_READ (R398): Returns physical memory or registers without side effect. -/
  | diagRead (f : FuncId)
  /-- KEEPER_TABLE_SET (R455): Installs the keeper table that governs safe outputs and heartbeat. -/
  | keeperTableSet (f : FuncId) (dma : DmaIn)
  /-- KEEPER_ENTER (R453): Requests keeper mode with cause REQUESTED. -/
  | keeperEnter (f : FuncId)
  /-- DBG_ATTACH (R399): Attaches the calling function as a context's debugger. -/
  | dbgAttach (f : FuncId)
  /-- DBG_DETACH (R399): Resumes all stopped work and detaches the debugger. -/
  | dbgDetach (f : FuncId)
  /-- DBG_STOP (R122): Stops selected work of a context at an instruction-word boundary. -/
  | dbgStop (f : FuncId)
  /-- DBG_RESUME (R120): Returns stopped work to its previous state. -/
  | dbgResume (f : FuncId)
  /-- DBG_READ (R400): Returns a descriptor, thread registers or windowed memory of stopped work. -/
  | dbgRead (f : FuncId)
  /-- KEEPER_STATUS (R457): A KPR_CMD STATUS write answers OK with the keeper registers current. -/
  | keeperStatus (p : BitVec 2) (w : DWord)
  /-- KEEPER_WARM_RESET (R457): A confirmed KPR_CMD WARM_RESET write from the right PF requests a warm reset. -/
  | keeperWarmReset (p : BitVec 2) (w : DWord)
  /-- CLUSTER_INGRESS (R45): A token read from the inbound couch is checked and sent to the delay list, bypass path, lookup sources or a channel. -/
  | clusterIngress (c : ClusterId)
  /-- DELAY_LIST_RELEASE (R154): Releasable entries whose tick has come are released to the release queue or wake their tasks. -/
  | delayListRelease (c : ClusterId) (err : EntryErr := .clean) (err2 : EntryErr := .clean)
  /-- MATCHING_LOOKUP (R78): A lookup slot matches a token's key, forming an activation, storing, displacing or starting a spill search. -/
  | matchingLookup (c : ClusterId) (err : EntryErr := .clean) (way : BitVec 3 := 0)
  /-- SPILL_SEARCH_RETURN (R91): A spill search result completes the activation, reloads entries or stores the token. -/
  | spillSearchReturn (c : ClusterId) (i : BitVec 2) (err : EntryErr := .clean) (j : BitVec 6 := 0)
  /-- SPILL_STUCK_TIMEOUT (R174): A spill refusal lasting 10 ms makes the firmware fence and migrate the cluster, or report SPILL_STUCK. -/
  | spillStuckTimeout (c : ClusterId)
  /-- TOMBSTONE_RECLAIM (R88): The spill engine reclaims tombstones of one bucket every 64 fc. -/
  | tombstoneReclaim (c : ClusterId) (bucket : BitVec 18)
  /-- LEDGER_RESERVATION (R83): A VC1 request reserves or returns a place in the context's spill ledger. -/
  | ledgerReservation (c : ClusterId)
  /-- CREDIT_RETURN (R29): A consumer returns a credit to its producer at a queue boundary. -/
  | creditReturn (b : Boundary)
  /-- CHANNEL_CREDIT_REQUEST (R128): A CRD_REQ for channel stage credits reaches the destination cluster and is granted when stages free. -/
  | channelCreditRequest (q : Requester)
  /-- CHANNEL_RESERVATION_GRANT (R129): A channel reservation is granted to the next requester in order. -/
  | channelReservationGrant (c : ClusterId) (d : BitVec 10) (ch : BitVec 3)
  /-- CHANNEL_WORD_ARRIVAL (R131): A channel word or message end word is written to a channel stage, making words visible. -/
  | channelWordArrival (c : ClusterId) (ecc : Ecc := .clean)
  /-- EVENT_MESSAGE (R250): An EVENT packet sets a software flag of the target task. -/
  | eventMessage (c : ClusterId) (meet : Bool)
  /-- DISPATCH_PLACE (R110): The dispatcher places up to 2 ready items per fc into prefetch slots or hold registers. -/
  | dispatchPlace (c : ClusterId)
  /-- AFFINITY_HOLD_TIMEOUT (R110): An item held 64 fc for its preferred PE goes to the lowest free slot. -/
  | affinityHoldTimeout (c : ClusterId) (i : BitVec 2)
  /-- PRELOAD_COMPLETE (R112): An item in a prefetch slot becomes startable after its preload time. -/
  | preloadComplete (c : ClusterId) (p : BitVec 3)
  /-- SLOT_TAKE (R115): The lowest free thread takes the startable item from its PE's slot. -/
  | slotTake (c : ClusterId) (p : BitVec 3)
  /-- EVICTION (R126): A task blocked for EVICT_DLY fc is evicted when startable work waits in its PE's slot. -/
  | eviction (c : ClusterId) (p : BitVec 3)
  /-- REGISTER_SAVE_COMPLETE (R120): A 40 fc register save ends and the thread is freed. -/
  | registerSaveComplete (t : Tid)
  /-- SPINE_PACKET_HOP (R326): A router accepts a head and routes its worm by the epoch's bank to an output port or endpoint. -/
  | spinePacketHop (r : BitVec 4) (port : BitVec 4) (vc : BitVec 2) (err : HopErr)
    (cap : Capture := .kept)
  /-- NEGATIVE_ACKNOWLEDGEMENT (R319): A receiver's negative acknowledgement makes the sender replay from the failing flit. -/
  | negativeAcknowledgement (r : BitVec 4) (dir : BitVec 2)
  /-- LINK_RETRY (R319): A failed link retries once per µs. -/
  | linkRetry (r : BitVec 4) (dir : BitVec 2) (ok : Bool)
  /-- LINK_FAIL_TIMEOUT (R443): A link failed for 1 ms discards its waiting worms and is routed around or causes FABRIC_LOST. -/
  | linkFailTimeout (r : BitVec 4) (dir : BitVec 2)
  /-- MANAGEMENT_ENDPOINT_TIMEOUT (R443): A unit silent at its management endpoint for 10 ms enters keeper mode with FABRIC_LOST. -/
  | managementEndpointTimeout (u : MgmtUnit)
  /-- EPOCH_FLIP (R328): A FLIP write inverts CUR in all routers once STALE is 0. -/
  | epochFlip
  /-- ENDPOINT_STATE_WRITE (R332): A write to NOC_EP_STATE sets a cluster endpoint OPEN, FENCED or OFF, OFF waiting for drain. -/
  | endpointStateWrite (r : BitVec 4) (v : Word)
  /-- BANK_ACCESS (R297): A bank accepts a port-A or port-B access, checks ownership and performs it. -/
  | bankAccess (n : BitVec 8) (a : Option PortA) (b : Bool) (ecc : Ecc)
  /-- HBM_ACCESS (R302): A pseudo-channel controller performs a read, write or CAS with SEC-DED. -/
  | hbmAccess (p : BitVec 4) (ecc : Ecc)
  /-- LOCK_UNIT_ACCESS (R308): The lock unit performs a load or CAS on a lock word under group rights and holder rules. -/
  | lockUnitAccess (ecc : Ecc := .clean)
  /-- LOCK_RELEASE (R309): A queued abandoned lock word is released as HELD 0, ABANDONED 1. -/
  | lockRelease
  /-- BANK_OWNER_WRITE (R298): A write to BANK_OWNER changes the owner at the bank and starts a zero-fill when CLR is set. -/
  | bankOwnerWrite (n : BitVec 8) (v : Word)
  /-- ZERO_FILL_COMPLETE (R298): A bank's zero-fill ends, clearing CLRING. -/
  | zeroFillComplete (n : BitVec 8)
  /-- WINDOW_ENTRY_LOAD (R293): A window-cache miss load completes and the waiting access proceeds. -/
  | windowEntryLoad (c : ClusterId) (x : CtxId) (w : BitVec 6) (parity : Bool := false) (ecc : Ecc := .clean)
  /-- WINDOW_INVALIDATE (R294): A VC3 invalidation removes a window entry from a cluster's cache. -/
  | windowInvalidate (c : ClusterId) (x : CtxId) (w : BitVec 6)
  /-- STACK_TEMPERATURE_READ (R303): Every 1 ms the memory controller reads the stack sensors and sets the refresh rate. -/
  | stackTemperatureRead (t0 t1 : BitVec 16)
  /-- BTE_SRAM_STEP (R310): The background test engine borrows, march-tests and restores one SRAM window. -/
  | bteSramStep (w : SramWin) (res : BteResult)
  /-- BTE_HBM_STEP (R312): The background test engine scrubs or march-tests one 1 KB HBM block. -/
  | bteHbmStep (blk : BitVec 24) (res : BteResult) (ecc : Ecc)
  /-- MS_KEY_ERROR_RECORD (R93): On a key or tag-array uncorrected error record, the firmware fences the context whose HELD exceeds its count. -/
  | msKeyErrorRecord (c : ClusterId) (set : BitVec 11) (way : BitVec 3)
  /-- DL_KEY_ERROR_RECORD (R158): On a delay-list key error record, the firmware fences the context whose count differs. -/
  | dlKeyErrorRecord (c : ClusterId) (i : BitVec 12)
  /-- QUIESCENCE_SCAN (R183): Once per scan period the firmware examines a RUNNING context for deadlock. -/
  | quiescenceScan (x : CtxId)
  /-- CONDITIONAL_FENCE (R185): The host hub raises the deckle only if INFLIGHT is zero and ACT is unchanged, recording GRAPH_DEADLOCK. -/
  | conditionalFence (x : CtxId)
  /-- CONTEXT_FENCE (R437): A deckle raised around a context makes it FENCED, stops its threads and disposes of its in-flight work. -/
  | contextFence (x : CtxId) (cause : Byte)
  /-- DECKLE_LOWER (R58): The management plane lowers a fenced context's deckle once the fence's effects are complete. -/
  | deckleLower (x : CtxId)
  /-- CLUSTER_FENCE (R441): A cluster reaching its error thresholds is fenced and its positions are moved. -/
  | clusterFence (c : ClusterId)
  /-- POSITION_MOVE (R446): A context's position moves from one cluster to another with forwarding. -/
  | positionMove (x : CtxId) (k : BitVec 6)
  /-- MOVE_TIMEOUT (R446): Work not stopped 1 ms into a move abandons it and fences the context. -/
  | moveTimeout (x : CtxId)
  /-- BANK_COPY (R448): A moved context's bank is copied to a new bank and accesses are forwarded. -/
  | bankCopy (n : BitVec 8)
  /-- FORWARD_QUIET_TIMEOUT (R444): After 10 µs with no forwarded item, the section's endpoints become FENCED and forwarding ends. -/
  | forwardQuietTimeout (s : BitVec 4)
  /-- REPAIR_TEST_DONE (R450): A section's full test ends, making it PASSED or FAILED with REPAIR_DONE. -/
  | repairTestDone (s : BitVec 4) (code : Byte)
  /-- STEWARD_RESTART (R438): The keeper holds, reloads and releases the steward complex after a steward fault. -/
  | stewardRestart (cause : Byte)
  /-- STEWARD_WATCHDOG_TIMEOUT (R453): Stewards that do not write the keeper's watchdog for 100 ms cause keeper mode with WATCHDOG. -/
  | stewardWatchdogTimeout
  /-- FIRMWARE_READY (R456): The firmware reports ready, ending a restart, an activation or keeper mode after warm reset. -/
  | firmwareReady
  /-- KEEPER_MODE_ENTRY (R453): The keeper holds MGMT and sections in reset, sets KEEPER, asserts KEEPER_ACT and drives safe outputs. -/
  | keeperModeEntry (cause : Byte)
  /-- SAFE_OUTPUT_DELAY (R455): DELAY ms after entry, an output's keeper MODE replaces its RUN level. -/
  | safeOutputDelay (i : BitVec 5)
  /-- SAFE_INPUT_SAMPLE (R454): Every 10 µs the keeper samples the safe inputs. -/
  | safeInputSample (v : BitVec 16)
  /-- WDOG_TOGGLE (R454): The keeper toggles WDOG_OUT_N each WDOGP. -/
  | wdogToggle
  /-- KEEPER_HEARTBEAT (R455): Every HBP ms in keeper mode the keeper sends the heartbeat frame on ETH_0. -/
  | keeperHeartbeat
  /-- LOCKSTEP_MISCOMPARE (R458): A keeper lockstep miscompare releases the safe outputs and restarts the keeper from ROM. -/
  | lockstepMiscompare (tableOk : Bool)
  /-- TEMPERATURE_SAMPLE (R452): A temperature conversion is compared with the warning, throttle, fence and keeper thresholds. -/
  | temperatureSample (i : BitVec 6) (v : BitVec 16) (eqOk : Bool := true)
  /-- VOLTAGE_SAMPLE (R452): A voltage conversion is compared with its warning and critical windows. -/
  | voltageSample (n : BitVec 5) (mv : BitVec 16)
  /-- THROTTLE_STEP (R452): Every 100 µs while a source is at 120 °C the hardware lowers the section's MCUR by 1. -/
  | throttleStep (s : BitVec 4)
  /-- THROTTLE_RECOVERY_STEP (R452): Every 1 ms below 117 °C the hardware raises MCUR by 1 toward M. -/
  | throttleRecoveryStep (s : BitVec 4)
  /-- THERMAL_TRIP (R431): A 135 °C trip latches in AON and holds every domain but AON in reset. -/
  | thermalTrip
  /-- AVS_UPDATE (R465): Every 10 ms the firmware computes and sets the VDD_CORE target. -/
  | avsUpdate (ack : Bool) (want : Option (BitVec 4 × BitVec 5) := none)
  /-- REGULATOR_FAULT (R467): An AVSBus transaction without valid response in 1 ms stops voltage changes and caps M. -/
  | regulatorFault
  /-- CLK_FAB_WRITE (R421): A write of M changes a section's fabric clock without a glitch at the next cycle. -/
  | clkFabWrite (s : BitVec 4) (v : Word)
  /-- CLOCK_WAKE (R422): Traffic or a register write wakes a gated clock within 40 ns. -/
  | clockWake (s : BitVec 4) (count : Nat := 1)
  /-- CLOCK_GATE (R422): A section with no work, entries or couch traffic gates FAB_s. -/
  | clockGate (s : BitVec 4)
  /-- REFERENCE_CHECK (R420): Every 10 µs each reference is checked and a lost one is flagged. -/
  | referenceCheck (lost : Byte)
  /-- SECTION_POWER_OFF (R429): PWR_SEC REQ 0 runs the section power-off sequence. -/
  | sectionPowerOff (s : BitVec 4)
  /-- SECTION_POWER_ON (R429): PWR_SEC REQ 1 runs the section power-on sequence. -/
  | sectionPowerOn (s : BitVec 4)
  /-- PORST_N_ASSERT (R430): PORST_N low starts a cold reset of all domains. -/
  | porstNAssert
  /-- PORST_N_RELEASE (R433): PORST_N release samples straps and starts the start-up timeline. -/
  | porstNRelease (pcieBif adminSel smbSel : BitVec 2) (flash : List (Bool × Word) := [])
  /-- KEEPER_IMAGE_VERIFY (R433): The keeper reads and verifies its image from flash. -/
  | keeperImageVerify (ok0 ok1 : Bool)
  /-- STEWARD_IMAGE_LOAD (R433): The keeper loads and verifies the steward image and releases MGMT and MEM. -/
  | stewardImageLoad (ok0 ok1 : Bool)
  /-- HBM_INITIALISATION (R433): The stewards train HBM and lay out the management region. -/
  | hbmInitialisation
  /-- SECTION_STARTUP (R433): The stewards power on and test each section and write routing tables. -/
  | sectionStartup (s : BitVec 4) (ok : Bool)
  /-- WARM_RESET (R432): WARM_RST_N low resets MGMT, HOST, ETH, MEM and sections while the keeper holds outputs. -/
  | warmReset
  /-- WARM_RESET_RELEASE (R432): The warm reset is released and start-up resumes from step 3. -/
  | warmResetRelease
  /-- TB_STEP (R148): A write to TB_STEP adds a signed offset to TB and recomputes TC. -/
  | tbStep (v : DWord)
  /-- TIME_SAMPLE (R143): The servo steps TB or adjusts TB_RATE from an offset sample. -/
  | timeSample (off : DWord)
  /-- HOLDOVER_TIMEOUT (R143): No valid sample for 1 s puts the servo in holdover. -/
  | holdoverTimeout
  /-- PTM_EXCHANGE (R142): Every 10 ms the device runs one PTM exchange on the named port. -/
  | ptmExchange (off : DWord)
  /-- GPTP_FRAME (R405): A frame with EtherType 0x88F7 goes to the firmware's 802.1AS engine. -/
  | gptpFrame (p : BitVec 2) (off : Option DWord) (own : Bool := false)
  /-- FRAME_RECEIVE (R408): A received frame is timestamped, classified by the lowest matching rule and made into a token. -/
  | frameReceive (p : BitVec 2) (fr : Frame)
  /-- HELD_FRAME_INJECT (R410): A frame held for a waiting rule is made into a token once injection is possible. -/
  | heldFrameInject (n : BitVec 12)
  /-- ELIMINATION_RESET_TIMEOUT (R417): After RECTO ms without a frame an ELIM rule's history is reset. -/
  | eliminationResetTimeout (n : BitVec 12)
  /-- TIMED_LAUNCH (R413): At its launch instant a TIMED template's frame is queued for transmission. -/
  | timedLaunch (tpl : BitVec 11)
  /-- FRAME_TRANSMIT (R415): The port starts the highest open queue's frame that fits before its gate closes. -/
  | frameTransmit (p : BitVec 2)
  /-- GATE_INTERVAL_END (R414): A gate-list interval ends and the next entry's gates apply. -/
  | gateIntervalEnd (p : BitVec 2)
  /-- GATE_LIST_START (R415): A newly installed gate list begins operating at its first cycle start. -/
  | gateListStart (p : BitVec 2)
  /-- LINK_NEGOTIATION (R401): A USXGMII auto-negotiation word sets the port's rate or holds it down for half duplex. -/
  | linkNegotiation (p : BitVec 2) (w : BitVec 16)
  /-- MCTP_CONTROL_MESSAGE (R468): The SMBus target answers an MCTP control message. -/
  | mctpControlMessage (req : List Byte) (type : Byte := 0)
  /-- PLDM_REQUEST (R469): The SMBus target answers a PLDM request from the stewards or the keeper. -/
  | pldmRequest (req : List Byte)
  /-- TRACE_PORT_RECORD (R471): The trace port sends one record or sync record from the on-chip buffer. -/
  | tracePortRecord
  /-- REGISTER_WRITE (R12): A write to a register without a row of its own stores, clears or ignores per its access codes. -/
  | registerWrite (reg : RegName) (v : DWord) (hw : DWord)
  /-- UNDEFINED_ENCODING (R206): Issue of a word with an undefined opcode, function code, sub-operation or state number, or a fetch from an offset holding no code, faults with ILLEGAL_OP. -/
  | undefinedEncoding (t : Tid) (w : Word) (noCode : Bool)
  /-- VDD_AON_POWER_UP (R430): VDD_AON reaching its level resets all 22 domains, including RST_CAUSE, and sets AONPOR. -/
  | vddAonPowerUp
  /-- PLL_LOCK (R433): A PLL locks, releasing its domains from reset, for example SAFE at step 2 or HOST with TB at step 3. -/
  | pllLock (pll : Pll)
  /-- PCIE_LINK_UP (R433): Port p completes training, and its configuration space answers with Retry Status. -/
  | pcieLinkUp (p : BitVec 2) (gen5 : Bool := true)
  /-- PCIE_UNCORRECTABLE_ERROR (R435): An uncorrectable link error reported through AER raises the port deckle with the effects of R366. -/
  | pcieUncorrectableError (p : BitVec 2)
  /-- VF_ENABLE_SET (R340): Setting VF Enable brings into existence VFs 1 to NumVFs of the port, with configuration space, BARs and mailbox. -/
  | vfEnableSet (p : BitVec 2) (numVfs : BitVec 5)
  /-- INSTRUCTION_CACHE_FILL (R115): An instruction-cache miss or parity refetch completes, ending the thread's whole-thread delay. -/
  | instructionCacheFill (t : Tid) (ecc : Ecc) (parity : Bool := false)
  /-- PROTECTION_ROW_REWRITE (R441): Within 1 ms of an uncorrected error, the firmware rewrites a function-table, ring-table, lock-group or rule-ownership row from its own copy, ending refusal.
  With `found` the command is the uncorrected error itself, met in the row. -/
  | protectionRowRewrite (row : ProtRow) (found : Bool := false)
  /-- CODE_WORD_REWRITE (R441): The firmware rewrites a code-store word that had an uncorrected error from the image in HBM. -/
  | codeWordRewrite (c : ClusterId) (off : BitVec 18)
  /-- STEWARD_RESTART_TIMEOUT (R438): A steward restart that does not report ready within 250 ms enters keeper mode with cause WATCHDOG. -/
  | stewardRestartTimeout
  /-- AVSBUS_RETRY (R467): Every 100 ms after a regulator fault, the firmware retries the AVSBus transaction. -/
  | avsbusRetry (ack : Bool)
  /-- ETH_LINK_LOSS (R419): An Ethernet port's link goes down, clearing LINK, gating its clock and stopping heartbeat eligibility on ETH_0. -/
  | ethLinkLoss (p : BitVec 2)
  /-- TRACE_PORT_ENABLE (R471): After challenge-response debug unlock over JTAG, the trace port is enabled and the trace buffer drains to it. -/
  | tracePortEnable
  deriving DecidableEq, Repr

end Sys2Proof
end

