-- ==== Sys2Proof/Config.lean ====
section
/-! DEFINITION. What the manual leaves open: constants without a body, so that no proof can see their values. Each is
named in a row of notes/assumptions. -/

namespace Sys2Proof.Config

/-- The free choice number `n`, sub-choice `k`: true takes the newer of two values (07 R211, R214). -/
opaque freeBit : Nat → Nat → Bool
/-- The free 64-bit value number `n`. -/
opaque freeValue : Nat → BitVec 64
/-- The SEC-DED code over the payload of a flit, and the Hamming code over its header (11 R319). -/
opaque payloadCode : BitVec 128 → BitVec 9
opaque headerCode : BitVec 32 → BitVec 6
/-- The firmware's verdict on a firmware image (13 R384): 0 accepted, 5 signature, 6 rollback, 7 size, for the bytes and
the fused counters of the steward part and of the keeper part. -/
opaque fwVerdict : List (BitVec 8) → BitVec 32 → BitVec 32 → Nat
/-- The version of the keeper part that comes with a firmware version (13 R384). -/
opaque keeperPart : BitVec 32 → BitVec 32
/-- The version a firmware image names (13 R384). -/
opaque fwVersion : List (BitVec 8) → BitVec 32
/-- The steward rollback counter a firmware version carries (13 R384). -/
opaque fwCounter : BitVec 32 → BitVec 32
/-- The version that a flash bank holds when the part is delivered (13 R382 FWVER). -/
opaque bankVersion : Bool → BitVec 32
/-- vmin of 17 R465 in mV: section, requested multiple, process count, hottest temperature. -/
opaque vmin : Nat → BitVec 5 → BitVec 16 → BitVec 16 → Nat
/-- The change the servo makes to TB_RATE for an offset sample (05 R143), before its limit of 200 ppm. -/
opaque servoRate : BitVec 64 → BitVec 32 → BitVec 32
/-- The sensor whose PDR a record handle names, and the handle of the record after it (17 R469). -/
opaque pdrSensor : Nat → Option Nat
opaque pdrNext : Nat → Nat
/-- A byte of the PDR of a sensor that the manual does not state (17 R469), and of the answer to GetPDRRepositoryInfo. -/
opaque pdrByte : Nat → Nat → BitVec 8
opaque pdrInfo : Nat → BitVec 8
/-- The terminus ID that GetTID reports, and the version of a PLDM type with its check value (17 R468). -/
opaque pldmTid : BitVec 8
opaque pldmVersion : Nat → BitVec 64
/-- The code that a section state sensor gives for a section state (17 R469). -/
opaque sectionCode : BitVec 3 → BitVec 8
/-- The version entries that Get MCTP Version Support lists for a message type, their count first (17 R468). -/
opaque mctpVersions : BitVec 8 → List (BitVec 8)
/-- The bodies of the gPTP frames the 802.1AS engine sends, by free count: in answer to a received frame, the peer-delay
requests it sends of its own, and the Sync and Follow_Up and Announce frames of a grandmaster (14 R404, R405). -/
opaque gptpAnswer : Nat → List (List (BitVec 8))
opaque gptpPdelay : Nat → List (List (BitVec 8))
opaque gptpSync : Nat → List (List (BitVec 8))
/-- The frames of the MDIO master by free count: clause 45 rather than clause 22, and what follows the start bits (14 R401). -/
opaque mdioFrames : Nat → List (Bool × BitVec 30)
/-- A steward's or keeper's system register (07 R192), by state number and free count. -/
opaque stewardReg : Nat → Nat → BitVec 32
/-- Bits 39:32 of the physical address of a steward's access (07 R224, 10 R290), by free count. -/
opaque stewardHigh : Nat → BitVec 8
/-- Where in the probe trace regions of HBM (10 R291) the write number `m` of probe `k` lies, in 64-byte places. -/
opaque tracePlace : Nat → Nat → BitVec 20
/-- Process-monitor readings by source and free count (17 R461). -/
opaque procReading : Nat → Nat → BitVec 16
/-- The register at an 8-byte place of register space, given by its address; the manual maps no register there (00 Register maps, 10
R290). -/
opaque regAt : Nat → Option DevReg
/-- What DIAG_READ returns where the manual states no layout: register space and the firmware's part of HBM (13 R398), by
address and free count. -/
opaque regWord : Nat → Nat → BitVec 64

end Sys2Proof.Config
end

