-- ==== Sys2Proof/Machine/Map.lean ====
section
/-! DEFINITION. Sparse tables: a list of (number, value) pairs with numbers rising, used for every structure of the
device that has many places of which few differ from their reset contents. -/

namespace Sys2Proof.Machine

/-- A sparse table. A number that is not listed holds the default its reader names. -/
abbrev Map (α : Type) := List (Nat × α)

/-- The value listed under `k`. -/
def Map.find {α : Type} : Map α → Nat → Option α
  | [], _ => none
  | (j, v) :: m, k => if j = k then some v else Map.find m k

/-- The value under `k`, or the default. -/
def Map.getD {α : Type} (m : Map α) (k : Nat) (d : α) : α := (Map.find m k).getD d

/-- `m` with `v` under `k`. -/
def Map.set {α : Type} : Map α → Nat → α → Map α
  | [], k, v => [(k, v)]
  | (j, w) :: m, k, v =>
    if k < j then (k, v) :: (j, w) :: m else if k = j then (k, v) :: m else (j, w) :: Map.set m k v

/-- `m` without the number `k`. -/
def Map.erase {α : Type} : Map α → Nat → Map α
  | [], _ => []
  | (j, w) :: m, k => if j = k then Map.erase m k else (j, w) :: Map.erase m k

/-- `m` with the value under `k` (default `d`) changed by `f`. -/
def Map.upd {α : Type} (m : Map α) (k : Nat) (d : α) (f : α → α) : Map α := Map.set m k (f (Map.getD m k d))

/-- Every listed value changed by `f`. -/
def Map.mapV {α β : Type} (f : Nat → α → β) : Map α → Map β
  | [] => []
  | (j, w) :: m => (j, f j w) :: Map.mapV f m

/-- The entries that `p` keeps. -/
def Map.keep {α : Type} (p : Nat → α → Bool) : Map α → Map α
  | [] => []
  | (j, w) :: m => if p j w then (j, w) :: Map.keep p m else Map.keep p m

/-- Is there a listed entry with `p`? -/
def Map.anyV {α : Type} (p : Nat → α → Bool) (m : Map α) : Bool := m.any (fun e => p e.1 e.2)

/-- How many listed entries have `p`. -/
def Map.countV {α : Type} (p : Nat → α → Bool) (m : Map α) : Nat := m.countP (fun e => p e.1 e.2)

/-- The first listed entry with `p`. -/
def Map.first {α : Type} (p : Nat → α → Bool) (m : Map α) : Option (Nat × α) := List.find? (fun e => p e.1 e.2) m

/-- The least number below `n` that `p` accepts, looked for from `i` upward. -/
def leastFrom (p : Nat → Bool) : Nat → Nat → Option Nat
  | 0, _ => none
  | n + 1, i => if p i then some i else leastFrom p n (i + 1)

/-- The least number below `n` that `p` accepts. -/
def least (n : Nat) (p : Nat → Bool) : Option Nat := leastFrom p n 0

end Sys2Proof.Machine
end

