-- ==== Sys2Proof/Machine/TypesCore.lean ====
section
/-! DEFINITION. The data of tokens, packets, graph images, contexts and hardware threads (02, 04, 07, 11). -/

namespace Sys2Proof.Machine

/-! ## Packets of the spine (11 R316, R317) -/

/-- A packet: the header fields that are equal in every flit, and the 128-bit payload of each flit, head first. -/
structure Packet where
  dr : BitVec 4
  de : BitVec 4
  vc : BitVec 2
  type : BitVec 4
  epoch : Bool
  sr : BitVec 4
  se : BitVec 4
  pri : Bool
  flits : List (BitVec 128)
  /-- Of a BROKE packet: its first flit is the payload of a turned-back EVENT (11 R331, log 131). The model's own, no bit of a flit. -/
  event : Bool := false
  deriving DecidableEq, Repr

/-- A token with its release tick when it is time-tagged (02 R37, R39). -/
structure Token where
  tag : DWord
  value : DWord
  tick : Option DWord
  deriving DecidableEq, Repr

/-! ## EZG images (02 R60-R67) -/

/-- Node record (02 R62). -/
structure NodeRec where
  codeOff : Word
  codeLen : BitVec 16
  inputs : BitVec 2
  ctl : Bool
  ndest : BitVec 8
  destOff : Word
  pgroup : BitVec 16
  deriving DecidableEq, Repr

/-- Destination record (02 R62). -/
structure DestRec where
  node : BitVec 20
  port : BitVec 2
  kind : BitVec 3
  chan : BitVec 3
  deriving DecidableEq, Repr

/-- Placement group (02 R62). -/
structure GroupRec where
  first : BitVec 6
  count : BitVec 7
  rule : BitVec 2
  shift : BitVec 4
  deriving DecidableEq, Repr

/-- Task record (02 R64). -/
structure TaskRec where
  entry : Word
  prio : BitVec 8
  place : BitVec 8
  chmask : BitVec 8
  start : Bool
  super : Bool
  exth : Bool
  arg : Word
  deriving DecidableEq, Repr

/-- Flow record (02 R64). -/
structure FlowRec where
  gapto : BitVec 16
  first : BitVec 16
  deriving DecidableEq, Repr

/-- External-input record (02 R64, R498). -/
structure ExtRec where
  node : BitVec 20
  port : BitVec 2
  source : BitVec 2
  chan : BitVec 3
  task : Bool
  deriving DecidableEq, Repr

/-- An interpolation table (02 TABLE section, 08 R262): the fields of its header and the words of its data, with the
breakpoints and, for binary32, the segment reciprocals that TABLE_LOAD computes. -/
structure Table where
  handle : BitVec 16
  dims : BitVec 8
  format : BitVec 8
  ext : Bool
  nx : Nat
  ny : Nat
  bx : List Word
  vy : List Word
  values : List Word
  wx : List Word
  wy : List Word
  /-- Bytes a table of TABLE_LOAD takes of the image region; 0 for a table of an image. -/
  size : Nat
  deriving DecidableEq, Repr

/-- The credit figures of one position (02 R66). -/
structure PosRec where
  matching : Nat
  delay : Nat
  tasks : Nat
  channels : Nat
  deriving DecidableEq, Repr

/-- A loaded image: its bytes and what its sections say. -/
structure Image where
  owner : FuncId
  bytes : List Byte
  cls : BitVec 2
  drnd : BitVec 2
  nodecnt : Nat
  taskcnt : Nat
  flowcnt : Nat
  csize : Nat
  code : List Word
  nodes : List NodeRec
  dests : List DestRec
  groups : List GroupRec
  flows : List FlowRec
  tasks : List TaskRec
  taskBytes : List Byte
  tables : List Table
  extins : List ExtRec
  census : Word
  spill : Nat
  pos : List PosRec
  sealed : List Byte
  deriving DecidableEq, Repr

/-! ## Contexts (02 R47) -/

/-- One entry of the context table. -/
structure Ctx where
  state : BitVec 3 := 0
  cls : BitVec 2 := 0
  fof : Bool := false
  dzt : Bool := false
  drnd : BitVec 2 := 0
  owner : BitVec 7 := 0
  image : BitVec 16 := 0
  sup : BitVec 16 := 0
  exth : BitVec 16 := 0
  nodecnt : BitVec 20 := 0
  csize : BitVec 7 := 0
  taskcnt : BitVec 16 := 0
  flowbase : BitVec 14 := 0
  wtp : BitVec 40 := 0
  flowcnt : BitVec 15 := 0
  matchres : BitVec 21 := 0
  spillres : BitVec 27 := 0
  taskres : BitVec 17 := 0
  dlres : BitVec 19 := 0
  chres : BitVec 20 := 0
  updb : BitVec 16 := 0
  instb : BitVec 16 := 0
  lastfault : Byte := 0
  inflight : Word := 0
  timers : Word := 0
  brokecnt : Word := 0
  faultcnt : Word := 0
  deriving DecidableEq, Repr

/-- What the firmware keeps of an update in progress (02 R54, R55): the new image, the code bases of the new codelets
per position, and when the timeout expires. -/
structure Update where
  image : BitVec 16
  dueSc : Nat
  deriving DecidableEq, Repr

/-- What the firmware keeps of a CTX_KILL (03 R95): the clusters still purging, the function whose command waits, and whether a
deckle has been raised around the context meanwhile, so that FENCED stands (01 R22). -/
structure Kill where
  clusters : List ClusterId
  by_ : Option FuncId
  fenced : Bool := false
  deriving DecidableEq, Repr

/-- The steps of a position move (16 R446). -/
structure Move where
  position : BitVec 6
  source : ClusterId
  target : ClusterId
  startSc : Nat
  deriving DecidableEq, Repr

/-- What the control and management planes keep per context beside its entry. -/
structure CtxAux where
  clmap : List Byte := []
  deckle : Bool := false
  /-- Scan period of CTX_ADMIT in ns, and the previous scan (06 R183). -/
  scanp : Nat := 0
  prevCand : Bool := false
  prevAct : Word := 0
  lastScan : Nat := 0
  /-- ACT that the conditional fence asked for must still find (06 R185). -/
  fenceReq : Option Word := none
  update : Option Update := none
  kill : Option Kill := none
  move : Option Move := none
  debugger : Option FuncId := none
  tables : List Table := []
  /-- The reservation of each position, as CTX_ADMIT made it (02 R68, R69). -/
  pos : List PosRec := []
  deriving DecidableEq, Repr

/-! ## Hardware threads (04 R116-R125, 07) -/

/-- One run of a codelet (03 R80, 04 R113): operands in port order. -/
structure Activation where
  ctx : CtxId
  node : BitVec 20
  inst : BitVec 16
  image : BitVec 16
  ops : List (BitVec 2 × DWord)
  poison : Bool
  ready : Nat
  age : Nat
  deriving DecidableEq, Repr

/-- The work a thread holds. -/
inductive Work where
  | activation (a : Activation)
  | task (d : BitVec 10)
  deriving DecidableEq, Repr

/-- Where a result lands (07 R209). -/
inductive Target where
  | gpr (r : GReg)
  | bnk (n : BitVec 4)
  | fst
  | dst
  | tst
  | fstFlags
  | dstFlags
  deriving DecidableEq, Repr

/-- A result not yet landed: `due` is the PE clock at which it is written, none for LDX and CAS results, which become
readable at the WAITLD (07 R214). `clash` holds the index of the free choice where writes overlap (07 R211). -/
structure Land where
  due : Option Nat
  target : Target
  value : Word
  clash : Option Nat
  deriving DecidableEq, Repr

/-- The kinds of split access (08 R240, R242). -/
inductive SplitKind where
  | load (size : BitVec 2) (signed : Bool)
  | store (size : BitVec 2)
  | cas
  deriving DecidableEq, Repr

/-- A split access outstanding (07 R214): its transaction number, issue order, destination, whether the destination was
written meanwhile, whether the target has performed it, the window of an access whose request waits until its entry has been
loaded (07 R226), and the word that a CAS read whose write port A discarded (08 R242). -/
structure Split where
  txn : BitVec 16
  seq : Nat
  kind : SplitKind
  rd : GReg
  dirty : Bool
  performed : Bool
  held : Option (BitVec 6 × Packet) := none
  old : Option DWord := none
  deriving DecidableEq, Repr

/-- A memory access of a thread (07 R224-R226): near or split, the effective address, the window it names, what it
does, and the registers it read at issue. -/
structure Access where
  near : Bool
  ea : Word
  win : BitVec 6
  kind : SplitKind
  rd : GReg
  data : DWord
  expect : DWord
  deriving DecidableEq, Repr

/-- What a thread waits for (04 R116, R120, 07 R213, R214, R226, 08 R248). -/
inductive Wait where
  | none
  /-- A split access issued while 8 are outstanding. -/
  | splitSlot (a : Access) (pa : BitVec 40)
  /-- The window entry of an access (07 R226). -/
  | window (a : Access)
  /-- A near access at a bank that is zero-filling (10 R298). -/
  | bank (a : Access) (pa : BitVec 40)
  | waitld
  | fence
  | endWork
  /-- The stores and CAS issued earlier must be performed first (08 R248). -/
  | release (tok : Token) (event : Bool)
  /-- The same for a token that then goes to the broke queue (02 R46, 05 R150, 08 R246). -/
  | broke (tok : Token)
  /-- VC0 injection credit (06 R172); `since` is the clock at which the wait began. -/
  | inject (tok : Token) (event : Bool) (since : Nat)
  /-- A full send park (06 R173). -/
  | park (tok : Token)
  /-- A reel staging credit (01 R30). -/
  | reel (tok : Token)
  /-- A channel word's stage credit: SENDC, or a message of one end word (04 R129). -/
  | chan (task : BitVec 16) (ch : BitVec 3) (value : DWord) (last : Bool)
  /-- CEND: the reservation and the credits of the whole message (04 R129). -/
  | cend
  | recv (ch : BitVec 3)
  | event (all : Bool) (mask : Word)
  /-- A trap reply (08 R233): the request's words, none once they have left. -/
  | trap (request : List DWord)
  /-- Registers being saved (04 R120, R126): until this section clock, then as `after` says. -/
  | saving (due : Nat)
  /-- FAULTED, waiting for a fault-buffer place (04 R137), or a steward's thread that has faulted. -/
  | faulted
  /-- An instruction-cache miss (04 R115). -/
  | icache
  /-- Split accesses must complete before the registers are saved or the thread is freed (07 R216). -/
  | drain
  deriving DecidableEq, Repr

/-- Does a request of the thread await a response or grant in this wait (11 R332)? -/
def Wait.asks : Wait → Bool
  | .window _ => true
  | .reel _ => true
  | .chan _ _ _ _ => true
  | .cend => true
  | .trap (_ :: _) => true
  | _ => false

/-- What follows a register save (04 R120); `ended` frees the thread of an activation. -/
inductive AfterSave where
  | evicted
  | delayed
  | ready
  | stopped
  | faulted
  | moved
  | fenced
  | ended
  deriving DecidableEq, Repr

/-- A repetition in progress (07 R219): the iterations not yet completed stand in REPC. `word` is the REP word, `old`
the REPC before it, and `begun` says that an iteration has issued. -/
structure Repeat where
  interruptible : Bool
  word : Word
  old : Word
  begun : Bool
  deriving DecidableEq, Repr

/-- The outbox of a message being built (04 R129). -/
structure Outbox where
  words : List DWord := []
  task : BitVec 16 := 0
  chan : BitVec 3 := 0
  grant : Bool := false
  deriving DecidableEq, Repr

/-- A fault record (04 R135), its context, and a number that rises with the order of faulting (04 R137). -/
structure FaultRec where
  words : List DWord
  ctx : CtxId
  id : Nat := 0
  deriving DecidableEq, Repr

/-- A hardware thread (07 R190). -/
structure Thread where
  regs : Map Word := []
  pc : Word := 0
  /-- The word being executed. -/
  cur : Word := 0
  bnk : Map (BitVec 6) := []
  repc : Word := 0
  fst : Word := 0
  dst : Word := 0
  /-- TST without LDOUT, which is the number of split accesses outstanding. -/
  tst : Word := 0
  work : Option Work := none
  wait : Wait := .none
  after : AfterSave := .ready
  /-- A fault record that waits for a fault-buffer place (04 R137). -/
  heldRec : Option FaultRec := none
  /-- Debug-stopped activation (04 R122). -/
  dbgStopped : Bool := false
  /-- DBG_STOP requested, to take effect at a word boundary. -/
  dbgReq : Bool := false
  /-- A position move stops the work at a word boundary (04 R108). -/
  moveReq : Bool := false
  /-- The delay slot of a taken branch or an untaken one is next: where execution goes after it. -/
  delay : Option Word := none
  rep : Option Repeat := none
  lands : List Land := []
  splits : List Split := []
  splitSeq : Nat := 0
  /-- The earliest-issued error not yet reported (08 R241): issue order and cause. -/
  err : Option (Nat × Byte) := none
  /-- Sequence number of the last trap, the handle of the one whose reply is awaited, 0 for none, and the reply place
  (08 R233, R234). -/
  trapSeq : BitVec 16 := 0
  handle : Word := 0
  reply : Option DWord := none
  /-- Stopped at a BRK, so that it goes on after it (08 R236). -/
  brk : Bool := false
  outbox : Outbox := {}
  /-- PE clock of the last issue, or of taking the work from the slot (04 R117). -/
  lastIssue : Nat := 0
  /-- A register whose parity is wrong until it is written (16 R441). -/
  regBad : Option GReg := none
  /-- Section clock before which a whole-thread delay holds the thread (04 R116). -/
  notBefore : Nat := 0
  /-- PE clock at which the current block began (04 R126). -/
  blockedAt : Nat := 0
  deriving DecidableEq, Repr

end Sys2Proof.Machine
end

