-- ==== Sys2Proof/Machine/TypesCluster.lean ====
section
/-! DEFINITION. The data of a cluster: matching store, delay list, dispatcher, task store, channels, send park, code
store (03, 04, 05, 06), and of the memory and the spine (10, 11). -/

namespace Sys2Proof.Machine

/-! ## Matching store (03) -/

/-- One waiting operand (03 R75), with its arrival rank, which it keeps in the spill region and in a move (03 R79, R92; log
55). -/
structure MEntry where
  value : DWord
  inst : BitVec 16
  node : BitVec 20
  ctx : CtxId
  port : BitVec 2
  poison : Bool
  rslot : Byte
  rank : Nat := 0
  deriving DecidableEq, Repr

/-- A set: its valid ways in order of arrival rank, the spill count SPC (03 R75), and the ways whose words hold a check code that no
data matches (10 R313). -/
structure MSet where
  ways : List (BitVec 3 × MEntry) := []
  spc : Nat := 0
  bad : List (BitVec 3) := []
  deriving DecidableEq, Repr

/-- A slot of the spill region (03 R85). -/
inductive SpillSlot where
  | empty
  | full (e : MEntry) (allowance : Bool)
  | tomb
  deriving DecidableEq, Repr

/-- MS_RES[n] (03 R81). -/
structure MsRes where
  ctx : CtxId := 0
  valid : Bool := false
  dead : Bool := false
  limit : BitVec 15 := 0
  held : BitVec 15 := 0
  disp : BitVec 15 := 0
  deriving DecidableEq, Repr

/-- DL_RES[n] (05 R153); FROZEN is the context's state and is computed. -/
structure DlRes where
  ctx : CtxId := 0
  valid : Bool := false
  limit : BitVec 13 := 0
  held : BitVec 13 := 0
  late : BitVec 16 := 0
  deriving DecidableEq, Repr

/-- CD_RES[n] CTX and VALID, and CD_RES_ACT[n] (06 R182); the counts are computed. -/
structure CdRes where
  ctx : CtxId := 0
  valid : Bool := false
  act : Word := 0
  deriving DecidableEq, Repr


/-- A request of the cluster to the spill ledger (03 R83): a place for the allowance operand that waits in the spill
write buffer with its arrival rank, or a place given back. -/
inductive LedgerReq where
  | take (token : Token) (rank : Nat)
  | give (x : CtxId)
  deriving DecidableEq, Repr

/-- An evacuated operand that comes to its new cluster in its category (16 R446). -/
structure SpillRet where
  entry : MEntry
  allowance : Bool
  deriving DecidableEq, Repr

/-- An operand that takes a lookup: a token, or an operand of a position that has moved here (03 R77, 16 R446). -/
inductive Arrival where
  | token (t : Token)
  | moved (r : SpillRet)
  deriving DecidableEq, Repr

/-- A spill search outstanding for a set (03 R91): the operand that asked. -/
structure Pending where
  set : BitVec 11
  arr : Arrival
  deriving DecidableEq, Repr

/-- An item of the spill-return source (03 R77, R91): an operand of a moved position, or the result of the search that is
outstanding for a set. -/
inductive Returned where
  | operand (r : SpillRet)
  | search (set : BitVec 11)
  deriving DecidableEq, Repr

/-- An operand whose spill write has been refused (03 R89): since which SCNT, and whether an operand has left its probe run,
or a tombstone of the run has gone, since the last try. -/
structure RefusedWrite where
  entry : MEntry
  since : Nat
  retry : Bool := false
  deriving DecidableEq, Repr

/-- The counters of the matching store (03 R96). -/
structure MsCnt where
  lookup : Word := 0
  matched : Word := 0
  disp : Word := 0
  search : Word := 0
  reload : Word := 0
  dup : Word := 0
  refuse : Word := 0
  ce : Word := 0
  ueVal : Word := 0
  ueKey : Word := 0
  borrow : Word := 0
  deriving DecidableEq, Repr

/-! ## Delay list (05) -/

/-- An entry of the delay list (05 R151). -/
structure DlEntry where
  tick : DWord
  /-- A token entry holds the token, a sleep entry the descriptor index. -/
  item : Token ⊕ BitVec 10
  ctx : CtxId
  /-- Section clock from which the entry is eligible (05 R152). -/
  elig : Nat
  deriving DecidableEq, Repr

/-- The counters of the delay list (05 R159). -/
structure DlCnt where
  ins : Word := 0
  rel : Word := 0
  late : Word := 0
  hold : Word := 0
  ce : Word := 0
  ue : Word := 0
  deriving DecidableEq, Repr

/-- A watermark (03 R100): P_WM_CFG, P_WM_STAT flags and P_WM_CNT; LIVE is computed from the level. -/
structure Wm where
  mark : BitVec 16 := 0
  ieUp : Bool := false
  ieDn : Bool := false
  up : Bool := false
  dn : Bool := false
  cnt : BitVec 16 := 0
  deriving DecidableEq, Repr

/-! ## Dispatcher and kernel (04) -/

/-- A ready item: an activation or a task descriptor, with the order in which it became ready (04 R106). -/
structure Item where
  work : Work
  age : Nat
  /-- Section clock at which it became ready. -/
  since : Nat
  deriving DecidableEq, Repr

/-- An item in an affinity hold register (04 R110). -/
structure Hold where
  item : Item
  pe : BitVec 3
  until_ : Nat
  deriving DecidableEq, Repr

/-- An item in a prefetch slot (04 R112). -/
structure Slot where
  item : Item
  due : Nat
  startable : Bool
  deriving DecidableEq, Repr

/-- A task descriptor (04 R118). -/
structure Task where
  state : BitVec 3 := 0
  prio : BitVec 5 := 0
  ctx : CtxId := 0
  task : BitVec 16 := 0
  chmask : BitVec 8 := 0
  super : Bool := false
  exth : Bool := false
  wait : BitVec 3 := 0
  wch : BitVec 3 := 0
  cancelp : Bool := false
  resident : Bool := false
  lastpe : BitVec 3 := 0
  affv : Bool := false
  prev : BitVec 3 := 0
  pc : Word := 0
  repc : Word := 0
  /-- Software flags 8 to 29; flags 0 to 7 are live (04 R132). -/
  evflags : Word := 0
  evmask : Word := 0
  wake : DWord := 0
  bnk : Map (BitVec 6) := []
  fst : Word := 0
  dst : Word := 0
  tst : Word := 0
  penderr : Byte := 0
  regs : Map Word := []
  outbox : Outbox := {}
  /-- Registers are saved in the descriptor: the next start is a restore, not a start (04 R112). -/
  saved : Bool := false
  /-- Entry and argument of the task record (04 R114). -/
  entry : Word := 0
  arg : Word := 0
  /-- The repetition in progress (07 R220); stopped at a BRK (08 R236). -/
  rep : Option Repeat := none
  brk : Bool := false
  /-- The word being executed, the handle of a trap whose reply is awaited, 0 for none, and the reply (04 R122, 08 R233, R234). -/
  cur : Word := 0
  handle : Word := 0
  reply : Option DWord := none
  /-- The descriptor holds an uncorrected error that the next reading of its registers meets (10 R313, 16 R441). -/
  ue : Bool := false
  deriving DecidableEq, Repr

/-- Who sends on a channel (04 R129, R136). -/
inductive Sender where
  | thread (t : Tid)
  /-- A task whose registers are saved with its outbox (04 R118). -/
  | task (c : ClusterId) (d : BitVec 10)
  /-- The trap request of a thread (08 R233). -/
  | trap (t : Tid)
  | ring (f : FuncId) (r : RingId)
  /-- A fault record of a cluster's fault buffer, by its number. -/
  | fault (c : ClusterId) (id : Nat)
  /-- A classifier rule (14 R406). -/
  | rule (n : BitVec 12)
  deriving DecidableEq, Repr

/-- A word on a channel. -/
structure ChWord where
  value : DWord
  last : Bool
  poison : Bool
  deriving DecidableEq, Repr

/-- A task channel (04 R128-R131): the words written, how many of them are visible, the credits taken by words still on
their way and the sources of those that belong to no message, whether a message has begun to arrive, the reservation held
and the requests waiting in order, and the torn-message counter. -/
structure Channel where
  words : List ChWord := []
  visible : Nat := 0
  coming : Nat := 0
  singles : List Byte := []
  msgOpen : Bool := false
  holder : Option Sender := none
  queue : List Sender := []
  torn : BitVec 16 := 0
  deriving DecidableEq, Repr

/-- A token in the send park (06 R172): its place in the park's HBM region, and the transactions of the writes of that place which
have not been answered. -/
structure Parked where
  token : Token
  thread : Tid
  place : Nat := 0
  writes : List (BitVec 16) := []
  deriving DecidableEq, Repr

/-- A word of the code store: the word, the context and image whose code it is, and an uncorrected error (07 R208,
16 R441). -/
structure CodeWord where
  word : Word
  ctx : CtxId
  image : BitVec 16
  ue : Bool := false
  deriving DecidableEq, Repr

/-- The per-PE registers of 04 R139, the prefetch slot, the instruction cache and the iterative units of a PE. -/
structure Pe where
  slot : Option Slot := none
  /-- fc of the dispatcher in which the slot was emptied last: it is offered from the next one on (04 R111). -/
  emptiedAt : Nat := 0
  depthMax : BitVec 16 := 0
  waitSum : DWord := 0
  starts : Word := 0
  busy : DWord := 0
  evict : Word := 0
  slothit : Word := 0
  slotmiss : Word := 0
  /-- Clock of the last issue of the PE. -/
  clock : Nat := 0
  lastThread : BitVec 3 := 0
  mulBusy : Nat := 0
  divBusy : Nat := 0
  fdivBusy : Nat := 0
  /-- 64-byte lines in the instruction cache, newest first (04 R112, R115). -/
  icache : List Nat := []
  deriving DecidableEq, Repr

/-- CD_FWD[n] (16 R447). -/
structure Fwd where
  target : ClusterId := 0
  valid : Bool := false
  cnt : BitVec 16 := 0
  deriving DecidableEq, Repr

/-- Credits of a boundary (01 R28, R29): free places the producer may still fill, and places the consumer has freed but
not yet returned. -/
structure Credits where
  avail : Nat
  owed : Nat := 0
  deriving DecidableEq, Repr

/-- A window-table entry (10 R292) as 128 bits, and whether the cluster found it well formed. -/
structure WinEntry where
  raw : BitVec 128
  ok : Bool
  deriving DecidableEq, Repr

/-- One cluster. -/
structure Cluster where
  msRes : Map MsRes := []
  dlRes : Map DlRes := []
  cdRes : Map CdRes := []
  /-- Position of the context resident in slot n. -/
  position : Map (BitVec 6) := []
  sets : Map MSet := []
  spill : Map SpillSlot := []
  ingress : List Token := []
  bypassIn : List Token := []
  release : List Token := []
  bypassRel : List Token := []
  bypassLast : Bool := false
  spillRet : List Returned := []
  searching : List Pending := []
  pendBuf : List Arrival := []
  ledger : List LedgerReq := []
  /-- Channel words read from the inbound couch, with their sources (04 R131). -/
  chanIn : List (Token × Byte) := []
  rotation : BitVec 2 := 0
  output : Option Activation := none
  /-- Ready-queue credits of the matching store, and the one that the bypass path holds for itself (03 R80, log 113). -/
  readyCr : Credits := ⟨255, 0⟩
  bypassCr : Bool := true
  /-- Activations that were ready where their position has left, waiting for a place of the ready queue (log 49). -/
  movedIn : List Activation := []
  /-- Operands whose spill write has been refused and that have not been written since (03 R89). -/
  refused : List RefusedWrite := []
  msCnt : MsCnt := {}
  dl : List DlEntry := []
  dlCnt : DlCnt := {}
  dlWm : Wm := {}
  evictDly : Byte := 16
  actPrio : BitVec 5 := 16
  ready : List Item := []
  age : Nat := 0
  affinity : Map (BitVec 33 × BitVec 3) := []
  holds : List Hold := []
  /-- fc of the dispatcher's last placements (04 R111). -/
  dispClock : Nat := 0
  pes : Map Pe := []
  hist : Map Word := []
  rdycancel : Word := 0
  tasks : Map Task := []
  chans : Map Channel := []
  faults : List FaultRec := []
  park : List Parked := []
  parkFullSince : Option Nat := none
  fwd : Map Fwd := []
  /-- The window cache by context and window number, loaded last first: 64 sets of 4 ways (10 R293). -/
  wcache : List (Nat × WinEntry) := []
  code : Map CodeWord := []
  /-- Where the code of a context's image lies: the code-store word of offset 0 of its CODE section (02 R55, 07 R208). -/
  bases : List (CtxId × BitVec 16 × Nat) := []
  decBusy : Nat := 0
  interpBusy : Nat := 0
  couchOut : Credits := ⟨16, 0⟩
  couchIn : Credits := ⟨16, 0⟩
  deriving DecidableEq, Repr

/-! ## Memory (10) -/

/-- BANK_OWNER[n] (10 R298) and the rest of a bank. -/
structure Bank where
  kind : BitVec 2 := 1
  ctx : CtxId := 0
  /-- Section clock of the last access that port B accepted, and the one until which PEND is set (10 R298). -/
  takenB : Option Nat := none
  pendDue : Nat := 0
  clring : Bool := false
  clrDue : Nat := 0
  fwdBank : Byte := 0
  fwdValid : Bool := false
  /-- Assigned since PORST_N, so that its contents are specified. -/
  assigned : Bool := false
  /-- The PE whose access port A took last, and SPD_CNT_WAIT by master. -/
  lastPe : BitVec 3 := 0
  /-- Section clock of the last near access that port A took (10 R296). -/
  taken : Option Nat := none
  cntWait : Map Word := []
  coll : Word := 0
  refuse : Word := 0
  ce : Word := 0
  ue : Word := 0
  borrow : Word := 0
  deriving DecidableEq, Repr

/-- LCK_HOLDER[n] (10 R309). -/
structure Holder where
  kind : BitVec 2 := 0
  valid : Bool := false
  who : BitVec 13 := 0
  task : BitVec 16 := 0
  /-- The master was reset: it no longer matches (10 R309). -/
  reset : Bool := false
  deriving DecidableEq, Repr

/-- A lock group's rights (10 R309). -/
structure LckGrp where
  f0 : DWord := 0
  f1 : DWord := 0
  cl : BitVec 3 := 0
  /-- The row refuses every check after an uncorrected error (16 R441). -/
  refuse : Bool := false
  deriving DecidableEq, Repr

/-- The lock unit (10 R306-R309). -/
structure Locks where
  words : Map DWord := []
  holders : Map Holder := []
  groups : Map LckGrp := []
  /-- The 1,024-entry release queue, and the words left to the firmware. -/
  relQ : List (BitVec 12) := []
  fwQ : List (BitVec 12) := []
  barRefused : Word := 0
  deriving DecidableEq, Repr

/-- A pseudo-channel: its error counters (10 R302). -/
structure PseudoCh where
  ce : Word := 0
  ue : Word := 0
  deriving DecidableEq, Repr

/-! ## Spine (11) -/

/-- One outgoing link of a router (11 R319). -/
structure Link where
  seq : BitVec 5 := 0
  /-- The SEQ its receiving end expects next, and the last 16 flits sent, oldest first (11 R319). -/
  expect : BitVec 5 := 0
  replayBuf : List (BitVec 176) := []
  fails : Nat := 0
  failed : Bool := false
  failedSince : Nat := 0
  /-- SCNT of the last retry of a failed link (11 R319). -/
  lastRetry : Nat := 0
  /-- Failed and routed around (16 R443). -/
  dead : Bool := false
  deriving DecidableEq, Repr

/-- A router: the two table banks, endpoint states and counters. -/
structure Router where
  rt0 : DWord
  rt1 : DWord
  ep : List (BitVec 2)
  busy : Bool := false
  /-- Writes of endpoint states from the one on that waits for its OFF (11 R332), in order. -/
  epWait : List Word := []
  links : Map Link := []
  /-- Round robin (11 R323): the input port granted last, by 4 times the output port plus the VC, and the VC served last, by output
  port. -/
  grantLast : Map Nat := []
  vcLast : Map Nat := []
  ce : Word := 0
  replay : Word := 0
  ue : Word := 0
  unroute : Word := 0
  turnback : Word := 0
  disc : Word := 0
  deriving DecidableEq, Repr

/-- A probe (11 R335). -/
structure Probe where
  cfg : BitVec 14 := 0
  hdr : DWord := 0
  tag : DWord := 0
  tagm : DWord := 0
  pkts : Word := 0
  flits : Word := 0
  miss : BitVec 16 := 0
  drop : BitVec 16 := 0
  missed : Bool := false
  stopped : Bool := false
  /-- The sc of the last capture, and the records on their way to the sink, at most 8. -/
  last : Option Nat := none
  fifo : List (BitVec 256) := []
  deriving DecidableEq, Repr

/-- Where a router sends a worm whose head it has accepted (11 R322): to an output port, numbered as the inputs are; back, from its
control endpoint (11 R326, R330); or nowhere (11 R320). -/
inductive WormOut where
  | out (port : Nat)
  | turn (off : Bool)
  | lost
  deriving DecidableEq, Repr

/-- A steward's write that may have to wait for STALE = 0 (11 R328). -/
inductive RtWrite where
  | flip
  | bank (r : BitVec 4) (b : Bool) (v : DWord)
  /-- The event LINK_REROUTED for a link, sent once the flip before it is made (16 R443). -/
  | rerouted (r : BitVec 4) (dir : BitVec 2)
  deriving DecidableEq, Repr

/-- The spine. `bufs` holds the packets at input `port` of router `r` on `vc` under the number 64 r + 4 port + vc: mesh ports N, E,
S, W are 0 to 3, the local endpoint e is port 4 + e, whose list is its outbound couch of 16 flits per VC; `waits` holds, under the
same number, the packets of a unit that have no room there yet (11 R324). `inq` holds
the packets delivered to endpoint `e` of router `r` on `vc` under the same number with port 4 + e. Of the packet at the head of a
buffer `sent` flits have left, by the way `route`; of the one at its end `short` flits have not come, and `headSeq` is the SEQ with
which its head came. -/
structure Spine where
  routers : Map Router := []
  bufs : Map (List Packet) := []
  waits : Map (List Packet) := []
  route : Map WormOut := []
  sent : Map Nat := []
  short : Map Nat := []
  headSeq : Map (BitVec 5) := []
  inq : Map (List Packet) := []
  cur : Bool := false
  regWait : List RtWrite := []
  probes : Map Probe := []
  trace : List (BitVec 256) := []
  traceHbm : Map (List (BitVec 256)) := []
  wrap : Bool := false
  deriving DecidableEq, Repr

end Sys2Proof.Machine
end

