-- ==== Sys2Proof/Machine/TypesHub.lean ====
section
/-! DEFINITION. The data of the host hub: functions, rings, flows, result windows, mailboxes, MSI-X, the broke queue
and record queues (01 R25, 05, 12, 13). -/

namespace Sys2Proof.Machine

/-- What a function reports through AER (12 R338, R339, R344, 16 R435). -/
inductive AerErr where
  | timeout
  | poisoned
  /-- UR or CA. -/
  | unsupportedOrAbort
  | malformed
  | link
  deriving DecidableEq, Repr

/-- What leaves the part (12 R349, R351, R358, 13 R378, 14 R412, 17 R468, R471). -/
inductive Output where
  /-- A Memory Write to host memory with the requester ID of a function. -/
  | hostWrite (f : FuncId) (addr : DWord) (data : List Byte)
  /-- The message of a vector: address and data of its table entry. -/
  | msix (f : FuncId) (v : BitVec 6) (entry : BitVec 96)
  | frame (p : BitVec 2) (data : List Byte)
  | smbus (data : List Byte)
  | trace (data : BitVec 256)
  | avs (mv : BitVec 16)
  /-- The answer of a host read of BAR space or of a BAR2 CAS; none is Completer Abort. -/
  | completion (f : FuncId) (data : Option DWord)
  /-- A completion with Unsupported Request. -/
  | unsupported (f : FuncId)
  /-- An error report of a function. -/
  | aer (f : FuncId) (e : AerErr)
  /-- A frame of the MDIO master, its preamble first (14 R401). -/
  | mdio (frame : BitVec 64)
  /-- A PTM request on a port. -/
  | ptm (p : BitVec 2)
  deriving DecidableEq, Repr

/-- A function-table entry (12 R341); ADMIN is `Hub.admin`. -/
structure Func where
  en : Bool := true
  dbg : Bool := false
  pio : Bool := false
  bud0 : DWord := 0
  bud1 : DWord := 0
  bud2 : DWord := 0
  /-- The row refuses every check after an uncorrected error (16 R441). -/
  refuse : Bool := false
  /-- The FLR sequence of the function is running (12 R364). -/
  flr : Bool := false
  /-- SCNT of its last FLR: what meets an FLR in its cycle comes after it (12 R367). -/
  flrAt : Option Nat := none
  /-- What its AER capability has logged. -/
  aer : List AerErr := []
  deriving DecidableEq, Repr

/-- An item staged for a REEL ring (12 R351): a reel entry without its timestamp and phase. A fault record is one item
of two entries. -/
structure ReelItem where
  tag : DWord
  value : DWord
  type : BitVec 4
  poison : Bool
  cause : Byte
  tt : Bool
  /-- The context whose token it is, when it is one. -/
  ctx : Option CtxId
  deriving DecidableEq, Repr

/-- A ring (12 R345-R347). -/
structure Ring where
  kind : BitVec 2
  lsize : BitVec 4
  holdm : Bool := false
  fault : Bool := false
  win : Bool := false
  vec : BitVec 6 := 0
  ctx : CtxId := 0
  cring : RingId := 0
  base : DWord := 0
  shadow : DWord := 0
  stage : Nat := 0
  count : Nat := 1
  time : Nat := 0
  firstSlot : BitVec 6 := 0
  /-- H for HEADBOX and MEMORY rings, C for REEL rings. -/
  h : BitVec 16 := 0
  /-- D for HEADBOX and MEMORY rings, W for REEL rings. -/
  d : BitVec 16 := 0
  markv : Bool := false
  markSet : Bool := false
  markLost : Bool := false
  mark : BitVec 16 := 0
  /-- The sticky MARK_LOST flag of HB_RSTAT. -/
  lostFlag : Bool := false
  overrun : Bool := false
  rfault : Bool := false
  fcause : BitVec 4 := 0
  held : Bool := false
  wm : Wm := {}
  /-- The assembly buffer of an open message (12 R349). -/
  asm : Option Outbox := none
  /-- Entry read and waiting for a channel credit or a reel credit. -/
  waiting : Option (BitVec 256) := none
  sinceShadow : Nat := 0
  /-- Staging places taken (01 R30), items staged in arrival order, and entries no message has covered yet. -/
  staged : Nat := 0
  items : List ReelItem := []
  uncovered : Nat := 0
  uncoveredAt : Nat := 0
  /-- The ring-table row refuses every check (16 R441). -/
  refuse : Bool := false
  deriving DecidableEq, Repr

/-- An ordered flow RL_FLOW[f] and RL_FLOW_CNT[f] (05 R167), the items held, and the gap timer. -/
structure Flow where
  func : FuncId := 0
  ctx : CtxId := 0
  next : BitVec 16 := 0
  ring : RingId := 0
  valid : Bool := false
  quota : BitVec 9 := 0
  gapto : BitVec 16 := 0
  items : Map ReelItem := []
  /-- Reorder entries granted to tokens that have not yet arrived. -/
  granted : List (BitVec 16) := []
  timer : Nat := 0
  trun : Bool := false
  gaps : BitVec 16 := 0
  late : BitVec 16 := 0
  dup : BitVec 16 := 0
  skip : BitVec 16 := 0
  deriving DecidableEq, Repr

/-- A result-window slot (12 R356). -/
structure WinSlot where
  ready : Bool := false
  taken : Bool := false
  seq : BitVec 16 := 0
  entry : BitVec 256 := 0
  ring : RingId := 0
  deriving DecidableEq, Repr

/-- The mailbox of a function (13 R369). -/
structure Mbox where
  cmd : BitVec 2048 := 0
  rsp : BitVec 2048 := 0
  done : Bool := false
  pend : Bool := false
  notrdy : Bool := true
  overlap : Bool := false
  seq : BitVec 16 := 0
  status : BitVec 16 := 0
  /-- The buffer latched at the doorbell (13 R370). -/
  latched : BitVec 2048 := 0
  /-- The firmware has begun the command (12 R364). -/
  begun : Bool := false
  /-- Work of the context that had stopped before a DBG_STOP which has begun. -/
  stopped : List Sender := []
  deriving DecidableEq, Repr

/-- The MSI-X capability and table of a function (12 R358). A vector not listed in `unmasked` is masked. -/
structure Msix where
  enable : Bool := false
  fmask : Bool := false
  unmasked : List (BitVec 6) := []
  /-- Message address (63:0) and data (95:64) of each vector. -/
  table : Map (BitVec 96) := []
  pending : List (BitVec 6) := []
  deriving DecidableEq, Repr

/-- A PCI Express port (12 R336-R340, 15 R433). -/
structure Port where
  present : Bool := false
  perst : Bool := true
  linkUp : Bool := false
  crs : Bool := true
  enabled : Bool := false
  vfEnable : Bool := false
  numVfs : BitVec 5 := 0
  deckle : Bool := false
  /-- PCI_p has left reset since the last PORST_N release (15 R427). -/
  released : Bool := false
  /-- A hot reset or DL_Down holds PCI_p in reset until the link has retrained (15 R430). -/
  retrain : Bool := false
  /-- 19 R494: the equalisation mark (TEMP[35] of the last re-equalisation, in units of 0.125 °C), or retrained to 16 GT/s. -/
  eqMark : BitVec 16 := 0
  gen4 : Bool := false
  /-- The link has trained at 32 GT/s. -/
  gen5 : Bool := false
  deriving DecidableEq, Repr

/-- An undeliverable token on its way to or in the broke queue (12 R359). -/
structure Broke where
  token : Token
  cause : Byte
  ctx : CtxId
  /-- The token counted in INFLIGHT (06 R181), so that the intake settles it. -/
  counted : Bool
  /-- Its value is poison (02 R43, 12 R350). -/
  poison : Bool
  deriving DecidableEq, Repr

/-- A record queue toward the stewards or the keeper (01 R25). The records are codes of 16 R443 and their details. -/
structure RecQueue where
  recs : List (BitVec 16 × Byte × DWord) := []
  lost : Word := 0
  ovf : Bool := false
  first : Byte := 0
  last : Byte := 0
  deriving DecidableEq, Repr

/-- The host hub. Rings and result-window slots are numbered 64 f + r, ordered flows by device flow number. -/
structure Hub where
  straps : BitVec 6 := 0
  admin : FuncId := 0
  offer : Option (FuncId × Nat) := none
  funcs : Map Func := []
  ports : Map Port := []
  rings : Map Ring := []
  /-- The headbox's rotation (12 R349): the function it served last, the ring it served last of each function, and the entries it has
  read of that ring in one read request. -/
  hbFunc : FuncId := 127
  hbRings : Map RingId := []
  hbRun : Nat := 0
  slots : Map WinSlot := []
  msix : Map Msix := []
  mbox : Map Mbox := []
  /-- Commands accepted and not complete, in order of acceptance (13 R381). -/
  order : List FuncId := []
  flows : Map Flow := []
  spledger : Map (BitVec 27) := []
  linkA : Credits := ⟨16, 0⟩
  linkB : Credits := ⟨16, 0⟩
  reelIn : List Packet := []
  brokeIn : List Broke := []
  broke : List Broke := []
  brokeOvf : Map (BitVec 24 × Byte) := []
  brokeOrph : Word := 0
  steward : RecQueue := {}
  keeper : RecQueue := {}
  deriving DecidableEq, Repr

end Sys2Proof.Machine
end

