-- ==== Sys2Proof/Machine/TypesMgmt.lean ====
section
/-! DEFINITION. The data of the timebase, process I/O, clocks and power, the stewards, the keeper and the monitors
(05 R141-R148, 14, 15, 16, 17). -/

namespace Sys2Proof.Machine

/-- The timebase (05 R148). `now` is TB in ns and `frac` its fraction in units of 2^-32 ns. -/
structure TimeBase where
  now : DWord := 0
  frac : Word := 0
  tc : DWord := 0
  tk : BitVec 18 := 200
  rate : Word := 0
  src : BitVec 2 := 0
  port : BitVec 2 := 0
  holdover : Bool := false
  /-- Step threshold of the servo in ns (05 R143). -/
  stepth : Word := 100000
  /-- SCNT at the last valid sample, and whether one has come since the source was chosen. -/
  lastSample : Nat := 0
  deriving DecidableEq, Repr

/-- A frame that waits for its rule (14 R410): the token it makes, the port it came by and its length. -/
structure HeldFrame where
  token : Token
  port : BitVec 2
  size : Nat
  deriving DecidableEq, Repr

/-- A classifier rule (14 R406, R417, R418). -/
structure Rule where
  raw : BitVec 512
  owner : CtxId
  arrivals : BitVec 16 := 0
  /-- Elimination history: the sequence numbers held, newest first, and SCNT of the last frame. -/
  hist : List (BitVec 16) := []
  lastSc : Nat := 0
  /-- The ownership row refuses every check (16 R441). -/
  refuse : Bool := false
  deriving DecidableEq, Repr

/-- ETH_RULE_CNT[n]. -/
structure RuleCnt where
  hits : Word := 0
  drop : BitVec 16 := 0
  short : Byte := 0
  dup : Byte := 0
  deriving DecidableEq, Repr

/-- An egress template (14 R411, R412, R416, R418). -/
structure Template where
  raw : BitVec 1024
  owner : CtxId
  /-- The value and INST[7:0] in the staging place. -/
  staged : Option (DWord × Byte) := none
  /-- A staging credit granted for a token on its way. -/
  granted : Bool := false
  /-- TB from which a TIMED value may be launched: 1 µs after it reached the staging place. -/
  launch : DWord := 0
  /-- Ports on which the staged frame has still to enter a queue. -/
  toGo : List (BitVec 2) := []
  rtag : BitVec 16 := 0
  deriving DecidableEq, Repr

/-- ETH_TPL_CNT[t]. -/
structure TplCnt where
  sent : Word := 0
  overwrite : BitVec 16 := 0
  late : BitVec 16 := 0
  deriving DecidableEq, Repr

/-- A gate control list (14 R414): base time, cycle, entries of gates and interval. -/
structure GateList where
  base : DWord
  cycle : Word
  entries : List (Byte × Word)
  deriving DecidableEq, Repr

/-- An Ethernet port (14 R401-R418). -/
structure EthPort where
  link : Bool := false
  speed : BitVec 3 := 0
  hdx : Bool := false
  /-- The port's state under BMCA: 0 disabled, 1 master, 2 time receiver, 3 passive (14 R404). -/
  asRole : BitVec 2 := 0
  list : Option GateList := none
  pendingList : Option (GateList × DWord) := none
  /-- Entry of the operating list in force, and TB at which it ends. -/
  entry : Nat := 0
  entryEnd : DWord := 0
  /-- Frames in the 8 queues, without their FCS. -/
  queues : Map (List (List Byte)) := []
  busyUntil : DWord := 0
  rx : Word := 0
  bad : Word := 0
  noRule : Word := 0
  ovf : Word := 0
  tx : Word := 0
  deriving DecidableEq, Repr

/-- Process I/O. -/
structure Eth where
  rules : Map Rule := []
  ruleCnt : Map RuleCnt := []
  /-- Frames that wait for their rule, by its slot: they keep the rule they matched (01 R21, 14 R410, log 65). -/
  waiting : Map (List HeldFrame) := []
  templates : Map Template := []
  tplCnt : Map TplCnt := []
  ports : Map EthPort := []
  credits : Credits := ⟨16, 0⟩
  /-- ETH_PHY_RST_N_0 to 3 are released (18 R478). -/
  phyRstN : Bool := false
  /-- Tokens delivered for claimed ring numbers. -/
  inq : List Packet := []
  deriving DecidableEq, Repr

/-- Clock, power and state of a section (15 R421, R422, R429, 16 R450). -/
structure Section where
  m : BitVec 5 := 16
  mcur : BitVec 5 := 16
  thr : Bool := false
  gated : Bool := false
  lock : Bool := false
  /-- Position in the divider's frame of 40, and fabric cycles so far. -/
  phase : BitVec 6 := 0
  fc : Nat := 0
  /-- The multiple under which the current cycle ends, where M has changed in it. -/
  was : Option (BitVec 5) := none
  req : Bool := false
  pstate : BitVec 3 := 0
  iso : Bool := true
  /-- A REQ write held until the sequence of the other direction ends. -/
  heldReq : Option Bool := none
  /-- The section has been through step 8 of 15 R433. -/
  tried : Bool := false
  /-- 0 IN_SERVICE, 1 FENCED, 2 REPAIRING, 3 PASSED, 4 FAILED. -/
  svc : BitVec 3 := 4
  /-- SCNT of the last item forwarded from the section. -/
  lastFwd : Nat := 0
  deriving DecidableEq, Repr

/-- The clock domains (15 R419). -/
inductive ClkDomain where
  | fab (n : BitVec 4) | spine | hphy | memc | bte | pci (p : BitVec 2) | hif | eth (p : BitVec 2) | ptp | tick | mgmt | safe | sec | aon
  | mon | peri | tck | trace | dbg
  deriving DecidableEq, Repr

/-- CLK_XING[d] (15 R427) and the pulses pending into domain d (15 R424). -/
structure Xing where
  merged : Bool := false
  rsync : Bool := false
  rsyncCnt : BitVec 16 := 0
  mergeCnt : BitVec 16 := 0
  pending : BitVec 4 := 0
  /-- The domain has been released since the last PORST_N release. -/
  released : Bool := false
  /-- The domain is in reset, and management requested that reset. -/
  inReset : Bool := true
  asked : Bool := false
  deriving DecidableEq, Repr

/-- Clocks, resets and start-up. -/
structure Clk where
  sections : Map Section := []
  refLoss : Byte := 0
  /-- The references that the last check found lost (15 R420). -/
  refDead : Byte := 0
  coreLock : Bool := false
  memLock : Bool := false
  pciLock : BitVec 4 := 0
  ethLock : Bool := false
  timeLock : Bool := false
  safeLock : Bool := false
  xing : Map Xing := []
  /-- RST_CAUSE. -/
  rstCause : BitVec 5 := 0b10001
  thermLatch : Bool := false
  porstLow : Bool := true
  warmLow : Bool := false
  /-- PORST_N has been released and AON has left reset (15 R433 step 1). -/
  aon : Bool := false
  /-- The keeper image is verified (step 5), and the HBM stack trained (step 7). -/
  keeperOk : Bool := false
  hbmUp : Bool := false
  /-- The keeper image failed in both banks (15 R434). -/
  dead : Bool := false
  deriving DecidableEq, Repr

/-- The firmware and the stewards (13, 16). -/
structure Fw where
  ready : Bool := false
  held : Bool := true
  /-- The flash bank that the stewards run, and the versions known to lie in the banks. -/
  bank : Bool := false
  versions : Map Word := []
  staged : Option Word := none
  /-- The versions of the keeper parts known to lie in the banks, and the one that the keeper runs (13 R384). -/
  keeperParts : Map Word := []
  keeperRuns : Option Word := none
  /-- Mailboxes paused: 0 no, 1 FW_ACTIVATE, 2 revert, 3 steward restart. -/
  paused : BitVec 2 := 0
  activating : Option FuncId := none
  activateAt : Nat := 0
  restartAt : Nat := 0
  restartCause : Byte := 0
  /-- SCNT of the last steward restart, when there has been one. -/
  lastRestart : Option Nat := none
  fusedCounter : Word := 0
  fusedKeeper : Word := 0
  images : Map Image := []
  seals : Map (BitVec 768) := []
  sramRate : Word := 8192
  hbmRate : Word := 194200
  reserve : Nat := 2
  reserveSet : List ClusterId := []
  fencedClusters : List ClusterId := []
  /-- Cluster errors: SCNT of each uncorrected and corrected error counted (16 R441). -/
  ueLog : List (ClusterId × Nat) := []
  ceLog : List (ClusterId × Nat) := []
  clusterFences : List (ClusterId × Nat) := []
  bteAbort : Word := 0
  /-- Windows of steward SRAM whose words hold a check code that no data matches (10 R313). -/
  sramBad : List (BitVec 12) := []
  hbmRefresh : BitVec 3 := 1
  /-- The section fence in progress, with the function whose command waits for it, and those that wait, with their causes. -/
  fenceJob : Option (BitVec 4 × Option FuncId) := none
  /-- The clusters of the reserve that left it with the section being fenced. -/
  fenceKept : List ClusterId := []
  fenceWait : List (BitVec 4 × Byte) := []
  /-- Positions to be moved, with their targets (16 R445). -/
  plan : List (CtxId × BitVec 6 × ClusterId) := []
  deriving DecidableEq, Repr

/-- The keeper (16 R453-R458). -/
structure Keeper where
  running : Bool := false
  keeper : Bool := false
  cause : Byte := 0
  table : Option (BitVec 2688) := none
  safeIn : BitVec 16 := 0
  samples : List (BitVec 16) := []
  driven : Word := 0
  level : Word := 0
  entryLevel : Word := 0
  entryDriven : Word := 0
  delayed : Word := 0
  entryTb : DWord := 0
  entrySc : Nat := 0
  hbSeq : Word := 0
  wdogOut : Bool := false
  keeperAct : Bool := false
  faultN : Bool := false
  /-- KPR_RSP of each port's PF: STATUS, SEQ, DONE. -/
  rsp : Map (BitVec 16 × BitVec 16 × Bool) := []
  /-- The port whose PF held the administrative role at entry. -/
  adminPort : BitVec 2 := 0
  /-- Windows of keeper SRAM whose words hold a check code that no data matches (10 R313). -/
  sramBad : List (BitVec 10) := []
  /-- A warm reset was requested through the keeper mailbox, and SCNT at the request (15 R432). -/
  warmReq : Bool := false
  warmAt : Nat := 0
  /-- A warm reset has begun since keeper mode was entered or a steward image failed (15 R430). -/
  warmed : Bool := false
  /-- SCNT at which the pair began to restart from ROM (16 R458). -/
  restartAt : Option Nat := none
  /-- VDD_SAFE is outside its tolerance (18 R486, R489). -/
  safeLost : Bool := false
  deriving DecidableEq, Repr

/-- The monitors (17). -/
structure Mon where
  temp : Map (BitVec 16) := []
  volt : Map (BitVec 16) := []
  warn : Map Byte := []
  crit : Map Byte := []
  nom : Map (BitVec 16) := []
  /-- Old NOM while a window slews (17 R464), and the instant since which the reading has been within 10 mV. -/
  slew : Map (BitVec 16) := []
  slewSince : Map Nat := []
  /-- SCNT of the last conversion or step of its kind: TEMP[i], VOLT[n] under 64 + n, throttle steps under 128 + s and
  recovery steps under 144 + s, AVS under 160, PTM under 161, PROC under 162, WDOG_OUT_N under 163, safe inputs under 164 and the
  heartbeat under 165. -/
  last : Map Nat := []
  /-- Sources above the warning and the throttle threshold, monitors outside their warning windows, those outside their
  critical windows since when, and those back inside the warning window since when. -/
  warm : List Nat := []
  hot : List Nat := []
  vout : List Nat := []
  vcrit : Map Nat := []
  vbackSince : Map Nat := []
  /-- Supplies outside their tolerance of 18 R483, since when. -/
  vtol : Map Nat := []
  alertN : Bool := false
  avsTarget : BitVec 16 := 750
  avsFault : Bool := false
  /-- The last target has been acknowledged; a transaction sent at this SCNT has had no valid response yet (17 R466, R467). -/
  avsAcked : Bool := true
  avsSent : Option Nat := none
  /-- m_requested of a section where it is not CLK_FAB[s].M (17 R465, R466). -/
  mReq : Map (BitVec 5) := []
  /-- PROC[n] of the last conversion (17 R461). -/
  proc : Map (BitVec 16) := []
  /-- Section sources at 125 °C whose fence the firmware has raised (16 R452). -/
  fenceHot : List Nat := []
  /-- Monitors of rails that were outside for 10 µs and have not been back at a warm reset (16 R459, 18 R486). -/
  lost : List Nat := []
  endpointId : Byte := 0
  traceOn : Bool := false
  traceSince : Nat := 0
  deriving DecidableEq, Repr

end Sys2Proof.Machine
end

