-- ==== Sys2Proof/Machine/State.lean ====
section
/-! DEFINITION. The state of the SLX-C64, its faults and refusals, and its state after a cold reset. -/

namespace Sys2Proof.Machine

/-- The state: plain data. INVENTORY.md lists every piece with its rule. -/
structure State where
  /-- Commands waiting, first in, first out. -/
  pending : List Instr
  /-- The model's own counter: free values taken so far, and arrival ranks given (log 5, log 55). -/
  free : Nat
  /-- What has left the part, newest first. -/
  out : List Output
  /-- The timebase (05). -/
  tb : TimeBase
  /-- SPINE cycles since PORST_N release (11 R335). -/
  scnt : Nat
  /-- The context table (02 R47) and what the control plane keeps beside it. -/
  ctxs : Map Ctx
  aux : Map CtxAux
  clusters : Map Cluster
  /-- Hardware threads by thread number (07 R190). -/
  threads : Map Thread
  /-- Bytes of HBM and scratchpad, in canonical form: addresses rising, no zero byte listed. -/
  mem : List Host.Cell
  /-- 8-byte words holding an uncorrected error, as word addresses (10 R300, R302, R313), rising. -/
  uecc : List Nat
  banks : Map Bank
  locks : Locks
  pcs : Map PseudoCh
  spine : Spine
  hub : Hub
  eth : Eth
  clk : Clk
  fw : Fw
  keeper : Keeper
  mon : Mon
  deriving DecidableEq, Repr

/-- The reasons for which a step stops with a fault. Every error the manual gives the part is a next state; a command
stops only where its operands name an object the part does not have. -/
inductive Fault where
  /-- Raised by a command whose operands name no object of the part (a steward thread number with bits 11:4 set, a
  temperature source above 37, a voltage monitor above 23, a router port above 12). Safe: the model stops where the part
  has nothing to act on. -/
  | noSuchObject
  deriving DecidableEq, Repr

/-- The reasons for which a command has no meaning. -/
inductive Refusal where
  /-- Raised by an arm of exec whose command has no meaning yet. Safe: nothing is claimed about it. -/
  | notModelled (mnemonic : String)
  deriving DecidableEq, Repr

/-! ## State after a cold reset -/

/-- X-then-Y routing toward router `d` from router `r` (11 R325). -/
def resetPort (r d : Nat) : Nat :=
  let x := r % 4; let y := r / 4; let xd := d % 4; let yd := d / 4
  if xd > x then 2 else if xd < x then 4 else if yd > y then 3 else if yd < y then 1 else 0

/-- The reset contents of a routing-table bank (11 R325). -/
def resetBank (r : Nat) : DWord :=
  (List.range 16).foldl (fun acc d => acc ||| (BitVec.ofNat 64 (resetPort r d) <<< (4 * d))) 0

/-- Router `r` after PORST_N: both banks X-then-Y, endpoints 0 to 3 OFF (11 R325, R332). -/
def Router.reset (r : Nat) : Router :=
  { rt0 := resetBank r, rt1 := resetBank r, ep := [2, 2, 2, 2] }

/-- A port before its PERST_N is released. -/
def Port.reset (p : Nat) : Port := { present := p = 0 }

/-- The rail nominals of VOLT[0] to VOLT[23] in mV (17 R463, 18 R483). -/
def railNominal (n : Nat) : BitVec 16 :=
  if n ≤ 16 then 750 else if n = 17 then 800 else if n = 18 then 1200 else if n = 19 then 2500 else if n = 20 then 850
  else if n = 21 then 1200 else 800

/-- The machine during a cold reset, before PORST_N is released: every register at its Reset value, every domain in
reset, nothing admitted (00 R14, 15 R430). -/
def State.reset : State where
  pending := []
  free := 0
  out := []
  tb := {}
  scnt := 0
  ctxs := []
  aux := []
  clusters := []
  threads := []
  mem := []
  uecc := []
  banks := []
  locks := {}
  pcs := []
  spine := { routers := (List.range 16).map (fun r => (r, Router.reset r)) }
  hub := { ports := (List.range 4).map (fun p => (p, Port.reset p)) }
  eth := {}
  clk := {}
  fw := {}
  keeper := {}
  mon := {}

end Sys2Proof.Machine
end

