-- ==== Sys2Proof/Machine/Bits.lean ====
section
/-! DEFINITION. Bit fields, bytes and counters: the small operations every chapter uses (00 R10, R12, 02 R37, 11 R316,
R317). -/

namespace Sys2Proof.Machine

/-- A Bool as a field. -/
def bit {n : Nat} (b : Bool) : BitVec n := if b then 1 else 0

/-- One more, staying at the greatest value (the saturating counters). -/
def satInc {n : Nat} (x : BitVec n) : BitVec n := if x = BitVec.allOnes n then x else x + 1

/-- `k` more, staying at the greatest value. -/
def satAdd {n : Nat} (x : BitVec n) (k : Nat) : BitVec n :=
  if x.toNat + k ≥ 2 ^ n then BitVec.allOnes n else x + BitVec.ofNat n k

/-- `n` bits of `x` from bit `lo`. -/
def bits {w : Nat} (x : BitVec w) (lo n : Nat) : BitVec n := x.extractLsb' lo n

/-- `x` with `n` bits from bit `lo` replaced by `v`. -/
def putBits {w n : Nat} (x : BitVec w) (lo : Nat) (v : BitVec n) : BitVec w :=
  (x &&& ~~~((BitVec.setWidth w (BitVec.allOnes n)) <<< lo)) ||| ((BitVec.setWidth w v) <<< lo)

/-- `n` bytes of `v`, least significant first. -/
def leBytes : Nat → Nat → List Byte
  | 0, _ => []
  | n + 1, v => BitVec.ofNat 8 v :: leBytes n (v / 256)

/-- The number that bytes spell, least significant first. -/
def leNat : List Byte → Nat
  | [] => 0
  | b :: bs => b.toNat + 256 * leNat bs

/-- The number that bytes spell, most significant first. -/
def beNat (bs : List Byte) : Nat := leNat bs.reverse

/-- `n` bytes of `v`, most significant first. -/
def beBytes (n v : Nat) : List Byte := (leBytes n v).reverse

/-- The number in `n` bytes at offset `o` of a byte string. -/
def rdLe (bs : List Byte) (o n : Nat) : Nat := leNat ((bs.drop o).take n)

/-- Field of `n` bytes at byte `o` of a packed structure. -/
def fld {w : Nat} (x : BitVec w) (o n : Nat) : BitVec (8 * n) := x.extractLsb' (8 * o) (8 * n)

/-- The same as a number. -/
def fldN {w : Nat} (x : BitVec w) (o n : Nat) : Nat := (fld x o n).toNat

/-- Write `n` bytes of `v` at byte `o` of a packed structure. -/
def putFld {w : Nat} (x : BitVec w) (o n v : Nat) : BitVec w := putBits x (8 * o) (BitVec.ofNat (8 * n) v)

/-- A list without the element at a place. -/
def dropAt {α : Type} (l : List α) (i : Nat) : List α := l.take i ++ l.drop (i + 1)

/-- A list with the element at a place changed. -/
def updAt {α : Type} (l : List α) (i : Nat) (f : α → α) : List α :=
  l.take i ++ (match l.drop i with | [] => [] | a :: r => f a :: r)

/-! ## Tags (02 R37) -/

/-- CTX of a tag. -/
def tagCtx (t : DWord) : CtxId := bits t 51 13
/-- NODE of a tag. -/
def tagNode (t : DWord) : BitVec 20 := bits t 31 20
/-- INST of a tag. -/
def tagInst (t : DWord) : BitVec 16 := bits t 15 16
/-- PORT of a tag. -/
def tagPort (t : DWord) : BitVec 2 := bits t 13 2
/-- KIND of a tag. -/
def tagKind (t : DWord) : BitVec 3 := bits t 10 3
/-- PLACE of a tag. -/
def tagPlace (t : DWord) : BitVec 6 := bits t 4 6
/-- The reserved bits of a tag. -/
def tagRsvd (t : DWord) : BitVec 4 := bits t 0 4

/-- A tag from its fields. -/
def mkTag (ctx : CtxId) (node : BitVec 20) (inst : BitVec 16) (port : BitVec 2) (kind : BitVec 3)
    (place : BitVec 6) : DWord :=
  ctx ++ node ++ inst ++ port ++ kind ++ place ++ (0 : BitVec 4)

/-- NODE values 0xFFFC0 to 0xFFFFF are reel values (02 R42). -/
def isReel (node : BitVec 20) : Bool := 0xFFFC0 ≤ node.toNat

/-- The poison value of 02 R39: cause code and cluster. -/
def poisonValue (cause : Byte) (cluster : BitVec 6) : DWord := BitVec.setWidth 64 (cluster ++ cause)

/-! ## Packets (11 R316-R318, R331) -/

/-- The header of a flit with `len` flits following and sequence number `seq` (11 R316). -/
def header (p : Packet) (len : Nat) (seq : BitVec 5) : Word :=
  p.dr ++ p.de ++ p.vc ++ p.type ++ (bit p.epoch : BitVec 1) ++ BitVec.ofNat 3 len ++ p.sr ++ p.se ++ seq ++
    (bit p.pri : BitVec 1)

/-- First payload of a packet. -/
def Packet.head (p : Packet) : BitVec 128 := p.flits.headD 0
/-- Second payload of a packet. -/
def Packet.flit1 (p : Packet) : BitVec 128 := (p.flits.drop 1).headD 0

/-- Request head (11 R317). -/
def requestHead (pa : BitVec 40) (size : BitVec 3) (txn : BitVec 16) (ctx : CtxId) (master : BitVec 2)
    (func : BitVec 7) (be : BitVec 16) : BitVec 128 :=
  (0 : BitVec 26) ++ be ++ func ++ master ++ ctx ++ (0 : BitVec 5) ++ txn ++ size ++ pa

/-- PA of a request head. -/
def reqPa (h : BitVec 128) : BitVec 40 := bits h 0 40
/-- SIZE of a request head. -/
def reqSize (h : BitVec 128) : BitVec 3 := bits h 40 3
/-- TXN of a request head. -/
def reqTxn (h : BitVec 128) : BitVec 16 := bits h 43 16
/-- CTX of a request head. -/
def reqCtx (h : BitVec 128) : CtxId := bits h 64 13
/-- MASTER of a request head. -/
def reqMaster (h : BitVec 128) : BitVec 2 := bits h 77 2
/-- FUNC of a request head. -/
def reqFunc (h : BitVec 128) : BitVec 7 := bits h 79 7
/-- Byte enables of a request head. -/
def reqBe (h : BitVec 128) : BitVec 16 := bits h 86 16

/-- Response head with data (11 R317). -/
def responseHead (txn : BitVec 16) (status : Byte) (data : DWord) : BitVec 128 :=
  data ++ (0 : BitVec 40) ++ status ++ txn

/-- TXN of a response head. -/
def rspTxn (h : BitVec 128) : BitVec 16 := bits h 0 16
/-- STATUS of a response head. -/
def rspStatus (h : BitVec 128) : Byte := bits h 16 8
/-- Data of a response head. -/
def rspData (h : BitVec 128) : DWord := bits h 64 64

/-- The flits of a token's packet (11 R317). -/
def tokenFlits (t : Token) : List (BitVec 128) :=
  match t.tick with
  | none => [t.value ++ t.tag]
  | some k => [t.value ++ t.tag, BitVec.setWidth 128 k]

/-- The token a TOKEN or TTOKEN packet carries. -/
def packetToken (p : Packet) : Token :=
  { tag := bits p.head 0 64, value := bits p.head 64 64, tick := if p.type = 1 then some (bits p.flit1 0 64) else none }

/-- Router and endpoint of a cluster (11 R314, R315). -/
def clusterRouter (c : ClusterId) : BitVec 4 := bits c 2 4
/-- Endpoint of a cluster at its router. -/
def clusterEp (c : ClusterId) : BitVec 4 := BitVec.setWidth 4 (bits c 0 2 : BitVec 2)
/-- Section of a cluster. -/
def clusterSection (c : ClusterId) : BitVec 4 := bits c 2 4

/-! ## Banks (10 R291) -/

/-- First address of the scratchpad banks. -/
def bankBase : Nat := 0x4000000000
/-- Is the address in a scratchpad bank? -/
def inBanks (a : Nat) : Bool := bankBase ≤ a && a < bankBase + 0x4000000
/-- The bank of an address. -/
def bankOf (a : Nat) : Byte := BitVec.ofNat 8 ((a - bankBase) / 0x40000)
/-- The cluster of a bank. -/
def bankCluster (n : Byte) : ClusterId := bits n 2 6

/-! ## Thread numbers -/

/-- A steward thread (07 R198). -/
def isSteward (t : Tid) : Bool := t.getLsbD 12
/-- Cluster of a fabric thread. -/
def tCluster (t : Tid) : ClusterId := bits t 6 6
/-- PE of a fabric thread. -/
def tPe (t : Tid) : BitVec 3 := bits t 3 3
/-- Thread within its PE. -/
def tTh (t : Tid) : BitVec 3 := bits t 0 3
/-- Thread `k` of PE `p` of cluster `c`. -/
def mkTid (c : ClusterId) (p k : BitVec 3) : Tid := (0 : BitVec 1) ++ c ++ p ++ k

/-- Fault cause codes (01 R27). -/
def ILLEGAL_OP : Byte := 0x01
def RESERVED_FIELD : Byte := 0x02
def PRIVILEGED : Byte := 0x03
def CLASS_VIOLATION : Byte := 0x04
def ALIGN : Byte := 0x05
def ADDR_WINDOW : Byte := 0x06
def ADDR_RIGHTS : Byte := 0x07
def NOT_NEAR : Byte := 0x08
def DIV_ZERO : Byte := 0x09
def REP_ILLEGAL : Byte := 0x0A
def REP_LIMIT : Byte := 0x0B
def BREAK : Byte := 0x0C
def STORE_LOST : Byte := 0x0D
def TABLE_INVALID : Byte := 0x0E
def HORIZON : Byte := 0x0F
def CREDIT_VIOLATION : Byte := 0x10
def UNDELIVERABLE : Byte := 0x11
def ECC_UNCORRECTED : Byte := 0x12
def POISON_CONSUMED : Byte := 0x13
def EXT_NO_HANDLER : Byte := 0x14
def GRAPH_DEADLOCK : Byte := 0x15
def TARGET_FENCED : Byte := 0x16
def TARGET_OFF : Byte := 0x17
/-- Codes the model gives to the records to management that have no public code (log 24). -/
def recParkFull : BitVec 16 := 0x0201
def recSpillRefusal : BitVec 16 := 0x0202
def recDelayMark : BitVec 16 := 0x0203
def recKeyError : BitVec 16 := 0x0204
def recDrain : BitVec 16 := 0x0205
def recLinkFail : BitVec 16 := 0x0206
def recWorm : BitVec 16 := 0x0207
def recTest : BitVec 16 := 0x0208
def recCode : BitVec 16 := 0x0209
def recMonitor : BitVec 16 := 0x020A
def recCrossing : BitVec 16 := 0x020B
def recReference : BitVec 16 := 0x020C
def recUnmapped : BitVec 16 := 0x020D
/-- STATUS LOST_TO_A (11 R318). -/
def LOST_TO_A : Byte := 0x80

end Sys2Proof.Machine
end

