-- ==== Sys2Proof/Machine/Ops.lean ====
section
/-! DEFINITION. The named operations every meaning uses: reading and changing one object of the state, time, memory,
outgoing transfers, records, the broke queue, and counts of a context. -/

namespace Sys2Proof.Machine

/-- A next state. -/
abbrev Out := Host.Outcome State Fault Refusal

/-! ## One object of the state -/

/-- Context-table entry (02 R47). -/
def State.ctx (s : State) (x : CtxId) : Ctx := s.ctxs.getD x.toNat {}
/-- Change a context-table entry. -/
def State.updCtx (s : State) (x : CtxId) (f : Ctx → Ctx) : State := { s with ctxs := s.ctxs.upd x.toNat {} f }
/-- What the control plane keeps of a context. -/
def State.caux (s : State) (x : CtxId) : CtxAux := s.aux.getD x.toNat {}
/-- A CTX_KILL of the context has begun (02 R56). -/
def State.dying (s : State) (x : CtxId) : Bool := (s.caux x).kill.isSome
/-- Change what the control plane keeps of a context. -/
def State.updAux (s : State) (x : CtxId) (f : CtxAux → CtxAux) : State := { s with aux := s.aux.upd x.toNat {} f }
/-- A cluster. -/
def State.cluster (s : State) (c : ClusterId) : Cluster := s.clusters.getD c.toNat {}
/-- Change a cluster. -/
def State.updCluster (s : State) (c : ClusterId) (f : Cluster → Cluster) : State :=
  { s with clusters := s.clusters.upd c.toNat {} f }
/-- A hardware thread. -/
def State.thread (s : State) (t : Tid) : Thread := s.threads.getD t.toNat {}
/-- Change a hardware thread. -/
def State.updThread (s : State) (t : Tid) (f : Thread → Thread) : State :=
  { s with threads := s.threads.upd t.toNat {} f }
/-- A bank. -/
def State.bank (s : State) (n : Byte) : Bank := s.banks.getD n.toNat {}
/-- Change a bank. -/
def State.updBank (s : State) (n : Byte) (f : Bank → Bank) : State := { s with banks := s.banks.upd n.toNat {} f }
/-- A pseudo-channel. -/
def State.pch (s : State) (p : BitVec 4) : PseudoCh := s.pcs.getD p.toNat {}
/-- Change a pseudo-channel. -/
def State.updPch (s : State) (p : BitVec 4) (f : PseudoCh → PseudoCh) : State :=
  { s with pcs := s.pcs.upd p.toNat {} f }
/-- A router. -/
def State.router (s : State) (r : BitVec 4) : Router := s.spine.routers.getD r.toNat (Router.reset r.toNat)
/-- Change the spine. -/
def State.updSpine (s : State) (f : Spine → Spine) : State := { s with spine := f s.spine }
/-- Change a router. -/
def State.updRouter (s : State) (r : BitVec 4) (f : Router → Router) : State :=
  s.updSpine fun n => { n with routers := n.routers.upd r.toNat (Router.reset r.toNat) f }
/-- Change the host hub. -/
def State.updHub (s : State) (f : Hub → Hub) : State := { s with hub := f s.hub }
/-- A function-table entry. -/
def State.func (s : State) (f : FuncId) : Func := s.hub.funcs.getD f.toNat {}
/-- Change a function-table entry. -/
def State.updFunc (s : State) (f : FuncId) (g : Func → Func) : State :=
  s.updHub fun h => { h with funcs := h.funcs.upd f.toNat {} g }
/-- A PCI Express port. -/
def State.port (s : State) (p : BitVec 2) : Port := s.hub.ports.getD p.toNat {}
/-- Change a PCI Express port. -/
def State.updPort (s : State) (p : BitVec 2) (g : Port → Port) : State :=
  s.updHub fun h => { h with ports := h.ports.upd p.toNat {} g }
/-- The number of ring `r` of function `f`. -/
def ringKey (f : FuncId) (r : RingId) : Nat := 64 * f.toNat + r.toNat
/-- Ring `r` of function `f`, when it exists. -/
def State.ring (s : State) (f : FuncId) (r : RingId) : Option Ring := s.hub.rings.find (ringKey f r)
/-- Write a ring. -/
def State.setRing (s : State) (f : FuncId) (r : RingId) (g : Ring) : State :=
  s.updHub fun h => { h with rings := h.rings.set (ringKey f r) g }
/-- Change a ring that exists. -/
def State.updRing (s : State) (f : FuncId) (r : RingId) (g : Ring → Ring) : State :=
  match s.ring f r with
  | none => s
  | some x => s.setRing f r (g x)
/-- An ordered flow. -/
def State.flow (s : State) (n : BitVec 14) : Flow := s.hub.flows.getD n.toNat {}
/-- Change an ordered flow. -/
def State.updFlow (s : State) (n : BitVec 14) (g : Flow → Flow) : State :=
  s.updHub fun h => { h with flows := h.flows.upd n.toNat {} g }
/-- The mailbox of a function. -/
def State.mbox (s : State) (f : FuncId) : Mbox := s.hub.mbox.getD f.toNat {}
/-- Change a mailbox. -/
def State.updMbox (s : State) (f : FuncId) (g : Mbox → Mbox) : State :=
  s.updHub fun h => { h with mbox := h.mbox.upd f.toNat {} g }
/-- A section. -/
def State.sect (s : State) (n : BitVec 4) : Section := s.clk.sections.getD n.toNat {}
/-- Change the clocks. -/
def State.updClk (s : State) (f : Clk → Clk) : State := { s with clk := f s.clk }
/-- Change a section. -/
def State.updSect (s : State) (n : BitVec 4) (f : Section → Section) : State :=
  s.updClk fun k => { k with sections := k.sections.upd n.toNat {} f }
/-- Change the firmware's data. -/
def State.updFw (s : State) (f : Fw → Fw) : State := { s with fw := f s.fw }
/-- Change the keeper. -/
def State.updKeeper (s : State) (f : Keeper → Keeper) : State := { s with keeper := f s.keeper }
/-- Change the monitors. -/
def State.updMon (s : State) (f : Mon → Mon) : State := { s with mon := f s.mon }
/-- Change process I/O. -/
def State.updEth (s : State) (f : Eth → Eth) : State := { s with eth := f s.eth }
/-- An Ethernet port. -/
def State.ethPort (s : State) (p : BitVec 2) : EthPort := s.eth.ports.getD p.toNat {}
/-- Change an Ethernet port. -/
def State.updEthPort (s : State) (p : BitVec 2) (f : EthPort → EthPort) : State :=
  s.updEth fun e => { e with ports := e.ports.upd p.toNat {} f }
/-- CLK_XING of a domain. -/
def State.xing (s : State) (d : Nat) : Xing := s.clk.xing.getD d {}
/-- Change CLK_XING of a domain. -/
def State.updXing (s : State) (d : Nat) (f : Xing → Xing) : State := s.updClk fun k => { k with xing := k.xing.upd d {} f }
/-- Is a power domain out of reset? -/
def State.domUp (s : State) (d : Nat) : Bool := !(s.xing d).inReset
/-- Is HOST out of reset, so that the hub, the spine and the timebase run? -/
def State.hostUp (s : State) : Bool := !(s.xing 3).inReset

/-- The power domain of a clock domain (15 R419, R428). -/
def ClkDomain.power : ClkDomain → Nat
  | .fab n => 6 + n.toNat
  | .aon => 0
  | .mon => 0
  | .tck => 0
  | .safe => 1
  | .sec => 1
  | .mgmt => 2
  | .bte => 2
  | .peri => 2
  | .trace => 2
  | .dbg => 2
  | .spine => 3
  | .hif => 3
  | .tick => 3
  | .pci _ => 3
  | .eth _ => 4
  | .ptp => 4
  | .memc => 5
  | .hphy => 5

/-- Is the clock of a domain gated (15 R419)? -/
def State.clockGated (s : State) : ClkDomain → Bool
  | .fab n => (s.sect n).gated
  | .bte => s.fw.sramRate == 0 && s.fw.hbmRate == 0
  | .pci p => !(s.port p).present
  | .eth p => !(s.ethPort p).link
  | .trace => !s.mon.traceOn
  | .dbg => s.aux.all fun e => e.2.debugger.isNone
  | _ => false

/-- Are the rails that HOST draws on present: VDD_CORE, VDD_SRAM, VDD_PCIE and VDDH_PCIE (16 R459)? -/
def State.hostRails (s : State) : Bool := !(s.mon.lost.any fun n => n == 16 || n == 17 || n == 20 || n == 21)

/-- Traffic at a section's crossings, or a write to its registers, wakes its clock (15 R422). -/
def State.wakeSect (s : State) (n : BitVec 4) : State :=
  if (s.sect n).gated then s.updSect n fun x => { x with gated := false } else s

/-- Does a clock domain run: its power domain is out of reset and its clock not gated? -/
def State.clockRuns (s : State) (d : ClkDomain) : Bool := s.domUp d.power && !s.clockGated d

/-- A loaded image. -/
def State.image (s : State) (h : BitVec 16) : Option Image := s.fw.images.find h.toNat
/-- Take the next free value. -/
def State.takeFree (s : State) : State := { s with free := s.free + 1 }

/-! ## Time (05 R141, R145, 15 R421, 11 R335) -/

/-- TK in ns. -/
def State.tkNs (s : State) : Nat := 5 * s.tb.tk.toNat

/-- The correction of TB_RATE, saturated at 200 ppm of 5 ns, in units of 2^-32 ns (05 R148). -/
def rateOf (r : Word) : Int :=
  let lim : Int := 4294967
  if r.toInt > lim then lim else if r.toInt < -lim then -lim else r.toInt

/-- TB after `n` TICK cycles, with its fraction (05 R141). -/
def tbAfter (tb : TimeBase) (n : Nat) : DWord × Word :=
  let tot : Int := tb.frac.toNat + (n : Int) * (5 * 4294967296 + rateOf tb.rate)
  (tb.now + BitVec.ofInt 64 (tot / 4294967296), BitVec.ofInt 32 (tot % 4294967296))

/-- TC for a TB, never lower than before (05 R145). -/
def tcFor (tb : TimeBase) (now : DWord) : DWord :=
  let q := BitVec.ofNat 64 (now.toNat / (5 * tb.tk.toNat))
  if tb.tc.toNat < q.toNat then q else tb.tc

/-- Does the divider pass pulse `k` of its PLL at multiple `m` (15 R421)? -/
def dividerEdge (m k : Nat) : Bool := decide (k * m / 40 < (k + 1) * m / 40)

/-- Fabric cycles in `n` pulses of the PLL from phase `p`. A change of M waits for the end of the cycle it falls in, which still
follows the old multiple; where the new pattern would then pass the very next pulse of a fast clock, that pulse is swallowed,
so that no cycle is shorter than 2 periods (15 R421, log 158). -/
def Section.edges (x : Section) (n : Nat) : Nat :=
  let p := x.phase.toNat
  let m := x.mcur.toNat
  match x.was with
  | none => (p + n) * m / 40 - p * m / 40
  | some w =>
    let q := p + 1 + ((List.range 40).find? fun j => dividerEdge w.toNat (p + j)).getD 0
    1 + ((p + n) * m / 40 - q * m / 40) - (if 14 ≤ m && dividerEdge m q then 1 else 0)

/-- `n` TICK cycles pass, 15 pulses of its PLL each. The divider's frame runs on while the clock is gated. -/
def Section.pass (x : Section) (n : Nat) : Section :=
  if x.lock ∧ n ≠ 0 then
    { x with fc := if x.gated then x.fc else x.fc + x.edges (15 * n), phase := BitVec.ofNat 6 ((x.phase.toNat + 15 * n) % 40), was := none }
  else x

/-- The multiple in effect changes at the next fabric cycle. -/
def Section.setCur (x : Section) (m : BitVec 5) : Section :=
  { x with mcur := m, was := if m = x.mcur then x.was else x.was.or (some x.mcur) }

/-- Is ring `r` of `f` full, so that nothing can be written to it (05 R163)? -/
def State.ringFull (s : State) (f : FuncId) (r : RingId) : Bool :=
  match s.ring f r with
  | none => true
  | some g => (g.d - g.h).toNat ≥ 2 ^ g.lsize.toNat

/-- May entries of the context be released from a delay list (02 R49, R51)? -/
def State.releases (s : State) (x : CtxId) : Bool :=
  let e := s.ctxs.getD x.toNat {}
  e.state == 2 || e.state == 5

/-- Is a delay-list entry due at the local TC, and its context not frozen (05 R154)? -/
def State.dlDue (s : State) (e : DlEntry) : Bool := decide (e.tick.toNat ≤ s.tb.tc.toNat) && s.releases e.ctx

/-- Has the release queue a free place (05 R154)? -/
def Cluster.releaseRoom (cl : Cluster) : Bool := cl.release.length + cl.bypassRel.length < 32

/-- Is the entry a token entry? -/
def DlEntry.isToken (e : DlEntry) : Bool := match e.item with | .inl _ => true | .inr _ => false

/-- TICK cycles until TC reaches tick `t` (05 R141, R145). -/
def State.ticksTo (s : State) (t : Nat) : Nat :=
  if t ≤ s.tb.tc.toNat then 0
  else
    let step : Int := 5 * 4294967296 + rateOf s.tb.rate
    let gap : Int := ((t * (5 * s.tb.tk.toNat) : Nat) - s.tb.now.toNat : Int) * 4294967296 - s.tb.frac.toNat
    ((gap + step - 1) / step).toNat

/-- The fabric cycle of section state `x` from which a token entry is due and eligible, within `n` TICK cycles. -/
def State.dueFrom (s : State) (x : Section) (n : Nat) (e : DlEntry) : Option Nat :=
  if e.isToken && s.releases e.ctx && (s.clk.timeLock || decide (e.tick.toNat ≤ s.tb.tc.toNat)) then
    some (max e.elig (x.pass (min n (s.ticksTo e.tick.toNat))).fc)
  else none

/-- Fabric cycles in which a due token entry of the cluster waits on its release queue are counted (05 R159). -/
def State.holdPass (s : State) (c : Nat) (cl : Cluster) (n : Nat) : Cluster :=
  let x := s.clk.sections.getD (c / 4) {}
  if cl.releaseRoom then cl
  else
    match (cl.dl.filterMap (s.dueFrom x n)).min? with
    | some k => { cl with dlCnt := { cl.dlCnt with hold := satAdd cl.dlCnt.hold ((x.pass n).fc - k) } }
    | none => cl

/-- Gap timers count ticks of TC while active and the ring is not full (05 R165). -/
def State.gapPass (s : State) (dt : Nat) : Map Flow :=
  s.hub.flows.mapV fun _ g =>
    if g.valid && g.trun && !s.ringFull g.func g.ring then { g with timer := g.timer + dt } else g

/-- The bank at which the near access of a thread waits, with the thread's PE. -/
def Thread.bankWait (th : Thread) (t : Tid) : Option (Byte × Nat) :=
  match th.wait with
  | .bank _ pa => if isSteward t then none else some (bankOf pa.toNat, (tPe t).toNat)
  | _ => none

/-- The bank to which a request packet goes, with master 8. -/
def Packet.bankWait (p : Packet) : Option (Byte × Nat) :=
  if inBanks (reqPa p.head).toNat then some (bankOf (reqPa p.head).toNat, 8) else none

/-- The banks at which requests wait, with the masters whose they are: PE 0 to 7 for near accesses, 8 for port B (10 R296). -/
def State.waiters (s : State) : List (Byte × Nat) :=
  (s.threads.filterMap (fun e => e.2.bankWait (BitVec.ofNat 13 e.1)) ++
    s.spine.inq.flatMap (fun e => if e.1 % 4 = 1 then e.2.filterMap Packet.bankWait else [])).eraseDups

/-- The fabric cycles in which they wait are counted (10 R296). -/
def State.waitPass (s : State) (n : Nat) : Map Bank :=
  s.waiters.foldl (fun m e =>
    let x := s.clk.sections.getD (e.1.toNat / 16) {}
    m.upd e.1.toNat {} fun b => { b with cntWait := b.cntWait.upd e.2 0 (satAdd · ((x.pass n).fc - x.fc)) }) s.banks

/-- `n` TICK cycles pass (5 ns each): TB and TC (05 R141, R145) unless HOST is in reset, SCNT, the fabric clocks, the gap
timers, the waits at the banks, and the counts of waiting delay-list entries. -/
def State.pass (s : State) (n : Nat) : State :=
  if s.clk.timeLock then
    let (now, frac) := tbAfter s.tb n
    let tc := tcFor s.tb now
    { s with
      tb := { s.tb with now := now, frac := frac, tc := tc }
      scnt := s.scnt + 12 * n
      clusters := s.clusters.mapV fun c cl => s.holdPass c cl n
      banks := s.waitPass n
      hub := { s.hub with flows := s.gapPass (tc.toNat - s.tb.tc.toNat) }
      clk := { s.clk with sections := s.clk.sections.mapV fun _ x => x.pass n } }
  else
    { s with
      scnt := s.scnt + 12 * n
      clusters := s.clusters.mapV fun c cl => s.holdPass c cl n
      banks := s.waitPass n
      clk := { s.clk with sections := s.clk.sections.mapV fun _ x => x.pass n } }

/-- Time passes until SCNT is at least `due` (log 2). -/
def State.passTo (s : State) (due : Nat) : State := s.pass ((due - s.scnt + 11) / 12)

/-- Time passes until section `n` has counted at least `due` fabric cycles (log 2). -/
def State.passFc (s : State) (n : BitVec 4) (due : Nat) : State :=
  let x := s.sect n
  if due ≤ x.fc ∨ ¬ x.lock ∨ x.gated ∨ x.mcur = 0 then s
  else
    let p := x.phase.toNat
    let m := x.mcur.toNat
    let due := if x.was.isSome then due + 6 else due
    let pulses := (40 * (due - x.fc + p * m / 40) + m - 1) / m - p
    s.pass ((pulses + 14) / 15)

/-- SPINE cycles in a number of nanoseconds. -/
def scNs (ns : Nat) : Nat := (ns * 12 + 4) / 5
/-- SPINE cycles in a number of microseconds. -/
def scUs (us : Nat) : Nat := us * 2400
/-- SPINE cycles in a number of milliseconds. -/
def scMs (ms : Nat) : Nat := ms * 2400000

/-- Something that happens every `n` SPINE cycles: time passes until it is due. -/
def State.every (s : State) (key n : Nat) : State :=
  let s := match s.mon.last.find key with | some t => s.passTo (t + n) | none => s
  s.updMon fun m => { m with last := m.last.set key s.scnt }

/-- Section clock of a cluster. -/
def State.fc (s : State) (c : ClusterId) : Nat := (s.sect (clusterSection c)).fc

/-- Is the section of a cluster powered, out of reset and clocked? -/
def State.sectRuns (s : State) (c : ClusterId) : Bool :=
  let x := s.sect (clusterSection c)
  x.pstate == 3 && !x.gated

/-- A step of TB: TC follows a forward step at once and holds after a backward one (05 R145); the gap timers count the ticks
that TC gains (05 R165). -/
def State.stepTb (s : State) (off : DWord) : State :=
  let now := s.tb.now + off
  let tc := tcFor s.tb now
  { s with tb := { s.tb with now := now, tc := tc }, hub := { s.hub with flows := s.gapPass (tc.toNat - s.tb.tc.toNat) } }

/-! ## Memory (10) -/

/-- What a byte that nothing has written reads as (log 4). -/
def memDefault : Byte := 0

/-- The byte at an address. -/
def Memory.get : List Host.Cell → Nat → Byte
  | [], _ => memDefault
  | (b, v) :: m, a => if b = a then v else Memory.get m a

/-- Write a byte, keeping addresses rising and listing no default. -/
def Memory.set : List Host.Cell → Nat → Byte → List Host.Cell
  | [], a, v => if v = memDefault then [] else [(a, v)]
  | (b, w) :: m, a, v =>
    if a < b then (if v = memDefault then (b, w) :: m else (a, v) :: (b, w) :: m)
    else if a = b then (if v = memDefault then m else (a, v) :: m)
    else (b, w) :: Memory.set m a v

/-- The canonical form: addresses rising and no default listed. -/
def Memory.wf : List Host.Cell → Bool
  | [] => true
  | [(_, v)] => v != memDefault
  | (a, v) :: (b, w) :: m => v != memDefault && decide (a < b) && Memory.wf ((b, w) :: m)

/-- Every byte of a range reads the default. -/
def Memory.clear (m : List Host.Cell) (lo n : Nat) : List Host.Cell :=
  m.filter fun e => e.1 < lo || lo + n ≤ e.1

/-- `n` bytes from `a`, least significant first, as a number. -/
def Memory.read (m : List Host.Cell) (a : Nat) : Nat → Nat
  | 0 => 0
  | n + 1 => (Memory.get m a).toNat + 256 * Memory.read m (a + 1) n

/-- Write `n` bytes of `v` from `a`. -/
def Memory.write (m : List Host.Cell) (a : Nat) : Nat → Nat → List Host.Cell
  | 0, _ => m
  | n + 1, v => Memory.write (Memory.set m a (BitVec.ofNat 8 v)) (a + 1) n (v / 256)

/-- Read `n` bytes. -/
def State.rd (s : State) (a n : Nat) : Nat := Memory.read s.mem a n
/-- Write `n` bytes. -/
def State.wr (s : State) (a n v : Nat) : State := { s with mem := Memory.write s.mem a n v }

/-- Does the 8-byte word at `a` hold an uncorrected error? -/
def State.bad (s : State) (a : Nat) : Bool := s.uecc.contains (a / 8)
/-- A word address joins a rising list. -/
def badAdd (w : Nat) : List Nat → List Nat
  | [] => [w]
  | h :: t => if w < h then w :: h :: t else if w = h then h :: t else h :: badAdd w t
/-- Mark or clear the uncorrected error of the word at `a`. -/
def State.setBad (s : State) (a : Nat) (b : Bool) : State :=
  { s with uecc := if b then badAdd (a / 8) s.uecc else s.uecc.filter (· != a / 8) }

/-! ## Outgoing transfers and interrupts -/

/-- Record an outgoing transfer. -/
def State.emit (s : State) (o : Output) : State := { s with out := o :: s.out }

/-- Record a transfer with the requester ID of function `f`; during its FLR it issues none (12 R364), nor while a rail of HOST is
lost (16 R459). -/
def State.emitFor (s : State) (f : FuncId) (o : Output) : State :=
  if (s.hub.funcs.getD f.toNat {}).flr || !s.hostRails then s else s.emit o

/-- A function reports an error through AER (12 R338). -/
def State.aerReport (s : State) (f : FuncId) (e : AerErr) : State :=
  (s.updHub fun h => { h with funcs := h.funcs.upd f.toNat {} fun u => { u with aer := if u.aer.contains e then u.aer else u.aer ++ [e] } }).emit
    (.aer f e)

/-- The message of a vector. -/
def Msix.message (m : Msix) (f : FuncId) (v : BitVec 6) : Output := .msix f v (m.table.getD v.toNat 0)

/-- A message of a vector covers the entries written before it to the REEL rings of that vector (12 R351). -/
def State.covered (s : State) (f : FuncId) (v : BitVec 6) : State :=
  s.updHub fun h => { h with rings := h.rings.mapV fun k g => if k / 64 = f.toNat ∧ g.kind = 1 ∧ g.vec = v then { g with uncovered := 0 } else g }

/-- Raise an MSI-X vector: one message, or its pending bit (12 R358). -/
def State.raise (s : State) (f : FuncId) (v : BitVec 6) : State :=
  let m := s.hub.msix.getD f.toNat {}
  if m.enable ∧ ¬ m.fmask ∧ v ∈ m.unmasked then (s.emitFor f (m.message f v)).covered f v
  else if v ∈ m.pending then s
  else s.updHub fun h => { h with msix := h.msix.set f.toNat { m with pending := m.pending ++ [v] } }

/-- A change of a queue's level seen by its watermark (03 R100): the new watermark, and whether the interrupt or event
is raised. -/
def Wm.change (w : Wm) (old new : Nat) : Wm × Bool :=
  let m := w.mark.toNat
  if m = 0 then (w, false)
  else if old < m ∧ m ≤ new then ({ w with up := true, cnt := satInc w.cnt }, w.ieUp)
  else if m ≤ old ∧ new < m then ({ w with dn := true }, w.ieDn)
  else (w, false)

/-- LIVE of a watermark (03 R100). -/
def Wm.live (w : Wm) (level : Nat) : Bool := w.mark.toNat != 0 && decide (w.mark.toNat ≤ level)

/-! ## Functions and fault rings (12) -/

/-- Port of a function. -/
def funcPort (f : FuncId) : BitVec 2 := bits f 5 2
/-- Number of a function within its port: 0 is the PF. -/
def funcIdx (f : FuncId) : BitVec 5 := bits f 0 5
/-- The PF of a port. -/
def pfOf (p : BitVec 2) : FuncId := p ++ (0 : BitVec 5)

/-- Does the function exist (12 R336, R340)? -/
def State.funcExists (s : State) (f : FuncId) : Bool :=
  let p := s.port (funcPort f)
  p.present && (funcIdx f == 0 || (p.vfEnable && decide ((funcIdx f).toNat ≤ p.numVfs.toNat)))

/-- The fault ring of a function (12 R353). -/
def State.faultRing (s : State) (f : FuncId) : Option RingId :=
  (least 64 fun r => match s.ring f (BitVec.ofNat 6 r) with | some g => g.fault | none => false).map (BitVec.ofNat 6)

/-- Stage an item for a REEL ring. -/
def State.stageItem (s : State) (f : FuncId) (r : RingId) (i : ReelItem) : State :=
  s.updRing f r fun g => { g with items := g.items ++ [i] }

/-! ## Errors of a cluster's structures (16 R441) -/

/-- An uncorrected error of a structure of the cluster is counted. -/
def State.countUe (s : State) (c : ClusterId) : State := s.updFw fun f => { f with ueLog := f.ueLog ++ [(c, s.scnt)] }
/-- A corrected error of a structure of the cluster is counted. -/
def State.countCe (s : State) (c : ClusterId) : State := s.updFw fun f => { f with ceLog := f.ceLog ++ [(c, s.scnt)] }

/-! ## Event records (12 R352) -/

/-- Send an event record (12 R352): an EVENT item for the function's fault ring; nothing where it has none (12 R353). -/
def State.event (s : State) (f : FuncId) (code : BitVec 16) (object : Nat) (value : DWord) : State :=
  match s.faultRing f with
  | none => s
  | some r => s.stageItem f r
      { tag := BitVec.ofNat 32 object ++ (0 : BitVec 16) ++ code, value := value, type := 5, poison := false, cause := 0,
        tt := false, ctx := none }

/-- Send an event record to the administrator. -/
def State.adminEvent (s : State) (code : BitVec 16) (object : Nat) (value : DWord) : State :=
  s.event s.hub.admin code object value

/-! ## Record queues toward management (01 R25) -/

/-- Add a record to a queue, or count it as lost when 1,024 are held. `cause` is the cause code of the record. -/
def RecQueue.push (q : RecQueue) (code : BitVec 16) (cause : Byte) (detail : DWord) : RecQueue :=
  if q.recs.length < 1024 then { q with recs := q.recs ++ [(code, cause, detail)] }
  else { q with lost := satInc q.lost, ovf := true, last := cause, first := if q.ovf then q.first else cause }

/-- The oldest record is lost, and counted as one that found no room (01 R25, 16 R441). -/
def RecQueue.lose (q : RecQueue) : RecQueue :=
  match q.recs with
  | [] => q
  | (_, cause, _) :: l => { q with recs := l, lost := satInc q.lost, ovf := true, last := cause, first := if q.ovf then q.first else cause }

/-- Is the firmware running, so that it takes records as they come and performs commands (13 R372, 16 R438)? -/
def State.fwRuns (s : State) : Bool := s.fw.ready && !s.fw.held && s.fw.paused == 0 && !s.keeper.keeper

/-- An event record to management: the running firmware takes it at once; otherwise it waits in the stewards' queue,
or in keeper mode in the keeper's (01 R25, 16 R438, log 118). -/
def State.mgmtRecord (s : State) (code : BitVec 16) (cause : Byte) (detail : DWord) : State :=
  if s.fwRuns then s
  else if s.keeper.keeper then s.updHub fun h => { h with keeper := h.keeper.push code cause detail }
  else s.updHub fun h => { h with steward := h.steward.push code cause detail }

/-! ## Counts of a context (02 R47, 06 R181) -/

/-- INFLIGHT plus `n`. -/
def State.inflightAdd (s : State) (x : CtxId) (n : Nat) : State :=
  s.updCtx x fun e => { e with inflight := e.inflight + BitVec.ofNat 32 n }
/-- INFLIGHT minus `n`, not below 0. -/
def State.inflightSub (s : State) (x : CtxId) (n : Nat) : State :=
  s.updCtx x fun e => { e with inflight := BitVec.ofNat 32 (e.inflight.toNat - n) }
/-- TIMERS changed. -/
def State.timersAdd (s : State) (x : CtxId) : State := s.updCtx x fun e => { e with timers := e.timers + 1 }
/-- TIMERS minus 1, not below 0. -/
def State.timersSub (s : State) (x : CtxId) : State :=
  s.updCtx x fun e => { e with timers := BitVec.ofNat 32 (e.timers.toNat - 1) }

/-- Context states (02 R47). -/
def FREE : BitVec 3 := 0
def ADMITTED : BitVec 3 := 1
def RUNNING : BitVec 3 := 2
def QUIESCING : BitVec 3 := 3
def STOPPED : BitVec 3 := 4
def UPDATING : BitVec 3 := 5
def FENCED : BitVec 3 := 6

/-- The residency slot of a context at a cluster (03 R81). -/
def Cluster.slotOf (cl : Cluster) (x : CtxId) : Option Nat :=
  (cl.msRes.first fun _ r => r.valid && r.ctx == x).map (·.1)

/-- The cluster at a position of a context (02 R38). -/
def State.clusterAt (s : State) (x : CtxId) (k : Nat) : ClusterId :=
  bits ((s.caux x).clmap.getD k 0) 0 6

/-- The clusters of a context's placement, by position. -/
def State.placement (s : State) (x : CtxId) : List ClusterId :=
  (List.range (s.ctx x).csize.toNat).map (s.clusterAt x)

/-- CD_RES_ACT of a context at a cluster increments (06 R182). -/
def State.act (s : State) (c : ClusterId) (x : CtxId) : State :=
  s.updCluster c fun cl =>
    match cl.slotOf x with
    | none => cl
    | some n => { cl with cdRes := cl.cdRes.upd n {} fun r => { r with act := r.act + 1 } }

/-! ## The broke queue (12 R359, 02 R46) -/

/-- An undeliverable token goes toward the broke queue, charged to its context; `counted` when it counts in INFLIGHT, `poison` when its
value is poison though its tag does not say so. -/
def State.toBroke (s : State) (tok : Token) (cause : Byte) (x : CtxId) (counted : Bool) (poison : Bool := false) : State :=
  s.updHub fun h => { h with brokeIn := h.brokeIn ++
    [{ token := tok, cause := cause, ctx := x, counted := counted, poison := poison || tagKind tok.tag == 6 }] }

end Sys2Proof.Machine
end

