-- ==== Sys2Proof/Machine/Kernel.lean ====
section
/-! DEFINITION. Threads, tasks and channels as the dispatcher and the kernel handle them: freeing a thread, saving and
restoring registers, ready lists, channel stages, torn messages, injection toward the spine, and the fence around a
context (04, 16 R437). -/

namespace Sys2Proof.Machine

/-! ## Tasks, PEs and work -/

/-- The descriptor of a task of a cluster. -/
def Cluster.task (cl : Cluster) (d : BitVec 10) : Task := cl.tasks.getD d.toNat {}
/-- Change a descriptor. -/
def State.updTask (s : State) (c : ClusterId) (d : BitVec 10) (f : Task → Task) : State :=
  s.updCluster c fun cl => { cl with tasks := cl.tasks.upd d.toNat {} f }
/-- A PE. -/
def Cluster.pe (cl : Cluster) (p : BitVec 3) : Pe := cl.pes.getD p.toNat {}
/-- Change a PE. -/
def State.updPe (s : State) (c : ClusterId) (p : BitVec 3) (f : Pe → Pe) : State :=
  s.updCluster c fun cl => { cl with pes := cl.pes.upd p.toNat {} f }

/-- The context of the work a thread of cluster `c` holds. -/
def Cluster.workCtx (cl : Cluster) : Work → CtxId
  | .activation a => a.ctx
  | .task d => (cl.task d).ctx

/-- The context of a thread's work; 0 where it holds none. -/
def State.threadCtx (s : State) (t : Tid) : CtxId :=
  match (s.thread t).work with
  | none => 0
  | some w => (s.cluster (tCluster t)).workCtx w

/-- Task states (04 R118). -/
def DORMANT : BitVec 3 := 0
def READY : BitVec 3 := 1
def RUNNINGT : BitVec 3 := 2
def BLOCKED : BitVec 3 := 3
def DELAYED : BitVec 3 := 4
def STOPPEDT : BitVec 3 := 5
def FAULTED : BitVec 3 := 6

/-! ## Registers -/

/-- BNK_n of a bank list, n where nothing has been written (04 R113). -/
def bnkOf (m : Map (BitVec 6)) (n : Nat) : BitVec 6 := m.getD n (BitVec.ofNat 6 n)

/-- TST as MFSR reads it: LDOUT is the number of split accesses outstanding (07 R196). -/
def Thread.tstFull (th : Thread) : Word := th.tst ||| (BitVec.ofNat 32 th.splits.length <<< 16)

/-- A general register without regard to results on their way. -/
def Thread.reg (th : Thread) (r : GReg) : Word := if r = 0 then 0 else th.regs.getD r.toNat 0

/-- The number that tells the free choice of one target from those of others. -/
def Target.key : Target → Nat
  | .gpr r => r.toNat
  | .bnk n => 32 + n.toNat
  | .fst => 48
  | .dst => 49
  | .tst => 50
  | .fstFlags => 51
  | .dstFlags => 52

/-- The value that lands: where writes overlapped, either the value there or the result (07 R211). -/
def Land.pick (l : Land) (old : Word) : Word :=
  match l.clash with
  | none => l.value
  | some n => if Config.freeBit n (64 + l.target.key) then l.value else old

/-- TST after an MTSR of `v`: SLF is written, STORE_LOST is cleared by writing 1, and the rest is kept (07 R196). -/
def tstWrite (old v : Word) : Word :=
  (if v.getLsbD 8 then old &&& ~~~(0x300 : Word) else old &&& ~~~(0x200 : Word)) ||| (v &&& 0x200)

/-- The same for TST, whose MTSR writes only SLF and STORE_LOST. -/
def Land.pickTst (l : Land) (old : Word) : Word :=
  match l.clash with
  | none => tstWrite old l.value
  | some n => if Config.freeBit n (64 + l.target.key) then tstWrite old l.value else old

/-- One result lands. -/
def Thread.land (th : Thread) (l : Land) : Thread :=
  match l.target with
  | .gpr r =>
    if r = 0 then th
    else { th with regs := th.regs.set r.toNat (l.pick (th.reg r)), regBad := th.regBad.filter (· != r) }
  | .bnk n => { th with bnk := th.bnk.set n.toNat (bits (l.pick (BitVec.setWidth 32 (bnkOf th.bnk n.toNat))) 0 6) }
  | .fst => { th with fst := l.pick th.fst }
  | .dst => { th with dst := l.pick th.dst }
  | .tst => { th with tst := l.pickTst th.tst }
  | .fstFlags => { th with fst := th.fst ||| l.value }
  | .dstFlags => { th with dst := th.dst ||| l.value }

/-- Is the result due at clock `k`? -/
def Land.dueBy (k : Nat) (l : Land) : Bool := match l.due with | some d => d ≤ k | none => false

/-- Every result due by clock `k` lands, in the order in which they fall due. -/
def Thread.landTo (th : Thread) (k : Nat) : Thread :=
  (th.lands.filter (Land.dueBy k)).foldl Thread.land { th with lands := th.lands.filter (fun l => !l.dueBy k) }

/-- Every result lands (07 R216). -/
def Thread.landAll (th : Thread) : Thread := th.lands.foldl Thread.land { th with lands := [] }

/-- Does `a` fall due no later than `b`? A flag word falls after a whole write of the same clock (09 R280). -/
def Land.before (a b : Land) : Bool :=
  match a.due, b.due with
  | some x, some y => x < y || (x == y && !(a.target == .fstFlags || a.target == .dstFlags))
  | some _, none => true
  | none, _ => false

/-- Put a result in its place. -/
def insertLand (l : Land) : List Land → List Land
  | [] => [l]
  | x :: r => if l.before x && x.target != l.target then l :: x :: r
              else if l.before x && l.due != x.due then l :: x :: r
              else x :: insertLand l r

/-- A later result for a target with a write still on its way holds either value afterwards (07 R211). -/
def Thread.addLand (th : Thread) (n : Nat) (due : Option Nat) (tgt : Target) (v : Word) : Thread :=
  if tgt = .fstFlags ∨ tgt = .dstFlags then
    { th with lands := insertLand { due := due, target := tgt, value := v, clash := none } th.lands }
  else
    let l : Land := { due := due, target := tgt, value := v, clash := none }
    let mine := th.lands.any fun x => x.target == tgt && !(l.before x && l.due != x.due)
    let ls := th.lands.map fun x =>
      if x.target == tgt && l.before x && l.due != x.due then { x with clash := some n } else x
    { th with lands := insertLand { l with clash := if mine then some n else none } ls }

/-- Is register `r` a destination of the split access? -/
def Split.covers (p : Split) (r : GReg) : Bool :=
  match p.kind with
  | .load 3 _ => p.rd.toNat / 2 == r.toNat / 2
  | .load _ _ => p.rd == r
  | .store _ => false
  | .cas => p.rd.toNat / 2 == r.toNat / 2

/-- Write a general register at clock `due`; g0 discards it (07 R191). -/
def Thread.write (th : Thread) (n : Nat) (due : Option Nat) (r : GReg) (v : Word) : Thread :=
  if r = 0 then th
  else
    let th := { th with splits := th.splits.map fun (p : Split) => if p.covers r then { p with dirty := true } else p }
    th.addLand n due (.gpr r) v

/-- Write a pair at clock `due`; the pair named g0 writes g1 only (07 R191). -/
def Thread.writePair (th : Thread) (n : Nat) (due : Option Nat) (r : GReg) (v : DWord) : Thread :=
  (th.write n due r (bits v 0 32)).write n due (r + 1) (bits v 32 32)

/-- Read a value at issue: each result still on its way may or may not be seen (07 R211). `key` names the choices of a register,
the same for both halves of a pair, and each result of it has a choice of its own. -/
def Thread.early (th : Thread) (n key : Nat) (tgt : Target) (base : Word) : Word :=
  (th.lands.filter (fun l => l.target == tgt)).zipIdx.foldl
    (fun v l => if Config.freeBit n (key + 64 * l.2) then l.1.value else v) base

/-- Read a general register at issue (07 R191, R201, R211). -/
def Thread.read (th : Thread) (n : Nat) (r : GReg) : Word :=
  if r = 0 then 0 else th.early n r.toNat (.gpr r) (th.reg r)

/-- Read a pair at issue; the pair named g0 reads as g1 in bits 63:32 (07 R191). -/
def Thread.readPair (th : Thread) (n : Nat) (r : GReg) : DWord :=
  let lo := if r = 0 then 0 else th.early n r.toNat (.gpr r) (th.reg r)
  let hi := th.early n r.toNat (.gpr (r + 1)) (th.reg (r + 1))
  hi ++ lo

/-! ## Freeing a thread (04 R115, R139) -/

/-- Is there ready work for the cluster? -/
def Cluster.readyWork (cl : Cluster) : Bool := !cl.ready.isEmpty || !cl.holds.isEmpty

/-- A thread becomes free; its PE counts a slot hit or miss (04 R139). -/
def State.freeThread (s : State) (t : Tid) : State :=
  let th := s.thread t
  let s := s.updThread t fun _ => { trapSeq := th.trapSeq, splitSeq := th.splitSeq, lastIssue := th.lastIssue }
  if isSteward t then s
  else
    s.updCluster (tCluster t) fun cl =>
      let p := cl.pe (tPe t)
      let hit := match p.slot with | some x => x.startable | none => false
      let p := if hit then { p with slothit := satInc p.slothit }
               else if cl.readyWork || p.slot.isSome then { p with slotmiss := satInc p.slotmiss } else p
      { cl with pes := cl.pes.set (tPe t).toNat p }

/-! ## Ready lists (04 R105, R106) -/

/-- Index of the affinity cache and its key (04 R109). -/
def affinityKey (x : CtxId) (n : BitVec 20) : Nat × BitVec 33 := ((x.toNat * 1048576 + n.toNat) % 1024, x ++ n)

/-- The PE that work prefers (04 R109). -/
def Cluster.prefer (cl : Cluster) : Work → Option (BitVec 3)
  | .activation a =>
    let (i, k) := affinityKey a.ctx a.node
    match cl.affinity.find i with
    | some (j, p) => if j = k then some p else none
    | none => none
  | .task d => if (cl.task d).affv then some (cl.task d).lastpe else none

/-- CD_PE_DEPTH[p] bits 15:0 (04 R139). -/
def Cluster.depth (cl : Cluster) (p : BitVec 3) : Nat :=
  cl.ready.countP (fun i => cl.prefer i.work == some p) + cl.holds.countP (fun h => cl.prefer h.item.work == some p)

/-- The greatest depth of a PE is kept (04 R139). -/
def Cluster.noteDepth (cl : Cluster) (p : BitVec 3) : Cluster :=
  let n := cl.depth p
  if (cl.pe p).depthMax.toNat < n then
    { cl with pes := cl.pes.upd p.toNat {} fun e => { e with depthMax := BitVec.ofNat 16 n } }
  else cl

/-- The greatest depth of every PE is kept, where items have come or a preference has changed. -/
def Cluster.noteDepths (cl : Cluster) : Cluster := (List.range 8).foldl (fun cl p => cl.noteDepth (BitVec.ofNat 3 p)) cl

/-- Put work in the ready lists, youngest of all. -/
def State.enqueue (s : State) (c : ClusterId) (w : Work) : State :=
  s.updCluster c fun cl =>
    Cluster.noteDepths { cl with ready := cl.ready ++ [{ work := w, age := cl.age, since := s.fc c }], age := cl.age + 1 }

/-- The dispatcher's fc: the section's, or that of its last placements where that is later (04 R111). -/
def State.dispNow (s : State) (c : ClusterId) : Nat := max (s.fc c) (s.cluster c).dispClock

/-- The slots of a cluster that hold work that `p` names are emptied. -/
def State.emptySlots (s : State) (c : ClusterId) (p : Work → Bool) : State :=
  let k := s.dispNow c
  s.updCluster c fun cl =>
    { cl with pes := cl.pes.mapV fun _ e =>
        match e.slot with
        | some x => if p x.item.work then { e with slot := none, emptiedAt := k } else e
        | none => e }

/-- A task becomes READY and enters its ready list at the tail (04 R120); a wake counts in ACT (06 R182). -/
def State.makeReady (s : State) (c : ClusterId) (d : BitVec 10) : State :=
  let x := ((s.cluster c).task d).ctx
  ((s.updTask c d fun k => { k with state := READY, wait := 0 }).enqueue c (.task d)).act c x

/-- The task leaves its ready list, hold register and prefetch slot. -/
def State.unready (s : State) (c : ClusterId) (d : BitVec 10) : State :=
  (s.updCluster c fun cl =>
    { cl with
      ready := cl.ready.filter fun i => i.work != .task d
      holds := cl.holds.filter fun i => i.item.work != .task d }).emptySlots c fun w => w == .task d

/-- The cluster and descriptor of a task of a context. -/
def State.findTask (s : State) (x : CtxId) (task : BitVec 16) : Option (ClusterId × BitVec 10) :=
  s.clusters.findSome? fun (c, cl) =>
    (cl.tasks.first fun _ k => k.ctx == x && k.task == task && k.prio.toNat < 32 && cl.slotOf x != none).map
      fun (d, _) => (BitVec.ofNat 6 c, BitVec.ofNat 10 d)

/-! ## Channels (04 R128-R131) -/

/-- The number of channel `ch` of descriptor `d`. -/
def chanKey (d : BitVec 10) (ch : BitVec 3) : Nat := 8 * d.toNat + ch.toNat
/-- A channel. -/
def Cluster.chan (cl : Cluster) (d : BitVec 10) (ch : BitVec 3) : Channel := cl.chans.getD (chanKey d ch) {}
/-- Change a channel. -/
def State.updChan (s : State) (c : ClusterId) (d : BitVec 10) (ch : BitVec 3) (f : Channel → Channel) : State :=
  s.updCluster c fun cl => { cl with chans := cl.chans.upd (chanKey d ch) {} f }

/-- Stage credits a channel can still give (04 R128). -/
def Channel.free (h : Channel) : Nat := 8 - h.words.length - h.coming

/-- The live flags 0 to 7 of a task (04 R132). -/
def Cluster.liveFlags (cl : Cluster) (d : BitVec 10) : Word :=
  (List.range 8).foldl
    (fun acc n => if (cl.chan d (BitVec.ofNat 3 n)).visible > 0 then acc ||| (1 <<< n) else acc) 0

/-- The 32 event flags of a task (04 R132). -/
def Cluster.flags (cl : Cluster) (d : BitVec 10) : Word :=
  ((cl.task d).evflags &&& 0x3FFFFF00) ||| cl.liveFlags d

/-- A message that asked for a channel's reservation gives it back, or leaves the queue; the reservation that an earlier message
of the same sender still holds stays (04 R129). -/
def Channel.withdraw (h : Channel) (who : Sender) (granted : Bool) : Channel :=
  if granted then { h with holder := if h.holder = some who then none else h.holder }
  else { h with queue := h.queue.filter (· != who) }

/-- A message is torn: its reservation is released and the torn-message counter increments (04 R130). -/
def State.tear (s : State) (who : Sender) (x : CtxId) (task : BitVec 16) (ch : BitVec 3) (granted : Bool) : State :=
  match s.findTask x task with
  | none => s
  | some (c, d) => s.updChan c d ch fun h => let h := h.withdraw who granted; { h with torn := satInc h.torn }

/-- The request of a trap whose words have not left (08 R233). -/
def Thread.trapUnsent (th : Thread) : Bool := match th.wait with | .trap ws => !ws.isEmpty | _ => false

/-- The trap message of a thread that has not left is torn: its words wait in the outbox (04 R130, 08 R233). -/
def State.tearTrap (s : State) (t : Tid) : State :=
  if (s.thread t).trapUnsent then
    let x := s.threadCtx t
    let h := (s.ctx x).exth
    let held := match s.findTask x h with
      | some (c, d) => ((s.cluster c).chans.getD (8 * d.toNat + 6) {}).holder == some (.trap t)
      | none => false
    (s.tear (.trap t) x h 6 held).updThread t fun th => { th with wait := .trap [] }
  else s

/-- The message a thread is building is torn, and so is a trap message that has not left (04 R130). -/
def State.tearOutbox (s : State) (t : Tid) : State :=
  let s := s.tearTrap t
  let o := (s.thread t).outbox
  if o.words.isEmpty then s
  else (s.tear (.thread t) (s.threadCtx t) o.task o.chan o.grant).updThread t fun th => { th with outbox := {} }

/-! ## Saving and restoring registers (04 R118, R120, 07 R216) -/

/-- What is kept of an error no WAITLD has reported (04 R118 PENDERR). -/
def Thread.pendErr (th : Thread) : Byte := match th.err with | some (_, c) => c | none => 0

/-- The registers of a thread into a descriptor. -/
def Task.saveFrom (k : Task) (th : Thread) : Task :=
  let th := th.landAll
  { k with pc := th.pc, repc := th.repc, bnk := th.bnk, fst := th.fst, dst := th.dst, tst := th.tst,
           penderr := th.pendErr, regs := th.regs, outbox := th.outbox, rep := th.rep, brk := th.brk, saved := true,
           cur := th.cur, handle := th.handle, reply := th.reply, ue := k.ue || th.regBad.isSome }

/-- The registers of a descriptor into a thread; every distance counts as elapsed (07 R216). A trap that a debug stop met goes
on waiting for its reply (04 R122). -/
def Task.restore (k : Task) (d : BitVec 10) (th : Thread) : Thread :=
  { trapSeq := th.trapSeq, splitSeq := th.splitSeq, lastIssue := th.lastIssue, work := some (.task d), pc := k.pc, cur := k.cur, repc := k.repc, bnk := k.bnk,
    fst := k.fst, dst := k.dst, tst := k.tst, regs := k.regs, outbox := k.outbox, rep := k.rep, brk := k.brk,
    err := if k.penderr = 0 then none else some (0, k.penderr), handle := k.handle, reply := k.reply,
    wait := if k.handle = 0 then .none else .trap [] }

/-- The section clock at which a thread acts now. -/
def State.threadClock (s : State) (t : Tid) : Nat :=
  if isSteward t then s.scnt else max (s.fc (tCluster t)) ((s.cluster (tCluster t)).pe (tPe t)).clock

/-- A task becomes DORMANT (04 R120, R121): it starts again at once when a declared channel holds a visible word. -/
def State.toDormant (s : State) (c : ClusterId) (d : BitVec 10) : State :=
  let s := s.updTask c d fun k =>
    { k with state := DORMANT, wait := 0, cancelp := false, resident := false, saved := false, penderr := 0,
             outbox := {}, rep := none, handle := 0, reply := none }
  if (s.cluster c).liveFlags d ≠ 0 then s.makeReady c d else s

/-- Work ends: its thread is freed and a task becomes DORMANT (04 R120, 08 R254). -/
def State.endThread (s : State) (t : Tid) : State :=
  match (s.thread t).work with
  | some (.task d) => (s.freeThread t).toDormant (tCluster t) d
  | _ => s.freeThread t

/-- Stop a thread's work: results land, split accesses complete first, then the registers of a task are saved in 40 fc
(04 R120, 07 R216), and the thread of an activation, or of work that has ended, is freed. -/
def State.stopWork (s : State) (t : Tid) (a : AfterSave) : State :=
  let th := (s.thread t).landAll
  let s := s.updThread t fun _ => { th with after := a }
  if th.splits ≠ [] then s.updThread t fun th => { th with wait := .drain }
  else if a = .ended then s.endThread t
  else match th.work with
    | some (.task _) => s.updThread t fun th => { th with wait := .saving (s.threadClock t + 40) }
    | _ => s.freeThread t

/-- Work that stands for what has ended on a thread whose split accesses are not yet complete: nothing but the context's
number. -/
def deadWork (x : CtxId) : Work :=
  .activation { ctx := x, node := 0, inst := 0, image := 0, ops := [], poison := false, ready := 0, age := 0 }

/-- A thread loses its work at once: its message is torn, and it is free as soon as its split accesses are complete (04 R124,
R130, 07 R216). -/
def State.dropThread (s : State) (x : CtxId) (t : Tid) : State :=
  let s := s.tearOutbox t
  if (s.thread t).splits = [] then s.freeThread t
  else s.updThread t fun th =>
    { th with work := some (deadWork x), wait := .drain, after := .ended, dbgStopped := false, dbgReq := false, moveReq := false,
              handle := 0 }

/-- The task on a thread goes to DORMANT at once (04 R124). -/
def State.endTask (s : State) (t : Tid) (d : BitVec 10) : State :=
  (s.dropThread (s.threadCtx t) t).toDormant (tCluster t) d

/-! ## Injection toward the spine (02 R38, 06 R172, 11 R324) -/

/-- A token whose VALUE is lost becomes poison: KIND 6 with the rest of its tag kept (02 R39, R43, log 117). -/
def Token.poisoned (t : Token) (c : ClusterId) : Token :=
  { t with tag := putBits t.tag 10 (6 : BitVec 3), value := poisonValue ECC_UNCORRECTED c }

/-- The buffer number of input `port` of router `r` on `vc`. -/
def bufKey (r : BitVec 4) (port : Nat) (vc : BitVec 2) : Nat := 64 * r.toNat + 4 * port + vc.toNat
/-- Packets waiting at a router input. -/
def State.buf (s : State) (r : BitVec 4) (port : Nat) (vc : BitVec 2) : List Packet :=
  s.spine.bufs.getD (bufKey r port vc) []
/-- Flits of packets. -/
def flitsOf (ps : List Packet) : Nat := (ps.map fun p => p.flits.length).sum
/-- Flits that stand in a buffer. -/
def Spine.held (n : Spine) (k : Nat) : Nat := flitsOf (n.bufs.getD k []) - n.sent.getD k 0 - n.short.getD k 0
/-- Has the outbound couch of a local port a place for every flit of a packet (11 R324)? Tokens took theirs with their VC0 credits,
and the control endpoint belongs to the router. -/
def Spine.couchFits (n : Spine) (r : BitVec 4) (port : Nat) (p : Packet) : Bool :=
  p.vc == 0 || port < 4 || 12 ≤ port || decide (n.held (bufKey r port p.vc) + p.flits.length ≤ 16)
/-- A packet joins a router input, or waits in its unit behind those that wait for places of the couch. -/
def Spine.push (n : Spine) (r : BitVec 4) (port : Nat) (p : Packet) : Spine :=
  let k := bufKey r port p.vc
  if p.vc = 0 ∨ n.waits.getD k [] = [] ∧ n.couchFits r port p then { n with bufs := n.bufs.upd k [] (· ++ [p]) }
  else { n with waits := n.waits.upd k [] (· ++ [p]) }
/-- The packets of a unit that the couch has room for go into it, in order. -/
def Spine.fill (n : Spine) (r : BitVec 4) (port : Nat) (vc : BitVec 2) : List Packet → Spine
  | [] => { n with waits := n.waits.erase (bufKey r port vc) }
  | p :: l =>
    let k := bufKey r port vc
    if n.couchFits r port p then Spine.fill { n with bufs := n.bufs.upd k [] (· ++ [p]) } r port vc l
    else { n with waits := n.waits.set k (p :: l) }
/-- A packet joins a router input. -/
def State.pushBuf (s : State) (r : BitVec 4) (port : Nat) (p : Packet) : State := s.updSpine fun n => n.push r port p

/-- A packet from a cluster. -/
def clusterPacket (c : ClusterId) (dr de : BitVec 4) (vc : BitVec 2) (ty : BitVec 4) (flits : List (BitVec 128)) :
    Packet :=
  { dr := dr, de := de, vc := vc, type := ty, epoch := false, sr := clusterRouter c, se := clusterEp c, pri := false,
    flits := flits }

/-- A packet leaves a cluster by its outbound couch. -/
def State.sendFrom (s : State) (c : ClusterId) (dr de : BitVec 4) (vc : BitVec 2) (ty : BitVec 4)
    (flits : List (BitVec 128)) : State :=
  s.pushBuf (clusterRouter c) (4 + (clusterEp c).toNat) (clusterPacket c dr de vc ty flits)

/-- Router and endpoint of the host-hub link that serves a function's port (11 R315). -/
def hubLink (f : FuncId) : BitVec 4 × BitVec 4 := if (funcPort f).toNat < 2 then (4, 6) else (7, 6)

/-- Where a token goes: the hub link of the owning function for a reel value, the cluster at PLACE otherwise
(02 R38, R42). -/
def State.tokenDest (s : State) (tag : DWord) : BitVec 4 × BitVec 4 :=
  let x := tagCtx tag
  if isReel (tagNode tag) then hubLink (s.ctx x).owner
  else
    let c := s.clusterAt x (tagPlace tag).toNat
    (clusterRouter c, clusterEp c)

/-- VC0 flits of a token. -/
def Token.flits (t : Token) : Nat := if t.tick.isSome then 2 else 1

/-- A token or event message leaves a cluster: it takes its VC0 credits and counts in INFLIGHT unless it already does
(01 R28, 06 R181). -/
def State.injectFrom (s : State) (c : ClusterId) (tok : Token) (ev : Bool) (counted : Bool) : State :=
  let (dr, de) := s.tokenDest tok.tag
  let s := s.updCluster c fun cl => { cl with couchOut := { cl.couchOut with avail := cl.couchOut.avail - tok.flits } }
  let s := if counted then s else s.inflightAdd (tagCtx tok.tag) 1
  s.sendFrom c dr de 0 (if ev then 2 else if tok.tick.isSome then 1 else 0)
    (if ev then [BitVec.setWidth 128 tok.value] else tokenFlits tok)

/-! ## Endpoint states (11 R332) -/

/-- Has the cluster drained: its outbound couch is empty and none of its requests awaits a response? -/
def State.clusterDrained (s : State) (c : ClusterId) : Bool :=
  let r := clusterRouter c
  let port := 4 + (clusterEp c).toNat
  ((List.range 4).all fun v =>
    (s.buf r port (BitVec.ofNat 2 v)).isEmpty && (s.spine.waits.getD (bufKey r port (BitVec.ofNat 2 v)) []).isEmpty) &&
    (s.cluster c).park.all (·.writes.isEmpty) && (s.cluster c).searching.isEmpty &&
    s.threads.all fun (k, th) =>
      isSteward (BitVec.ofNat 13 k) || tCluster (BitVec.ofNat 13 k) != c || th.splits.isEmpty && !th.wait.asks

/-- Field `e` of a write to NOC_EP_STATE. -/
def epField (v : Word) (e : Nat) : BitVec 2 := bits v (2 * e) 2

/-- The states that a write of NOC_EP_STATE sets. -/
def epAfter (ep : List (BitVec 2)) (v : Word) : List (BitVec 2) :=
  (List.range 4).map fun e => if epField v e = 3 then ep.getD e 2 else epField v e

/-- Writes of the endpoint states of router `r` in order; one of OFF waits until its cluster has drained, with those behind it. -/
def State.runEp (r : BitVec 4) : List Word → State → State
  | [], s => s.updRouter r fun t => { t with busy := false, epWait := [] }
  | v :: l, s =>
    if (List.range 4).all fun e => epField v e != 2 || s.clusterDrained (r ++ BitVec.ofNat 2 e) then
      State.runEp r l (s.updRouter r fun t => { t with ep := epAfter t.ep v })
    else s.updRouter r fun t => { t with busy := true, epWait := v :: l }

/-- Write the endpoint states of router `r`, behind a write that waits. -/
def State.writeEp (s : State) (r : BitVec 4) (v : Word) : State := State.runEp r ((s.router r).epWait ++ [v]) s

/-- The waiting writes of endpoint states are tried again. -/
def State.retryEp (s : State) (r : BitVec 4) : State :=
  match (s.router r).epWait with
  | [] => s
  | l => State.runEp r l s

/-- Is the endpoint of cluster `c` FENCED or OFF (11 R330)? -/
def State.epShut (s : State) (c : ClusterId) : Bool := (s.router (clusterRouter c)).ep.getD (clusterEp c).toNat 2 != 0

/-- A CRD_REQ for a channel of cluster `c` is turned back: its sender's words go to the broke queue (11 R330). -/
def State.creditRefused (s : State) (c : ClusterId) (x : CtxId) (toks : List Token) : State :=
  toks.foldl (fun s tok => s.toBroke tok UNDELIVERABLE x false)
    (s.updRouter (clusterRouter c) fun t => { t with turnback := satInc t.turnback })

/-! ## Locks of a reset master (10 R309) -/

/-- Queue the words of every holder that `p` names for release; the reset master no longer matches. -/
def State.abandon (s : State) (p : Holder → Bool) : State :=
  let ws := (s.locks.holders.filter fun e => e.2.valid && !e.2.reset && p e.2).map fun e => BitVec.ofNat 12 e.1
  let room := 1024 - s.locks.relQ.length
  { s with locks := { s.locks with
      holders := s.locks.holders.mapV fun _ h => if h.valid && !h.reset && p h then { h with reset := true } else h
      relQ := s.locks.relQ ++ ws.take room
      fwQ := s.locks.fwQ ++ ws.drop room } }

/-! ## The fence around a context (16 R436, R437) -/

/-- Threads of a context. -/
def State.threadsOf (s : State) (x : CtxId) : List Tid :=
  (s.threads.filter fun (k, th) =>
    let t : Tid := BitVec.ofNat 13 k
    !isSteward t && th.work.isSome && s.threadCtx t == x).map fun e => BitVec.ofNat 13 e.1

/-- Stop one thread of a fenced or killed context: its handshakes are withdrawn and its message torn (01 R24, 04 R130,
R97, 16 R437). A thread that holds a fault record keeps it (04 R137), and one that is saving its registers goes on. -/
def State.haltThread (s : State) (a : AfterSave) (t : Tid) : State :=
  let s := s.tearOutbox t
  let th := s.thread t
  if th.heldRec.isSome then s
  else match th.wait with
    | .saving _ => if a = .ended then s.endThread t else s
    | .drain => s.updThread t fun th => { th with after := if th.after = .ended then .ended else a }
    | _ => (s.updThread t fun th => { th with wait := .none, dbgStopped := false, dbgReq := false, moveReq := false }).stopWork t a

/-- Is the work an activation of the context? -/
def Work.isActOf (w : Work) (x : CtxId) : Bool := match w with | .activation a => a.ctx == x | .task _ => false

/-- Activations of a context leave the ready queue, the hold registers, the slots and the output register; the tokens
that formed them leave INFLIGHT. -/
def State.dropActivations (s : State) (x : CtxId) (c : ClusterId) : State :=
  let cl := s.cluster c
  let lost := (cl.ready.filter fun i => i.work.isActOf x).map (·.work) ++
    (cl.holds.filter fun h => h.item.work.isActOf x).map (·.item.work) ++
    (cl.pes.filterMap fun e => match e.2.slot with
      | some k => if k.item.work.isActOf x then some k.item.work else none
      | none => none) ++
    (match cl.output with | some a => if a.ctx == x then [Work.activation a] else [] | none => []) ++
    (cl.movedIn.filter fun a => a.ctx == x).map Work.activation
  let s := s.updCluster c fun cl =>
    { cl with
      ready := cl.ready.filter fun i => !i.work.isActOf x
      holds := cl.holds.filter fun h => !h.item.work.isActOf x
      output := match cl.output with | some a => if a.ctx == x then none else some a | none => none
      movedIn := cl.movedIn.filter fun a => a.ctx != x
      readyCr := { cl.readyCr with owed := cl.readyCr.owed +
        (cl.ready.filter fun i => i.work.isActOf x).length } }
  (s.emptySlots c fun w => w.isActOf x).inflightSub x lost.length

/-- Parked tokens of a context go to the broke queue (06 R173). -/
def State.dropParked (s : State) (x : CtxId) (c : ClusterId) : State :=
  let mine := (s.cluster c).park.filter fun k => tagCtx k.token.tag == x
  let s := s.updCluster c fun cl =>
    { cl with park := cl.park.filter fun k => tagCtx k.token.tag != x,
              parkFullSince := if mine.isEmpty then cl.parkFullSince else none }
  mine.foldl (fun s k => s.toBroke k.token UNDELIVERABLE x true) s

/-- Staged values of the templates that `p` picks are discarded, and count as overwritten (14 R413, R418). -/
def Eth.discard (e : Eth) (p : Nat → Template → Bool) : Eth :=
  let hit := e.templates.filter fun t => p t.1 t.2 && t.2.staged.isSome
  { e with
    templates := e.templates.mapV fun n t => if p n t && t.staged.isSome then { t with staged := none, toGo := [] } else t
    tplCnt := hit.foldl (fun (m : Map TplCnt) t => m.upd t.1 {} fun c => { c with overwrite := satInc c.overwrite }) e.tplCnt }

/-- Staged values of a context's templates are discarded. -/
def State.dropStaged (s : State) (x : CtxId) : State := s.updEth (·.discard fun _ t => t.owner == x)

/-- The message in a descriptor's saved outbox is torn (04 R130). -/
def State.tearSaved (s : State) (c : ClusterId) (d : BitVec 10) : State :=
  let k := (s.cluster c).task d
  if k.outbox.words.isEmpty then s else s.tear (.task c d) k.ctx k.outbox.task k.outbox.chan k.outbox.grant

/-- Messages that headbox rings bound to the context have open are torn (04 R130). -/
def State.tearRings (s : State) (x : CtxId) : State :=
  s.hub.rings.foldl (fun s e =>
    let f : FuncId := BitVec.ofNat 7 (e.1 / 64)
    let r : RingId := BitVec.ofNat 6 e.1
    match e.2.asm with
    | some o => if e.2.ctx = x then (s.tear (.ring f r) x o.task o.chan o.grant).updRing f r fun g => { g with asm := none } else s
    | none => s) s

/-- Every message of a context that is open is torn: those of its saved tasks, and those of the rings bound to it (04 R130). -/
def State.tearAll (s : State) (x : CtxId) : State :=
  let s := s.clusters.foldl (fun s e =>
    let c : ClusterId := BitVec.ofNat 6 e.1
    e.2.tasks.foldl (fun s k => if k.2.ctx = x then (s.tearSaved c (BitVec.ofNat 10 k.1)).updTask c (BitVec.ofNat 10 k.1)
      fun d => { d with outbox := {} } else s) s) s
  s.tearRings x

/-- The deckle is raised around a context with a cause (16 R435-R437): FENCED, its threads stop, its messages are torn,
its parked tokens go to the broke queue, its locks are abandoned, its owner and the administrator are told. A CTX_KILL that is
in progress ends with the context FENCED (01 R22). -/
def State.fence (s : State) (x : CtxId) (cause : Byte) : State :=
  let e := s.ctx x
  if e.state = FREE ∨ e.state = FENCED then s
  else
    let s := s.updCtx x fun e => { e with state := FENCED }
    let s := s.updAux x fun a =>
      { a with deckle := true, update := none, move := none, debugger := none, kill := a.kill.map fun k => { k with fenced := true } }
    let s := ((s.threadsOf x).foldl (State.haltThread · .fenced) s).tearAll x
    let cs := s.clusters.map fun e => BitVec.ofNat 6 e.1
    let s := cs.foldl (State.dropActivations · x) s
    let s := cs.foldl (State.dropParked · x) s
    let s := s.dropStaged x
    let s := s.abandon fun h => h.kind.toNat < 2 && h.who == x
    let s := s.event e.owner 0x0005 x.toNat (BitVec.setWidth 64 cause)
    if e.owner = s.hub.admin then s else s.adminEvent 0x0005 x.toNat (BitVec.setWidth 64 cause)

end Sys2Proof.Machine
end

