-- ==== Sys2Proof/Machine/Encode.lean ====
section
/-! DEFINITION. Instruction words: their formats, which words are defined, their reserved fields, and the checks of
07 R207 that need only the word (07 R199-R207, R217, R222, 08 R230, 01 R33). -/

namespace Sys2Proof.Machine

/-! ## Formats (07 R199, R200) -/

/-- Formats L3 and LX. -/
def wL3 (maj : BitVec 6) (rd rs1 rs2 : GReg) (fn : BitVec 10) : Word := (0 : BitVec 1) ++ maj ++ rd ++ rs1 ++ rs2 ++ fn
/-- Format LI. -/
def wLI (maj : BitVec 6) (rd rs1 : GReg) (imm : BitVec 15) : Word := (0 : BitVec 1) ++ maj ++ rd ++ rs1 ++ imm
/-- Formats LB and LJ. -/
def wLB (maj : BitVec 6) (r : GReg) (off : BitVec 20) : Word := (0 : BitVec 1) ++ maj ++ r ++ off
/-- Format LT. -/
def wLT (maj : BitVec 6) (rd rs1 rs2 : GReg) (dsel : BitVec 7) (sub : BitVec 3) : Word :=
  (0 : BitVec 1) ++ maj ++ rd ++ rs1 ++ rs2 ++ dsel ++ sub
/-- A floating-point word: major 0x24 for binary32, 0x25 for binary64. -/
def wF (d : Bool) (rd rs1 rs2 : GReg) (fn : BitVec 10) : Word := wL3 (if d then 0x25 else 0x24) rd rs1 rs2 fn
/-- A decimal word: `p` is fn[4]. -/
def wD (p : Bool) (rd rs1 rs2 : GReg) (fn : BitVec 4) : Word :=
  wL3 0x38 rd rs1 rs2 ((0 : BitVec 5) ++ (bit p : BitVec 1) ++ fn)

/-- Is the word paired? -/
def isPaired (w : Word) : Bool := w.getLsbD 31
/-- Major opcode. -/
def wMaj (w : Word) : Nat := (bits w 25 6).toNat
/-- Function code of the L3 formats. -/
def wFn (w : Word) : Nat := (bits w 0 10).toNat
/-- Field rd. -/
def wRd (w : Word) : GReg := bits w 20 5
/-- Field rs1. -/
def wRs1 (w : Word) : GReg := bits w 15 5
/-- Field rs2. -/
def wRs2 (w : Word) : GReg := bits w 10 5
/-- Field imm15. -/
def wImm (w : Word) : BitVec 15 := bits w 0 15
/-- Field off20. -/
def wOff (w : Word) : BitVec 20 := bits w 0 20
/-- Field dsel. -/
def wDsel (w : Word) : BitVec 7 := bits w 3 7
/-- Field sub. -/
def wSub (w : Word) : Nat := (bits w 0 3).toNat

/-- A slot of a paired word: opcode, rd, rs (07 R200). -/
def slotA (w : Word) : BitVec 7 × BitVec 4 × BitVec 4 := (bits w 24 7, bits w 20 4, bits w 16 4)
/-- Slot B. -/
def slotB (w : Word) : BitVec 7 × BitVec 4 × BitVec 4 := (bits w 9 7, bits w 5 4, bits w 1 4)

/-! ## Defined encodings (07 R202-R206) -/

/-- Is the short-slot opcode listed in 07 R205? -/
def shortDefined (op : BitVec 7) : Bool := op.toNat ≤ 0x11 || (0x20 ≤ op.toNat && op.toNat ≤ 0x25)

/-- Is the long word defined? -/
def longDefined (w : Word) : Bool :=
  let fn := wFn w
  match wMaj w with
  | 0x01 => fn ≤ 0x10
  | 0x02 => fn ≤ 6
  | 0x03 => true
  | 0x22 => fn ≤ 5 || (8 ≤ fn && fn ≤ 0xB) || fn == 0x10 || fn == 0x20 || fn == 0x30
  | 0x24 => fn ≤ 0xB || (0x10 ≤ fn && fn ≤ 0x14)
  | 0x25 => fn ≤ 0xB || (0x10 ≤ fn && fn ≤ 0x14)
  | 0x31 => wSub w ≤ 6
  | 0x32 => fn ≤ 2
  | 0x33 => !(0x15 ≤ (wImm w).toNat && (wImm w).toNat ≤ 0x3F)
  | 0x34 => !(0x15 ≤ (wImm w).toNat && (wImm w).toNat ≤ 0x3F)
  | 0x38 => fn % 16 ≤ 9
  | 0x39 => fn ≤ 1
  | m => (0x08 ≤ m && m ≤ 0x12) || (0x18 ≤ m && m ≤ 0x21) || (0x28 ≤ m && m ≤ 0x2E) || m == 0x30 || 0x3C ≤ m

/-- Is the word defined (check 1 of 07 R207)? -/
def wordDefined (w : Word) : Bool :=
  if isPaired w then shortDefined (slotA w).1 && shortDefined (slotB w).1 else longDefined w

/-- Does the undefined opcode of a paired word lie in slot B only (07 R207)? -/
def undefinedInB (w : Word) : Bool := isPaired w && shortDefined (slotA w).1 && !shortDefined (slotB w).1

/-! ## Reserved fields (07 R199, R206) -/

/-- The register is odd, so that no pair has its name (07 R191). -/
def odd (r : GReg) : Bool := r.getLsbD 0

/-- A NOP slot with a register field that is not zero. -/
def slotReserved (x : BitVec 7 × BitVec 4 × BitVec 4) : Bool := x.1 == 0 && (x.2.1 != 0 || x.2.2 != 0)

/-- Reserved fields of a floating-point word. -/
def fpReserved (d : Bool) (fn : Nat) (rd rs1 rs2 : GReg) : Bool :=
  let one := fn == 5 || fn == 0xB || 0x10 ≤ fn
  let oddD := d && odd rd
  (one && rs2 != 0) ||
  (if fn ≤ 7 then d && (odd rd || odd rs1 || (!one && odd rs2))
   else if fn ≤ 0xB then d && (odd rs1 || (!one && odd rs2))
   else if fn ≤ 0x11 then oddD
   else if fn ≤ 0x13 then d && odd rs1
   else if d then odd rd else odd rs1)

/-- Reserved fields of a decimal word. -/
def decReserved (p : Bool) (fn : Nat) (rd rs1 rs2 : GReg) : Bool :=
  ((fn == 2 || fn == 9) && rs2 != 0) ||
  (p && match fn with
    | 0 | 1 => odd rd || odd rs1 || odd rs2
    | 6 => odd rs1 || odd rs2
    | 8 => odd rs1
    | 9 => odd rd
    | _ => odd rd || odd rs1)

/-- Reserved fields of a defined long word. -/
def longReserved (w : Word) : Bool :=
  let fn := wFn w
  let rd := wRd w
  let rs1 := wRs1 w
  let rs2 := wRs2 w
  let ds := (wDsel w).toNat
  match wMaj w with
  | 0x01 => fn == 0x10 && rs2 != 0
  | 0x0C => 32 ≤ (wImm w).toNat
  | 0x0D => 32 ≤ (wImm w).toNat
  | 0x0E => 32 ≤ (wImm w).toNat
  | 0x1D => odd rd
  | 0x21 => odd rd
  | 0x22 =>
    if fn == 5 || fn == 0xB then odd rd
    else if fn == 0x10 then odd rd || odd rs2
    else if 0x20 ≤ fn then rd != 0 || rs1 != 0 || rs2 != 0
    else false
  | 0x24 => fpReserved false fn rd rs1 rs2
  | 0x25 => fpReserved true fn rd rs1 rs2
  | 0x2A => rd != 0
  | 0x2C => rs2 != 0 || fn != 0
  | 0x2D => rd != 0 || wImm w != 0
  | 0x2E => rd != 0 || rs1 != 0
  | 0x30 =>
    match wSub w with
    | 0 => rd != 0 || odd rs2 || 8 ≤ ds
    | 1 => rd != 0 || odd rs1 || odd rs2 || ds != 0
    | 2 => odd rd || odd rs2 || 8 ≤ ds
    | 6 => rd != 0 || rs2 != 0 || 32 ≤ ds
    | 7 => rd != 0 || rs2 != 0 || ds != 0
    | _ => rd != 0 || odd rs2 || 8 ≤ ds
  | 0x31 =>
    match wSub w with
    | 0 => odd rd || rs2 != 0 || 8 ≤ ds
    | 1 => odd rd || rs2 != 0 || 8 ≤ ds
    | 2 => rs2 != 0 || ds != 0
    | 3 => rs2 != 0 || ds != 0
    | 4 => rd != 0 || rs2 != 0 || 2 ≤ ds || (ds == 1 && odd rs1)
    | _ => rd != 0 || rs1 != 0 || rs2 != 0 || ds != 0
  | 0x32 => fn != 1 && (rd != 0 || rs1 != 0 || rs2 != 0)
  | 0x33 => rs1 != 0
  | 0x34 => rd != 0
  | 0x38 => 32 ≤ fn || decReserved (fn / 16 % 2 == 1) (fn % 16) rd rs1 rs2
  | 0x39 => fn == 1 && odd rs2
  | _ => false

/-- A nonzero reserved field (check 2 of 07 R207). -/
def wordReserved (w : Word) : Bool :=
  if isPaired w then w.getLsbD 0 || slotReserved (slotA w) || slotReserved (slotB w) else longReserved w

/-- Is the reserved field found in slot B (07 R207)? -/
def reservedInB (w : Word) : Bool := isPaired w && !w.getLsbD 0 && !slotReserved (slotA w) && slotReserved (slotB w)

/-! ## Checks 3 to 7 of 07 R207 -/

/-- System-register form of MFSR or MTSR (07 R192). -/
def wordSystemReg (w : Word) : Bool := !isPaired w && (wMaj w == 0x33 || wMaj w == 0x34) && 0x40 ≤ (wImm w).toNat

/-- Families excluded in steward mode (07 R198). -/
def stewardExcluded (w : Word) : Bool :=
  !isPaired w && (wMaj w == 0x30 || wMaj w == 0x31 || wMaj w == 0x38 || wMaj w == 0x39 || 0x3C ≤ wMaj w)

/-- Illegal in a context class (01 R33, 07 R228). -/
def classIllegal (cls : BitVec 2) (w : Word) : Bool :=
  !isPaired w &&
    match wMaj w with
    | 0x24 => cls == 1
    | 0x25 => cls == 1
    | 0x38 => cls != 1
    | 0x39 => cls != 0
    | _ => false

/-- Illegal in the kind of work (07 R207 check 6): kernel-only words in an activation (04 R125), SEND and SENDT in a
task (08 R245). -/
def workIllegal (task : Bool) (w : Word) : Bool :=
  !isPaired w &&
    if task then wMaj w == 0x30 && (wSub w == 0 || wSub w == 2)
    else (wMaj w == 0x31 && wSub w != 6) || (wMaj w == 0x30 && wSub w == 7)

/-- What a delay slot must not hold (07 R217): the fault. -/
def delayIllegal (w : Word) : Option Byte :=
  if isPaired w then none
  else
    let m := wMaj w
    if 0x28 ≤ m ∧ m ≤ 0x2C then some ILLEGAL_OP
    else if m = 0x2D ∨ m = 0x2E then some REP_ILLEGAL
    else if m = 0x31 ∧ wSub w ≠ 1 then some ILLEGAL_OP
    else if m = 0x22 ∧ wFn w = 0x20 then some ILLEGAL_OP
    else if m = 0x32 ∧ (wFn w = 1 ∨ wFn w = 2) then some ILLEGAL_OP
    else if 0x3C ≤ m then some ILLEGAL_OP
    else none

/-- What must not be repeated (07 R222). -/
def repeatIllegal (w : Word) : Bool :=
  !isPaired w &&
    let m := wMaj w
    (0x28 ≤ m && m ≤ 0x2E) || m == 0x30 || m == 0x31 || (m == 0x22 && (wFn w == 0x20 || wFn w == 0x30)) ||
      (m == 0x32 && wFn w ≤ 2) || m == 0x33 || m == 0x34 || 0x3C ≤ m

/-! ## Distances (07 R210, R223) -/

/-- The distance of a word that writes a register, 1 where none does: S of 07 R223. LDX and CAS, whose results have no
distance, count 1 (log 22). -/
def wordDistance (w : Word) : Nat :=
  if isPaired w then (if (slotA w).1 == 0 && (slotB w).1 == 0 then 1 else 2)
  else
    let fn := wFn w
    let m := wMaj w
    if m = 0x01 ∨ m = 0x03 ∨ (0x08 ≤ m ∧ m ≤ 0x12) then 2
    else if m = 0x02 then (if fn = 0 then 5 else if fn ≤ 2 then 6 else 18)
    else if 0x18 ≤ m ∧ m ≤ 0x1D then 4
    else if m = 0x24 ∨ m = 0x25 then
      let d := m = 0x25
      if fn ≤ 3 then (if d then 6 else 4)
      else if fn = 4 then (if d then 22 else 12)
      else if fn = 5 then (if d then 26 else 14)
      else if fn ≤ 0xB then 2
      else 4
    else if m = 0x38 then (if fn % 16 = 3 then 6 else 3)
    else if m = 0x39 then (if fn = 0 then 12 else 16)
    else if m = 0x2B ∨ m = 0x2C ∨ m = 0x33 ∨ m = 0x34 then 2
    else if m = 0x31 then 2
    else 1

/-! ## Registers read at issue (07 R201) -/

/-- The two registers of a pair. -/
def pairRegs (r : GReg) : List GReg := [r, r + 1]

/-- The registers that a slot of a paired word reads (07 R205). -/
def slotReads (x : BitVec 7 × BitVec 4 × BitVec 4) : List GReg :=
  let op := x.1.toNat
  (if op = 0 ∨ op = 0x10 ∨ op = 0x11 ∨ op = 0x25 then [] else [BitVec.setWidth 5 x.2.1]) ++
    (if op < 0x20 then [BitVec.setWidth 5 x.2.2] else [])

/-- The registers that a floating-point word reads. -/
def fpReads (d : Bool) (fn : Nat) (rd rs1 rs2 : GReg) : List GReg :=
  let f (d : Bool) (r : GReg) : List GReg := if d then pairRegs r else [r]
  if fn = 3 then f d rs1 ++ f d rs2 ++ f d rd
  else if fn = 0x10 ∨ fn = 0x11 then [rs1]
  else if fn = 0x14 then f (!d) rs1
  else if fn = 5 ∨ 0xB ≤ fn then f d rs1
  else f d rs1 ++ f d rs2

/-- The registers that a decimal word reads. -/
def decReads (p : Bool) (fn : Nat) (rs1 rs2 : GReg) : List GReg :=
  let f (d : Bool) (r : GReg) : List GReg := if d then pairRegs r else [r]
  f (p && fn != 9) rs1 ++ f (p && (fn == 0 || fn == 1 || fn == 6)) rs2

/-- The registers that a word with no nonzero reserved field reads. -/
def wordReads (w : Word) : List GReg :=
  let fn := wFn w
  let rd := wRd w
  let rs1 := wRs1 w
  let rs2 := wRs2 w
  let ds := wDsel w
  if isPaired w then slotReads (slotA w) ++ slotReads (slotB w)
  else
    match wMaj w with
    | 0x01 => if fn = 13 then [rd, rs1, rs2] else [rs1, rs2]
    | 0x02 => [rs1, rs2]
    | 0x1E => [rs1, rd]
    | 0x1F => [rs1, rd]
    | 0x20 => [rs1, rd]
    | 0x21 => rs1 :: pairRegs rd
    | 0x22 =>
      if fn = 0x10 then rs1 :: (pairRegs rs2 ++ pairRegs rd)
      else [rs1, rs2] ++ (if fn = 0xB then pairRegs rd else if 8 ≤ fn ∧ fn ≤ 0xA then [rd] else [])
    | 0x24 => fpReads false fn rd rs1 rs2
    | 0x25 => fpReads true fn rd rs1 rs2
    | 0x28 => [rd]
    | 0x29 => [rd]
    | 0x2C => [rs1]
    | 0x2D => [rs1]
    | 0x30 =>
      match wSub w with
      | 1 => pairRegs rs1 ++ pairRegs rs2
      | 2 => rs1 :: (pairRegs rs2 ++ pairRegs rd)
      | 6 => [rs1]
      | 7 => [rs1]
      | _ => rs1 :: pairRegs rs2
    | 0x31 =>
      match wSub w with
      | 2 => [rs1]
      | 3 => [rs1]
      | 4 => if ds = 1 then pairRegs rs1 else [rs1]
      | _ => []
    | 0x32 => if fn = 1 then [rs1, rs2] else []
    | 0x34 => [rs1]
    | 0x38 => decReads (fn / 16 % 2 == 1) (fn % 16) rs1 rs2
    | 0x39 => if fn = 1 then rs1 :: pairRegs rs2 else [rs1, rs2]
    | m => if (0x08 ≤ m ∧ m ≤ 0x12) ∨ (0x18 ≤ m ∧ m ≤ 0x1D) then [rs1] else if 0x3C ≤ m then [rs1, rs2] else []

/-! ## Families of the census (02 R66) -/

/-- The CENSUS bits of a word: FP .S, FP .D, decimal, interpolation, extension traps. -/
def wordCensus (w : Word) : Word :=
  if isPaired w ∨ ¬ wordDefined w then 0
  else match wMaj w with
    | 0x24 => 1
    | 0x25 => 2
    | 0x38 => 4
    | 0x39 => 8
    | m => if 0x3C ≤ m then 16 else 0

end Sys2Proof.Machine
end

