-- ==== Sys2Proof/WellFormed.lean ====
section
/-! DEFINITION. Well-formed commands: the operands name objects the part has. The widths of the operands admit every
other value. -/

namespace Sys2Proof

/-- A thread number: a fabric thread, or a steward thread with bits 11:4 zero (01 R32). -/
def Tid.wf (t : Tid) : Bool := t.getLsbD 12 == false || t.extractLsb' 4 8 == 0

/-- A window of a structure that has it (10 R311). -/
def SramWin.wf : SramWin → Bool
  | .bank _ _ => true
  | .matching _ _ => true
  | .taskStore _ _ => true
  | .codeStore _ _ => true
  | .steward _ => true
  | .keeper _ => true

/-- Has router `r` a mesh port in direction `d` (0 N, 1 E, 2 S, 3 W; 11 R314)? -/
def meshPort (r : BitVec 4) (d : BitVec 2) : Bool :=
  let x := r.toNat % 4
  let y := r.toNat / 4
  match d.toNat with
  | 0 => y != 0
  | 1 => x != 3
  | 2 => y != 3
  | _ => x != 0

/-- Who asks for a credit exists. -/
def Requester.wf : Requester → Bool
  | .thread t => t.wf
  | .ring _ _ => true

/-- A command is well formed when its operands name objects of the part: thread numbers, router ports (12 of them at
most, and a mesh port that exists), temperature sources (38), voltage monitors (24). -/
def Instr.wf : Instr → Bool
  | .undefinedEncoding t _ _ => t.wf
  | .pairedWord t _ => t.wf
  | .extensionTrap t _ _ => t.wf
  | .injectionWaitTimeout t => t.wf
  | .trapReply t => t.wf
  | .splitAccessCompletion t _ => t.wf
  | .instructionCacheFill t _ => t.wf
  | .registerSaveComplete t => t.wf
  | .reelCreditRequest q => q.wf
  | .channelCreditRequest q => q.wf
  | .bankAccess _ (some a) _ _ => a.thread.wf
  | .spinePacketHop r port _ _ _ => port.toNat ≤ 12 && (4 ≤ port.toNat || meshPort r (port.setWidth 2))
  | .negativeAcknowledgement r d => meshPort r d
  | .linkRetry r d _ => meshPort r d
  | .linkFailTimeout r d => meshPort r d
  | .temperatureSample i _ _ => i.toNat < 38
  | .voltageSample n _ => n.toNat < 24
  | .bteSramStep w _ => w.wf
  | .add t _ _ _ => t.wf
  | .sub t _ _ _ => t.wf
  | .andR t _ _ _ => t.wf
  | .orR t _ _ _ => t.wf
  | .xorR t _ _ _ => t.wf
  | .nor t _ _ _ => t.wf
  | .sll t _ _ _ => t.wf
  | .srl t _ _ _ => t.wf
  | .sra t _ _ _ => t.wf
  | .cmpeq t _ _ _ => t.wf
  | .cmpne t _ _ _ => t.wf
  | .cmplt t _ _ _ => t.wf
  | .cmpltu t _ _ _ => t.wf
  | .sel t _ _ _ => t.wf
  | .min t _ _ _ => t.wf
  | .max t _ _ _ => t.wf
  | .neg t _ _ => t.wf
  | .addImmediate t _ _ _ => t.wf
  | .andImmediate t _ _ _ => t.wf
  | .orImmediate t _ _ _ => t.wf
  | .xorImmediate t _ _ _ => t.wf
  | .sllImmediate t _ _ _ => t.wf
  | .srlImmediate t _ _ _ => t.wf
  | .sraImmediate t _ _ _ => t.wf
  | .cmpeqImmediate t _ _ _ => t.wf
  | .cmpneImmediate t _ _ _ => t.wf
  | .cmpltImmediate t _ _ _ => t.wf
  | .cmpltuImmediate t _ _ _ => t.wf
  | .lui t _ _ => t.wf
  | .mul t _ _ _ => t.wf
  | .mulh t _ _ _ => t.wf
  | .mulhu t _ _ _ => t.wf
  | .div t _ _ _ => t.wf
  | .divu t _ _ _ => t.wf
  | .rem t _ _ _ => t.wf
  | .remu t _ _ _ => t.wf
  | .lb t _ _ _ => t.wf
  | .lbu t _ _ _ => t.wf
  | .lh t _ _ _ => t.wf
  | .lhu t _ _ _ => t.wf
  | .lw t _ _ _ => t.wf
  | .ldp t _ _ _ => t.wf
  | .sb t _ _ _ => t.wf
  | .sh t _ _ _ => t.wf
  | .sw t _ _ _ => t.wf
  | .sdp t _ _ _ => t.wf
  | .ldxB t _ _ _ => t.wf
  | .ldxBu t _ _ _ => t.wf
  | .ldxH t _ _ _ => t.wf
  | .ldxHu t _ _ _ => t.wf
  | .ldxW t _ _ _ => t.wf
  | .ldxP t _ _ _ => t.wf
  | .stxB t _ _ _ => t.wf
  | .stxH t _ _ _ => t.wf
  | .stxW t _ _ _ => t.wf
  | .stxP t _ _ _ => t.wf
  | .cas t _ _ _ => t.wf
  | .waitld t => t.wf
  | .fence t => t.wf
  | .fadd t _ _ _ _ => t.wf
  | .fsub t _ _ _ _ => t.wf
  | .fmul t _ _ _ _ => t.wf
  | .fma t _ _ _ _ => t.wf
  | .fdiv t _ _ _ _ => t.wf
  | .fsqrt t _ _ _ => t.wf
  | .fmin t _ _ _ _ => t.wf
  | .fmax t _ _ _ _ => t.wf
  | .fcmpeq t _ _ _ _ => t.wf
  | .fcmplt t _ _ _ _ => t.wf
  | .fcmple t _ _ _ _ => t.wf
  | .fclass t _ _ _ => t.wf
  | .fcvtFromSignedWord t _ _ _ => t.wf
  | .fcvtFromUnsignedWord t _ _ _ => t.wf
  | .fcvtToSignedWord t _ _ _ => t.wf
  | .fcvtToUnsignedWord t _ _ _ => t.wf
  | .fcvtBetweenFormats t _ _ _ => t.wf
  | .bz t _ _ => t.wf
  | .bnz t _ _ => t.wf
  | .jump t _ => t.wf
  | .jl t _ _ => t.wf
  | .jr t _ _ => t.wf
  | .repI t _ => t.wf
  | .repN t _ => t.wf
  | .send t _ _ _ => t.wf
  | .sendx t _ _ => t.wf
  | .sendt t _ _ _ _ => t.wf
  | .sendc t _ _ _ => t.wf
  | .cput t _ _ _ => t.wf
  | .cend t _ _ _ => t.wf
  | .setev t _ _ => t.wf
  | .clrev t _ _ => t.wf
  | .recv t _ _ _ => t.wf
  | .tryrecv t _ _ _ => t.wf
  | .waitevAny t _ _ => t.wf
  | .waitevAll t _ _ => t.wf
  | .sleep t _ _ => t.wf
  | .yield t => t.wf
  | .endWork t => t.wf
  | .nop t => t.wf
  | .trap t _ _ _ => t.wf
  | .brk t => t.wf
  | .mfsr t _ _ => t.wf
  | .mtsr t _ _ => t.wf
  | .dadd t _ _ _ _ => t.wf
  | .dsub t _ _ _ _ => t.wf
  | .dadj t _ _ _ => t.wf
  | .dmuls t _ _ _ _ => t.wf
  | .dshl t _ _ _ _ => t.wf
  | .dshr t _ _ _ _ => t.wf
  | .dcmp t _ _ _ _ => t.wf
  | .dround t _ _ _ _ => t.wf
  | .dtob t _ _ _ _ => t.wf
  | .btod t _ _ _ => t.wf
  | .tli1 t _ _ _ => t.wf
  | .tli2 t _ _ _ => t.wf
  | _ => true

end Sys2Proof
end

