-- ==== Sys2Proof/Decode.lean ====
section
/-! DEFINITION. The decoder: the command that an instruction word at a thread spells (07 R199-R206), and the decoder of the
opcode table, of which no row gives bits. -/

namespace Sys2Proof.Machine

/-- The word of a major opcode that has no function code, or a group's word by its code (07 R202). -/
def decodeInteger (t : Tid) (w : Word) (rd rs1 rs2 : GReg) : Option Instr :=
  match wFn w with
  | 0x00 => some (.add t rd rs1 rs2)
  | 0x01 => some (.sub t rd rs1 rs2)
  | 0x02 => some (.andR t rd rs1 rs2)
  | 0x03 => some (.orR t rd rs1 rs2)
  | 0x04 => some (.xorR t rd rs1 rs2)
  | 0x05 => some (.nor t rd rs1 rs2)
  | 0x06 => some (.sll t rd rs1 rs2)
  | 0x07 => some (.srl t rd rs1 rs2)
  | 0x08 => some (.sra t rd rs1 rs2)
  | 0x09 => some (.cmpeq t rd rs1 rs2)
  | 0x0A => some (.cmpne t rd rs1 rs2)
  | 0x0B => some (.cmplt t rd rs1 rs2)
  | 0x0C => some (.cmpltu t rd rs1 rs2)
  | 0x0D => some (.sel t rd rs1 rs2)
  | 0x0E => some (.min t rd rs1 rs2)
  | 0x0F => some (.max t rd rs1 rs2)
  | 0x10 => some (.neg t rd rs1)
  | _ => none

/-- Multiply and divide (07 R203). -/
def decodeMulDiv (t : Tid) (w : Word) (rd rs1 rs2 : GReg) : Option Instr :=
  match wFn w with
  | 0 => some (.mul t rd rs1 rs2)
  | 1 => some (.mulh t rd rs1 rs2)
  | 2 => some (.mulhu t rd rs1 rs2)
  | 3 => some (.div t rd rs1 rs2)
  | 4 => some (.divu t rd rs1 rs2)
  | 5 => some (.rem t rd rs1 rs2)
  | 6 => some (.remu t rd rs1 rs2)
  | _ => none

/-- Split memory and atomics (07 R203). -/
def decodeSplit (t : Tid) (w : Word) (rd rs1 rs2 : GReg) : Option Instr :=
  match wFn w with
  | 0x00 => some (.ldxB t rd rs1 rs2)
  | 0x01 => some (.ldxBu t rd rs1 rs2)
  | 0x02 => some (.ldxH t rd rs1 rs2)
  | 0x03 => some (.ldxHu t rd rs1 rs2)
  | 0x04 => some (.ldxW t rd rs1 rs2)
  | 0x05 => some (.ldxP t rd rs1 rs2)
  | 0x08 => some (.stxB t rd rs1 rs2)
  | 0x09 => some (.stxH t rd rs1 rs2)
  | 0x0A => some (.stxW t rd rs1 rs2)
  | 0x0B => some (.stxP t rd rs1 rs2)
  | 0x10 => some (.cas t rd rs1 rs2)
  | 0x20 => some (.waitld t)
  | 0x30 => some (.fence t)
  | _ => none

/-- Floating point: `d` for binary64 (07 R203). -/
def decodeFloat (t : Tid) (w : Word) (d : Bool) (rd rs1 rs2 : GReg) : Option Instr :=
  match wFn w with
  | 0x00 => some (.fadd t d rd rs1 rs2)
  | 0x01 => some (.fsub t d rd rs1 rs2)
  | 0x02 => some (.fmul t d rd rs1 rs2)
  | 0x03 => some (.fma t d rd rs1 rs2)
  | 0x04 => some (.fdiv t d rd rs1 rs2)
  | 0x05 => some (.fsqrt t d rd rs1)
  | 0x06 => some (.fmin t d rd rs1 rs2)
  | 0x07 => some (.fmax t d rd rs1 rs2)
  | 0x08 => some (.fcmpeq t d rd rs1 rs2)
  | 0x09 => some (.fcmplt t d rd rs1 rs2)
  | 0x0A => some (.fcmple t d rd rs1 rs2)
  | 0x0B => some (.fclass t d rd rs1)
  | 0x10 => some (.fcvtFromSignedWord t d rd rs1)
  | 0x11 => some (.fcvtFromUnsignedWord t d rd rs1)
  | 0x12 => some (.fcvtToSignedWord t d rd rs1)
  | 0x13 => some (.fcvtToUnsignedWord t d rd rs1)
  | 0x14 => some (.fcvtBetweenFormats t d rd rs1)
  | _ => none

/-- Send, channel put and event set (07 R204). CLREV meets no SETEV as far as its word says. -/
def decodeSend (t : Tid) (w : Word) (rd rs1 rs2 : GReg) : Option Instr :=
  match wSub w with
  | 0 => some (.send t rs1 rs2 (wDsel w))
  | 1 => some (.sendx t rs1 rs2)
  | 2 => some (.sendt t rd rs1 rs2 (wDsel w))
  | 3 => some (.sendc t rs1 rs2 (wDsel w))
  | 4 => some (.cput t rs1 rs2 (wDsel w))
  | 5 => some (.cend t rs1 rs2 (wDsel w))
  | 6 => some (.setev t rs1 (wDsel w))
  | _ => some (.clrev t rs1 0)

/-- Receive, wait, sleep and end (07 R204). -/
def decodeWait (t : Tid) (w : Word) (rd rs1 : GReg) : Option Instr :=
  match wSub w with
  | 0 => some (.recv t rd rs1 (wDsel w))
  | 1 => some (.tryrecv t rd rs1 (wDsel w))
  | 2 => some (.waitevAny t rd rs1)
  | 3 => some (.waitevAll t rd rs1)
  | 4 => some (.sleep t rs1 (wDsel w))
  | 5 => some (.yield t)
  | 6 => some (.endWork t)
  | _ => none

/-- The decimal unit: `p` is fn[4] (07 R203). -/
def decodeDecimal (t : Tid) (w : Word) (rd rs1 rs2 : GReg) : Option Instr :=
  let p := w.getLsbD 4
  match wFn w % 16 with
  | 0 => some (.dadd t p rd rs1 rs2)
  | 1 => some (.dsub t p rd rs1 rs2)
  | 2 => some (.dadj t p rd rs1)
  | 3 => some (.dmuls t p rd rs1 rs2)
  | 4 => some (.dshl t p rd rs1 rs2)
  | 5 => some (.dshr t p rd rs1 rs2)
  | 6 => some (.dcmp t p rd rs1 rs2)
  | 7 => some (.dround t p rd rs1 rs2)
  | 8 => some (.dtob t p rd rs1 rs2)
  | 9 => some (.btod t p rd rs1)
  | _ => none

/-- A long instruction by its major opcode (07 R199, R202). -/
def decodeLong (t : Tid) (w : Word) : Option Instr :=
  let rd := wRd w
  let rs1 := wRs1 w
  let rs2 := wRs2 w
  let imm := wImm w
  match wMaj w with
  | 0x01 => decodeInteger t w rd rs1 rs2
  | 0x02 => decodeMulDiv t w rd rs1 rs2
  | 0x03 => some (.lui t rd (wOff w))
  | 0x08 => some (.addImmediate t rd rs1 imm)
  | 0x09 => some (.andImmediate t rd rs1 imm)
  | 0x0A => some (.orImmediate t rd rs1 imm)
  | 0x0B => some (.xorImmediate t rd rs1 imm)
  | 0x0C => some (.sllImmediate t rd rs1 imm)
  | 0x0D => some (.srlImmediate t rd rs1 imm)
  | 0x0E => some (.sraImmediate t rd rs1 imm)
  | 0x0F => some (.cmpeqImmediate t rd rs1 imm)
  | 0x10 => some (.cmpneImmediate t rd rs1 imm)
  | 0x11 => some (.cmpltImmediate t rd rs1 imm)
  | 0x12 => some (.cmpltuImmediate t rd rs1 imm)
  | 0x18 => some (.lb t rd rs1 imm)
  | 0x19 => some (.lbu t rd rs1 imm)
  | 0x1A => some (.lh t rd rs1 imm)
  | 0x1B => some (.lhu t rd rs1 imm)
  | 0x1C => some (.lw t rd rs1 imm)
  | 0x1D => some (.ldp t rd rs1 imm)
  | 0x1E => some (.sb t rd rs1 imm)
  | 0x1F => some (.sh t rd rs1 imm)
  | 0x20 => some (.sw t rd rs1 imm)
  | 0x21 => some (.sdp t rd rs1 imm)
  | 0x22 => decodeSplit t w rd rs1 rs2
  | 0x24 => decodeFloat t w false rd rs1 rs2
  | 0x25 => decodeFloat t w true rd rs1 rs2
  | 0x28 => some (.bz t rd (wOff w))
  | 0x29 => some (.bnz t rd (wOff w))
  | 0x2A => some (.jump t (wOff w))
  | 0x2B => some (.jl t rd (wOff w))
  | 0x2C => some (.jr t rd rs1)
  | 0x2D => some (.repI t rs1)
  | 0x2E => some (.repN t imm)
  | 0x30 => decodeSend t w rd rs1 rs2
  | 0x31 => decodeWait t w rd rs1
  | 0x32 => match wFn w with
    | 0 => some (.nop t)
    | 1 => some (.trap t rd rs1 rs2)
    | 2 => some (.brk t)
    | _ => none
  | 0x33 => some (.mfsr t rd imm)
  | 0x34 => some (.mtsr t rs1 imm)
  | 0x38 => decodeDecimal t w rd rs1 rs2
  | 0x39 => match wFn w with
    | 0 => some (.tli1 t rd rs1 rs2)
    | 1 => some (.tli2 t rd rs1 rs2)
    | _ => none
  | m => if 0x3C ≤ m then some (.extensionTrap t (bits w 25 2) (bits w 0 25)) else none

/-- The command of an instruction word that a thread issues (07 R199-R206): fields a command does not use are dropped here,
and found by the check of reserved fields. A word that is not defined has none: it is an undefined encoding, as is a state number
in 0x015 to 0x03F (07 R206). -/
def decodeWord (t : Tid) (w : Word) : Option Instr :=
  if isPaired w then (if wordDefined w then some (.pairedWord t (bits w 0 31)) else none)
  else if longDefined w then decodeLong t w
  else none

end Sys2Proof.Machine

namespace Sys2Proof

/-- The command that `nbits` bits `w` spell by the table: none, since no row of the table gives bits. The words that the
commands of instructions stand for are decoded by Machine.decodeWord. -/
def decodeTableWord (_nbits _w : Nat) : Option Instr := none

end Sys2Proof
end

