-- ==== Sys2Proof/Machine/Windows.lean ====
section
/-! DEFINITION. Addresses and their homes, windows, and the word a thread fetches: the code store, the thread that issues
next at its PE, and the bank that a near access would use (04 R116, R117, 07 R208, R224, 10 R290-R296, R301, 11 R315). -/

namespace Sys2Proof.Machine

/-! ## Addresses (10 R290, R291, R301, 11 R315) -/

/-- First address of the lock words. -/
def lockBase : Nat := 0xF000000000
/-- First address of the matching spill area (03 R85, 10 R291). -/
def spillBase : Nat := 0x380000000
/-- End of HBM. -/
def hbmEnd : Nat := 0x400000000

/-- Is the address in HBM? -/
def inHbm (a : Nat) : Bool := a < hbmEnd
/-- Is the address in the lock unit? -/
def inLocks (a : Nat) : Bool := lockBase ≤ a && a < lockBase + 0x8000
/-- Is the address in the matching spill area (10 R291)? -/
def inSpill (a : Nat) : Bool := spillBase ≤ a && a < spillBase + 0x40000000
/-- Is the address in the range of the device registers? -/
def inRegs (a : Nat) : Bool := 0x8000000000 ≤ a && a < lockBase
/-- The pseudo-channel of an HBM address (10 R301). -/
def pcOf (pa : BitVec 40) : BitVec 4 := bits pa 8 4 ^^^ bits pa 16 4 ^^^ bits pa 24 4
/-- Router and endpoint of a pseudo-channel. -/
def pcHome (p : BitVec 4) : BitVec 4 × BitVec 4 :=
  let n := p.toNat
  (BitVec.ofNat 4 (if n < 8 then n / 2 else 12 + (n - 8) / 2), BitVec.ofNat 4 (4 + n % 2))

/-- Router and endpoint of the home of an address; none where nothing is there. -/
def homeOf (pa : BitVec 40) : Option (BitVec 4 × BitVec 4) :=
  let a := pa.toNat
  if inHbm a then some (pcHome (pcOf pa))
  else if inBanks a then
    let c := bankCluster (bankOf a)
    some (clusterRouter c, clusterEp c)
  else if inLocks a then some (4, 7)
  else none

/-- Word of the lock unit at an address. -/
def lockOf (a : Nat) : BitVec 12 := BitVec.ofNat 12 ((a - lockBase) / 8)
/-- A lock word. -/
def State.lockWord (s : State) (n : BitVec 12) : DWord := s.locks.words.getD n.toNat 0

/-! ## The spill area as memory (03 R75, R85, 10 R302) -/

/-- A slot of the spill region as 16 bytes; the bits of an EMPTY or TOMB slot below its state are zero (DESIGN CHOICE, log
135). -/
def SpillSlot.word : SpillSlot → BitVec 128
  | .empty => 0
  | .full e a => (1 : BitVec 2) ++ (0 : BitVec 1) ++ (bit a : BitVec 1) ++ e.rslot ++ (bit e.poison : BitVec 1) ++ e.port ++ e.ctx ++ e.node ++ e.inst ++ e.value
  | .tomb => (2 : BitVec 2) ++ (0 : BitVec 126)

/-- The slot that 16 bytes spell. -/
def slotOfWord (w : BitVec 128) (rank : Nat) : SpillSlot :=
  match (bits w 126 2 : BitVec 2).toNat with
  | 0 => .empty
  | 1 => .full { value := bits w 0 64, inst := bits w 64 16, node := bits w 80 20, ctx := bits w 100 13, port := bits w 113 2,
                 poison := w.getLsbD 115, rslot := bits w 116 8, rank := rank } (w.getLsbD 124)
  | _ => .tomb

/-- Cluster and number of the spill slot at an address. -/
def spillPlace (a : Nat) : ClusterId × Nat :=
  (BitVec.ofNat 6 ((a - spillBase) / 0x1000000), (a - spillBase) % 0x1000000 / 16)

/-- The 16 bytes of the spill slot at an address. -/
def State.spillWord (s : State) (a : Nat) : BitVec 128 :=
  ((s.cluster (spillPlace a).1).spill.getD (spillPlace a).2 .empty).word

/-- A bit for each bit of the bytes that `be` enables. -/
def byteMask (be : BitVec 16) : BitVec 128 :=
  (List.range 16).foldl (fun m i => if be.getLsbD i then putBits m (8 * i) (255 : Byte) else m) 0

/-- The enabled bytes of `v` are stored to a spill slot from address `a`. -/
def State.spillStore (s : State) (a : Nat) (be : BitVec 16) (v : BitVec 128) : State :=
  let m := byteMask be <<< (8 * (a % 16))
  let w := (s.spillWord a &&& ~~~m) ||| ((v <<< (8 * (a % 16))) &&& m)
  s.takeFree.updCluster (spillPlace a).1 fun cl => { cl with spill := cl.spill.set (spillPlace a).2 (slotOfWord w s.free) }

/-- `n` bytes at an address of HBM or of a bank: the spill area reads as its slots. -/
def State.load (s : State) (a n : Nat) : Nat :=
  if inSpill a && decide (n ≤ 16) then (s.spillWord a).toNat / 2 ^ (8 * (a % 16)) % 2 ^ (8 * n) else s.rd a n

/-- `n` bytes of `v` are stored at an address of HBM or of a bank. -/
def State.store (s : State) (a n v : Nat) : State :=
  if inSpill a then s.spillStore a (BitVec.ofNat 16 (2 ^ n - 1)) (BitVec.ofNat 128 v) else s.wr a n v

/-- A steward stores to a lock word: the unit writes HELD, ABANDONED, KIND and ID itself, so the enabled bytes of PAYLOAD change
(10 R306, R307, log 33). -/
def State.lockStore (s : State) (a n : Nat) (v : DWord) : State :=
  let m : DWord := (BitVec.setWidth 64 (byteMask (BitVec.ofNat 16 (2 ^ n - 1))) <<< (8 * (a % 8))) &&& 0xFFFFFFFFFFFF
  let w := (s.lockWord (lockOf a) &&& ~~~m) ||| ((v <<< (8 * (a % 8))) &&& m)
  { s with locks := { s.locks with words := s.locks.words.set (lockOf a).toNat w } }

/-! ## Windows (07 R224, 10 R292) -/

/-- BASE of a window entry. -/
def WinEntry.base (e : WinEntry) : Nat := (bits e.raw 0 40).toNat
/-- LENGTH of a window entry. -/
def WinEntry.len (e : WinEntry) : Nat := (bits e.raw 64 29).toNat
/-- VALID of a window entry that is well formed. -/
def WinEntry.valid (e : WinEntry) : Bool := e.ok && e.raw.getLsbD 48
/-- R of a window entry. -/
def WinEntry.r (e : WinEntry) : Bool := e.raw.getLsbD 49
/-- W of a window entry. -/
def WinEntry.w (e : WinEntry) : Bool := e.raw.getLsbD 50
/-- A of a window entry. -/
def WinEntry.a (e : WinEntry) : Bool := e.raw.getLsbD 52

/-- Is a window entry well formed (10 R292)? -/
def winWellFormed (raw : BitVec 128) : Bool :=
  let b := (bits raw 0 40).toNat
  let l := (bits raw 64 29).toNat
  let last := b + l - 1
  b % 0x10000 == 0 && bits raw 40 8 == (0 : BitVec 8) && bits raw 53 11 == (0 : BitVec 11) &&
    bits raw 93 35 == (0 : BitVec 35) && l % 8 == 0 && 8 ≤ l && l ≤ 0x10000000 &&
    (last < 0x380000000 || (inBanks b && inBanks last) || (inLocks b && inLocks last && !raw.getLsbD 50))

/-- The number of a window in a cluster's cache. -/
def winKey (x : CtxId) (w : BitVec 6) : Nat := 64 * x.toNat + w.toNat

/-- An entry of a window cache. -/
def winFind (l : List (Nat × WinEntry)) (k : Nat) : Option WinEntry := (l.find? fun e => e.1 == k).map (·.2)

/-- The set of a window (10 R293, log 126). -/
def winSet (k : Nat) : Nat := k % 64

/-- Load an entry into its set of 4 ways, in place of the one loaded longest ago where none is free (log 126). -/
def winAdd (l : List (Nat × WinEntry)) (k : Nat) (e : WinEntry) : List (Nat × WinEntry) :=
  let l := l.filter fun w => w.1 != k
  let ws := l.filter fun w => winSet w.1 == winSet k
  (k, e) :: (if ws.length < 4 then l else
    match ws.getLast? with
    | some o => l.filter fun w => w.1 != o.1
    | none => l)

/-- Does the access `n` bytes at `a` touch a word with an uncorrected error? -/
def State.badRange (s : State) (a n : Nat) : Bool := s.uecc.any fun w => a / 8 ≤ w && decide (w ≤ (a + n - 1) / 8)

/-- A window entry as its cluster reads it from the context's window table. -/
def State.readWin (s : State) (x : CtxId) (w : BitVec 6) : WinEntry :=
  let a := (s.ctx x).wtp.toNat + 16 * w.toNat
  let raw := BitVec.ofNat 128 (s.rd a 16)
  { raw := raw, ok := winWellFormed raw && !s.badRange a 16 }

/-- The entry of a window of context `x` in the cache of cluster `c`. -/
def State.winEntry (s : State) (c : ClusterId) (x : CtxId) (w : BitVec 6) : Option WinEntry :=
  winFind (s.cluster c).wcache (winKey x w)

/-- The window number that an effective address selects through BNK, read at issue (07 R224, R227). -/
def Thread.window (th : Thread) (n : Nat) (ea : Word) : BitVec 6 :=
  let k := (bits ea 28 4).toNat
  bits (th.early n (32 + k) (.bnk (bits ea 28 4)) (BitVec.setWidth 32 (bnkOf th.bnk k))) 0 6

/-! ## Fetching (07 R208) -/

/-- The word at a thread's PC in the code store of its cluster; none where the store holds no code of the thread's context
there (07 R208). -/
def State.fetch (s : State) (t : Tid) : Option Word :=
  match (s.cluster (tCluster t)).code.find ((s.thread t).pc.toNat / 4) with
  | some w => if w.ctx = s.threadCtx t then some w.word else none
  | none => none

/-- What the fetch of a thread that is to issue the command of word `w` brings. -/
inductive Fetched where
  /-- The word itself, with whatever its reserved fields hold. -/
  | word (w : Word)
  /-- A word of another command. -/
  | other
  /-- No code of the context. -/
  | nothing
  deriving DecidableEq, Repr

/-- Fetch for the command of word `w`. Code of the stewards is not held (log 120). -/
def State.fetched (s : State) (t : Tid) (w : Word) : Fetched :=
  if isSteward t then .word w
  else match s.fetch t with
    | none => .nothing
    | some f => if f == w || ((decodeWord t f).isSome && decodeWord t f == decodeWord t w) then .word f else .other

/-- Bytes of a near access by its major opcode (08 R239), and whether it stores. -/
def nearSize (m : Nat) : Nat :=
  match m with
  | 0x18 | 0x19 | 0x1E => 1
  | 0x1A | 0x1B | 0x1F => 2
  | 0x1D | 0x21 => 8
  | _ => 4

/-- The address of the near access that a word presents at clock `k` (10 R296): none where it is no near access, or one that is
misaligned or that its window refuses. -/
def State.nearPa (s : State) (t : Tid) (w : Word) (k : Nat) : Option Nat :=
  let m := wMaj w
  if isSteward t || isPaired w || !(0x18 ≤ m && m ≤ 0x21) then none
  else
    let th := (s.thread t).landTo k
    let ea := th.read s.free (wRs1 w) + (wImm w).signExtend 32
    match s.winEntry (tCluster t) (s.threadCtx t) (th.window s.free ea) with
    | none => none
    | some e =>
      let off := (bits ea 0 28).toNat
      let pa := e.base + off
      let right := if 0x1E ≤ m then e.w else e.r
      if e.valid && right && decide (off < e.len) && decide (off % nearSize m = 0) && inBanks pa && bankCluster (bankOf pa) == tCluster t then some pa else none

/-- The bank of that access. -/
def State.nearBank (s : State) (t : Tid) (w : Word) (k : Nat) : Option Byte := (s.nearPa t w k).map bankOf

end Sys2Proof.Machine
end

