-- ==== Sys2Proof/Machine/Threads.lean ====
section
/-! DEFINITION. How a thread issues a word: readiness, the clock of the issue, the checks of 07 R207, what follows a
word that completes, waits, and taking a fault (04 R116, R117, R134-R137, 07 R201, R206-R223). -/

namespace Sys2Proof.Machine

/-- How the body of a word ends: it completes, it faults before any effect, or its thread goes on by itself (it waits,
it has been freed, or the word has set its own next PC). -/
inductive Eff where
  | ok (s : State)
  | fault (s : State) (cause : Byte)
  | stay (s : State)

/-- What a body reads of its issue: the number of its free choice, the clock, and the context. -/
structure Iss where
  n : Nat
  k : Nat
  x : CtxId

/-! ## Waits and wakes -/

/-- The descriptor of a thread's task. -/
def State.taskOf (s : State) (t : Tid) : Option (BitVec 10) :=
  match (s.thread t).work with
  | some (.task d) => some d
  | _ => none

/-- ACT of the context of a thread's work increments (06 R182). -/
def State.actOf (s : State) (t : Tid) : State := if isSteward t then s else s.act (tCluster t) (s.threadCtx t)

/-- Change the descriptor of a thread's task. -/
def State.updTaskOf (s : State) (t : Tid) (f : Task → Task) : State :=
  match s.taskOf t with
  | some d => s.updTask (tCluster t) d f
  | none => s

/-- The thread waits; no task state changes. -/
def State.hold (s : State) (t : Tid) (w : Wait) : State := s.updThread t fun th => { th with wait := w }

/-- A task that is cancelled goes to DORMANT; its partial message is torn (04 R124, R130). -/
def State.cancelRunning (s : State) (t : Tid) : State :=
  match s.taskOf t with
  | some d => s.endTask t d
  | none => (s.tearOutbox t).stopWork t .ended

/-- Does the thread hold a task with a cancel pending? -/
def State.cancelPending (s : State) (t : Tid) : Bool :=
  match s.taskOf t with
  | some d => ((s.cluster (tCluster t)).task d).cancelp
  | none => false

/-- Is the wait one in which a position move does not stop the task (04 R120, 16 R446): WAITLD or an extension trap? -/
def Wait.long : Wait → Bool
  | .waitld => true
  | .trap _ => true
  | .splitSlot _ _ => true
  | .fence => true
  | _ => false

/-- May a stop take effect where the thread stands: not between a branch and its delay slot (07 R218), nor inside a REP.N
repetition (07 R220)? -/
def Thread.mayStop (th : Thread) : Bool := th.delay.isNone && (match th.rep with | some r => r.interruptible | none => true)

/-- A debug stop or a position move that was asked for takes effect, at a word boundary or in a wait (04 R108, R122,
16 R446): a task is STOPPED with PREV recorded and its registers are saved, with the wait pending; an activation keeps its
thread. An extension trap is being issued until its words have left (log 121), and a position move waits for the end of a
WAITLD or trap. -/
def State.stopReq (s : State) (t : Tid) : State :=
  let th := s.thread t
  if th.trapUnsent then s
  else if th.dbgReq then
    let s := s.updThread t fun th => { th with dbgReq := false }
    match s.taskOf t with
    | some d =>
      (s.updTask (tCluster t) d fun k => { k with state := STOPPEDT, prev := k.state }).stopWork t .stopped
    | none => s.updThread t fun th => { th with dbgStopped := true }
  else if th.moveReq && !th.wait.long then
    (s.updThread t fun th => { th with moveReq := false }).stopWork t .moved
  else s

/-- The work blocks: a task becomes BLOCKED with WAIT `code`, or goes to DORMANT where a cancel is pending (04 R120,
R124). A wait is a place to stop (04 R122), but for one in a delay slot or in a REP.N repetition, which ends first. -/
def State.block (s : State) (t : Tid) (w : Wait) (code : BitVec 3) (ch : BitVec 3 := 0) (mask : Word := 0) : State :=
  if s.cancelPending t then s.cancelRunning t
  else
    let k := s.threadClock t
    let s := ((s.updThread t fun th => { th with wait := w, blockedAt := k }).updTaskOf t fun d =>
      { d with state := BLOCKED, wait := code, wch := ch, evmask := mask }).actOf t
    if (s.thread t).mayStop then s.stopReq t else s

/-- Is the wait one that blocks its work (04 R120, R125)? -/
def Wait.blocks : Wait → Bool
  | .recv _ => true
  | .event _ _ => true
  | w => w.long

/-- The wait is satisfied: the thread waits no more and a BLOCKED task is RUNNING (04 R120); a wake counts in ACT (06 R182). -/
def State.wake (s : State) (t : Tid) : State :=
  let blocked := (s.thread t).wait.blocks
  let s := (s.hold t .none).updTaskOf t fun d => { d with state := RUNNINGT, wait := 0 }
  if blocked then s.actOf t else s

/-! ## After a word -/

/-- At a word boundary, which a branch and its delay slot do not have between them (07 R218), stops take effect. -/
def State.boundary (s : State) (t : Tid) : State := if (s.thread t).delay.isSome then s else s.stopReq t

/-- The word has completed: a repetition counts (07 R219), a delay slot leads to its target (07 R217), and otherwise the
next word follows. -/
def State.retire (s : State) (t : Tid) : State :=
  let th := s.thread t
  match th.rep with
  | some r =>
    if th.repc ≤ 1 then
      (s.updThread t fun th => { th with repc := 0, rep := none, pc := th.pc + 4 }).boundary t
    else
      let s := s.updThread t fun th => { th with repc := th.repc - 1, rep := some { r with begun := true } }
      if r.interruptible then s.boundary t else s
  | none =>
    match th.delay with
    | some a => (s.updThread t fun th => { th with pc := a, delay := none }).boundary t
    | none => (s.updThread t fun th => { th with pc := th.pc + 4 }).boundary t

/-- The wait of a thread is satisfied and its word completes. -/
def State.finish (s : State) (t : Tid) : State := (s.wake t).retire t

/-! ## Faults (04 R134-R137, 07 R196, R218, R221) -/

/-- TST with the cause of a fault and where it was taken. -/
def Thread.faultTst (th : Thread) (cause : Byte) (inB : Bool) : Word :=
  (th.tst &&& 0x300) ||| BitVec.setWidth 32 cause ||| ((bit th.delay.isSome : Word) <<< 10) |||
    ((bit th.rep.isSome : Word) <<< 11) ||| ((bit inB : Word) <<< 12)

/-- The four words of a fault record (04 R135). -/
def recordWords (cause : Byte) (task : Bool) (t : Tid) (x : CtxId) (inst : BitVec 16) (pc w : Word) (obj : BitVec 20)
    (tst : Word) (tb : DWord) : List DWord :=
  [(0 : BitVec 14) ++ inst ++ x ++ tTh t ++ tPe t ++ tCluster t ++ (bit task : BitVec 1) ++ cause,
   w ++ pc, tst ++ (0 : BitVec 12) ++ obj, tb]

/-- The words of the fault record of a thread. -/
def State.recordOf (s : State) (t : Tid) (cause : Byte) : List DWord :=
  let th := s.thread t
  let x := s.threadCtx t
  match th.work with
  | some (.task d) =>
    recordWords cause true t x 0 th.pc th.cur (BitVec.setWidth 20 ((s.cluster (tCluster t)).task d).task) th.tstFull s.tb.now
  | some (.activation a) => recordWords cause false t x a.inst th.pc th.cur a.node th.tstFull s.tb.now
  | none => recordWords cause false t x 0 th.pc th.cur 0 th.tstFull s.tb.now

/-- A faulted thread leaves its work: a task's registers are saved, an activation's thread is freed. -/
def State.leaveFaulted (s : State) (t : Tid) : State :=
  match s.taskOf t with
  | some _ => s.stopWork t .faulted
  | none => s.stopWork t .ended

/-- A fault is counted in the context entry (04 R134). -/
def State.countFault (s : State) (x : CtxId) (cause : Byte) : State :=
  s.updCtx x fun e => { e with lastfault := cause, faultcnt := satInc e.faultcnt }

/-- The thread faults with a cause at its PC (04 R134-R137). -/
def State.takeFault (s : State) (t : Tid) (cause : Byte) (inB : Bool := false) : State :=
  let s := s.updThread t fun th => { th with tst := th.faultTst cause inB, dbgReq := false, moveReq := false }
  if isSteward t then s.hold t .faulted
  else
    let x := s.threadCtx t
    let c := tCluster t
    let r : FaultRec := { words := s.recordOf t cause, ctx := x, id := s.free }
    let s := ((s.takeFree.tearOutbox t).countFault x cause).updTaskOf t fun d =>
      { d with state := FAULTED, wait := 0, cancelp := false }
    let s := if (s.cluster c).faults.length < 64
      then (s.updCluster c fun cl => { cl with faults := cl.faults ++ [r] }).leaveFaulted t
      else s.updThread t fun th => { th with heldRec := some r, wait := .faulted }
    if (s.ctx x).fof then s.fence x cause else s

/-! ## Issue (04 R115-R117, 07 R201, R207, R212, R223) -/

/-- Does the thread hold work that may run? -/
def State.workRuns (s : State) (t : Tid) : Bool :=
  if isSteward t then !s.fw.held
  else (s.thread t).work.isSome &&
    let st := (s.ctx (s.threadCtx t)).state
    st == RUNNING || st == QUIESCING || st == UPDATING

/-- Is the thread ready to issue but for its instruction cache? -/
def State.ready (s : State) (t : Tid) : Bool :=
  let th := s.thread t
  s.workRuns t && th.wait == .none && !th.dbgStopped

/-- Is the line of the thread's PC in its PE's instruction cache (04 R115)? Steward fetches are not modelled as cached. -/
def State.lineIn (s : State) (t : Tid) : Bool :=
  isSteward t || ((s.cluster (tCluster t)).pe (tPe t)).icache.contains ((s.thread t).pc.toNat / 64)

/-- fc for which MUL and MULHU hold the multiplier (07 R212). -/
def mulBusy (v : Word) : Nat :=
  if v.toNat ≥ 0x1000000 then 4 else if v.toNat ≥ 0x10000 then 3 else if v.toNat ≥ 0x100 then 2 else 1

/-- The shared iterative units (07 R212). -/
inductive IterUnit where
  | mul | div | fdiv | dec | interp
  deriving DecidableEq, Repr

/-- The unit a word needs, and for how long it holds it, with the value of rs2. -/
def unitOf (w : Word) (v : Word) : Option (IterUnit × Nat) :=
  if isPaired w then none
  else
    let fn := wFn w
    match wMaj w with
    | 0x02 => if fn = 1 then some (.mul, 4) else if fn ≤ 2 then some (.mul, mulBusy v) else some (.div, 16)
    | 0x24 => if fn = 4 then some (.fdiv, 10) else if fn = 5 then some (.fdiv, 12) else none
    | 0x25 => if fn = 4 then some (.fdiv, 20) else if fn = 5 then some (.fdiv, 24) else none
    | 0x38 => some (.dec, if fn % 16 = 3 then 4 else 1)
    | 0x39 => some (.interp, if fn = 0 then 4 else 8)
    | _ => none

/-- The clock from which a unit is free. -/
def State.unitFree (s : State) (t : Tid) (u : IterUnit) : Nat :=
  let cl := s.cluster (tCluster t)
  let p := cl.pe (tPe t)
  match u with
  | .mul => p.mulBusy
  | .div => p.divBusy
  | .fdiv => p.fdivBusy
  | .dec => cl.decBusy
  | .interp => cl.interpBusy

/-- The unit is held until clock `k`. -/
def State.unitHold (s : State) (t : Tid) (u : IterUnit) (k : Nat) : State :=
  match u with
  | .mul => s.updPe (tCluster t) (tPe t) fun p => { p with mulBusy := k }
  | .div => s.updPe (tCluster t) (tPe t) fun p => { p with divBusy := k }
  | .fdiv => s.updPe (tCluster t) (tPe t) fun p => { p with fdivBusy := k }
  | .dec => s.updCluster (tCluster t) fun cl => { cl with decBusy := k }
  | .interp => s.updCluster (tCluster t) fun cl => { cl with interpBusy := k }

/-- The clock at which the thread issues the word: its PE issues once per fc, iterations stand S apart, and a busy unit
delays the thread as a whole. -/
def State.issueClock (s : State) (t : Tid) (w : Word) : Nat :=
  let th := s.thread t
  let next := match th.rep with
    | some r => th.lastIssue + (if r.begun then max 1 (wordDistance w) else 1)
    | none => th.lastIssue + 1
  if isSteward t then max s.scnt next
  else
    let k := max (max (s.fc (tCluster t)) (((s.cluster (tCluster t)).pe (tPe t)).clock + 1)) (max next th.notBefore)
    match unitOf w 0 with
    | none => k
    | some (u, _) => max k (s.unitFree t u)

/-- The issue is noted: results due by then have landed, the PE's clock and counter move on. -/
def State.noteIssue (s : State) (t : Tid) (w : Word) (k : Nat) : State :=
  let s := s.updThread t fun th => { th.landTo k with cur := w, lastIssue := k }
  if isSteward t then s
  else s.updPe (tCluster t) (tPe t) fun p => { p with clock := k, lastThread := tTh t, busy := satInc p.busy }

/-- Checks 1 to 7 of 07 R207: the fault and whether slot B holds it. -/
def State.wordFault (s : State) (t : Tid) (w : Word) : Option (Byte × Bool) :=
  let th := s.thread t
  if ¬ wordDefined w then some (ILLEGAL_OP, undefinedInB w)
  else if wordReserved w then some (RESERVED_FIELD, reservedInB w)
  else if isSteward t then (if stewardExcluded w then some (ILLEGAL_OP, false) else
    if th.delay.isSome then (delayIllegal w).map (·, false) else none)
  else if wordSystemReg w then some (PRIVILEGED, false)
  else if classIllegal (s.ctx (s.threadCtx t)).cls w then some (CLASS_VIOLATION, false)
  else if workIllegal (s.taskOf t).isSome w then some (ILLEGAL_OP, false)
  else if th.delay.isSome then (delayIllegal w).map (·, false)
  else none

/-- Does the word read a register whose parity is wrong (16 R441)? -/
def Thread.badRead (th : Thread) (w : Word) : Bool := match th.regBad with | some r => (wordReads w).contains r | none => false

/-! ## Which thread issues (04 R117) -/

/-- The clock at which a thread would issue the word at its PC. -/
def State.nextClock (s : State) (t : Tid) : Nat := s.issueClock t ((s.fetch t).getD 0)

/-- Does `a` go before `b` at a PE whose thread `last` issued last: the greater age first, and at equal ages the first counted
upward, cyclically, from the thread after `last`? -/
def State.olderThread (s : State) (last : BitVec 3) (a b : Tid) : Bool :=
  let x := (s.thread a).lastIssue
  let y := (s.thread b).lastIssue
  x < y || (x == y && decide ((tTh a - last - 1).toNat < (tTh b - last - 1).toNat))

/-- The first of a list by an order. -/
def firstBy (older : Tid → Tid → Bool) : List Tid → Option Tid
  | [] => none
  | t :: r => match firstBy older r with
    | none => some t
    | some u => if older u t then some u else some t

/-- The thread that issues next at PE `p`: of the threads ready in the first fc in which one is ready, the one of greatest
age. -/
def State.winner (s : State) (c : ClusterId) (p : BitVec 3) : Option Tid :=
  let ts := ((List.range 8).map fun k => mkTid c p (BitVec.ofNat 3 k)).filter fun t => s.ready t && s.lineIn t
  match (ts.map s.nextClock).min? with
  | none => none
  | some k => firstBy (s.olderThread ((s.cluster c).pe p).lastThread) (ts.filter fun t => s.nextClock t ≤ k)

/-- Does the thread issue next at its PE? Threads of the stewards share no PE with others. -/
def State.elected (s : State) (t : Tid) : Bool := isSteward t || s.winner (tCluster t) (tPe t) == some t

/-! ## Bank conflicts (04 R116, 10 R296) -/

/-- Does port A of bank `b` take the access of `u` before that of `t`: the greater age first, and at equal ages the first PE
counted upward, cyclically, from the PE after the one it took last? -/
def State.bankBefore (s : State) (b : Byte) (u t : Tid) : Bool :=
  let x := (s.thread u).lastIssue
  let y := (s.thread t).lastIssue
  let p := (s.bank b).lastPe
  x < y || (x == y && decide ((tPe u - p - 1).toNat < (tPe t - p - 1).toNat))

/-- The bank at which a near access of thread `t` at clock `k` loses port A: to an access taken in that fc, or to one that
another PE presents in it. -/
def State.bankLost (s : State) (t : Tid) (w : Word) (k : Nat) : Option Byte :=
  match s.nearBank t w k with
  | none => none
  | some b =>
    let rival (q : Nat) : Bool := match s.winner (tCluster t) (BitVec.ofNat 3 q) with
      | some u => tPe u != tPe t && s.nextClock u == k && s.nearBank u ((s.fetch u).getD 0) k == some b && s.bankBefore b u t
      | none => false
    if (s.bank b).taken == some k || (List.range 8).any rival then some b else none

/-- The thread is delayed as a whole by 1 fc and presents again; its PE's wait at the bank counts. -/
def State.bankDelay (s : State) (t : Tid) (b : Byte) (k : Nat) : State :=
  (s.updThread t fun th => { th with notBefore := k + 1 }).updBank b fun x => { x with cntWait := x.cntWait.upd (tPe t).toNat 0 satInc }

/-- A repeated word that must not be repeated faults at the REP word, before any iteration (07 R222). -/
def State.repFault (s : State) (t : Tid) (r : Repeat) : State :=
  (s.updThread t fun th => { th with pc := th.pc - 4, cur := r.word, repc := r.old, rep := none }).takeFault t REP_ILLEGAL

/-- The effect of a body on the machine. -/
def Eff.toState (t : Tid) : Eff → State
  | .ok s => s.retire t
  | .fault s c => s.takeFault t c
  | .stay s => s

/-- Thread `t` issues word `w` at clock `k`, and its operation `body` follows the checks of 07 R207. -/
def State.issueWord (s : State) (t : Tid) (w : Word) (k : Nat) (body : State → Iss → Eff) : State :=
  let n := s.free
  let s := s.takeFree.noteIssue t w k
  match (s.thread t).rep.filter (fun r => !r.begun && repeatIllegal w) with
  | some r => s.repFault t r
  | none =>
    match s.wordFault t w with
    | some (c, b) => s.takeFault t c b
    | none =>
      if (s.thread t).badRead w then (s.countUe (tCluster t)).takeFault t ECC_UNCORRECTED
      else
      let s := match unitOf w ((s.thread t).read n (wRs2 w)) with
        | some (u, d) => if isSteward t then s else s.unitHold t u (k + d)
        | none => s
      (body s { n := n, k := k, x := s.threadCtx t }).toState t

/-- A fetch from an offset that holds no code of the context faults with ILLEGAL_OP; what stands for the word is open (07
R208). -/
def State.noCode (s : State) (t : Tid) : State :=
  (s.takeFree.noteIssue t (bits (Config.freeValue s.free) 0 32) (s.issueClock t 0)).takeFault t ILLEGAL_OP

/-- Thread `t` issues its next word, where that is one of the command of `w`, whose operation is `body`. A thread that is not
ready does not issue, one whose line is not in the instruction cache waits for it, and one that is not the oldest ready at its
PE waits for its turn; a near access that loses its bank is delayed by 1 fc. -/
def issue (t : Tid) (w : Word) (body : State → Iss → Eff) (s : State) : Out :=
  if ¬ t.wf then .fault .noSuchObject
  else if ¬ s.ready t then .next s
  else if ¬ s.lineIn t then .next (s.hold t .icache)
  else if ¬ s.elected t then .next s
  else
    match s.fetched t w with
    | .other => .next s
    | .nothing => .next (s.noCode t)
    | .word f =>
      match s.bankLost t f (s.issueClock t f) with
      | some b => .next (s.bankDelay t b (s.issueClock t f))
      | none => .next (s.issueWord t f (s.issueClock t f) body)

/-! ## Bodies that only write registers -/

/-- A word that writes one register at its distance. -/
def writes (t : Tid) (rd : GReg) (d : Nat) (f : Thread → Nat → Word) (s : State) (i : Iss) : Eff :=
  let v := f (s.thread t) i.n
  .ok (s.updThread t fun th => th.write i.n (some (i.k + d)) rd v)

/-- A word that writes a pair at its distance. -/
def writesPair (t : Tid) (rd : GReg) (d : Nat) (f : Thread → Nat → DWord) (s : State) (i : Iss) : Eff :=
  let v := f (s.thread t) i.n
  .ok (s.updThread t fun th => th.writePair i.n (some (i.k + d)) rd v)

end Sys2Proof.Machine
end

