-- ==== Sys2Proof/Machine/Census.lean ====
section
/-! DEFINITION. The counts that CD_RES, MS_RES and DL_RES report of a context at a cluster (03 R81, 05 R153, 06 R182). -/

namespace Sys2Proof.Machine

/-- Threads of a context at a cluster that wait on reel credits or a full park (06 R182 STALL). -/
def State.stalled (s : State) (c : ClusterId) (x : CtxId) : Nat :=
  s.threads.countP fun (k, th) =>
    let t : Tid := BitVec.ofNat 13 k
    !isSteward t && tCluster t == c && th.work.isSome && s.threadCtx t == x &&
      match th.wait with | .reel _ => true | .park _ => true | _ => false

/-- The descriptors of a context at a cluster. -/
def Cluster.tasksOf (cl : Cluster) (x : CtxId) : List (BitVec 10) :=
  (cl.tasks.filter fun e => e.2.ctx == x).map fun e => BitVec.ofNat 10 e.1

/-- Work items of a cluster outside its threads: hold registers, prefetch slots and ready lists. -/
def Cluster.items (cl : Cluster) : List Item :=
  (cl.pes.filterMap fun e => e.2.slot.map (·.item)) ++ (cl.holds.map (·.item)) ++ cl.ready

/-- READY of CD_RES: activations in the ready queue, hold registers and slots, and READY tasks. -/
def State.cdReady (s : State) (c : ClusterId) (x : CtxId) : Nat :=
  let cl := s.cluster c
  (cl.items.countP fun i => i.work.isActOf x) + cl.tasks.countV fun _ k => k.ctx == x && k.state == READY

/-- Threads of a cluster that hold work of a context. -/
def State.threadsAt (s : State) (c : ClusterId) (x : CtxId) : List Tid := (s.threadsOf x).filter fun t => tCluster t == c

/-- Does a task wait in a place that BLOCKED of CD_RES counts? -/
def Task.blockedWait (k : Task) : Bool :=
  k.state == BLOCKED && (k.wait == 1 || k.wait == 2 || k.wait == 3 || k.wait == 5)

/-- Is the thread one that RUN leaves to BLOCKED? -/
def State.restsBlocked (s : State) (t : Tid) : Bool :=
  match (s.thread t).wait with
  | .saving _ => false
  | .trap _ => true
  | _ =>
    match s.taskOf t with
    | some d => ((s.cluster (tCluster t)).task d).blockedWait
    | none => false

/-- RUN of CD_RES. -/
def State.cdRun (s : State) (c : ClusterId) (x : CtxId) : Nat := (s.threadsAt c x).countP fun t => !s.restsBlocked t

/-- BLOCKED of CD_RES: blocked tasks, resident or not, and activations that wait on an extension trap. -/
def State.cdBlocked (s : State) (c : ClusterId) (x : CtxId) : Nat :=
  ((s.cluster c).tasks.countV fun _ k => k.ctx == x && k.blockedWait) +
    (s.threadsAt c x).countP fun t => (s.taskOf t).isNone && match (s.thread t).wait with | .trap _ => true | _ => false

/-- DBG of CD_RES: some work of the context here is debug-stopped. -/
def State.cdDbg (s : State) (c : ClusterId) (x : CtxId) : Bool :=
  ((s.threadsAt c x).any fun t => (s.thread t).dbgStopped) || (s.cluster c).tasks.anyV fun _ k => k.ctx == x && k.state == STOPPEDT

/-- CD_RES_ACT of a context at a cluster. -/
def State.cdAct (s : State) (c : ClusterId) (x : CtxId) : Word :=
  let cl := s.cluster c
  match cl.slotOf x with
  | some n => (cl.cdRes.getD n {}).act
  | none => 0

/-- CD_RES[n] as a read sees it. STALL counts modulo 16 (DESIGN CHOICE, log 139). -/
def State.cdResWord (s : State) (c : ClusterId) (n : Nat) : DWord :=
  let r := (s.cluster c).cdRes.getD n {}
  let y (k : Nat) : Nat := if r.valid then k else 0
  (bit (r.valid && s.cdDbg c r.ctx) : BitVec 1) ++ (0 : BitVec 7) ++ BitVec.ofNat 4 (y (s.stalled c r.ctx)) ++ (0 : BitVec 1) ++
    BitVec.ofNat 11 (y (s.cdBlocked c r.ctx)) ++ (0 : BitVec 1) ++ BitVec.ofNat 7 (y (s.cdRun c r.ctx)) ++ (0 : BitVec 5) ++
    BitVec.ofNat 11 (y (s.cdReady c r.ctx)) ++ (0 : BitVec 2) ++ (bit r.valid : BitVec 1) ++ r.ctx

end Sys2Proof.Machine
end

