-- ==== Sys2Proof/Machine/Operands.lean ====
section
/-! DEFINITION. Operand forms and integer results: sign and zero extension, shift amounts, division, the short
operations of a paired word (07 R200, R205, 08 R237, R238, 09 R268, R269). -/

namespace Sys2Proof.Machine

/-- imm15 sign-extended. -/
def sext15 (i : BitVec 15) : Word := i.signExtend 32
/-- imm15 zero-extended. -/
def zext15 (i : BitVec 15) : Word := i.setWidth 32
/-- A branch offset: 4 times off20 sign-extended (07 R217). -/
def branchOff (o : BitVec 20) : Word := (o.signExtend 32) <<< 2

/-- 1 or 0. -/
def truth (b : Bool) : Word := if b then 1 else 0

/-- Shift left by an amount of 0 to 63 (08 R237). -/
def shl (a : Word) (k : Nat) : Word := if k < 32 then a <<< k else 0
/-- Logical shift right. -/
def shr (a : Word) (k : Nat) : Word := if k < 32 then a >>> k else 0
/-- Arithmetic shift right. -/
def sar (a : Word) (k : Nat) : Word := if k < 32 then a.sshiftRight k else if a.msb then BitVec.allOnes 32 else 0
/-- The amount of a register shift: bits 5:0 (09 R269). -/
def amount (b : Word) : Nat := (bits b 0 6).toNat

/-- Signed minimum. -/
def minS (a b : Word) : Word := if a.slt b then a else b
/-- Signed maximum. -/
def maxS (a b : Word) : Word := if a.slt b then b else a

/-- High word of the signed product. -/
def mulHigh (a b : Word) : Word := BitVec.ofInt 32 ((a.toInt * b.toInt) / 4294967296)
/-- High word of the unsigned product. -/
def mulHighU (a b : Word) : Word := BitVec.ofNat 32 (a.toNat * b.toNat / 4294967296)

/-- Signed quotient, truncated toward zero (08 R238). -/
def divS (a b : Word) : Word := if b = 0 then BitVec.allOnes 32 else BitVec.ofInt 32 (a.toInt.tdiv b.toInt)
/-- Unsigned quotient. -/
def divU (a b : Word) : Word := if b = 0 then BitVec.allOnes 32 else BitVec.ofNat 32 (a.toNat / b.toNat)
/-- Signed remainder, with the sign of the dividend. -/
def remS (a b : Word) : Word := if b = 0 then a else BitVec.ofInt 32 (a.toInt.tmod b.toInt)
/-- Unsigned remainder. -/
def remU (a b : Word) : Word := if b = 0 then a else BitVec.ofNat 32 (a.toNat % b.toNat)

/-- A short operation: its result from rd, rs and the rs field (07 R205); none for NOP, which writes nothing. -/
def shortOp (op : BitVec 7) (a b : Word) (q : BitVec 4) : Option Word :=
  let kS : Word := q.signExtend 32
  let kU : Nat := q.toNat
  match op.toNat with
  | 0x01 => some (a + b)
  | 0x02 => some (a - b)
  | 0x03 => some (a &&& b)
  | 0x04 => some (a ||| b)
  | 0x05 => some (a ^^^ b)
  | 0x06 => some (~~~(a ||| b))
  | 0x07 => some (shl a (amount b))
  | 0x08 => some (shr a (amount b))
  | 0x09 => some (sar a (amount b))
  | 0x0A => some (truth (a == b))
  | 0x0B => some (truth (a != b))
  | 0x0C => some (truth (a.slt b))
  | 0x0D => some (truth (a.ult b))
  | 0x0E => some (minS a b)
  | 0x0F => some (maxS a b)
  | 0x10 => some b
  | 0x11 => some (0 - b)
  | 0x20 => some (a + kS)
  | 0x21 => some (shl a kU)
  | 0x22 => some (shr a kU)
  | 0x23 => some (sar a kU)
  | 0x24 => some (truth (a == kS))
  | 0x25 => some kS
  | _ => none

/-- Register number of a slot field. -/
def slotReg (r : BitVec 4) : GReg := r.setWidth 5

/-- The result of a slot: its register and value. -/
def slotResult (th : Thread) (n : Nat) (x : BitVec 7 × BitVec 4 × BitVec 4) : Option (GReg × Word) :=
  (shortOp x.1 (th.read n (slotReg x.2.1)) (th.read n (slotReg x.2.2)) x.2.2).map fun v => (slotReg x.2.1, v)

/-- Write a slot's result at clock `due`. -/
def writeSlot (n : Nat) (due : Nat) (th : Thread) : Option (GReg × Word) → Thread
  | none => th
  | some (r, v) => th.write n (some due) r v

/-- The body of a paired word: both slots read before either writes, and slot B's value stands where both write one
register (07 R200). -/
def pairedBody (t : Tid) (w : Word) (s : State) (i : Iss) : Eff :=
  let th := s.thread t
  let a := slotResult th i.n (slotA w)
  let b := slotResult th i.n (slotB w)
  let a := match a, b with
    | some x, some y => if x.1 = y.1 then none else some x
    | x, _ => x
  .ok (s.updThread t fun th => writeSlot i.n (i.k + 2) (writeSlot i.n (i.k + 2) th a) b)

/-- Two registers into one, at distance 2. -/
def alu (t : Tid) (rd rs1 rs2 : GReg) (d : Nat) (f : Word → Word → Word) : State → Iss → Eff :=
  writes t rd d fun th n => f (th.read n rs1) (th.read n rs2)

/-- One register into one. -/
def alu1 (t : Tid) (rd rs1 : GReg) (d : Nat) (f : Word → Word) : State → Iss → Eff :=
  writes t rd d fun th n => f (th.read n rs1)

/-- A division (08 R238, 09 R270): with DZT set, a zero divisor writes the result at its distance and then faults. -/
def divide (t : Tid) (rd rs1 rs2 : GReg) (f : Word → Word → Word) (s : State) (i : Iss) : Eff :=
  let th := s.thread t
  let a := th.read i.n rs1
  let b := th.read i.n rs2
  let s := s.updThread t fun th => th.write i.n (some (i.k + 18)) rd (f a b)
  if b = 0 ∧ ¬ isSteward t ∧ (s.ctx i.x).dzt then
    .fault (s.updThread t fun th => { th.landTo (i.k + 18) with lastIssue := i.k }) DIV_ZERO
  else .ok s

end Sys2Proof.Machine
end

