-- ==== Sys2Proof/Machine/Registers.lean ====
section
/-! DEFINITION. The registers as they are read: the value of each, and the state once the read has cleared its RC fields (00 R12, 12
R342-R347, 13 R397, R398). -/

namespace Sys2Proof.Machine

/-! ## Parts -/

/-- The flow bound to ring `r` of function `f`: its device number. -/
def State.flowOf (s : State) (f : FuncId) (r : RingId) : Option (BitVec 14) :=
  (s.hub.flows.first fun _ g => g.valid && g.func == f && g.ring == r).map fun e => BitVec.ofNat 14 e.1

/-- The level of a ring for its watermark (12 R347): H minus D, or W minus C. -/
def Ring.level (g : Ring) : Nat := if g.kind = 1 then (g.d - g.h).toNat else (g.h - g.d).toNat

/-- The reuse boundary F of a HEADBOX or MEMORY ring (12 R346). -/
def Ring.reuse (g : Ring) : BitVec 16 := if g.holdm && g.markv then g.mark else g.d

/-- The five 8-byte words of a slot as a read sees them. -/
def WinSlot.word (w : WinSlot) (k : Nat) : DWord :=
  let stat : DWord := (0 : BitVec 32) ++ w.seq ++ (0 : BitVec 14) ++ (bit w.taken : BitVec 1) ++ (bit w.ready : BitVec 1)
  if k = 0 then stat else if w.ready ∧ k ≤ 4 then bits w.entry (64 * (k - 1)) 64 else 0

/-- The bank of a router that an epoch names. -/
def Router.bankOf (r : Router) (epoch : Bool) : DWord := if epoch then r.rt1 else r.rt0

/-- The packets of a buffer whose heads stand in it: those of a router's mesh inputs are counted for their epoch there (11 R327). -/
def Spine.headsAt (n : Spine) (k : Nat) (ps : List Packet) : List Packet := if n.sent.getD k 0 = 0 then ps else ps.tail

/-- Worms of the inactive epoch counted at router `r` (11 R327, R329 NOC_RT_OLD). Packets at local inputs have not been stamped. -/
def State.oldWorms (s : State) (r : BitVec 4) : Nat :=
  (s.spine.bufs.map fun (k, ps) =>
    if k / 64 = r.toNat ∧ k % 64 < 16 then (s.spine.headsAt k ps).countP fun p => p.epoch != s.spine.cur else 0).sum

/-- STALE: is there a worm of the inactive epoch in the spine (11 R327)? -/
def State.stale (s : State) : Bool := (List.range 16).any fun r => s.oldWorms (BitVec.ofNat 4 r) != 0

/-- Is PEND of a bank set: have accesses accepted under the previous owner not yet completed (10 R298)? -/
def State.bankPend (s : State) (n : Byte) : Bool :=
  s.sectRuns (bankCluster n) && decide (s.fc (bankCluster n) < (s.bank n).pendDue)

/-- NOM of MON_VWIN[n]. -/
def State.nomOf (s : State) (n : Nat) : BitVec 16 := s.mon.nom.getD n (railNominal n)

/-- The MSI-X capability and table of a function. -/
def State.msix (s : State) (f : FuncId) : Msix := s.hub.msix.getD f.toNat {}

/-! ## BAR0 (12 R342, R343, R347, R356-R358, 13 R369, 16 R457) -/

/-- HB_RSTAT[r] (12 R347). -/
def Ring.stat (g : Ring) : Word :=
  g.mark ++ (0 : BitVec 4) ++ g.fcause ++ (0 : BitVec 3) ++ (bit g.held : BitVec 1) ++ (bit g.rfault : BitVec 1) ++ (bit g.overrun : BitVec 1) ++
    (bit g.lostFlag : BitVec 1) ++ (bit g.markv : BitVec 1)

/-- P_WM_STAT of a watermark at a level (03 R100). -/
def Wm.stat (w : Wm) (level : Nat) : Word := (0 : BitVec 29) ++ (bit (w.live level) : BitVec 1) ++ (bit w.dn : BitVec 1) ++ (bit w.up : BitVec 1)

/-- HB_RPTR[r]. -/
def Ring.ptr (g : Ring) : Word := g.h ++ (if g.kind = 1 then g.d else g.reuse)

/-- HB_RCFG[r]; `flow` says that the ring is bound to an ordered flow. -/
def Ring.cfg (g : Ring) (flow : Bool) : Word :=
  (1 : BitVec 1) ++ (0 : BitVec 2) ++ g.ctx ++ g.vec ++ (bit flow : BitVec 1) ++ (bit g.win : BitVec 1) ++ (bit g.fault : BitVec 1) ++
    (bit g.holdm : BitVec 1) ++ g.kind ++ g.lsize

/-- P_WM_CFG (03 R100). -/
def Wm.cfg (w : Wm) : Word := (0 : BitVec 14) ++ (bit w.ieDn : BitVec 1) ++ (bit w.ieUp : BitVec 1) ++ w.mark

/-- MB_STATUS of function `f` (13 R369). -/
def State.mbStatus (s : State) (f : FuncId) : DWord :=
  let m := s.mbox f
  (0 : BitVec 16) ++ m.status ++ m.seq ++ (0 : BitVec 10) ++ (bit m.overlap : BitVec 1) ++ (bit m.notrdy : BitVec 1) ++
    (bit s.keeper.keeper : BitVec 1) ++ (bit (s.fw.paused != 0) : BitVec 1) ++ (bit m.pend : BitVec 1) ++ (bit m.done : BitVec 1)

/-- Registers of the keeper mailbox of port `p` (16 R457). -/
def State.kprWord (s : State) (p : BitVec 2) (k : Nat) : DWord :=
  let q := s.keeper
  match k with
  | 1 =>
    let (st, seq, done) := q.rsp.getD p.toNat (0, 0, false)
    (0 : BitVec 31) ++ (bit done : BitVec 1) ++ seq ++ st
  | 2 => (0 : BitVec 32) ++ q.safeIn ++ q.cause ++ (0 : BitVec 6) ++ (bit q.table.isSome : BitVec 1) ++ (bit q.keeper : BitVec 1)
  | 3 => q.driven ++ q.level
  | 4 => q.entryTb
  | _ => 0

/-- The 8 bytes at offset `o` of the register block of ring `r`. -/
def State.ringWord (s : State) (f : FuncId) (r : RingId) (o : Nat) : DWord :=
  match s.ring f r with
  | none => 0
  | some g =>
    match o / 8 with
    | 1 => g.cfg (s.flowOf f r).isSome ++ g.ptr
    | 2 => (0 : BitVec 32) ++ g.stat
    | 3 => g.wm.stat g.level ++ g.wm.cfg
    | 4 => BitVec.setWidth 64 g.wm.cnt
    | _ => 0

/-- The 8 bytes at offset `o`, a multiple of 8, of BAR0 of function `f`. Write-only and reserved bits read zero. -/
def State.bar0Word (s : State) (f : FuncId) (o : Nat) : DWord :=
  if o < 0x100 then fld (s.mbox f).cmd o 8
  else if o < 0x200 then fld (s.mbox f).rsp (o - 0x100) 8
  else if o = 0x208 then s.mbStatus f
  else if 0x1000 ≤ o ∧ o < 0x2000 then s.ringWord f (BitVec.ofNat 6 ((o - 0x1000) / 64)) (o % 64)
  else if 0x4000 ≤ o ∧ o < 0x8000 then (s.hub.slots.getD (64 * f.toNat + (o - 0x4000) / 256) {}).word (o % 256 / 8)
  else if 0x8000 ≤ o ∧ o < 0x8400 then
    let m := s.msix f
    let v := (o - 0x8000) / 16
    if o % 16 = 0 then bits (m.table.getD v 0) 0 64
    else (0 : BitVec 31) ++ (bit (!m.unmasked.contains (BitVec.ofNat 6 v)) : BitVec 1) ++ (bits (m.table.getD v 0) 64 32 : Word)
  else if o = 0x9000 then (s.msix f).pending.foldl (fun w v => w ||| (1 <<< v.toNat)) 0
  else if 0xF000 ≤ o ∧ o < 0xF028 ∧ funcIdx f = 0 then s.kprWord (funcPort f) ((o - 0xF000) / 8)
  else 0

/-! ## The blocks of STATS_READ (13 R397) -/

/-- A register of a block: its value, and the state once the read has cleared its RC fields. -/
structure StatReg where
  value : DWord
  clear : State → State

/-- A register without RC fields. -/
def StatReg.keep (v : DWord) : StatReg := { value := v, clear := id }

/-- A 32-bit register. -/
def w32 (v : Word) : DWord := BitVec.setWidth 64 v

/-- MS_RES[n] (03 R81). -/
def MsRes.word (r : MsRes) : DWord :=
  (0 : BitVec 1) ++ r.disp ++ (0 : BitVec 1) ++ r.held ++ (0 : BitVec 1) ++ r.limit ++ (0 : BitVec 1) ++ (bit r.dead : BitVec 1) ++
    (bit r.valid : BitVec 1) ++ r.ctx

/-- DL_RES[n] (05 R153). -/
def State.dlResWord (s : State) (r : DlRes) : DWord :=
  let st := (s.ctx r.ctx).state
  let frozen : Bool := r.valid && (st == QUIESCING || st == STOPPED)
  r.late ++ (0 : BitVec 3) ++ r.held ++ (0 : BitVec 3) ++ r.limit ++ (0 : BitVec 1) ++ (bit frozen : BitVec 1) ++ (bit r.valid : BitVec 1) ++ r.ctx

/-- Torn-message counters of the declared channels of a context's tasks at a cluster, in task and channel order (04 R140). -/
def State.tornRegs (s : State) (c : ClusterId) (x : CtxId) : List StatReg :=
  let cl := s.cluster c
  (cl.tasksOf x).flatMap fun d =>
    ((List.range 8).filter fun ch => (cl.task d).chmask.getLsbD ch).map fun ch => .keep (BitVec.setWidth 64 (cl.chan d (BitVec.ofNat 3 ch)).torn)

/-- The block of a context at one position. -/
def State.positionRegs (s : State) (c : ClusterId) (x : CtxId) : List StatReg :=
  let cl := s.cluster c
  match cl.slotOf x with
  | none => [.keep 0, .keep 0, .keep 0]
  | some n =>
    [.keep (cl.msRes.getD n {}).word,
     { value := s.dlResWord (cl.dlRes.getD n {}), clear := fun s => s.updCluster c fun cl => { cl with dlRes := cl.dlRes.upd n {} fun r => { r with late := 0 } } },
     .keep (s.cdResWord c n)] ++ s.tornRegs c x

/-- SCOPE 0: a context. -/
def State.ctxRegs (s : State) (x : CtxId) : List StatReg :=
  let e := s.ctx x
  [.keep (w32 e.brokecnt), .keep (w32 e.faultcnt), .keep (w32 e.inflight), .keep (w32 e.timers)] ++
    (s.placement x).flatMap fun c => s.positionRegs c x

/-- RL_FLOW[f] (05 R167); while the bound ring is full the gap timer does not run (05 R163, R165). -/
def Flow.word (w : Flow) (full : Bool) : DWord :=
  w.gapto ++ (0 : BitVec 6) ++ BitVec.ofNat 9 w.items.length ++ w.quota ++ (bit (w.trun && !full) : BitVec 1) ++ (bit w.valid : BitVec 1) ++ w.ring ++ w.next

/-- SCOPE 1: an ordered flow. -/
def State.flowRegs (s : State) (n : BitVec 14) : List StatReg :=
  let w := s.flow n
  [.keep (w.word (s.ringFull w.func w.ring)),
   { value := w.skip ++ w.dup ++ w.late ++ w.gaps, clear := fun s => s.updFlow n fun w => { w with gaps := 0, late := 0, dup := 0, skip := 0 } }]

/-- SCOPE 2: a ring of the caller; registers of a ring that does not exist read as zero. -/
def State.ringRegs (s : State) (f : FuncId) (r : RingId) : List StatReg :=
  match s.ring f r with
  | none => [.keep 0, .keep 0, .keep 0]
  | some g =>
    [.keep (w32 g.stat), .keep (w32 (g.wm.stat g.level)),
     { value := BitVec.setWidth 64 g.wm.cnt, clear := fun s => s.updRing f r fun g => { g with wm := { g.wm with cnt := 0 } } }]

/-- One register per PE. -/
def State.peRegs (s : State) (c : ClusterId) (v : Pe → DWord) (z : Pe → Pe) : List StatReg :=
  (List.range 8).map fun p => { value := v ((s.cluster c).pe (BitVec.ofNat 3 p)), clear := fun s => s.updPe c (BitVec.ofNat 3 p) z }

/-- CD_PE_DEPTH[p]. -/
def State.depthRegs (s : State) (c : ClusterId) : List StatReg :=
  (List.range 8).map fun k =>
    let p : BitVec 3 := BitVec.ofNat 3 k
    { value := w32 (((s.cluster c).pe p).depthMax ++ BitVec.ofNat 16 ((s.cluster c).depth p)), clear := fun s => s.updPe c p fun e => { e with depthMax := BitVec.ofNat 16 ((s.cluster c).depth p) } }

/-- A counter of a cluster. -/
def clReg (c : ClusterId) (v : Word) (z : Cluster → Cluster) : StatReg := { value := w32 v, clear := fun s => s.updCluster c z }

/-- The dispatcher's, matching store's and delay list's counters. -/
def State.countRegs (s : State) (c : ClusterId) : List StatReg :=
  let cl := s.cluster c
  let m := cl.msCnt
  let d := cl.dlCnt
  let ms (v : Word) (z : MsCnt → MsCnt) : StatReg := clReg c v fun cl => { cl with msCnt := z cl.msCnt }
  let dl (v : Word) (z : DlCnt → DlCnt) : StatReg := clReg c v fun cl => { cl with dlCnt := z cl.dlCnt }
  ((List.range 16).map fun k => clReg c (cl.hist.getD k 0) fun cl => { cl with hist := cl.hist.set k 0 }) ++
    [clReg c cl.rdycancel fun cl => { cl with rdycancel := 0 }] ++
    [ms m.lookup fun m => { m with lookup := 0 }, ms m.matched fun m => { m with matched := 0 }, ms m.disp fun m => { m with disp := 0 },
     ms m.search fun m => { m with search := 0 }, ms m.reload fun m => { m with reload := 0 }, ms m.dup fun m => { m with dup := 0 },
     ms m.refuse fun m => { m with refuse := 0 }, ms m.ce fun m => { m with ce := 0 }, ms m.ueVal fun m => { m with ueVal := 0 },
     ms m.ueKey fun m => { m with ueKey := 0 }, ms m.borrow fun m => { m with borrow := 0 }] ++
    [dl d.ins fun d => { d with ins := 0 }, dl d.rel fun d => { d with rel := 0 }, dl d.late fun d => { d with late := 0 },
     dl d.hold fun d => { d with hold := 0 }, dl d.ce fun d => { d with ce := 0 }, dl d.ue fun d => { d with ue := 0 }]

/-- One register per bank of a cluster. -/
def State.bankRegs (s : State) (c : ClusterId) (v : Bank → Word) (z : Bank → Bank) : List StatReg :=
  (List.range 4).map fun b =>
    let n : Byte := c ++ BitVec.ofNat 2 b
    { value := w32 (v (s.bank n)), clear := fun s => s.updBank n z }

/-- SPD_CNT_*: of each bank, the waits of its nine masters first. -/
def State.spdRegs (s : State) (c : ClusterId) : List StatReg :=
  ((List.range 4).flatMap fun b => (List.range 9).map fun m =>
    let n : Byte := c ++ BitVec.ofNat 2 b
    { value := w32 ((s.bank n).cntWait.getD m 0), clear := fun s => s.updBank n fun k => { k with cntWait := k.cntWait.set m 0 } }) ++
    s.bankRegs c (·.coll) (fun b => { b with coll := 0 }) ++ s.bankRegs c (·.refuse) (fun b => { b with refuse := 0 }) ++
    s.bankRegs c (·.ce) (fun b => { b with ce := 0 }) ++ s.bankRegs c (·.ue) (fun b => { b with ue := 0 }) ++
    s.bankRegs c (·.borrow) (fun b => { b with borrow := 0 })

/-- SCOPE 3: a cluster. -/
def State.clusterRegs (s : State) (c : ClusterId) : List StatReg :=
  s.depthRegs c ++ s.peRegs c (·.waitSum) (fun e => { e with waitSum := 0 }) ++ s.peRegs c (fun e => w32 e.starts) (fun e => { e with starts := 0 }) ++
    s.peRegs c (·.busy) (fun e => { e with busy := 0 }) ++ s.peRegs c (fun e => w32 e.evict) (fun e => { e with evict := 0 }) ++
    s.peRegs c (fun e => w32 e.slothit) (fun e => { e with slothit := 0 }) ++ s.peRegs c (fun e => w32 e.slotmiss) (fun e => { e with slotmiss := 0 }) ++
    s.countRegs c ++ s.spdRegs c

/-- Change a probe. -/
def State.updProbe (s : State) (k : Nat) (f : Probe → Probe) : State := s.updSpine fun n => { n with probes := n.probes.upd k {} f }

/-- SCOPE 4: a router and its two probes. -/
def State.routerRegs (s : State) (r : BitVec 4) : List StatReg :=
  let t := s.router r
  let k := 2 * r.toNat
  let reg (v : Word) (z : Router → Router) : StatReg := { value := w32 v, clear := fun s => s.updRouter r z }
  let cnt (k : Nat) : StatReg :=
    let p := s.spine.probes.getD k {}
    { value := p.flits ++ p.pkts, clear := fun s => s.updProbe k fun p => { p with pkts := 0, flits := 0 } }
  let loss (k : Nat) : StatReg :=
    let p := s.spine.probes.getD k {}
    { value := w32 (p.drop ++ p.miss), clear := fun s => s.updProbe k fun p => { p with miss := 0, drop := 0 } }
  [reg t.ce fun t => { t with ce := 0 }, reg t.replay fun t => { t with replay := 0 }, reg t.ue fun t => { t with ue := 0 },
   reg t.unroute fun t => { t with unroute := 0 }, reg t.turnback fun t => { t with turnback := 0 }, reg t.disc fun t => { t with disc := 0 },
   cnt k, cnt (k + 1), loss k, loss (k + 1)]

/-! ## Every register of the device (00 R12) -/

/-- HB_FUNC_CFG[f] (12 R341). -/
def State.funcCfg (s : State) (f : FuncId) : DWord :=
  let e := s.func f
  (0 : BitVec 60) ++ (bit e.pio : BitVec 1) ++ (bit e.dbg : BitVec 1) ++ (bit (f == s.hub.admin) : BitVec 1) ++ (bit e.en : BitVec 1)

/-- LCK_HOLDER[n] (10 R309). -/
def Holder.word (h : Holder) : Word := h.task ++ h.who ++ (bit h.valid : BitVec 1) ++ h.kind

/-- NOC_EP_STATE (11 R332). -/
def Router.epWord (r : Router) : Word :=
  (0 : BitVec 23) ++ (bit r.busy : BitVec 1) ++ r.ep.getD 3 0 ++ r.ep.getD 2 0 ++ r.ep.getD 1 0 ++ r.ep.getD 0 0

/-- CLK_FAB[s] (15 R421). -/
def Section.clkWord (x : Section) : Word :=
  (0 : BitVec 17) ++ (bit x.gated : BitVec 1) ++ (bit x.thr : BitVec 1) ++ x.mcur ++ (0 : BitVec 3) ++ x.m

/-- PWR_SEC[s] (15 R429). -/
def Section.pwrWord (x : Section) : Word := (0 : BitVec 24) ++ (bit x.iso : BitVec 1) ++ x.pstate ++ (0 : BitVec 3) ++ (bit x.req : BitVec 1)

/-- CLK_REF_STAT (15 R422): the losses, and the locks that stand. -/
def State.refStat (s : State) : DWord :=
  let k := s.clk
  let fab : BitVec 16 := (List.range 16).foldl (fun w n => if (s.sect (BitVec.ofNat 4 n)).lock then w ||| (1 <<< n) else w) 0
  (0 : BitVec 7) ++ (bit k.safeLock : BitVec 1) ++ (bit k.timeLock : BitVec 1) ++ (bit k.ethLock : BitVec 1) ++ k.pciLock ++
    (bit k.memLock : BitVec 1) ++ (bit k.coreLock : BitVec 1) ++ fab ++ (0 : BitVec 24) ++ k.refLoss

/-- CLK_XING[d] (15 R427): a read clears its two counts. -/
def State.xingReg (s : State) (d : Nat) : StatReg :=
  let x := s.xing d
  { value := (0 : BitVec 16) ++ x.mergeCnt ++ x.rsyncCnt ++ (0 : BitVec 14) ++ (bit x.rsync : BitVec 1) ++ (bit x.merged : BitVec 1)
    clear := fun s => if 21 < d then s else s.updXing d fun x => { x with rsyncCnt := 0, mergeCnt := 0 } }

/-- BANK_OWNER[n] (10 R298). -/
def State.bankWord (s : State) (n : Byte) : Word :=
  let b := s.bank n
  (0 : BitVec 13) ++ (bit b.clring : BitVec 1) ++ (bit (s.bankPend n) : BitVec 1) ++ b.ctx ++ (0 : BitVec 2) ++ b.kind

/-- MON_VWIN[n] (17 R463). -/
def State.vwinWord (s : State) (n : Nat) : Word := s.nomOf n ++ s.mon.crit.getD n 60 ++ s.mon.warn.getD n 30

/-- The registers that a write reaches without a row of its own, as they are read. -/
def State.rwRead (s : State) : RegName → StatReg
  | .msRes c n => .keep ((s.cluster c).msRes.getD n.toNat {}).word
  | .dlRes c n =>
    { value := s.dlResWord ((s.cluster c).dlRes.getD n.toNat {})
      clear := fun s => s.updCluster c fun cl => { cl with dlRes := cl.dlRes.upd n.toNat {} fun r => { r with late := 0 } } }
  | .cdRes c n => .keep (s.cdResWord c n.toNat)
  | .cdCfg c => .keep (BitVec.setWidth 64 ((s.cluster c).actPrio ++ (s.cluster c).evictDly))
  | .cdFwd c n =>
    let w := (s.cluster c).fwd.getD n.toNat {}
    { value := w32 (w.cnt ++ (0 : BitVec 9) ++ (bit w.valid : BitVec 1) ++ w.target)
      clear := fun s => s.updCluster c fun cl => { cl with fwd := cl.fwd.upd n.toNat {} fun w => { w with cnt := 0 } } }
  | .spdFwd n => .keep (w32 ((0 : BitVec 23) ++ (bit (s.bank n).fwdValid : BitVec 1) ++ (s.bank n).fwdBank))
  | .dlWmCfg c => .keep (w32 (s.cluster c).dlWm.cfg)
  | .dlWmStat c => .keep (w32 ((s.cluster c).dlWm.stat (s.cluster c).dl.length))
  | .tbTk => .keep (BitVec.setWidth 64 s.tb.tk)
  | .tbRate => .keep (w32 s.tb.rate)
  | .tbSrc => .keep (BitVec.setWidth 64 ((bit s.tb.holdover : BitVec 1) ++ s.tb.port ++ s.tb.src))
  | .rlFlow f => (s.flowRegs f).headD (.keep 0)
  | .lckGrpF0 g => .keep (s.locks.groups.getD g.toNat {}).f0
  | .lckGrpF1 g => .keep (s.locks.groups.getD g.toNat {}).f1
  | .lckGrpCl g => .keep (BitVec.setWidth 64 (s.locks.groups.getD g.toNat {}).cl)
  | .nocRtBank r b => .keep ((s.router r).bankOf b)
  | .hbFuncCfg f => .keep (s.funcCfg f)
  | .hbFuncBud f k => .keep (let e := s.func f; if k = 0 then e.bud0 else if k = 1 then e.bud1 else if k = 2 then e.bud2 else 0)
  | .hbRstat f r => .keep (s.ringWord f r 0x10)
  | .hbRwmCfg f r => .keep (s.ringWord f r 0x18 &&& 0xFFFFFFFF)
  | .hbRwmStat f r => .keep (s.ringWord f r 0x18 >>> 32)
  | .mbStatus f => .keep (s.mbStatus f)
  | .clkRefStat => .keep s.refStat
  | .clkXing d => s.xingReg d.toNat
  | .rstCause => .keep (BitVec.setWidth 64 s.clk.rstCause)
  | .monVwin n => .keep (w32 (s.vwinWord n.toNat))
  | .msixVectorControl f v => .keep (bit (!(s.msix f).unmasked.contains v))
  | .msixMessageControl f => .keep ((bit (s.msix f).enable : DWord) <<< 15 ||| (bit (s.msix f).fmask : DWord) <<< 14)
  | .msixMessageAddress f v => .keep (bits ((s.msix f).table.getD v.toNat 0) 0 64)
  | .msixMessageData f v => .keep (BitVec.setWidth 64 (bits ((s.msix f).table.getD v.toNat 0) 64 32 : Word))
  | .readOnly => .keep 0

/-- The per-port counters of process I/O (14). -/
def State.ethCnt (s : State) (p : BitVec 2) (k : Nat) : StatReg :=
  let e := s.eth.ports.getD p.toNat {}
  let upd (g : EthPort → EthPort) (s : State) : State := s.updEth fun h => { h with ports := h.ports.upd p.toNat {} g }
  match k with
  | 0 => { value := w32 e.rx, clear := upd fun e => { e with rx := 0 } }
  | 1 => { value := w32 e.bad, clear := upd fun e => { e with bad := 0 } }
  | 2 => { value := w32 e.noRule, clear := upd fun e => { e with noRule := 0 } }
  | 3 => { value := w32 e.ovf, clear := upd fun e => { e with ovf := 0 } }
  | 4 => { value := w32 e.tx, clear := upd fun e => { e with tx := 0 } }
  | _ => .keep 0

/-- ETH_PORT_STAT[p]. -/
def EthPort.stat (e : EthPort) : Word :=
  (0 : BitVec 26) ++ (bit e.list.isSome : BitVec 1) ++ (bit e.hdx : BitVec 1) ++ e.speed ++ (bit e.link : BitVec 1)

/-- A register as a read sees it: its value, and what the read clears. Write-only registers and reserved bits read zero. -/
def State.regRead (s : State) : DevReg → StatReg
  | .rw n => s.rwRead n
  | .context x k => (s.ctxRegs x).getD k (.keep 0)
  | .flow f k => (s.flowRegs f).getD k (.keep 0)
  | .cluster c k => (s.clusterRegs c).getD k (.keep 0)
  | .router r k => (s.routerRegs r).getD k (.keep 0)
  | .bar0 f o => .keep (s.bar0Word f (8 * o.toNat))
  | .dlLevel c => .keep (BitVec.ofNat 64 ((s.cluster c).dl.length % 2 ^ 13))
  | .dlWmCnt c =>
    { value := BitVec.setWidth 64 (s.cluster c).dlWm.cnt, clear := fun s => s.updCluster c fun cl => { cl with dlWm := { cl.dlWm with cnt := 0 } } }
  | .tbNow => .keep s.tb.now
  | .tbTc => .keep s.tb.tc
  | .tbStep => .keep 0
  | .nocEpoch => .keep (BitVec.setWidth 64 ((bit s.stale : BitVec 1) ++ (0 : BitVec 1) ++ (bit s.spine.cur : BitVec 1)))
  | .nocRtOld r => .keep (BitVec.ofNat 64 (s.oldWorms r % 256))
  | .nocEpState r => .keep (w32 (s.router r).epWord)
  | .prbCfg k => .keep (BitVec.setWidth 64 (s.spine.probes.getD k.toNat {}).cfg)
  | .prbHdr k => .keep (s.spine.probes.getD k.toNat {}).hdr
  | .prbTag k => .keep (s.spine.probes.getD k.toNat {}).tag
  | .prbTagm k => .keep (s.spine.probes.getD k.toNat {}).tagm
  | .bankOwner n => .keep (w32 (s.bankWord n))
  | .hbmCe p => .keep (w32 (s.pcs.getD p.toNat {}).ce)
  | .hbmUe p => .keep (w32 (s.pcs.getD p.toNat {}).ue)
  | .bteAbort => .keep (w32 s.fw.bteAbort)
  | .lckHolder n => .keep (w32 (s.locks.holders.getD n.toNat {}).word)
  | .lckPend => .keep (BitVec.ofNat 64 ((s.locks.relQ.length + s.locks.fwQ.length) % 2 ^ 13))
  | .hbSpledger x => .keep (BitVec.setWidth 64 (s.hub.spledger.getD x.toNat 0))
  | .brokeLvl => .keep (BitVec.ofNat 64 (s.hub.broke.length % 2 ^ 13))
  | .brokeOvf f =>
    let o := s.hub.brokeOvf.getD f.toNat (0, 0)
    { value := BitVec.setWidth 64 (o.2 ++ o.1), clear := fun s => s.updHub fun h => { h with brokeOvf := h.brokeOvf.erase f.toNat } }
  | .brokeOrph => { value := w32 s.hub.brokeOrph, clear := fun s => s.updHub fun h => { h with brokeOrph := 0 } }
  | .ethStat p => .keep (w32 (s.eth.ports.getD p.toNat {}).stat)
  | .ethCnt p k => s.ethCnt p k.toNat
  | .ruleCnt n =>
    let c := s.eth.ruleCnt.getD n.toNat {}
    { value := c.dup ++ c.short ++ c.drop ++ c.hits, clear := fun s => s.updEth fun h => { h with ruleCnt := h.ruleCnt.erase n.toNat } }
  | .tplCnt t =>
    let c := s.eth.tplCnt.getD t.toNat {}
    { value := c.late ++ c.overwrite ++ c.sent, clear := fun s => s.updEth fun h => { h with tplCnt := h.tplCnt.erase t.toNat } }
  | .clkFab n => .keep (w32 (s.sect n).clkWord)
  | .pwrSec n => .keep (w32 (s.sect n).pwrWord)
  | .unlisted n => .keep (Config.regWord n s.free)

end Sys2Proof.Machine
end

