-- ==== Sys2Proof/Machine/Access.lean ====
section
/-! DEFINITION. Loads, stores and CAS: alignment, windows, rights, near accesses at the banks, and split accesses as
request packets (07 R214, R215, R224-R227, 08 R239-R242, 10 R290-R301, 11 R317). -/

namespace Sys2Proof.Machine

/-! ## Kinds of access -/

/-- Bytes of an access. -/
def SplitKind.size : SplitKind → Nat
  | .load n _ => 2 ^ n.toNat
  | .store n => 2 ^ n.toNat
  | .cas => 8

/-- Does the window grant the right the access needs (07 R225 check 3)? -/
def SplitKind.allowed : SplitKind → WinEntry → Bool
  | .load _ _, e => e.r
  | .store _, e => e.w
  | .cas, e => e.a

/-- The value a load of `size` writes from the bytes read, and whether it is a pair. -/
def loadValue (size : BitVec 2) (signed : Bool) (v : DWord) : DWord :=
  match size.toNat with
  | 0 => let b := bits v 0 8; if signed then BitVec.setWidth 64 (b.signExtend 32) else BitVec.setWidth 64 b
  | 1 => let b := bits v 0 16; if signed then BitVec.setWidth 64 (b.signExtend 32) else BitVec.setWidth 64 b
  | 2 => BitVec.setWidth 64 (bits v 0 32)
  | _ => v

/-- Write the result of a load. -/
def Thread.writeLoad (th : Thread) (n : Nat) (due : Option Nat) (rd : GReg) (size : BitVec 2) (signed : Bool)
    (v : DWord) : Thread :=
  let v := loadValue size signed v
  if size = 3 then th.writePair n due rd v else th.write n due rd (bits v 0 32)

/-! ## Near accesses at a bank (10 R296-R300) -/

/-- May the context use the bank (10 R297)? -/
def Bank.grants (b : Bank) (x : CtxId) : Bool := b.kind == 2 && b.ctx == x

/-- How a near access goes at its bank. -/
inductive NearResult where
  | done (s : State) (v : DWord)
  | fault (s : State) (cause : Byte)
  | wait (s : State)

/-- A near access of context `x` (none for a steward) of `size` bytes at `pa`, storing `data` where it stores. -/
def State.nearAt (s : State) (x : Option CtxId) (pa size : Nat) (store : Bool) (data : DWord) : NearResult :=
  let n := bankOf pa
  let b := s.bank n
  if (match x with | some c => !b.grants c | none => false) then
    .fault (s.updBank n fun b => { b with refuse := satInc b.refuse }) ADDR_RIGHTS
  else if b.clring then .wait s
  else if s.bad pa ∧ ¬ (store ∧ size = 8) then
    .fault (s.updBank n fun b => { b with ue := satInc b.ue }) ECC_UNCORRECTED
  else if store then .done ((s.wr pa size data.toNat).setBad pa false) 0
  else .done s (BitVec.ofNat 64 (s.rd pa size))

/-- An event record UNMAPPED to management (10 R290). -/
def State.unmapped (s : State) (pa : Nat) : State := s.mgmtRecord recUnmapped 0 (BitVec.ofNat 64 pa)

/-- A steward's access outside HBM, the banks and the lock unit: a load of a register returns its value and clears its RC fields (00
R12), a store's write comes by the row REGISTER_WRITE (log 165), and an unassigned register or unmapped space reads zero and is
recorded (10 R290). The registers' addresses are not given (log 128). -/
def State.nowhere (s : State) (pa : Nat) (store : Bool := false) : State × DWord :=
  match if inRegs pa then Config.regAt (8 * (pa / 8)) else none with
  | some n => if store then (s.takeFree, 0) else (((s.regRead n).clear s).takeFree, (s.regRead n).value >>> (8 * (pa % 8)))
  | none => (s.takeFree.unmapped pa, 0)

/-- A near access of a steward at an address outside the banks (07 R224, 10 R290, R302, R306). -/
def State.stewardAt (s : State) (pa size : Nat) (store : Bool) (data : DWord) : NearResult :=
  if inHbm pa then
    if s.bad pa ∧ ¬ (store ∧ size = 8) then
      .fault (s.updPch (pcOf (BitVec.ofNat 40 pa)) fun k => { k with ue := satInc k.ue }) ECC_UNCORRECTED
    else if store then .done ((s.store pa size data.toNat).setBad pa false) 0
    else .done s (BitVec.ofNat 64 (s.load pa size))
  else if inLocks pa then
    if store then .done (s.lockStore pa size data) 0
    else .done s (s.lockWord (lockOf pa) >>> (8 * (pa % 8)))
  else .done (s.nowhere pa store).1 (s.nowhere pa store).2

/-! ## Split accesses (07 R214, 11 R317) -/

/-- Source router and endpoint of a thread's requests. -/
def threadHome (t : Tid) : BitVec 4 × BitVec 4 :=
  if isSteward t then (8, 6) else (clusterRouter (tCluster t), clusterEp (tCluster t))

/-- The transaction number of a thread's access: PE, thread, and 10 bits of its issue order (log 23). -/
def splitTxn (t : Tid) (seq : Nat) : BitVec 16 := bits t 0 6 ++ BitVec.ofNat 10 seq

/-- The thread that a response to `txn` at an endpoint is for. -/
def txnThread (r e : BitVec 4) (txn : BitVec 16) : Tid :=
  if e = 6 then (1 : BitVec 1) ++ (0 : BitVec 8) ++ bits txn 10 4
  else (0 : BitVec 1) ++ (r ++ (BitVec.setWidth 2 e)) ++ bits txn 10 6

/-- The request of an access: its type and flits. -/
def requestFlits (t : Tid) (x : CtxId) (owner : FuncId) (a : Access) (pa : BitVec 40) (txn : BitVec 16) :
    BitVec 4 × List (BitVec 128) :=
  let m : BitVec 2 := if isSteward t then 2 else 0
  match a.kind with
  | .load n _ => (3, [requestHead pa (BitVec.setWidth 3 n) txn x m owner 0])
  | .store n =>
    (4, [requestHead pa (BitVec.setWidth 3 n) txn x m owner (BitVec.ofNat 16 (2 ^ a.kind.size - 1)),
         BitVec.setWidth 128 a.data])
  | .cas => (5, [requestHead pa 3 txn x m owner 0, a.data ++ a.expect])

/-- Keep the cause of the earliest-issued error (08 R241). -/
def Thread.noteErr (th : Thread) (seq : Nat) (cause : Byte) : Thread :=
  { th with err := match th.err with
      | some (q, c) => if seq < q then some (seq, cause) else some (q, c)
      | none => some (seq, cause) }

/-- Mark the result of a split access whose destination was written meanwhile: either value stands (07 R211, R214). -/
def Thread.unsettle (th : Thread) (n : Nat) : Thread :=
  { th with lands := th.lands.map fun l => if l.due.isNone && l.clash.isNone then { l with clash := some n } else l }

/-- The destination of a split load or CAS is written, to be seen for certain when the WAITLD completes. -/
def Thread.splitResult (th : Thread) (n : Nat) (p : Split) (v : DWord) : Thread :=
  match p.kind with
  | .load k sg => th.writeLoad n none p.rd k sg v
  | .cas => th.writePair n none p.rd v
  | .store _ => th

/-- The response to a split access takes effect: its value or its error, and LDOUT falls. The destination of a CAS whose write
port A discarded takes the word it read, which the response does not carry (08 R242, 11 R318, log 16). -/
def Thread.complete (th : Thread) (n : Nat) (p : Split) (status : Byte) (v : DWord) : Thread :=
  let th := { th with splits := th.splits.filter fun q => q.txn != p.txn }
  if status = 0 ∨ (status = LOST_TO_A ∧ p.kind = .cas) then
    let old := th.lands
    let th := { th with lands := [] }.splitResult n p (if status = 0 then v else p.old.getD 0)
    let th := if p.dirty then th.unsettle n else th
    let th := th.lands.foldl (fun (a : Thread) l => { a with lands := insertLand l a.lands }) { th with lands := old }
    if status = LOST_TO_A then
      let th := if th.tst.getLsbD 9 then th.noteErr p.seq STORE_LOST else th
      { th with tst := th.tst ||| 0x100 }
    else th
  else if status = LOST_TO_A then
    let th := if th.tst.getLsbD 9 then th.noteErr p.seq STORE_LOST else th
    { th with tst := th.tst ||| 0x100 }
  else th.noteErr p.seq status

/-- Is the window entry of an access in its cluster's cache? A steward's access needs none. -/
def State.windowIn (s : State) (t : Tid) (a : Access) : Bool :=
  isSteward t || (s.winEntry (tCluster t) (s.threadCtx t) a.win).isSome

/-- Issue a split access: it counts in LDOUT, and its request leaves on VC1, or waits until its window entry has been loaded (07
R226). A steward's access where nothing is completes at once. -/
def State.issueSplit (s : State) (t : Tid) (a : Access) (pa : BitVec 40) : State :=
  let th := s.thread t
  let txn := splitTxn t th.splitSeq
  let x := if isSteward t then 0 else s.threadCtx t
  let (ty, fl) := requestFlits t x (s.ctx x).owner a pa txn
  let p : Split := { txn := txn, seq := th.splitSeq, kind := a.kind, rd := a.rd, dirty := false, performed := false }
  let (sr, se) := threadHome t
  match homeOf pa with
  | some (dr, de) =>
    let q : Packet := { dr := dr, de := de, vc := 1, type := ty, epoch := false, sr := sr, se := se, pri := false, flits := fl }
    let out := s.windowIn t a
    let s := s.updThread t fun th =>
      { th with splitSeq := th.splitSeq + 1, splits := th.splits ++ [{ p with held := if out then none else some (a.win, q) }] }
    if out then s.pushBuf sr (4 + se.toNat) q else s
  | none =>
    let r := s.nowhere pa.toNat (match a.kind with | .load _ _ => false | _ => true)
    r.1.updThread t fun th => ({ th with splitSeq := th.splitSeq + 1, splits := th.splits ++ [p] }).complete s.free p 0 r.2

/-! ## One access (07 R224, R225) -/

/-- A near access of a fabric thread takes port A of its bank at clock `k` (10 R296). -/
def State.takePortA (s : State) (t : Tid) (k pa : Nat) : State :=
  if isSteward t then s else s.updBank (bankOf pa) fun b => { b with lastPe := tPe t, taken := some k }

/-- The access after its address is known. -/
def State.accessAt (s : State) (t : Tid) (i : Iss) (a : Access) (pa : Nat) : Eff :=
  if a.near then
    let store := match a.kind with | .store _ => true | _ => false
    let s := s.takePortA t i.k pa
    match (if inBanks pa then s.nearAt (if isSteward t then none else some i.x) pa a.kind.size store a.data
           else s.stewardAt pa a.kind.size store a.data) with
    | .fault s c => .fault s c
    | .wait s => .stay (s.hold t (.bank a (BitVec.ofNat 40 pa)))
    | .done s v =>
      match a.kind with
      | .load n sg => .ok (s.updThread t fun th => th.writeLoad i.n (some (i.k + 4)) a.rd n sg v)
      | _ => .ok s
  else if (s.thread t).splits.length ≥ 8 then .stay (s.block t (.splitSlot a (BitVec.ofNat 40 pa)) 4)
  else .ok (s.issueSplit t a (BitVec.ofNat 40 pa))

/-- The physical address of a steward's access: its bits 39:32 are open (07 R224, 10 R290, log 128). -/
def stewardPa (n : Nat) (ea : Word) : Nat := (Config.stewardHigh n ++ ea).toNat

/-- The window entry that an access of context `x` is checked with: the cached one, or for a split access that of the table (07 R226,
log 126). -/
def State.accessEntry (s : State) (c : ClusterId) (x : CtxId) (w : BitVec 6) (near : Bool) : Option WinEntry :=
  match s.winEntry c x w with
  | some e => some e
  | none => if near then none else some (s.readWin x w)

/-- The checks of 07 R225 after alignment, and the access. A near access whose window entry is not cached waits for it
(07 R226). A steward's access is physical (07 R224). -/
def State.access (s : State) (t : Tid) (i : Iss) (a : Access) : Eff :=
  if isSteward t then s.accessAt t i a (stewardPa i.n a.ea)
  else
    let c := tCluster t
    match s.accessEntry c i.x a.win a.near with
    | none => .stay (s.hold t (.window a))
    | some e =>
      let off := (bits a.ea 0 28).toNat
      let pa := e.base + off
      if ¬ e.valid ∨ e.len ≤ off then .fault s ADDR_WINDOW
      else if ¬ a.kind.allowed e then .fault s ADDR_RIGHTS
      else if a.near ∧ ¬ (inBanks pa ∧ bankCluster (bankOf pa) = c) then .fault s NOT_NEAR
      else s.accessAt t i a pa

/-- An access that issues: alignment first. -/
def accessBody (t : Tid) (near : Bool) (kind : SplitKind) (rd : GReg) (ea : Thread → Nat → Word)
    (data expect : Thread → Nat → DWord) (s : State) (i : Iss) : Eff :=
  let th := s.thread t
  let e := ea th i.n
  if e.toNat % kind.size ≠ 0 then .fault s ALIGN
  else s.access t i { near := near, ea := e, win := th.window i.n e, kind := kind, rd := rd, data := data th i.n,
                      expect := expect th i.n }

/-- What a store of `n` bytes takes from rd: the register, or the pair for 8 bytes. -/
def storeData (rd : GReg) (n : BitVec 2) (th : Thread) (k : Nat) : DWord :=
  if n = 3 then th.readPair k rd else BitVec.setWidth 64 (th.read k rd)

/-- A near load. -/
def nearLoad (t : Tid) (rd rs1 : GReg) (imm : BitVec 15) (size : BitVec 2) (signed : Bool) : State → Iss → Eff :=
  accessBody t true (.load size signed) rd (fun th n => th.read n rs1 + sext15 imm) (fun _ _ => 0) (fun _ _ => 0)
/-- A near store. -/
def nearStore (t : Tid) (rd rs1 : GReg) (imm : BitVec 15) (size : BitVec 2) : State → Iss → Eff :=
  accessBody t true (.store size) rd (fun th n => th.read n rs1 + sext15 imm) (storeData rd size) (fun _ _ => 0)
/-- A split load. -/
def splitLoad (t : Tid) (rd rs1 rs2 : GReg) (size : BitVec 2) (signed : Bool) : State → Iss → Eff :=
  accessBody t false (.load size signed) rd (fun th n => th.read n rs1 + th.read n rs2) (fun _ _ => 0) (fun _ _ => 0)
/-- A split store. -/
def splitStore (t : Tid) (rd rs1 rs2 : GReg) (size : BitVec 2) : State → Iss → Eff :=
  accessBody t false (.store size) rd (fun th n => th.read n rs1 + th.read n rs2) (storeData rd size) (fun _ _ => 0)

/-! ## Completion of a split access (07 R214, 08 R240-R243) -/

/-- Have all earlier stores and CAS been performed (08 R248)? -/
def Thread.storesDone (th : Thread) : Bool :=
  th.splits.all fun p => p.performed || match p.kind with | .load _ _ => true | _ => false

/-- Have all earlier accesses been performed (08 R243)? -/
def Thread.accessesDone (th : Thread) : Bool := th.splits.all (·.performed)

/-- WAITLD completes: every result is readable (07 R214), and an error is reported and cleared (08 R241). -/
def State.waitldDone (s : State) (t : Tid) : Eff :=
  let s := s.updThread t fun th =>
    (th.lands.filter (fun l => l.due.isNone)).foldl Thread.land { th with lands := th.lands.filter (fun l => l.due.isSome) }
  match (s.thread t).err with
  | some (_, c) => .fault (s.updThread t fun th => { th with err := none }) c
  | none => .ok s

end Sys2Proof.Machine
end

