-- ==== Sys2Proof/Machine/Send.lean ====
section
/-! DEFINITION. Tags from destination records, the entry checks of the PE outbox, handing a token over, the send park,
channel words, event messages, traps, sleeps and the waits of the kernel (02 R42-R46, R63, 04 R124-R133, 05 R150-R153,
06 R172, R173, 08 R233-R254). -/

namespace Sys2Proof.Machine

/-! ## Tags (02 R41, R42, R63) -/

/-- PLACE from a placement group and an instance (02 R63). -/
def GroupRec.place (g : GroupRec) (inst : BitVec 16) : BitVec 6 :=
  match g.rule.toNat with
  | 0 => g.first
  | 1 => g.first + BitVec.ofNat 6 (inst.toNat % g.count.toNat)
  | _ => g.first + BitVec.ofNat 6 (inst.toNat / 2 ^ g.shift.toNat % g.count.toNat)

/-- Is position `k` one of the group's: FIRST and the COUNT - 1 after it, whatever the rule (02 R45, R63, log 116)? -/
def GroupRec.covers (g : GroupRec) (k : Nat) : Bool := g.first.toNat ≤ k && decide (k < g.first.toNat + g.count.toNat)

/-- Node record of an image. -/
def Image.node (m : Image) (n : BitVec 20) : Option NodeRec := m.nodes[n.toNat]?
/-- Placement group of a node. -/
def Image.group (m : Image) (n : BitVec 20) : Option GroupRec := (m.node n).bind fun r => m.groups[r.pgroup.toNat]?
/-- Task record of an image. -/
def Image.task (m : Image) (k : BitVec 16) : Option TaskRec := m.tasks[k.toNat]?
/-- PLACE of a task. -/
def Image.taskPlace (m : Image) (k : BitVec 16) : BitVec 6 :=
  match m.task k with | some r => bits r.place 0 6 | none => 0

/-- Destination `d` of a node (02 R62). -/
def Image.dest (m : Image) (n : BitVec 20) (d : Nat) : Option DestRec :=
  (m.node n).bind fun r => if d < r.ndest.toNat then m.dests[r.destOff.toNat + d]? else none

/-- The tag of a data, control or skip token to a destination (02 R63). -/
def Image.destTag (m : Image) (x : CtxId) (r : DestRec) (inst : BitVec 16) : DWord :=
  if isReel r.node then mkTag x r.node inst 0 r.kind 0
  else mkTag x r.node inst r.port r.kind (match m.group r.node with | some g => g.place inst | none => 0)

/-- The image a context runs. -/
def State.imageOf (s : State) (x : CtxId) : Option Image := s.image (s.ctx x).image

/-- The reel credit of a token that will not come to the reel is returned (01 R30, 05 R162). -/
def State.reelUnstage (s : State) (f : FuncId) (r : RingId) (inst : BitVec 16) : State :=
  match s.flowOf f r with
  | some n => s.updFlow n fun g => { g with granted := g.granted.erase inst }
  | none => s.updRing f r fun g => { g with staged := g.staged - 1 }

/-- RNUM of an egress template (14 R411). -/
def Template.rnum (t : Template) : RingId := bits t.raw 16 6
/-- SUB of an egress template. -/
def Template.sub_ (t : Template) : Byte := fld t.raw 3 1
/-- TIMED of an egress template. -/
def Template.timed (t : Template) : Bool := t.raw.getLsbD 33

/-- Is the ring number of the function claimed by a template (14 R412)? -/
def State.claimed (s : State) (f : FuncId) (r : RingId) : Bool :=
  s.eth.templates.any fun e => (s.ctx e.2.owner).owner == f && e.2.rnum == r

/-- The template that takes a value of context `x` for a claimed ring number (14 R412). -/
def State.templateFor (s : State) (x : CtxId) (r : RingId) (inst : BitVec 16) : Option (Nat × Template) :=
  s.eth.templates.find? fun e => e.2.owner == x && e.2.rnum == r && e.2.sub_ == bits inst 8 8

/-- The reel credit of a lost token, where it is a reel value. -/
def State.lostCredit (s : State) (tag : DWord) : State :=
  let x := tagCtx tag
  let f := (s.ctx x).owner
  let r : RingId := bits (tagNode tag) 0 6
  if !isReel (tagNode tag) || (s.ctx x).state == FREE then s
  else if s.claimed f r then
    match s.templateFor x r (tagInst tag) with
    | some (n, t) => s.updEth fun e => { e with templates := e.templates.set n { t with granted := false } }
    | none => s
  else s.reelUnstage f r (tagInst tag)

/-! ## Entry checks (02 R44) -/

/-- The PORT rule of 02 R44 for a token that is not of a channel kind. -/
def portRule (tag : DWord) (kind : BitVec 3) : Bool :=
  if isReel (tagNode tag) then tagPort tag == 0 else (tagPort tag == 3) == (kind == 4)

/-- The checks of 02 R44 that use the context-table entry. -/
def State.entryFields (s : State) (tag : DWord) : Bool :=
  let e := s.ctx (tagCtx tag)
  let k := (tagKind tag).toNat
  let reel := isReel (tagNode tag)
  if k = 2 ∨ k = 3 then
    (tagNode tag).toNat < e.taskcnt.toNat && (tagInst tag).toNat < 7 && tagPort tag == 0 &&
      (tagPlace tag).toNat < e.csize.toNat
  else if k = 5 then
    reel && tagPort tag == 0 && tagPlace tag == 0 && (s.flowOf e.owner (bits (tagNode tag) 0 6)).isSome
  else if reel then tagPort tag == 0 && tagPlace tag == 0
  else (tagNode tag).toNat < e.nodecnt.toNat && (tagPlace tag).toNat < e.csize.toNat && portRule tag (tagKind tag)

/-- The checks of the PE outbox on the tag of SENDX (02 R44, 08 R247). -/
def State.outboxTag (s : State) (x : CtxId) (tag : DWord) : Bool :=
  let k := (tagKind tag).toNat
  tagRsvd tag == 0 && (k == 0 || k == 4 || k == 5) && tagCtx tag == x && s.entryFields tag

/-! ## Handing a token over (06 R172, R173, 08 R248) -/

/-- Does the thread have a token in its cluster's park? -/
def State.hasParked (s : State) (t : Tid) : Bool := (s.cluster (tCluster t)).park.any (·.thread == t)

/-- Places of a send park. -/
def parkPlaces : Nat := 65536

/-- First address of the send parks: 2 MB of HBM for each cluster (06 R172, 10 R291). -/
def parkBase : Nat := 0x3C0000000
/-- Address of a place of a cluster's park. -/
def parkAddr (c : ClusterId) (place : Nat) : Nat := parkBase + 0x200000 * c.toNat + 32 * place

/-- The lowest free place of a park. -/
def Cluster.parkPlace (cl : Cluster) : Nat := (least parkPlaces fun k => !(cl.park.any (·.place == k))).getD 0

/-- The 32 bytes of a place as two 16-byte words: the tag and the value, then the release tick and the sending thread, with bit
16 of that word set for a token that has a tick (DESIGN CHOICE, log 124). -/
def parkWords (t : Tid) (tok : Token) : BitVec 128 × BitVec 128 :=
  (tok.value ++ tok.tag, (0 : BitVec 47) ++ (bit tok.tick.isSome : BitVec 1) ++ BitVec.setWidth 16 t ++ tok.tick.getD 0)

/-- A write of 16 bytes that the send park of a cluster sends on VC1 (06 R172, 11 R317 MASTER 3). -/
def State.parkWrite (s : State) (c : ClusterId) (a : Nat) (txn : BitVec 16) (v : BitVec 128) : State :=
  let pa : BitVec 40 := BitVec.ofNat 40 a
  let (dr, de) := pcHome (pcOf pa)
  s.sendFrom c dr de 1 4 [requestHead pa 4 txn 0 3 0 0xFFFF, v]

/-- The token goes to the send park, where it counts in INFLIGHT (06 R172, R181); the write of its place leaves on VC1 under two
transactions of its thread. -/
def State.parkToken (s : State) (t : Tid) (tok : Token) : State :=
  let c := tCluster t
  let place := (s.cluster c).parkPlace
  let q := (s.thread t).splitSeq
  let (x, y) := (splitTxn t q, splitTxn t (q + 1))
  let a := parkAddr c place
  let s := s.updThread t fun th => { th with splitSeq := q + 2 }
  let s := (s.parkWrite c a x (parkWords t tok).1).parkWrite c (a + 16) y (parkWords t tok).2
  let s := s.updCluster c fun cl => { cl with park := cl.park ++ [{ token := tok, thread := t, place := place, writes := [x, y] }] }
  let s := if (s.cluster c).park.length = parkPlaces then
      s.updCluster c fun cl => { cl with parkFullSince := some s.scnt }
    else s
  s.inflightAdd (tagCtx tok.tag) 1

/-- The token parks, or waits for room in a full park, which is reported (06 R173); true when it has parked. -/
def State.tryPark (s : State) (t : Tid) (tok : Token) : State × Bool :=
  let c := tCluster t
  if (s.cluster c).park.length < parkPlaces then (s.parkToken t tok, true)
  else ((s.hold t (.park tok)).mgmtRecord recParkFull 0 (BitVec.ofNat 64 c.toNat), false)

/-- A token that never parks: one for the reel, or of a channel kind (06 R172). -/
def Token.neverParks (tok : Token) : Bool :=
  isReel (tagNode tok.tag) || tagKind tok.tag == 2 || tagKind tok.tag == 3

/-- The token is injected or parked, or waits; true when the hand-over is complete. -/
def State.inject (s : State) (t : Tid) (tok : Token) (ev : Bool) : State × Bool :=
  let c := tCluster t
  if s.hasParked t && !ev && !tok.neverParks then s.tryPark t tok
  else if tok.flits ≤ (s.cluster c).couchOut.avail then (s.injectFrom c tok ev false, true)
  else (s.hold t (.inject tok ev (s.threadClock t)), false)

/-- Hand over a token whose tag has passed the outbox: a reel value asks for its staging credit first (01 R30). -/
def State.handOver (s : State) (t : Tid) (tok : Token) (ev : Bool) : Eff :=
  if isReel (tagNode tok.tag) ∧ ¬ ev then .stay (s.hold t (.reel tok))
  else
    let (s, done) := s.inject t tok ev
    if done then .ok s else .stay s

/-- Release semantics: stores and CAS issued earlier are performed first (08 R248). -/
def State.sendAfter (s : State) (t : Tid) (tok : Token) (ev : Bool) : Eff :=
  if (s.thread t).storesDone then s.handOver t tok ev else .stay (s.hold t (.release tok ev))

/-- A token that fails its checks in a thread's outbox goes to the broke queue and the word completes (02 R46). -/
def State.outboxBroke (s : State) (tok : Token) (x : CtxId) : Eff := .ok (s.toBroke tok RESERVED_FIELD x false)

/-- The same after the wait of a SEND for the stores and CAS before it (08 R246, R248). -/
def State.sendBroke (s : State) (t : Tid) (tok : Token) (x : CtxId) : Eff :=
  if (s.thread t).storesDone then s.outboxBroke tok x else .stay (s.hold t (.broke tok))

/-! ## Channels (04 R128-R131) -/

/-- May channel `ch` of the task be addressed by a sender: is it declared (02 R45)? -/
def State.declared (s : State) (x : CtxId) (task : BitVec 16) (ch : BitVec 3) : Option (ClusterId × BitVec 10) :=
  match s.findTask x task with
  | none => none
  | some (c, d) => if ((s.cluster c).task d).chmask.getLsbD ch.toNat then some (c, d) else none

/-- The tag of a channel word (02 R41). -/
def chanTag (x : CtxId) (task : BitVec 16) (ch : BitVec 3) (last : Bool) (place : BitVec 6) : DWord :=
  mkTag x (BitVec.setWidth 20 task) (BitVec.setWidth 16 ch) 0 (if last then 3 else 2) place

/-- The words of a message as tokens: all but the last are channel words, the last is the end word. -/
def messageTokens (x : CtxId) (task : BitVec 16) (ch : BitVec 3) (place : BitVec 6) : List DWord → List Token
  | [] => []
  | [v] => [{ tag := chanTag x task ch true place, value := v, tick := none }]
  | v :: r => { tag := chanTag x task ch false place, value := v, tick := none } :: messageTokens x task ch place r

/-- PLACE of a task of a context. -/
def State.placeOfTask (s : State) (x : CtxId) (task : BitVec 16) : BitVec 6 :=
  match s.imageOf x with | some m => m.taskPlace task | none => 0

/-- A message asks for the reservation of a channel, behind those that have asked before it (04 R129). -/
def State.requestChan (s : State) (c : ClusterId) (d : BitVec 10) (ch : BitVec 3) (who : Sender) : State :=
  s.updChan c d ch fun h => { h with queue := h.queue ++ [who] }

/-- The message open in a thread's outbox is for another target or channel (08 R249). -/
def Thread.otherTarget (th : Thread) (task : BitVec 16) (ch : BitVec 3) : Bool :=
  !th.outbox.words.isEmpty && (th.outbox.task != task || th.outbox.chan != ch)

/-- A channel word, or an end word, from a thread: an end word ends the message open in the outbox, and any other word
asks for its stage credit by itself (04 R129). -/
def State.putWord (s : State) (t : Tid) (task : BitVec 16) (ch : BitVec 3) (v : DWord) (last : Bool) : State :=
  if last ∧ ¬ (s.thread t).outbox.words.isEmpty then
    s.updThread t fun th => { th with outbox := { th.outbox with words := th.outbox.words ++ [v] }, wait := .cend }
  else s.hold t (.chan task ch v last)

/-! ## The sending words (08 R245-R250) -/

/-- SEND and SENDT (08 R246): `tick` is the release tick of SENDT. -/
def sendBody (t : Tid) (rs1 rs2 : GReg) (dsel : BitVec 7) (tick : Option GReg) (s : State) (i : Iss) : Eff :=
  let th := s.thread t
  let inst : BitVec 16 := bits (th.read i.n rs1) 0 16
  let v := th.readPair i.n rs2
  match th.work with
  | some (.activation a) =>
    match (s.image a.image).bind fun m => (m.dest a.node dsel.toNat).map fun r => (m, r) with
    | none => .fault s ILLEGAL_OP
    | some (m, r) =>
      match tick with
      | some rd =>
        let k := th.readPair i.n rd
        if (k - s.tb.tc).toInt > 16777216 then .fault s HORIZON
        else if r.kind = 2 ∨ r.kind = 3 then
          s.sendBroke t { tag := mkTag i.x r.node (BitVec.setWidth 16 r.chan) 0 1 (m.taskPlace (bits r.node 0 16)),
                          value := v, tick := some k } i.x
        else if isReel r.node then
          s.sendBroke t { tag := mkTag i.x r.node inst (if r.kind = 4 then 3 else 0) 1 0, value := v, tick := some k } i.x
        else
          let tag := mkTag i.x r.node inst (if r.kind = 4 then 3 else r.port) 1
            (match m.group r.node with | some g => g.place inst | none => 0)
          s.sendAfter t { tag := tag, value := v, tick := some k } false
      | none =>
        if r.kind = 2 ∨ r.kind = 3 then
          if th.otherTarget (bits r.node 0 16) r.chan then .fault s ILLEGAL_OP
          else if r.kind = 3 ∧ 8 ≤ th.outbox.words.length then .fault s CREDIT_VIOLATION
          else if th.storesDone then .stay (s.putWord t (bits r.node 0 16) r.chan v (r.kind = 3))
          else .stay (s.hold t (.release
            { tag := chanTag i.x (bits r.node 0 16) r.chan (r.kind = 3) (m.taskPlace (bits r.node 0 16)), value := v,
              tick := none } false))
        else
          let tag := m.destTag i.x r inst
          if s.entryFields tag then s.sendAfter t { tag := tag, value := v, tick := none } false
          else s.sendBroke t { tag := tag, value := v, tick := none } i.x
  | _ => .fault s ILLEGAL_OP

/-- SENDX (08 R247). -/
def sendxBody (t : Tid) (rs1 rs2 : GReg) (s : State) (i : Iss) : Eff :=
  let th := s.thread t
  let tok : Token := { tag := th.readPair i.n rs1, value := th.readPair i.n rs2, tick := none }
  if s.outboxTag i.x tok.tag then s.sendAfter t tok false else s.sendBroke t tok i.x

/-- Is the thread's work the extension handler of its context? -/
def State.isHandler (s : State) (t : Tid) (x : CtxId) : Bool :=
  match s.taskOf t with
  | some d => ((s.cluster (tCluster t)).task d).task == (s.ctx x).exth
  | none => false

/-- Is the thread's work the supervisor of its context? -/
def State.isSupervisor (s : State) (t : Tid) (x : CtxId) : Bool :=
  match s.taskOf t with
  | some d => ((s.cluster (tCluster t)).task d).task == (s.ctx x).sup
  | none => false

/-- The handle of the trap of sequence number `q` of a thread (08 R233). -/
def trapHandle (t : Tid) (q : BitVec 16) : Word := (1 : BitVec 1) ++ (0 : BitVec 3) ++ tCluster t ++ tPe t ++ tTh t ++ q

/-- A reply to a trap (08 R234): it takes the reply place of the thread that waits under the handle, or that of the task which a
debug stop has taken from its thread meanwhile (04 R122), or is discarded. -/
def State.replyTo (s : State) (x : CtxId) (h : Word) (v : DWord) : State :=
  match s.threads.first fun k th =>
      th.handle == h && th.work.isSome && th.reply.isNone && s.threadCtx (BitVec.ofNat 13 k) == x && h.getLsbD 31 with
  | some (k, _) => s.updThread (BitVec.ofNat 13 k) fun th => { th with reply := some v }
  | none =>
    match s.clusters.findSome? fun (c, cl) =>
        (cl.tasks.first fun _ k => k.saved && k.ctx == x && k.handle == h && k.reply.isNone && h.getLsbD 31).map fun (d, k) =>
          ((BitVec.ofNat 6 c : ClusterId), (BitVec.ofNat 10 d : BitVec 10), k) with
    | some (c, d, k) =>
      let s := s.updTask c d fun k => { k with reply := some v }
      if k.state = BLOCKED then s.makeReady c d else s
    | none => s

/-- SENDC (08 R249), or a trap reply (08 R234): one that is both unprivileged and on a channel other than 0 faults PRIVILEGED (DESIGN
CHOICE, log 157). -/
def sendcBody (t : Tid) (rs1 rs2 : GReg) (dsel : BitVec 7) (s : State) (i : Iss) : Eff :=
  let th := s.thread t
  let a := th.read i.n rs1
  let v := th.readPair i.n rs2
  let ch : BitVec 3 := bits dsel 0 3
  if a.getLsbD 31 then
    if ¬ s.isHandler t i.x then .fault s PRIVILEGED
    else if ch ≠ 0 then .fault s ILLEGAL_OP
    else .ok (s.replyTo i.x a v)
  else
    let task : BitVec 16 := bits a 0 16
    if ch = 7 ∨ th.otherTarget task ch then .fault s ILLEGAL_OP
    else .stay (s.putWord t task ch v false)

/-- CPUT (04 R129, 08 R249). -/
def cputBody (t : Tid) (rs1 rs2 : GReg) (dsel : BitVec 7) (s : State) (i : Iss) : Eff :=
  let th := s.thread t
  let task : BitVec 16 := bits (th.read i.n rs1) 0 16
  let v := th.readPair i.n rs2
  let ch : BitVec 3 := bits dsel 0 3
  if ch = 7 ∨ th.otherTarget task ch then .fault s ILLEGAL_OP
  else if th.outbox.words.length ≥ 8 then .fault s CREDIT_VIOLATION
  else
    match s.declared i.x task ch with
    | none =>
      s.outboxBroke { tag := chanTag i.x task ch false (s.placeOfTask i.x task), value := v, tick := none } i.x
    | some (c, d) =>
      let s := if th.outbox.words.isEmpty then s.requestChan c d ch (.thread t) else s
      .ok (s.updThread t fun th =>
        { th with outbox := { th.outbox with words := th.outbox.words ++ [v], task := task, chan := ch } })

/-- CEND (04 R129, 08 R249); an end word that would be the ninth in the outbox faults as a ninth CPUT does (log 119). -/
def cendBody (t : Tid) (rs1 rs2 : GReg) (dsel : BitVec 7) (s : State) (i : Iss) : Eff :=
  let th := s.thread t
  let task : BitVec 16 := bits (th.read i.n rs1) 0 16
  let v := th.readPair i.n rs2
  let ch : BitVec 3 := bits dsel 0 3
  if ch = 7 ∨ th.otherTarget task ch then .fault s ILLEGAL_OP
  else if 8 ≤ th.outbox.words.length then .fault s CREDIT_VIOLATION
  else .stay (s.putWord t task ch v true)

/-- The payload of an event message (11 R317). -/
def eventPayload (x : CtxId) (task : BitVec 16) (f : BitVec 5) : DWord := (0 : BitVec 30) ++ f ++ task ++ x

/-- SETEV (08 R250): a target that is no task is found before the right to flags 30 and 31 (DESIGN CHOICE, log 169). -/
def setevBody (t : Tid) (rs1 : GReg) (dsel : BitVec 7) (s : State) (i : Iss) : Eff :=
  let task : BitVec 16 := bits ((s.thread t).read i.n rs1) 0 16
  let f : BitVec 5 := bits dsel 0 5
  if f.toNat < 8 ∨ (s.ctx i.x).taskcnt.toNat ≤ task.toNat then .fault s ILLEGAL_OP
  else if 30 ≤ f.toNat ∧ ¬ s.isSupervisor t i.x then .fault s PRIVILEGED
  else s.sendAfter t { tag := mkTag i.x (BitVec.setWidth 20 task) 0 0 2 (s.placeOfTask i.x task),
                       value := eventPayload i.x task f, tick := none } true

/-- CLREV (08 R250): flags that a SETEV meets in the same cycle stay (04 R132). -/
def clrevBody (t : Tid) (rs1 : GReg) (meet : Word) (s : State) (i : Iss) : Eff :=
  let m := (s.thread t).read i.n rs1
  if m.getLsbD 30 ∨ m.getLsbD 31 then .fault s RESERVED_FIELD
  else .ok (s.updTaskOf t fun d => { d with evflags := d.evflags &&& ~~~(m &&& 0x3FFFFF00 &&& ~~~meet) })

/-! ## Receiving and waiting (04 R131-R133, 08 R251-R253) -/

/-- The status word of RECV (08 R252). -/
def recvStatus (ch : BitVec 3) (w : ChWord) (left : Nat) : Word :=
  1 ||| ((bit w.last : Word) <<< 1) ||| ((bit w.poison : Word) <<< 2) ||| (BitVec.setWidth 32 ch <<< 3) |||
    (BitVec.ofNat 32 left <<< 6)

/-- Take the head visible word of channel `ch` into pair rd and status rt at clock `k` (08 R252). -/
def State.takeWord (s : State) (t : Tid) (d : BitVec 10) (ch : BitVec 3) (rd rt : GReg) (n k : Nat) : State :=
  let c := tCluster t
  let h := (s.cluster c).chan d ch
  match h.words with
  | [] => s
  | w :: r =>
    let st := recvStatus ch w (h.visible - 1)
    let s := s.updChan c d ch fun h => { h with words := r, visible := h.visible - 1 }
    s.updThread t fun th =>
      let th := if rt = rd then th else th.write n (some (k + 2)) rd (bits w.value 0 32)
      let th := if rt = rd + 1 then th else th.write n (some (k + 2)) (rd + 1) (bits w.value 32 32)
      th.write n (some (k + 2)) rt st

/-- RECV and TRYRECV. -/
def recvBody (t : Tid) (rd rt : GReg) (dsel : BitVec 7) (try_ : Bool) (s : State) (i : Iss) : Eff :=
  let ch : BitVec 3 := bits dsel 0 3
  match s.taskOf t with
  | none => .fault s ILLEGAL_OP
  | some d =>
    let cl := s.cluster (tCluster t)
    if ¬ (cl.task d).chmask.getLsbD ch.toNat then .fault s ILLEGAL_OP
    else if (cl.chan d ch).visible > 0 then .ok (s.takeWord t d ch rd rt i.n i.k)
    else if try_ then .ok (s.updThread t fun th => th.write i.n (some (i.k + 2)) rt 0)
    else .stay (s.block t (.recv ch) 1 ch)

/-- Is a WAITEV satisfied (04 R133)? -/
def evSatisfied (all : Bool) (flags m : Word) : Bool :=
  m != 0 && (if all then flags &&& m == m else flags &&& m != 0)

/-- A satisfied WAITEV returns flags and m, and clears the software flags it returns. -/
def State.evReturn (s : State) (t : Tid) (d : BitVec 10) (m : Word) (rd : GReg) (n k : Nat) : State :=
  let v := (s.cluster (tCluster t)).flags d &&& m
  (s.updTask (tCluster t) d fun x => { x with evflags := x.evflags &&& ~~~v }).updThread t fun th =>
    th.write n (some (k + 2)) rd v

/-- WAITEV.ANY and WAITEV.ALL. -/
def waitevBody (t : Tid) (rd rs1 : GReg) (all : Bool) (s : State) (i : Iss) : Eff :=
  let m := (s.thread t).read i.n rs1
  match s.taskOf t with
  | none => .fault s ILLEGAL_OP
  | some d =>
    if m.getLsbD 30 ∨ m.getLsbD 31 then .fault s RESERVED_FIELD
    else if evSatisfied all ((s.cluster (tCluster t)).flags d) m then .ok (s.evReturn t d m rd i.n i.k)
    else .stay (s.block t (.event all m) (if all then 3 else 2) 0 m)

/-! ## The delay list (05 R151-R153, R159) -/

/-- Put an entry in the order of ticks, behind those of its own tick. -/
def insertDl (e : DlEntry) : List DlEntry → List DlEntry
  | [] => [e]
  | x :: r => if e.tick.toNat < x.tick.toNat then e :: x :: r else x :: insertDl e r

/-- The level of the delay list changes: its watermark (05 R159). -/
def State.dlLevel (s : State) (c : ClusterId) (old : Nat) : State :=
  let cl := s.cluster c
  let (w, up) := cl.dlWm.change old cl.dl.length
  let s := s.updCluster c fun cl => { cl with dlWm := w }
  if up then s.mgmtRecord recDelayMark 0 c.toNat else s

/-- Insert an entry under the reservation of its context's slot (05 R153); none where the slot is full. An entry that is frozen as it
comes counts as late when its context starts (02 R52). -/
def State.dlInsert (s : State) (c : ClusterId) (x : CtxId) (tick : DWord) (item : Token ⊕ BitVec 10) : Option State :=
  let cl := s.cluster c
  match cl.slotOf x with
  | none => none
  | some n =>
    let r := cl.dlRes.getD n {}
    if r.held.toNat < r.limit.toNat then
      let late := s.releases x && decide (tick.toNat < s.tb.tc.toNat)
      let old := cl.dl.length
      some (((s.updCluster c fun cl =>
        { cl with
          dl := insertDl { tick := tick, item := item, ctx := x, elig := s.fc c + 4 } cl.dl
          dlRes := cl.dlRes.upd n {} fun r =>
            { r with held := r.held + 1, late := if late then satInc r.late else r.late }
          dlCnt := { cl.dlCnt with ins := satInc cl.dlCnt.ins,
                                   late := if late then satInc cl.dlCnt.late else cl.dlCnt.late } }).timersAdd x).dlLevel c old)
    else none

/-- The thread leaves its task in state `st` with its registers to save; a debug stop that was asked for applies to that
state (04 R122). True when it was. -/
def State.leaveAs (s : State) (t : Tid) (d : BitVec 10) (st : BitVec 3) (a : AfterSave) : State × Bool :=
  let dbg := (s.thread t).dbgReq
  let s := (s.updThread t fun th => { th with dbgReq := false, moveReq := false }).retire t
  if dbg then
    ((s.updTask (tCluster t) d fun k => { k with state := STOPPEDT, prev := st }).stopWork t .stopped, true)
  else ((s.updTask (tCluster t) d fun k => { k with state := st }).stopWork t a, false)

/-- YIELD: to the tail of its ready list (04 R120). -/
def State.yieldWork (s : State) (t : Tid) (d : BitVec 10) : State :=
  if s.cancelPending t then s.cancelRunning t
  else
    let (s, dbg) := s.leaveAs t d READY .ready
    if dbg then s else s.enqueue (tCluster t) (.task d)

/-- The work sleeps until `wake`; that counts in ACT, as every block does (DEDUCED, log 153). -/
def State.sleepWork (s : State) (t : Tid) (d : BitVec 10) (x : CtxId) (wake : DWord) : Eff :=
  let c := tCluster t
  if s.cancelPending t then .stay (s.cancelRunning t)
  else
    match s.dlInsert c x wake (.inr d) with
    | none => .fault s CREDIT_VIOLATION
    | some s => .stay (((s.updTask c d fun k => { k with wake := wake }).actOf t).leaveAs t d DELAYED .delayed).1

/-- SLEEP (08 R253). Ticks compare as the numbers they are (DEDUCED, log 152). -/
def sleepBody (t : Tid) (rs1 : GReg) (dsel : BitVec 7) (s : State) (i : Iss) : Eff :=
  let th := s.thread t
  match s.taskOf t with
  | none => .fault s ILLEGAL_OP
  | some d =>
    if dsel.getLsbD 0 then
      let k := th.readPair i.n rs1
      if s.tb.tc.toNat + 16777216 < k.toNat then .fault s HORIZON else s.sleepWork t d i.x k
    else
      let k := th.read i.n rs1
      if k.toNat > 16777216 then .fault s HORIZON
      else if k = 0 then .stay (s.yieldWork t d)
      else s.sleepWork t d i.x (s.tb.tc + BitVec.setWidth 64 k)

/-- YIELD (04 R120). -/
def yieldBody (t : Tid) (s : State) (_ : Iss) : Eff :=
  match s.taskOf t with
  | none => .fault s ILLEGAL_OP
  | some d => .stay (s.yieldWork t d)

/-- END once LDOUT is 0 (08 R254): errors are reported as WAITLD does, and the work ends. -/
def State.endDone (s : State) (t : Tid) : Eff :=
  match s.waitldDone t with
  | .ok s => .stay (s.endThread t)
  | e => e

/-- END (08 R254). -/
def endBody (t : Tid) (s : State) (_ : Iss) : Eff :=
  let th := s.thread t
  if ¬ th.outbox.words.isEmpty then .fault s ILLEGAL_OP
  else if th.splits ≠ [] then .stay (s.hold t .endWork)
  else s.endDone t

/-! ## Traps (08 R233-R236) -/

/-- An extension trap, or TRAP in context mode (08 R233). -/
def trapBody (t : Tid) (w : Word) (s : State) (i : Iss) : Eff :=
  let th := s.thread t
  let h := (s.ctx i.x).exth
  match (if h = 0xFFFF then none else s.declared i.x h 6) with
  | none => .fault s EXT_NO_HANDLER
  | some (c, d) =>
    let q := th.trapSeq + 1
    let handle := trapHandle t q
    let a := th.read i.n (wRs1 w)
    let b := th.read i.n (wRs2 w)
    let (who, k) := match th.work with
      | some (.activation x) => (x.inst, (0 : BitVec 1))
      | some (.task e) => (((s.cluster (tCluster t)).task e).task, 1)
      | none => (0, 0)
    let ws : List DWord := [handle ++ w, b ++ a, (0 : BitVec 15) ++ k ++ who ++ th.pc]
    let s := (s.updThread t fun th => { th.landAll with trapSeq := q, handle := handle, reply := none }).block t (.trap ws) 5
    .stay (if (s.thread t).wait = .trap ws then s.requestChan c d 6 (.trap t) else s)

/-- BRK (08 R236). -/
def brkBody (t : Tid) (s : State) (i : Iss) : Eff :=
  if isSteward t ∨ (s.caux i.x).debugger.isNone then .fault s BREAK
  else
    let s := s.updThread t fun th => { th with brk := true }
    match s.taskOf t with
    | some d => .stay ((s.updTask (tCluster t) d fun k => { k with state := STOPPEDT, prev := RUNNINGT }).stopWork t .stopped)
    | none => .stay (s.updThread t fun th => { th with dbgStopped := true })

end Sys2Proof.Machine
end

