-- ==== Sys2Proof/Machine/Wake.lean ====
section
/-! DEFINITION. What happens when a wait may have ended: a thread goes on with its word, a task wakes (04 R120, R121,
R131, R133, 06 R172, R173, 07 R214, R226, 08 R241, R248). -/

namespace Sys2Proof.Machine

/-- A fresh issue context for a word that goes on: it counts as issued now, so that the next word follows a clock later. -/
def State.freshIss (s : State) (t : Tid) : State × Iss :=
  let k := s.threadClock t
  (s.takeFree.updThread t fun th => { th with lastIssue := k }, { n := s.free, k := k, x := s.threadCtx t })

/-- A thread whose stores are performed hands over its token, or puts its channel word. -/
def State.released (s : State) (t : Tid) (tok : Token) (ev : Bool) : State :=
  if !ev && (tagKind tok.tag == 2 || tagKind tok.tag == 3) then
    s.putWord t (bits (tagNode tok.tag) 0 16) (bits (tagInst tok.tag) 0 3) tok.value (tagKind tok.tag == 3)
  else (s.handOver t tok ev).toState t

/-- Let a thread go on where what it waits for has come. -/
def State.pump (s : State) (t : Tid) : State :=
  let th := s.thread t
  match th.wait with
  | .splitSlot a pa => if th.splits.length < 8 then ((s.wake t).issueSplit t a pa).retire t else s
  | .window a =>
    if s.windowIn t a then
      let (s, i) := (s.wake t).freshIss t
      (s.access t i a).toState t
    else s
  | .bank a pa =>
    if (s.bank (bankOf pa.toNat)).clring then s
    else
      let (s, i) := (s.wake t).freshIss t
      let k := match (s.bank (bankOf pa.toNat)).taken with | some q => max i.k (q + 1) | none => i.k
      let s := s.updThread t fun th => { th with lastIssue := k }
      (s.accessAt t { i with k := k } a pa.toNat).toState t
  | .waitld => if th.splits = [] then ((s.wake t).waitldDone t).toState t else s
  | .fence => if th.accessesDone then s.finish t else s
  | .endWork => if th.splits = [] then ((s.wake t).endDone t).toState t else s
  | .release tok ev => if th.storesDone then (s.wake t).released t tok ev else s
  | .broke tok => if th.storesDone then ((s.wake t).outboxBroke tok (s.threadCtx t)).toState t else s
  | .inject tok ev _ =>
    if tok.flits ≤ (s.cluster (tCluster t)).couchOut.avail then (s.injectFrom (tCluster t) tok ev false).finish t else s
  | .park tok => if (s.cluster (tCluster t)).park.length < parkPlaces then (s.parkToken t tok).finish t else s
  | .recv ch =>
    match s.taskOf t with
    | some d =>
      if ((s.cluster (tCluster t)).chan d ch).visible > 0 then
        let (s, i) := (s.wake t).freshIss t
        (s.takeWord t d ch (wRd th.cur) (wRs1 th.cur) i.n i.k).retire t
      else s
    | none => s
  | .event all m =>
    match s.taskOf t with
    | some d =>
      if evSatisfied all ((s.cluster (tCluster t)).flags d) m then
        let (s, i) := (s.wake t).freshIss t
        (s.evReturn t d m (wRd th.cur) i.n i.k).retire t
      else s
    | none => s
  | .drain => if th.splits = [] then s.stopWork t th.after else s
  | _ => s

/-- The thread of cluster `c` that holds task `d`. -/
def State.threadOfTask (s : State) (c : ClusterId) (d : BitVec 10) : Option Tid :=
  (s.threads.first fun k th =>
    let t : Tid := BitVec.ofNat 13 k
    !isSteward t && tCluster t == c && th.work == some (.task d)).map fun e => BitVec.ofNat 13 e.1

/-- Is the wait of a blocked task that no thread holds satisfied? A WAITLD that a debug stop met is, since its accesses are
complete when the registers have been saved (04 R122, 07 R216). -/
def Cluster.waitDone (cl : Cluster) (d : BitVec 10) : Bool :=
  let k := cl.task d
  match k.wait.toNat with
  | 1 => decide ((cl.chan d k.wch).visible > 0)
  | 2 => evSatisfied false (cl.flags d) k.evmask
  | 3 => evSatisfied true (cl.flags d) k.evmask
  | 4 => true
  | 5 => k.reply.isSome
  | _ => false

/-- A channel word or a flag has come to a task (04 R120, R121): a blocked one goes on or becomes READY, a DORMANT one
with a visible word becomes READY. -/
def State.wakeTask (s : State) (c : ClusterId) (d : BitVec 10) : State :=
  let cl := s.cluster c
  let k := cl.task d
  if k.state = DORMANT then (if cl.liveFlags d ≠ 0 then s.makeReady c d else s)
  else if k.state = BLOCKED then
    match s.threadOfTask c d with
    | some t => s.pump t
    | none => if cl.waitDone d then s.makeReady c d else s
  else s

end Sys2Proof.Machine
end

