-- ==== Sys2Proof/Machine/Code.lean ====
section
/-! DEFINITION. Code in the code stores: which words of an image a position needs, where they are placed, loading and
freeing them, the instruction cache, and uncorrected code words (02 R55, R63, R68, 04 R115, 07 R208, 16 R441). -/

namespace Sys2Proof.Machine

/-- Is a node's group placed at position `k`? -/
def Image.nodeAt (m : Image) (r : NodeRec) (k : Nat) : Bool :=
  match m.groups[r.pgroup.toNat]? with
  | some g => g.covers k
  | none => false

/-- Does the codelet of a node hold word `w` of CODE? -/
def NodeRec.holds (r : NodeRec) (w : Nat) : Bool :=
  r.codeOff.toNat / 4 ≤ w && decide (w < r.codeOff.toNat / 4 + r.codeLen.toNat)

/-- Is word `w` of CODE a word of the tasks at position `k`: in no codelet, or in a codelet that holds the ENTRY of such a
task (log 25)? -/
def Image.taskWord (m : Image) (k w : Nat) : Bool :=
  let ts := m.tasks.filter fun t => t.place.toNat == k
  !ts.isEmpty && (!(m.nodes.any fun r => r.holds w) ||
    m.nodes.any fun r => r.holds w && ts.any fun t => r.holds (t.entry.toNat / 4))

/-- Is word `w` of CODE a word of a node placed at position `k`? -/
def Image.nodeWord (m : Image) (k w : Nat) : Bool := m.nodes.any fun r => r.holds w && m.nodeAt r k

/-- The words of CODE that position `k` needs, with the tasks' code where `tasks` asks for it. -/
def Image.needs (m : Image) (k : Nat) (tasks : Bool) : List Nat :=
  (List.range m.code.length).filter fun w => m.nodeWord k w || (tasks && m.taskWord k w)

/-- The lowest base, a multiple of 16 words, at which the words fit beside the code already there; CODE keeps its
spacing (log 26). -/
def Cluster.codeRoom (cl : Cluster) (ws : List Nat) : Option Nat :=
  (least 4096 fun b => ws.all fun w => 16 * b + w < 65536 && (cl.code.find (16 * b + w)).isNone).map (16 * ·)

/-- The base asked for where it is free, else the lowest that is. -/
def Cluster.codePlace (cl : Cluster) (ws : List Nat) (pref : Option Nat) : Option Nat :=
  match pref with
  | some b => if ws.all fun w => b + w < 65536 && (cl.code.find (b + w)).isNone then some b else cl.codeRoom ws
  | none => cl.codeRoom ws

/-- Load the words of a position into a cluster; none where there is no room. Words of the tasks belong to no image, since
they stay when the context's image changes (02 R55); their base is listed under image 0. -/
def State.loadCode (s : State) (c : ClusterId) (x : CtxId) (h : BitVec 16) (m : Image) (k : Nat) (tasks : Bool)
    (pref : Option Nat) : Option State :=
  let ws := m.needs k tasks
  match (s.cluster c).codePlace ws pref with
  | none => none
  | some b =>
    some (s.updCluster c fun cl =>
      { cl with
        code := ws.foldl (fun (q : Map CodeWord) w => q.set (b + w)
          { word := m.code.getD w 0, ctx := x, image := if tasks && m.taskWord k w then 0 else h }) cl.code
        bases := cl.bases ++ (if tasks then [(x, h, b), (x, 0, b)] else [(x, h, b)]) })

/-- The base of a context's image at a cluster. -/
def Cluster.baseOf (cl : Cluster) (x : CtxId) (h : BitVec 16) : Option Nat :=
  (cl.bases.find? fun e => e.1 == x && e.2.1 == h).map (·.2.2)

/-- Every word of a context leaves the code store, and with it the cached lines (02 R56). -/
def Cluster.freeCode (cl : Cluster) (x : CtxId) : Cluster :=
  { cl with code := cl.code.keep (fun _ w => w.ctx != x), bases := cl.bases.filter fun e => e.1 != x }

/-- The node codelets of one image of a context leave the code store; the code of its tasks stays (02 R55). -/
def Cluster.freeNodes (cl : Cluster) (x : CtxId) (h : BitVec 16) : Cluster :=
  { cl with code := cl.code.keep (fun _ w => !(w.ctx == x && w.image == h)),
            bases := cl.bases.filter fun e => !(e.1 == x && e.2.1 == h) }

/-- The code-store address of an offset of CODE. -/
def Cluster.codeAddr (cl : Cluster) (x : CtxId) (h : BitVec 16) (off : Word) : Word :=
  match cl.baseOf x h with
  | some b => BitVec.ofNat 32 (4 * b) + off
  | none => off

/-! ## The instruction cache (04 R112, R115, 16 R441) -/

/-- A line enters the instruction cache of a PE, the oldest of 256 leaving it (log 27). -/
def Pe.addLine (p : Pe) (line : Nat) : Pe :=
  { p with icache := (line :: p.icache.filter (· != line)).take 256 }

/-- Does the fetch of thread `t` find its line with a parity error: the line leaves the cache, and the thread waits as on a miss (16
R441)? -/
def State.lineParity (s : State) (t : Tid) : Bool := !isSteward t && s.ready t && s.lineIn t

/-- A miss, or a refetch after a parity error, completes (04 R115): the line is in and the thread goes on. An uncorrected
code word faults the fetching thread (16 R441). With `parity`, a ready thread finds a parity error in its line. -/
def execInstructionCacheFill (t : Tid) (ecc : Ecc) (s : State) (parity : Bool := false) : Out :=
  if ¬ t.wf then .fault .noSuchObject
  else
    let th := s.thread t
    if parity && s.lineParity t then
      .next ((s.updPe (tCluster t) (tPe t) fun p => { p with icache := p.icache.filter (· != th.pc.toNat / 64) }).hold t .icache)
    else if th.wait ≠ .icache then .next s
    else
      let c := tCluster t
      let w := th.pc.toNat / 4
      let s := s.hold t .none
      let bad := ecc == .uncorrected || (match (s.cluster c).code.find w with | some x => x.ue | none => false)
      if bad then
        let s := (s.updCluster c fun cl =>
          { cl with code := match cl.code.find w with | some x => cl.code.set w { x with ue := true } | none => cl.code }).countUe c
        .next ((s.mgmtRecord recCode ECC_UNCORRECTED (BitVec.ofNat 64 (4 * w))).takeFault t ECC_UNCORRECTED)
      else
        let s := if ecc = .corrected then s.countCe c else s
        .next (s.updPe c (tPe t) fun p => p.addLine (th.pc.toNat / 64))

/-- The firmware rewrites a code word that had an uncorrected error (16 R441). -/
def execCodeWordRewrite (c : ClusterId) (off : BitVec 18) (s : State) : Out :=
  if s.fwRuns then
    .next (s.updCluster c fun cl =>
      { cl with code := match cl.code.find (off.toNat / 4) with
          | some x => cl.code.set (off.toNat / 4) { x with ue := false }
          | none => cl.code })
  else .next s

end Sys2Proof.Machine
end

