-- ==== Sys2Proof/Machine/Matching.lean ====
section
/-! DEFINITION. The matching store: lookups, displacement, spill searches, the ledger, tombstones, errors of waiting operands,
and items forwarded after a move (03 R72-R96, 16 R447). -/

namespace Sys2Proof.Machine

/-! ## Keys and sets (03 R72, R73, R76, R87) -/

/-- The required port set of a node (03 R72). -/
def NodeRec.required (r : NodeRec) : List (BitVec 2) :=
  (List.range r.inputs.toNat).map (BitVec.ofNat 2) ++ (if r.ctl then [3] else [])

/-- The 49-bit number k of a matching key (03 R76). -/
def matchKey (x : CtxId) (n : BitVec 20) (i : BitVec 16) : Nat := x.toNat * 2 ^ 36 + n.toNat * 2 ^ 16 + i.toNat

/-- The set of a key (03 R76). -/
def setOf (k : Nat) : Nat :=
  (k % 2048) ^^^ (k / 2 ^ 11 % 2048) ^^^ (k / 2 ^ 22 % 2048) ^^^ (k / 2 ^ 33 % 2048) ^^^ (k / 2 ^ 44 % 32)

/-- The home bucket of a key (03 R87). -/
def homeBucket (k : Nat) : Nat := (k % 2 ^ 18) ^^^ (k / 2 ^ 18 % 2 ^ 18) ^^^ (k / 2 ^ 36 % 2 ^ 13)

/-- The key of a stored operand. -/
def MEntry.key (e : MEntry) : Nat := matchKey e.ctx e.node e.inst
/-- The key of a token. -/
def Token.key (t : Token) : Nat := matchKey (tagCtx t.tag) (tagNode t.tag) (tagInst t.tag)

/-- The operand a token becomes; a token of KIND 6 is poison (02 R39). -/
def Token.entry (t : Token) (slot rank : Nat) : MEntry :=
  { value := t.value, inst := tagInst t.tag, node := tagNode t.tag, ctx := tagCtx t.tag, port := tagPort t.tag,
    poison := tagKind t.tag == 6, rslot := BitVec.ofNat 8 slot, rank := rank }

/-- Context of an arriving operand. -/
def Arrival.ctx : Arrival → CtxId
  | .token t => tagCtx t.tag
  | .moved r => r.entry.ctx
/-- Node of an arriving operand. -/
def Arrival.node : Arrival → BitVec 20
  | .token t => tagNode t.tag
  | .moved r => r.entry.node
/-- Instance of an arriving operand. -/
def Arrival.inst : Arrival → BitVec 16
  | .token t => tagInst t.tag
  | .moved r => r.entry.inst
/-- The key of an arriving operand. -/
def Arrival.key (a : Arrival) : Nat := matchKey a.ctx a.node a.inst
/-- The operand that an arrival becomes in residency slot `slot`: a token takes rank `rank`, an operand that has moved keeps
its own (03 R92). -/
def Arrival.entry (a : Arrival) (slot rank : Nat) : MEntry :=
  match a with
  | .token t => t.entry slot rank
  | .moved r => { r.entry with rslot := BitVec.ofNat 8 slot }
/-- What an arrival is remembered by while its spill write is refused. -/
def Arrival.mark (a : Arrival) : MEntry := { a.entry 0 0 with rank := 0 }

/-- A set. -/
def Cluster.set (cl : Cluster) (n : Nat) : MSet := cl.sets.getD n {}
/-- Change a set. -/
def State.updSet (s : State) (c : ClusterId) (n : Nat) (f : MSet → MSet) : State :=
  s.updCluster c fun cl => { cl with sets := cl.sets.upd n {} f }
/-- Change a residency slot. -/
def State.updMsRes (s : State) (c : ClusterId) (n : Nat) (f : MsRes → MsRes) : State :=
  s.updCluster c fun cl => { cl with msRes := cl.msRes.upd n {} f }
/-- Change the counters. -/
def State.msCount (s : State) (c : ClusterId) (f : MsCnt → MsCnt) : State :=
  s.updCluster c fun cl => { cl with msCnt := f cl.msCnt }

/-- Stored operands of a key, lowest rank first. -/
def MSet.matching (m : MSet) (k : Nat) : List MEntry := (m.ways.filter fun w => w.2.key == k).map (·.2)

/-- Take operands out of a set. -/
def MSet.drop (m : MSet) (es : List MEntry) : MSet :=
  { m with ways := es.foldl (fun ws e => ws.eraseP fun w => w.2 == e) m.ways }

/-- Put an operand into a free way, with the next rank. -/
def MSet.put (m : MSet) (e : MEntry) : MSet :=
  match least 8 fun n => !m.ways.any fun w => w.1.toNat == n with
  | some n => { m with ways := m.ways ++ [(BitVec.ofNat 3 n, e)], bad := m.bad.filter (·.toNat != n) }
  | none => m

/-! ## The spill region (03 R85-R89, R93, 10 R302) -/

/-- Slots of the 16 buckets of a probe run. -/
def probeSlot (home i : Nat) : Nat := (4 * home + i) % 1048576

/-- The address of a slot of the spill region of a cluster (03 R85). -/
def slotAddr (c : ClusterId) (i : Nat) : Nat := spillBase + c.toNat * 0x1000000 + 16 * i

/-- Slot of the spill region. -/
def Cluster.spillAt (cl : Cluster) (i : Nat) : SpillSlot := cl.spill.getD i .empty

/-- A slot is written whole: its words hold no error afterwards (10 R302). -/
def State.setSlot (s : State) (c : ClusterId) (i : Nat) (q : SpillSlot) : State :=
  ((s.updCluster c fun cl => { cl with spill := cl.spill.set i q }).setBad (slotAddr c i) false).setBad (slotAddr c i + 8) false

/-- Is a slot free for a write? -/
def SpillSlot.free : SpillSlot → Bool
  | .full _ _ => false
  | _ => true

/-- Does bucket `b` hold an EMPTY slot? -/
def Cluster.bucketEmpty (cl : Cluster) (b : Nat) : Bool :=
  (List.range 4).any fun j => cl.spillAt (probeSlot b j) == .empty

/-- Buckets that a search visits (03 R88): up to the first with an EMPTY slot, 16 at most. -/
def Cluster.searched (cl : Cluster) (h : Nat) : Nat :=
  match least 16 fun i => cl.bucketEmpty (h + i) with
  | some i => i + 1
  | none => 16

/-- What a search for a key returns: slots, operands and categories, in probe order. -/
def Cluster.spillFind (cl : Cluster) (k : Nat) : List (Nat × MEntry × Bool) :=
  let h := homeBucket k
  (List.range (4 * cl.searched h)).filterMap fun i =>
    match cl.spillAt (probeSlot h i) with
    | .full e a => if e.key = k then some (probeSlot h i, e, a) else none
    | _ => none

/-- Is bucket `b` in the probe run of the key (03 R87)? -/
def inRun (k b : Nat) : Bool := (b + 262144 - homeBucket k) % 262144 < 16

/-- An operand has left bucket `b`, or a tombstone of it has gone: the refused writes whose probe run holds the bucket may be
tried again (03 R89). -/
def State.runFreed (s : State) (c : ClusterId) (b : Nat) : State :=
  s.updCluster c fun cl =>
    { cl with refused := cl.refused.map fun r => if inRun r.entry.key b then { r with retry := true } else r }

/-- A spill slot becomes TOMB: its operand has left, so SPC falls, and DISP and HELD or the ledger (03 R82, R88). -/
def State.leaveSpill (s : State) (c : ClusterId) (f : Nat × MEntry × Bool) (keep : Bool) : State :=
  let e := f.2.1
  let s := ((s.setSlot c f.1 .tomb).runFreed c (f.1 / 4)).updSet c (setOf e.key) fun m => { m with spc := m.spc - 1 }
  if f.2.2 then s.updCluster c fun cl => { cl with ledger := cl.ledger ++ [.give e.ctx] }
  else s.updMsRes c e.rslot.toNat fun r => { r with disp := r.disp - 1, held := if keep then r.held else r.held - 1 }

/-- Since when the oldest refusal of the cluster has lasted (06 R174). -/
def Cluster.refusedSince (cl : Cluster) : Option Nat := (cl.refused.map (·.since)).min?

/-- Must the write of an operand wait for its probe run to change (03 R89)? -/
def Cluster.blocked (cl : Cluster) (e : MEntry) : Bool := cl.refused.any fun r => r.entry == e && !r.retry

/-- A spill refusal (03 R89): it is counted and recorded, and its operand waits until its probe run has changed. -/
def State.refuse (s : State) (c : ClusterId) (e : MEntry) : State :=
  ((s.msCount c fun k => { k with refuse := satInc k.refuse }).updCluster c fun cl =>
    { cl with refused := match cl.refused.find? fun r => r.entry == e with
        | some _ => cl.refused.map fun r => if r.entry == e then { r with retry := false } else r
        | none => cl.refused ++ [{ entry := e, since := s.scnt }] }).mgmtRecord recSpillRefusal 0 c.toNat

/-- An operand is refused no more: it has been written, or has left. -/
def State.unrefused (s : State) (c : ClusterId) (e : MEntry) : State :=
  s.updCluster c fun cl => { cl with refused := cl.refused.filter fun r => r.entry != e }

/-! ## Errors of waiting operands (03 R93) -/

/-- Reserved operands of a context that a cluster's store and spill region hold. -/
def Cluster.entriesOf (cl : Cluster) (x : CtxId) : Nat :=
  (cl.sets.map fun e => e.2.ways.countP fun w => w.2.ctx == x).sum +
    cl.spill.countV fun _ q => match q with | .full e a => e.ctx == x && !a | _ => false

/-- The firmware counts each resident context's entries against HELD, and fences the contexts that miss one (03 R93, 05
R158). -/
def State.keyCheck (s : State) (c : ClusterId) : State :=
  let cl := s.cluster c
  let bad := cl.msRes.filter fun (n, r) => r.valid &&
    (decide (cl.entriesOf r.ctx < r.held.toNat) || (cl.dlRes.getD n {}).held.toNat != cl.dl.countP fun e => e.ctx == r.ctx)
  bad.foldl (fun s e => s.fence e.2.ctx ECC_UNCORRECTED) s

/-- An uncorrected key error is counted and recorded with its place, and the running firmware counts (03 R93; log 114 gives the
record's detail). -/
def State.keyError (s : State) (c : ClusterId) (place : Nat) : State :=
  let s := ((s.msCount c fun k => { k with ueKey := satInc k.ueKey }).countUe c).mgmtRecord recKeyError ECC_UNCORRECTED
    (BitVec.ofNat 64 (c.toNat + 64 * place))
  if s.fwRuns then s.keyCheck c else s

/-- An operand whose VALUE is lost becomes poison (02 R39, R43). -/
def MEntry.poisoned (e : MEntry) (c : ClusterId) : MEntry := { e with poison := true, value := poisonValue ECC_UNCORRECTED c }

/-- A way of a set is invalidated for an error of its key half (03 R93). -/
def State.dropWay (s : State) (c : ClusterId) (st : Nat) (way : BitVec 3) : State :=
  (s.updSet c st fun m => { m with ways := m.ways.filter fun w => w.1 != way }).keyError c (8 * st + way.toNat)

/-- The ways of a set that hold a check code which no data matches are met by its reader (10 R313). -/
def State.readBad (s : State) (c : ClusterId) (st : Nat) : State :=
  let m := (s.cluster c).set st
  (m.ways.filter fun w => m.bad.contains w.1).foldl (fun s w => s.dropWay c st w.1) s

/-- A lookup reads a set, and its checks find `err` in way `way`, or in the tag array, which holds a word for a way that is not
valid too (03 R93). -/
def State.readSet (s : State) (c : ClusterId) (st : Nat) (err : EntryErr) (way : BitVec 3) : State :=
  let s := s.readBad c st
  match err with
  | .clean => s
  | .corrected => (s.msCount c fun k => { k with ce := satInc k.ce }).countCe c
  | .value =>
    if ((s.cluster c).set st).ways.any fun w => w.1 == way then
      ((s.updSet c st fun m => { m with ways := m.ways.map fun w => if w.1 = way then (w.1, w.2.poisoned c) else w }).msCount c
        fun k => { k with ueVal := satInc k.ueVal }).countUe c
    else s
  | .key => s.dropWay c st way

/-- An error of an HBM word is counted at its pseudo-channel (10 R302). -/
def State.countPc (s : State) (pa : Nat) (ue : Bool) : State :=
  s.updPch (pcOf (BitVec.ofNat 40 pa)) fun k => if ue then { k with ue := satInc k.ue } else { k with ce := satInc k.ce }

/-- A slot whose VALUE is lost: its operand becomes poison (03 R93). -/
def SpillSlot.poisoned (q : SpillSlot) (c : ClusterId) : SpillSlot :=
  match q with
  | .full e a => .full (e.poisoned c) a
  | q => q

/-- A probe reads slot `i`, whatever its state, and finds `err` in it (03 R93, 10 R302); a bad key half invalidates the slot. -/
def State.readSlot (s : State) (c : ClusterId) (i : Nat) (err : EntryErr) : State :=
  match (if s.bad (slotAddr c i + 8) then .key else if s.bad (slotAddr c i) then .value else err : EntryErr) with
  | .clean => s
  | .corrected => ((s.msCount c fun k => { k with ce := satInc k.ce }).countPc (slotAddr c i) false).countCe c
  | .value =>
    (((s.updCluster c fun cl => { cl with spill := cl.spill.set i ((cl.spillAt i).poisoned c) }).msCount c fun k =>
      { k with ueVal := satInc k.ueVal }).countPc (slotAddr c i) true).countUe c
  | .key => ((s.setSlot c i .tomb).countPc (slotAddr c i + 8) true).keyError c (16384 + i)

/-- A search reads the buckets of its key; slot `j` of the run shows `err`. -/
def State.readRun (s : State) (c : ClusterId) (k : Nat) (err : EntryErr) (j : Nat) : State :=
  let h := homeBucket k
  (List.range (4 * (s.cluster c).searched h)).foldl
    (fun s i => s.readSlot c (probeSlot h i) (if i = j then err else .clean)) s

/-- Buckets that a write probes (03 R87): up to the first with a slot it can take, 16 at most. -/
def Cluster.probed (cl : Cluster) (h : Nat) : Nat :=
  match least 64 fun i => (cl.spillAt (probeSlot h i)).free with
  | some i => i / 4 + 1
  | none => 16

/-- A write reads the buckets it probes, and meets the errors that stand in them (03 R93). -/
def State.readProbe (s : State) (c : ClusterId) (h : Nat) : State :=
  if s.uecc.isEmpty then s
  else (List.range (4 * (s.cluster c).probed h)).foldl (fun s i => s.readSlot c (probeSlot h i) .clean) s

/-- Write an operand to the spill region; none is a refusal (03 R87, R89). -/
def State.spillWrite (s : State) (c : ClusterId) (e : MEntry) (allowance : Bool) : Option State :=
  let h := homeBucket e.key
  let s := s.readProbe c h
  (least 64 fun i => ((s.cluster c).spillAt (probeSlot h i)).free).map fun i => s.setSlot c (probeSlot h i) (.full e allowance)

/-! ## Activations (03 R79, R80, 04 R105) -/

/-- An activation enters the ready queue under a credit of the store. -/
def State.readyAct (s : State) (c : ClusterId) (a : Activation) : State :=
  (s.updCluster c fun cl => { cl with readyCr := { cl.readyCr with avail := cl.readyCr.avail - 1 } }).enqueue c (.activation a)

/-- A formed activation goes to the ready queue, or waits in the output register (03 R80). -/
def State.deliver (s : State) (c : ClusterId) (a : Activation) : State :=
  if (s.cluster c).readyCr.avail > 0 then s.readyAct c a
  else s.updCluster c fun cl => { cl with output := some a }

/-- An activation of a context from operands in port order. -/
def State.mkAct (s : State) (c : ClusterId) (x : CtxId) (n : BitVec 20) (i : BitVec 16) (es : List MEntry) : Activation :=
  { ctx := x, node := n, inst := i, image := (s.ctx x).image, ops := es.map fun e => (e.port, e.value),
    poison := es.any (·.poison), ready := s.fc c, age := (s.cluster c).age }

/-- The operand of lowest arrival rank at a port (03 R79). -/
def lowestAt (es : List MEntry) (p : BitVec 2) : Option MEntry :=
  (es.filter fun e => e.port == p).foldl
    (fun (o : Option MEntry) e => match o with
      | none => some e
      | some b => if e.rank < b.rank then some e else o) none

/-- The operand for each required port, of lowest rank; none where one is missing. -/
def choosePorts (req : List (BitVec 2)) (es : List MEntry) : Option (List MEntry) :=
  req.mapM (lowestAt es)

/-! ## Storing an operand (03 R78, R82, R86) -/

/-- What a lookup does with its operand: it is gone from its source, or stays there. -/
inductive Look where
  | done (s : State)
  | stay (s : State)

/-- A port that is already held under its key is counted (03 R79): `es` are the operands of the key in the set, in the spill
write buffer and in the spill region. -/
def State.countDup (s : State) (c : ClusterId) (e : MEntry) (es : List MEntry) : State :=
  if es.any fun w => w.port == e.port then s.msCount c fun k => { k with dup := satInc k.dup } else s

/-- An arrival that has been stored counts in flight no more; a moved operand did not count. -/
def State.settled (s : State) (a : Arrival) : State :=
  match a with
  | .token _ => s.inflightSub a.ctx 1
  | .moved _ => s

/-- A free way takes a reserved operand of slot `n`. -/
def State.storeWay (s : State) (c : ClusterId) (n st : Nat) (e : MEntry) : State :=
  (s.updSet c st (·.put e)).updMsRes c n fun r => { r with held := r.held + 1 }

/-- A reserved operand of slot `n` is displaced to the spill region (03 R86); none is a refusal. -/
def State.displace (s : State) (c : ClusterId) (n st : Nat) (e : MEntry) : Option State :=
  (s.spillWrite c e false).map fun s =>
    ((s.updSet c st fun m => { m with spc := m.spc + 1 }).updMsRes c n fun r =>
      { r with held := r.held + 1, disp := r.disp + 1 }).msCount c fun k => { k with disp := satInc k.disp }

/-- An allowance operand is written to the spill region (03 R86); none is a refusal. -/
def State.spillAllowance (s : State) (c : ClusterId) (st : Nat) (e : MEntry) : Option State :=
  (s.spillWrite c e true).map fun s => s.updSet c st fun m => { m with spc := m.spc + 1 }

/-- The operand that a ledger request of residency slot `n` keeps in the spill write buffer. -/
def LedgerReq.operand (q : LedgerReq) (n : Nat) : Option MEntry :=
  match q with
  | .take tok rank => some (tok.entry n rank)
  | .give _ => none

/-- Operands of a key that wait in the spill write buffer; lookups and searches see them (log 115). -/
def Cluster.waiting (cl : Cluster) (k n : Nat) : List MEntry :=
  (cl.ledger.filterMap (·.operand n)).filter fun e => e.key == k

/-- Operands of the spill write buffer. -/
def Cluster.writeBuf (cl : Cluster) : Nat := cl.ledger.countP fun q => match q with | .take .. => true | .give _ => false

/-- The write of an arrival was made, or was refused and the arrival stays (03 R89). -/
def State.written (s : State) (c : ClusterId) (a : Arrival) (o : Option State) : Look :=
  match o with
  | some t => .done (t.settled a)
  | none => .stay (s.refuse c a.mark)

/-- Is an arrival reserved (03 R82)? A moved operand keeps its category (16 R446). -/
def Arrival.reserved (a : Arrival) (r : MsRes) : Bool :=
  match a with
  | .token _ => decide (r.held.toNat < r.limit.toNat)
  | .moved k => !k.allowance

/-- Store an arriving operand of slot `n` as reserved, displaced or allowance; `found` are the operands of its key that a
search has found in the spill region, and `spill` keeps it out of the set. -/
def State.storeOp (s : State) (c : ClusterId) (n : Nat) (a : Arrival) (spill : Bool) (found : List MEntry) : Look :=
  let cl := s.cluster c
  let e := a.entry n s.free
  let st := setOf a.key
  let m := cl.set st
  let t := s.takeFree.countDup c e (m.matching a.key ++ cl.waiting a.key n ++ found)
  if a.reserved (cl.msRes.getD n {}) then
    if m.ways.length < 8 ∧ ¬ spill then .done ((t.storeWay c n st e).settled a)
    else s.written c a (t.displace c n st e)
  else
    match a with
    | .moved _ => s.written c a (t.spillAllowance c st e)
    | .token tok =>
      if cl.writeBuf < 16 then .done (t.updCluster c fun cl => { cl with ledger := cl.ledger ++ [.take tok s.free] }) else .stay s

/-! ## A lookup (03 R77, R78, R90, R91, R95) -/

/-- Does the cluster refuse tokens of the context (02 R51, 03 R95, 16 R436)? -/
def State.shut (s : State) (c : ClusterId) (x : CtxId) : Bool :=
  let e := s.ctx x
  e.state == FREE || e.state == ADMITTED || e.state == FENCED ||
    match (s.cluster c).slotOf x with
    | none => true
    | some n => ((s.cluster c).msRes.getD n {}).dead

/-- The required port set of a token's node in the image its context runs. -/
def State.requiredOf (s : State) (x : CtxId) (n : BitVec 20) : Option (List (BitVec 2)) :=
  ((s.imageOf x).bind fun m => m.node n).map (·.required)

/-- A place of the ledger that an operand of a context held is given back (03 R83). -/
def State.giveBack (s : State) (c : ClusterId) (x : CtxId) : State :=
  s.updCluster c fun cl => { cl with ledger := cl.ledger ++ [.give x] }

/-- Operands of residency slot `n` leave the spill write buffer for an activation before their ledger places were granted: they
count in flight no more (log 115). -/
def State.leaveBuffer (s : State) (c : ClusterId) (n : Nat) (x : CtxId) (es : List MEntry) : State :=
  es.foldl (fun s e => ((s.updCluster c fun cl => { cl with ledger := cl.ledger.filter fun q => q.operand n != some e }).unrefused c
    { e with rslot := 0, rank := 0 }).inflightSub x 1) s

/-- The activation of an arrival forms from `es`: the operands used leave the set, the spill write buffer and the spill region
(03 R78, R79, R91). `ws` are the stored operands of the key, `found` the slots that a search has found. -/
def State.formFound (s : State) (c : ClusterId) (n : Nat) (a : Arrival) (es ws : List MEntry)
    (found : List (Nat × MEntry × Bool)) : State :=
  let used := es.filter fun e => ws.contains e
  let out := found.filter fun f => !used.contains f.2.1 && es.contains f.2.1
  let s := (s.updSet c (setOf a.key) (·.drop used)).updMsRes c n fun r => { r with held := r.held - BitVec.ofNat 15 used.length }
  let s := s.leaveBuffer c n a.ctx (es.filter ((s.cluster c).waiting a.key n).contains)
  let s := out.foldl (fun s f => s.leaveSpill c f false) s
  let s := s.msCount c fun k => { k with matched := satInc k.matched }
  s.deliver c (s.mkAct c a.ctx a.node a.inst es)

/-- The activation forms. The arrival is one of its operands, or a later duplicate that is stored and keeps waiting (03 R79). -/
def State.form (s : State) (c : ClusterId) (n : Nat) (a : Arrival) (es ws : List MEntry)
    (found : List (Nat × MEntry × Bool)) : Look :=
  let t := s.formFound c n a es ws found
  if es.contains (a.entry n s.free) then
    .done (match a with
      | .token _ => t
      | .moved r => (if r.allowance then t.giveBack c a.ctx else t).inflightAdd a.ctx 1)
  else (t.inflightAdd a.ctx 1).storeOp c n a false ((t.cluster c).spillFind a.key |>.map (·.2.1))

/-- A lookup is counted; one that retries a refused write was (03 R89). -/
def State.countLookup (s : State) (c : ClusterId) (a : Arrival) : State :=
  if (s.cluster c).refused.any fun r => r.entry == a.mark then s else s.msCount c fun k => { k with lookup := satInc k.lookup }

/-- One lookup of an arrival of slot `n` whose node has the port set `req`. -/
def State.lookup (s : State) (c : ClusterId) (a : Arrival) (n : Nat) (req : List (BitVec 2)) : Look :=
  let st := setOf a.key
  let m := (s.cluster c).set st
  let ws := m.matching a.key
  match choosePorts req (ws ++ (s.cluster c).waiting a.key n ++ [a.entry n s.free]) with
  | some es => (s.countLookup c a).form c n a es ws []
  | none =>
    if m.spc = 0 then (s.countLookup c a).storeOp c n a false []
    else if (s.cluster c).searching.length < 4 then
      .done (((s.countLookup c a).updCluster c fun cl =>
        { cl with searching := cl.searching ++ [{ set := BitVec.ofNat 11 st, arr := a }] }).msCount c fun k =>
          { k with search := satInc k.search })
    else .stay s

/-- A place of the inbound couch is free again and owed to the router (01 R29, 11 R324). -/
def State.couchFreed (s : State) (c : ClusterId) (n : Nat) : State :=
  s.updCluster c fun cl => { cl with couchIn := { cl.couchIn with owed := cl.couchIn.owed + n } }

/-! ## Items of a position that has left (16 R447) -/

/-- The forwarding entry of a context at a cluster that a position has left (16 R447). -/
def Cluster.forward (cl : Cluster) (x : CtxId) : Option (Nat × Fwd) :=
  (cl.slotOf x).bind fun n =>
    let f := cl.fwd.getD n {}
    if f.valid then some (n, f) else none

/-- An item is reinjected toward the cluster its context has moved to, its tag and its source unchanged (16 R447). -/
def State.forwardPacket (s : State) (c : ClusterId) (n : Nat) (f : Fwd) (p : Packet) : State :=
  let s := s.updCluster c fun cl =>
    { cl with couchOut := { cl.couchOut with avail := cl.couchOut.avail - p.flits.length }
              fwd := cl.fwd.set n { f with cnt := satInc f.cnt } }
  (s.updSect (clusterSection c) fun x => { x with lastFwd := s.scnt }).pushBuf (clusterRouter c) (4 + (clusterEp c).toNat)
    { p with dr := clusterRouter f.target, de := clusterEp f.target, epoch := false }

/-- A token that waits in a cluster whose position has left goes after it; none where no VC0 place is free (log 49). -/
def State.forwardToken (s : State) (c : ClusterId) (n : Nat) (f : Fwd) (tok : Token) : Option State :=
  if tok.flits ≤ (s.cluster c).couchOut.avail then
    some (s.forwardPacket c n f (clusterPacket c 0 0 0 (if tok.tick.isSome then 1 else 0) (tokenFlits tok)))
  else none

/-! ## The sources (03 R77, R91, 06 R174) -/

/-- Is a set pending (03 R91)? -/
def Cluster.pendingSet (cl : Cluster) (st : Nat) : Bool := cl.searching.any fun p => p.set.toNat == st

/-- Does the lookup of an arrival need a search of the spill region (03 R90)? -/
def State.needsSearch (s : State) (c : ClusterId) (a : Arrival) : Bool :=
  let cl := s.cluster c
  let m := cl.set (setOf a.key)
  match cl.slotOf a.ctx, s.requiredOf a.ctx a.node with
  | some n, some req => m.spc != 0 && (choosePorts req (m.matching a.key ++ cl.waiting a.key n ++ [a.entry n s.free])).isNone
  | _, _ => false

/-- Can a lookup slot finish with an arrival now: its spill write is not refused, and the search it may need is to be had? -/
def State.servable (s : State) (c : ClusterId) (a : Arrival) : Bool :=
  let cl := s.cluster c
  match cl.forward a.ctx, a with
  | some _, .token tok => decide (tok.flits ≤ cl.couchOut.avail)
  | some _, .moved _ => false
  | none, .token _ => s.shut c a.ctx || (!cl.blocked a.mark && (decide (cl.searching.length < 4) || !s.needsSearch c a))
  | none, .moved _ => !cl.blocked a.mark && (s.shut c a.ctx || decide (cl.searching.length < 4) || !s.needsSearch c a)

/-- Does an arrival wait for the search of its set (03 R91)? One whose context is shut or has left does not. -/
def State.waitsForSet (s : State) (c : ClusterId) (a : Arrival) : Bool :=
  ((s.cluster c).forward a.ctx).isNone && !s.shut c a.ctx && (s.cluster c).pendingSet (setOf a.key)

/-- May a lookup slot take an arrival from the head of a source, or is the source passed over (03 R77, 06 R174)? -/
def State.takes (s : State) (c : ClusterId) (a : Arrival) : Bool :=
  if s.waitsForSet c a then decide ((s.cluster c).pendBuf.length < 32) else s.servable c a

/-- An operand that has moved here and whose context is shut is stored in its category without a lookup, and stays until the
purge of its context (16 R449); where that is under way it is gone. -/
def State.rest (s : State) (c : ClusterId) (a : Arrival) : Look :=
  match (s.cluster c).slotOf a.ctx with
  | none => .done s
  | some n => if ((s.cluster c).msRes.getD n {}).dead then .done s else s.storeOp c n a false []

/-- The lookup that an arrival takes: it goes after its position, to the broke queue where its context is shut, or to the
lookup of its set, whose read finds `err` in way `way`. -/
def State.serve (s : State) (c : ClusterId) (a : Arrival) (err : EntryErr) (way : BitVec 3) : Look :=
  let x := a.ctx
  match (s.cluster c).forward x, a with
  | some (n, f), .token tok => (match s.forwardToken c n f tok with | some t => .done t | none => .stay s)
  | _, _ =>
    if s.shut c x then (match a with | .token tok => .done (s.toBroke tok UNDELIVERABLE x true) | .moved _ => s.rest c a)
    else
      let s := s.readSet c (setOf a.key) err way
      match (s.cluster c).slotOf x, s.requiredOf x a.node, a with
      | some n, some req, _ => s.lookup c a n req
      | _, _, .token tok => .done (s.toBroke tok UNDELIVERABLE x true)
      | _, _, .moved _ => .done s

/-- An arrival from a source takes its lookup, or joins the pending buffer of its set (03 R91); true when it has left its
source. -/
def State.lookHead (s : State) (c : ClusterId) (a : Arrival) (err : EntryErr) (way : BitVec 3) : State × Bool :=
  if s.waitsForSet c a then
    (s.updCluster c fun cl => { cl with pendBuf := cl.pendBuf ++ [a] }, true)
  else
    match s.serve c a err way with
    | .done s => (s.unrefused c a.mark, true)
    | .stay s => (s, false)

/-- Reload the displaced operands `dis` that a search found, and store the arrival beside them (03 R91); `al` are the
allowance operands it found, which stay. -/
def State.reload (s : State) (c : ClusterId) (n : Nat) (a : Arrival) (dis al : List (Nat × MEntry × Bool)) : Look :=
  let st := setOf a.key
  let s := dis.foldl (fun s f => (s.leaveSpill c f true).updSet c st (·.put f.2.1)) s
  (s.msCount c fun k => { k with reload := satAdd k.reload dis.length }).storeOp c n a false (al.map (·.2.1))

/-- What a search has found decides about its arrival (03 R91). -/
def State.searchDone (s : State) (c : ClusterId) (n : Nat) (a : Arrival) (req : List (BitVec 2)) : Look :=
  let cl := s.cluster c
  let m := cl.set (setOf a.key)
  let ws := m.matching a.key
  let found := cl.spillFind a.key
  let dis := found.filter fun f => !f.2.2
  match choosePorts req (ws ++ cl.waiting a.key n ++ found.map (·.2.1) ++ [a.entry n s.free]) with
  | some es => s.form c n a es ws found
  | none =>
    if found.isEmpty then s.storeOp c n a false []
    else if a.reserved (cl.msRes.getD n {}) ∧ m.ways.length + dis.length + 1 ≤ 8 then s.reload c n a dis (found.filter (·.2.2))
    else s.storeOp c n a true (found.map (·.2.1))

/-- The result of the search for a set takes its lookup slot: the set is pending no more where its arrival is done. -/
def State.serveSearch (s : State) (c : ClusterId) (p : Pending) (err : EntryErr) (way : BitVec 3) : Look :=
  let a := p.arr
  let r : Look :=
    if ((s.cluster c).forward a.ctx).isSome || s.shut c a.ctx then s.serve c a err way
    else
      let s := s.readSet c p.set.toNat err way
      match (s.cluster c).slotOf a.ctx, s.requiredOf a.ctx a.node with
      | some n, some req => s.searchDone c n a req
      | _, _ => .done s
  match r with
  | .done t => .done (t.updCluster c fun cl => { cl with searching := cl.searching.filter fun q => q.set != p.set })
  | .stay t => .stay t

/-- Source `k` without its head: 0 ingress, 1 release, 2 spill return. -/
def State.dropHead (s : State) (c : ClusterId) (k : Nat) : State :=
  match k with
  | 0 => (s.updCluster c fun cl => { cl with ingress := cl.ingress.tail }).couchFreed c 1
  | 1 => s.updCluster c fun cl => { cl with release := cl.release.tail }
  | _ => s.updCluster c fun cl => { cl with spillRet := cl.spillRet.tail }

/-- What stands at the head of a source: an arrival, or the result of a search. -/
def Cluster.headOf (cl : Cluster) (k : Nat) : Option (Arrival ⊕ Pending) :=
  match k with
  | 0 => cl.ingress.head?.map fun t => .inl (.token t)
  | 1 => cl.release.head?.map fun t => .inl (.token t)
  | _ =>
    match cl.spillRet with
    | .operand r :: _ => some (.inl (.moved r))
    | .search st :: _ => (cl.searching.find? fun p => p.set == st).map .inr
    | [] => none

/-- May a slot take the head of source `k`? -/
def State.takesSource (s : State) (c : ClusterId) (k : Nat) : Bool :=
  match (s.cluster c).headOf k with
  | none => false
  | some (.inl a) => s.takes c a
  | some (.inr p) =>
    let cl := s.cluster c
    match cl.forward p.arr.ctx, p.arr with
    | some _, .token tok => decide (tok.flits ≤ cl.couchOut.avail)
    | some _, .moved _ => false
    | none, .token _ => s.shut c p.arr.ctx || !cl.blocked p.arr.mark
    | none, .moved _ => !cl.blocked p.arr.mark

/-- The slot takes the head of source `k`. -/
def State.lookSource (s : State) (c : ClusterId) (k : Nat) (err : EntryErr) (way : BitVec 3) : State :=
  match (s.cluster c).headOf k with
  | none => s
  | some (.inl a) =>
    let (s, gone) := s.lookHead c a err way
    if gone then s.dropHead c k else s
  | some (.inr p) =>
    match s.serveSearch c p err way with
    | .done s => (s.unrefused c p.arr.mark).dropHead c k
    | .stay s => s

/-- Take the first arrival of the pending buffer whose set is no longer pending and which `ok` accepts; a later one of the same
set does not pass an earlier one. -/
def takePend (ok : Arrival → Bool) (held : Nat → Bool) : List Arrival → Option (Arrival × List Arrival)
  | [] => none
  | a :: r =>
    if held (setOf a.key) then (takePend ok held r).map fun (b, l) => (b, a :: l)
    else if ok a then some (a, r)
    else (takePend ok (fun n => n == setOf a.key || held n) r).map fun (b, l) => (b, a :: l)

/-- Do both lookup slots stand still: the output register or the spill write buffer is full (03 R80, R83)? -/
def Cluster.slotsStopped (cl : Cluster) : Bool := cl.output.isSome || decide (16 ≤ cl.writeBuf)

/-- An arrival of the pending buffer that a slot can take, and the rest of the buffer. -/
def State.pendNext (s : State) (c : ClusterId) : Option (Arrival × List Arrival) :=
  takePend (s.servable c) (s.cluster c).pendingSet (s.cluster c).pendBuf

/-- The next source in rotation whose head a slot can take (03 R77). -/
def State.nextSource (s : State) (c : ClusterId) : Option Nat :=
  let r := (s.cluster c).rotation.toNat
  [r % 3, (r + 1) % 3, (r + 2) % 3].find? (s.takesSource c)

/-- One lookup slot: an arrival that waited for its set comes first, then the next source in rotation (log 29). -/
def State.lookSlot (s : State) (c : ClusterId) (err : EntryErr) (way : BitVec 3) : State :=
  if (s.cluster c).slotsStopped then s
  else
    match s.pendNext c with
    | some (a, rest) =>
      (match s.serve c a err way with
       | .done s => (s.unrefused c a.mark).updCluster c fun cl => { cl with pendBuf := rest }
       | .stay s => s)
    | none =>
      match s.nextSource c with
      | some k => (s.lookSource c k err way).updCluster c fun cl => { cl with rotation := BitVec.ofNat 2 ((k + 1) % 3) }
      | none => s

/-- A lookup slot takes one operand (03 R77, R78); the read of its set finds `err` in way `way`. -/
def execMatchingLookup (c : ClusterId) (s : State) (err : EntryErr := .clean) (way : BitVec 3 := 0) : Out := .next (s.lookSlot c err way)

/-- The result of the `i`-th outstanding search comes to the spill-return source, its read finding `err` in slot `j` of the run;
a lookup slot takes it at once where it stands at the head of that source and the source is next (03 R77, R91). -/
def execSpillSearchReturn (c : ClusterId) (i : BitVec 2) (s : State) (err : EntryErr := .clean) (j : BitVec 6 := 0) : Out :=
  match (s.cluster c).searching[i.toNat]? with
  | none => .next s
  | some p =>
    if (s.cluster c).spillRet.contains (.search p.set) then .next s
    else
      let s := (s.readRun c p.arr.key err j.toNat).updCluster c fun cl => { cl with spillRet := cl.spillRet ++ [.search p.set] }
      let now := (s.cluster c).spillRet == [.search p.set] && (s.pendNext c).isNone && s.nextSource c == some 2
      .next (if now then s.lookSlot c .clean 0 else s)

/-! ## The ledger (03 R82, R83) -/

/-- A credit violation by a token (06 R178, R180): its context's fault record fields change, and FOF fences it. -/
def State.violation (s : State) (tok : Token) : State :=
  let x := tagCtx tok.tag
  let s := (s.toBroke tok CREDIT_VIOLATION x true).updCtx x fun e => { e with lastfault := CREDIT_VIOLATION }
  if (s.ctx x).fof then s.fence x CREDIT_VIOLATION else s

/-- An operand of the spill write buffer asks for its ledger place, and is written or refused (03 R83). -/
def State.reserveSpill (s : State) (c : ClusterId) (tok : Token) (rank : Nat) : Look :=
  let x := tagCtx tok.tag
  let a : Arrival := .token tok
  match (s.cluster c).forward x with
  | some (n, f) => (match s.forwardToken c n f tok with | some t => .done t | none => .stay s)
  | none =>
    if s.shut c x then .done (s.toBroke tok UNDELIVERABLE x true)
    else
      let used := s.hub.spledger.getD x.toNat 0
      match (s.cluster c).slotOf x with
      | none => .done (s.toBroke tok UNDELIVERABLE x true)
      | some n =>
        if (s.ctx x).spillres.toNat ≤ used.toNat then .done (s.violation tok)
        else
          match s.written c a (s.spillAllowance c (setOf tok.key) (a.entry n rank)) with
          | .done t => .done (t.updHub fun h => { h with spledger := h.spledger.set x.toNat (used + 1) })
          | .stay t => .stay t

/-- Can the request be made now? A refused write waits for its probe run. -/
def State.ledgerReady (s : State) (c : ClusterId) (q : LedgerReq) : Bool :=
  match q with
  | .give _ => true
  | .take tok _ =>
    s.shut c (tagCtx tok.tag) || ((s.cluster c).forward (tagCtx tok.tag)).isSome || !(s.cluster c).blocked (Arrival.token tok).mark

/-- A VC1 request of the cluster to its spill ledger: the first that can be made, a place given back or a place for an
operand of the spill write buffer (03 R83). -/
def execLedgerReservation (c : ClusterId) (s : State) : Out :=
  match (s.cluster c).ledger.findIdx? (s.ledgerReady c) with
  | none => .next s
  | some i =>
    let gone (s : State) : State := s.updCluster c fun cl => { cl with ledger := dropAt cl.ledger i }
    match (s.cluster c).ledger[i]? with
    | none => .next s
    | some (.give x) =>
      .next ((gone s).updHub fun h => { h with spledger := h.spledger.upd x.toNat 0 fun n => if n = 0 then 0 else n - 1 })
    | some (.take tok rank) =>
      .next (match (gone s).reserveSpill c tok rank with
        | .done t => t.unrefused c (Arrival.token tok).mark
        | .stay _ => (match s.reserveSpill c tok rank with | .done t => t | .stay t => t))

/-! ## Tombstones (03 R88) -/

/-- Does a FULL slot later in the probe run than slot `j` of bucket `b` have its home at or before bucket `b`? -/
def Cluster.tombNeeded (cl : Cluster) (b j : Nat) : Bool :=
  (List.range (63 - j)).any fun i =>
    match cl.spillAt (probeSlot b (j + 1 + i)) with
    | .full e _ =>
      let here := b + (j + 1 + i) / 4
      decide (here - b ≤ (here + 262144 - homeBucket e.key) % 262144)
    | _ => false

/-- Slot `j` of bucket `b` becomes EMPTY where it is a tombstone that no later operand needs. -/
def Cluster.reclaim (cl : Cluster) (b j : Nat) : Cluster :=
  if cl.spillAt (probeSlot b j) == .tomb && !cl.tombNeeded b j then { cl with spill := cl.spill.erase (probeSlot b j) } else cl

/-- The spill engine reclaims the tombstones of a bucket; a refused write of the run may be tried again where one has gone
(03 R89). -/
def execTombstoneReclaim (c : ClusterId) (bucket : BitVec 18) (s : State) : Out :=
  let b := bucket.toNat
  let t := s.updCluster c fun cl => (List.range 4).foldl (fun cl j => cl.reclaim b (3 - j)) cl
  .next (if (t.cluster c).spill.length = (s.cluster c).spill.length then t else t.runFreed c b)

/-! ## Evacuation (03 R92) -/

/-- The operand, where an arrival is one that has moved here. -/
def Arrival.operand : Arrival → Option SpillRet
  | .moved r => some r
  | .token _ => none

/-- Operands of a context that have moved here and still wait for their lookups, in the spill-return source, behind a search or
as the reason of one. -/
def Cluster.movedOperands (cl : Cluster) (x : CtxId) : List SpillRet :=
  ((cl.spillRet.filterMap fun r => match r with | .operand r => some r | .search _ => none) ++ cl.pendBuf.filterMap (·.operand) ++
    cl.searching.filterMap (·.arr.operand)).filter fun r => r.entry.ctx == x

/-- Those operands are gone, with the searches they asked for. -/
def Cluster.dropMoved (cl : Cluster) (x : CtxId) : Cluster :=
  let gone (a : Arrival) : Bool := match a with | .moved r => r.entry.ctx == x | .token _ => false
  let ended := (cl.searching.filter fun p => gone p.arr).map (·.set)
  { cl with
    spillRet := cl.spillRet.filter fun r => match r with | .operand r => r.entry.ctx != x | .search st => !ended.contains st
    pendBuf := cl.pendBuf.filter fun a => !gone a
    searching := cl.searching.filter fun p => !gone p.arr }

/-- Insert an operand by arrival rank. -/
def insertRank (r : SpillRet) : List SpillRet → List SpillRet
  | [] => [r]
  | q :: l => if r.entry.rank < q.entry.rank then r :: q :: l else q :: insertRank r l

/-- The entries of a cluster's store that `p` picks are written to its spill region as displaced; DISP and SPC count them, and
MS_CNT_DISP, which counts operands that no way was free for, does not (DESIGN CHOICE, log 150). -/
def State.evacuate (s : State) (c : ClusterId) (p : MEntry → Bool) : State :=
  let es := (s.cluster c).sets.flatMap fun e => (e.2.ways.filter fun w => p w.2).map (·.2)
  es.foldl (fun s e => match s.spillWrite c e false with
    | none => s
    | some s => (s.updSet c (setOf e.key) fun m => { (m.drop [e]) with spc := m.spc + 1 }).updMsRes c e.rslot.toNat fun r =>
        { r with disp := r.disp + 1 }) s

end Sys2Proof.Machine
end

