-- ==== Sys2Proof/Machine/SendOps.lean ====
section
/-! DEFINITION. Sending, receiving, waiting and ending (08 R245-R254), and the rows that complete a thread's send: the
injection wait, the send park and the channel requests (04 R128, R129, 06 R172, R173). -/

namespace Sys2Proof.Machine

/-- SEND (08 R246). -/
def execSend (t : Tid) (rs1 rs2 : GReg) (dsel : BitVec 7) (s : State) : Out :=
  issue t (wLT 0x30 0 rs1 rs2 dsel 0) (sendBody t rs1 rs2 dsel none) s

/-- SENDX (08 R247). -/
def execSendx (t : Tid) (rs1 rs2 : GReg) (s : State) : Out :=
  issue t (wLT 0x30 0 rs1 rs2 0 1) (sendxBody t rs1 rs2) s

/-- SENDT (08 R246): pair rd is the release tick. -/
def execSendt (t : Tid) (rd rs1 rs2 : GReg) (dsel : BitVec 7) (s : State) : Out :=
  issue t (wLT 0x30 rd rs1 rs2 dsel 2) (sendBody t rs1 rs2 dsel (some rd)) s

/-- SENDC (08 R249, R234). -/
def execSendc (t : Tid) (rs1 rs2 : GReg) (dsel : BitVec 7) (s : State) : Out :=
  issue t (wLT 0x30 0 rs1 rs2 dsel 3) (sendcBody t rs1 rs2 dsel) s

/-- CPUT (04 R129). -/
def execCput (t : Tid) (rs1 rs2 : GReg) (dsel : BitVec 7) (s : State) : Out :=
  issue t (wLT 0x30 0 rs1 rs2 dsel 4) (cputBody t rs1 rs2 dsel) s

/-- CEND (04 R129). -/
def execCend (t : Tid) (rs1 rs2 : GReg) (dsel : BitVec 7) (s : State) : Out :=
  issue t (wLT 0x30 0 rs1 rs2 dsel 5) (cendBody t rs1 rs2 dsel) s

/-- SETEV (08 R250). -/
def execSetev (t : Tid) (rs1 : GReg) (dsel : BitVec 7) (s : State) : Out :=
  issue t (wLT 0x30 0 rs1 0 dsel 6) (setevBody t rs1 dsel) s

/-- CLREV (08 R250); `meet` holds the flags that a SETEV reaches in the same cycle. -/
def execClrev (t : Tid) (rs1 : GReg) (meet : Word) (s : State) : Out :=
  issue t (wLT 0x30 0 rs1 0 0 7) (clrevBody t rs1 meet) s

/-- RECV (08 R252). -/
def execRecv (t : Tid) (rd rt : GReg) (dsel : BitVec 7) (s : State) : Out :=
  issue t (wLT 0x31 rd rt 0 dsel 0) (recvBody t rd rt dsel false) s

/-- TRYRECV (08 R252). -/
def execTryrecv (t : Tid) (rd rt : GReg) (dsel : BitVec 7) (s : State) : Out :=
  issue t (wLT 0x31 rd rt 0 dsel 1) (recvBody t rd rt dsel true) s

/-- WAITEV.ANY (04 R133). -/
def execWaitevAny (t : Tid) (rd rs1 : GReg) (s : State) : Out :=
  issue t (wLT 0x31 rd rs1 0 0 2) (waitevBody t rd rs1 false) s

/-- WAITEV.ALL (04 R133). -/
def execWaitevAll (t : Tid) (rd rs1 : GReg) (s : State) : Out :=
  issue t (wLT 0x31 rd rs1 0 0 3) (waitevBody t rd rs1 true) s

/-- SLEEP and SLEEP.A (08 R253). -/
def execSleep (t : Tid) (rs1 : GReg) (dsel : BitVec 7) (s : State) : Out :=
  issue t (wLT 0x31 0 rs1 0 dsel 4) (sleepBody t rs1 dsel) s

/-- YIELD (04 R120). -/
def execYield (t : Tid) (s : State) : Out := issue t (wLT 0x31 0 0 0 0 5) (yieldBody t) s

/-- END (08 R254). -/
def execEndWork (t : Tid) (s : State) : Out := issue t (wLT 0x31 0 0 0 0 6) (endBody t) s

/-! ## Injection and the send park (06 R172, R173) -/

/-- The 256 fc of an injection wait have passed: the token parks, and the send completes where the park has room. -/
def execInjectionWaitTimeout (t : Tid) (s : State) : Out :=
  if ¬ t.wf then .fault .noSuchObject
  else
    match (s.thread t).wait with
    | .inject tok false since =>
      if tok.neverParks then .next s
      else
        let s := s.passFc (clusterSection (tCluster t)) (since + 256)
        let (s, done) := s.tryPark t tok
        .next (if done then s.finish t else s)
    | _ => .next s

/-- Threads of a cluster that wait for VC0 credit or for a place in the park, in the order in which they began to
wait. -/
def State.pumpSends (s : State) (c : ClusterId) : State :=
  let ts := (s.threads.filterMap fun (k, th) =>
    let t : Tid := BitVec.ofNat 13 k
    if isSteward t || tCluster t != c then none
    else match th.wait with
      | .inject _ _ since => some (since, t)
      | .park _ => some (th.lastIssue, t)
      | _ => none)
  (ts.mergeSort fun a b => a.1 ≤ b.1).foldl (fun s e => s.pump e.2) s

/-- The token of a place as it is read for reinjection, where the check finds `ecc`: an uncorrected error makes it poison (10
R302, 02 R43). -/
def State.readPark (s : State) (c : ClusterId) (k : Parked) (ecc : Ecc) : State × Token :=
  let a := parkAddr c k.place
  let p := pcOf (BitVec.ofNat 40 a)
  if ecc = .uncorrected ∨ s.bad a ∨ s.bad (a + 8) ∨ s.bad (a + 16) ∨ s.bad (a + 24) then
    (s.updPch p fun x => { x with ue := satInc x.ue }, k.token.poisoned c)
  else if ecc = .corrected then (s.updPch p fun x => { x with ce := satInc x.ce }, k.token)
  else (s, k.token)

/-- The park reads its oldest token back once its place is written, and reinjects it on VC0, translating PLACE now (02 R38); a
thread that waited for a place parks. -/
def execParkReinject (c : ClusterId) (s : State) (ecc : Ecc := .clean) : Out :=
  match (s.cluster c).park with
  | [] => .next (s.pumpSends c)
  | k :: r =>
    if k.writes.isEmpty && decide (k.token.flits ≤ (s.cluster c).couchOut.avail) then
      let (s, tok) := s.readPark c k ecc
      let s := s.updCluster c fun cl => { cl with park := r, parkFullSince := none }
      .next ((s.injectFrom c tok false true).pumpSends c)
    else .next s

/-- The context with the most parked tokens in a list; of those with equally many, the one whose token parked first (DESIGN CHOICE,
log 125). -/
def mostParked (l : List Parked) : Option CtxId :=
  (l.foldl (fun (best : Option (CtxId × Nat)) k =>
    let x := tagCtx k.token.tag
    let n := l.countP fun j => tagCtx j.token.tag == x
    match best with
    | some (y, m) => if m < n then some (x, n) else some (y, m)
    | none => some (x, n)) none).map (·.1)

/-- A park full for 10 ms: the firmware fences the context with the most parked tokens, with UNDELIVERABLE (06 R173). -/
def execParkFullTimeout (c : ClusterId) (s : State) : Out :=
  match (s.cluster c).parkFullSince with
  | none => .next s
  | some since =>
    if (s.cluster c).park.length < parkPlaces ∨ ¬ s.fwRuns then .next s
    else
    let s := s.passTo (since + scMs 10)
    match mostParked (s.cluster c).park with
    | some x =>
      .next (((s.fence x UNDELIVERABLE).updCluster c fun cl => { cl with parkFullSince := none }).pumpSends c)
    | none => .next s

/-! ## Channel credits and reservations (04 R128, R129) -/

/-- Channel words leave a cluster in order, each taking a stage of the channel and a VC0 credit; `single` marks a word
of no message. -/
def State.sendWords (s : State) (c dc : ClusterId) (d : BitVec 10) (ch : BitVec 3) (toks : List Token) (single : Bool) : State :=
  let s := s.updChan dc d ch fun h =>
    { h with coming := h.coming + toks.length,
             singles := if single then h.singles ++ [clusterRouter c ++ clusterEp c] else h.singles }
  toks.foldl (fun s tok => s.injectFrom c tok false false) s

/-- May a sender put a word that belongs to no message: no message holds the reservation, or the sender's own that is still
open in its outbox does (`mine`; 04 R129)? -/
def Channel.openTo (h : Channel) (mine : Bool) : Bool := h.holder.isNone || mine

/-- A word of SENDC leaves when it has its credits; a request turned back makes it broke (11 R330). -/
def State.chanCredit (s : State) (t : Tid) (task : BitVec 16) (ch : BitVec 3) (v : DWord) (last : Bool) : State :=
  let th := s.thread t
  let x := s.threadCtx t
  let tok : Token := { tag := chanTag x task ch last (s.placeOfTask x task), value := v, tick := none }
  match s.declared x task ch with
  | none => (s.toBroke tok RESERVED_FIELD x false).finish t
  | some (dc, d) =>
    let h := (s.cluster dc).chan d ch
    if s.epShut dc then (s.creditRefused dc x [tok]).finish t
    else if h.openTo (th.outbox.grant && !th.outbox.words.isEmpty) && decide (1 ≤ h.free) &&
        decide (1 ≤ (s.cluster (tCluster t)).couchOut.avail) then (s.sendWords (tCluster t) dc d ch [tok] true).finish t
    else s

/-- The message of a CEND leaves under its reservation when it has its credits; a request turned back makes its words broke (11
R330). -/
def State.cendCredit (s : State) (t : Tid) : State :=
  let o := (s.thread t).outbox
  let x := s.threadCtx t
  match s.declared x o.task o.chan with
  | none => s
  | some (dc, d) =>
    let h := (s.cluster dc).chan d o.chan
    let toks := messageTokens x o.task o.chan (s.placeOfTask x o.task) o.words
    if s.epShut dc then
      (((s.updChan dc d o.chan fun h => h.withdraw (.thread t) o.grant).creditRefused dc x toks).updThread t
        fun th => { th with outbox := {} }).finish t
    else if o.grant && h.holder == some (.thread t) && decide (o.words.length ≤ h.free) &&
        decide (o.words.length ≤ (s.cluster (tCluster t)).couchOut.avail) then
      ((s.sendWords (tCluster t) dc d o.chan toks false).updThread t fun th => { th with outbox := {} }).finish t
    else s

/-- A trap request leaves when its accesses are complete and it has its credits; one turned back goes on waiting for a reply (08
R234, 11 R330, log 132). -/
def State.trapCredit (s : State) (t : Tid) (ws : List DWord) : State :=
  let x := s.threadCtx t
  let h := (s.ctx x).exth
  match s.declared x h 6 with
  | none => s
  | some (dc, d) =>
    let q := (s.cluster dc).chan d 6
    let toks := messageTokens x h 6 (s.placeOfTask x h) ws
    let sent (s : State) : State := (s.updThread t fun th => { th with wait := .trap [] }).stopReq t
    if !(s.thread t).splits.isEmpty || ws.isEmpty then s
    else if s.epShut dc then
      sent ((s.updChan dc d 6 fun q => q.withdraw (.trap t) (q.holder == some (.trap t))).creditRefused dc x toks)
    else if q.holder == some (.trap t) && decide (ws.length ≤ q.free) && decide (ws.length ≤ (s.cluster (tCluster t)).couchOut.avail) then
      sent (s.sendWords (tCluster t) dc d 6 toks false)
    else s

/-- The credit request of a thread: a word, a message or a trap request leaves when it has its credits. -/
def State.threadCredit (s : State) (t : Tid) : State :=
  match (s.thread t).wait with
  | .chan task ch v last => s.chanCredit t task ch v last
  | .cend => s.cendCredit t
  | .trap ws => s.trapCredit t ws
  | _ => s

/-- A reply has come to a thread that waits in a trap (08 R234): every distance counts as elapsed (07 R216, R229), its register
receives RESULT and it goes on, or it faults. -/
def execTrapReply (t : Tid) (s : State) : Out :=
  if ¬ t.wf then .fault .noSuchObject
  else
    let th := s.thread t
    match th.wait, th.reply with
    | .trap _, some v =>
      let s := (s.wake t).updThread t fun th => { th.landAll with reply := none, handle := 0 }
      if v.getLsbD 63 then .next (s.takeFault t ILLEGAL_OP)
      else
        .next ((s.updThread t fun th => th.land { due := none, target := .gpr (wRd th.cur), value := bits v 0 32, clash := none }).retire t)
    | _, _ => .next s

end Sys2Proof.Machine
end

