-- ==== Sys2Proof/Machine/Ingress.lean ====
section
/-! DEFINITION. Cluster ingress, the bypass path, channel words and event messages, and the return of credits (01 R28,
R29, 02 R45, R46, 03 R72, R77, 04 R120-R132, 16 R447). -/

namespace Sys2Proof.Machine

/-! ## The bypass path (03 R72, R77) -/

/-- The bypass path takes a credit for itself where it holds none (03 R80). -/
def State.bypassRefill (s : State) (c : ClusterId) : State :=
  s.updCluster c fun cl =>
    if cl.bypassCr || cl.readyCr.avail == 0 then cl
    else { cl with bypassCr := true, readyCr := { cl.readyCr with avail := cl.readyCr.avail - 1 } }

/-- One single-input token becomes an activation in the ready queue, under the credit of the bypass path. -/
def State.bypassOne (s : State) (c : ClusterId) (tok : Token) : State :=
  let x := tagCtx tok.tag
  if s.shut c x then s.toBroke tok UNDELIVERABLE x true
  else
    ((s.updCluster c fun cl => { cl with bypassCr := false }).enqueue c
      (.activation (s.mkAct c x (tagNode tok.tag) (tagInst tok.tag) [tok.entry 0 s.free]))).bypassRefill c

/-- The bypass path takes a token: it goes after a position that has left, or becomes an activation; none where it must
wait. -/
def State.bypassTake (s : State) (c : ClusterId) (tok : Token) : Option State :=
  match (s.cluster c).forward (tagCtx tok.tag) with
  | some (n, f) => s.forwardToken c n f tok
  | none => if (s.cluster c).bypassCr then some (s.bypassOne c tok) else none

/-- The bypass path moves tokens while it holds a credit; where both sources hold one it takes them alternately. -/
def State.bypassRun (c : ClusterId) : Nat → State → State
  | 0, s => s
  | n + 1, s =>
    let cl := s.cluster c
    let rel := match cl.bypassIn, cl.bypassRel with | [], _ => true | _, [] => false | _, _ => !cl.bypassLast
    match rel, cl.bypassIn, cl.bypassRel with
    | false, t :: r, _ =>
      (match s.bypassTake c t with
       | none => s
       | some s => bypassRun c n ((s.updCluster c fun cl => { cl with bypassIn := r, bypassLast := false }).couchFreed c t.flits))
    | true, _, t :: r =>
      (match s.bypassTake c t with
       | none => s
       | some s => bypassRun c n (s.updCluster c fun cl => { cl with bypassRel := r, bypassLast := true }))
    | _, _, _ => s

/-- The bypass path moves what it can. -/
def State.bypass (s : State) (c : ClusterId) : State :=
  bypassRun c ((s.cluster c).bypassIn.length + (s.cluster c).bypassRel.length) s

/-- Activations that have come with a position enter the ready queue while the store has credits (log 49). -/
def State.movedRun (c : ClusterId) : Nat → State → State
  | 0, s => s
  | n + 1, s =>
    match (s.cluster c).movedIn with
    | [] => s
    | a :: r =>
      if (s.cluster c).readyCr.avail = 0 then s
      else movedRun c n ((s.updCluster c fun cl => { cl with movedIn := r }).readyAct c a)

/-- The output register, the activations that have come with a position, then the bypass path, use the credits that have come
back (03 R80, log 113). -/
def State.outputRun (s : State) (c : ClusterId) : State :=
  let cl := s.cluster c
  let s := match cl.output with
    | some a => if cl.readyCr.avail > 0 then (s.updCluster c fun cl => { cl with output := none }).readyAct c a else s
    | none => s
  ((movedRun c (s.cluster c).movedIn.length s).bypassRefill c).bypass c

/-! ## Ingress (02 R45, 16 R447) -/

/-- Packets delivered to a cluster on a virtual channel, none while the section has no power or its clock is gated (15
R422, R427). -/
def State.inbox (s : State) (c : ClusterId) (vc : BitVec 2) : List Packet :=
  if s.sectRuns c then s.spine.inq.getD (bufKey (clusterRouter c) (4 + (clusterEp c).toNat) vc) [] else []

/-- The head packet of a cluster's inbound couch has been read. -/
def State.readInbox (s : State) (c : ClusterId) (vc : BitVec 2) : State :=
  s.updSpine fun n => { n with inq := n.inq.upd (bufKey (clusterRouter c) (4 + (clusterEp c).toNat) vc) [] List.tail }

/-- The position of a context at a cluster. -/
def Cluster.positionOf (cl : Cluster) (x : CtxId) : Option (BitVec 6) := (cl.slotOf x).map fun n => cl.position.getD n 0

/-- The checks of 02 R45 for a token that is not of a channel kind. -/
def State.ingressNode (s : State) (c : ClusterId) (tag : DWord) : Bool :=
  let x := tagCtx tag
  match s.imageOf x, (s.cluster c).positionOf x with
  | some m, some k =>
    (match m.node (tagNode tag), m.group (tagNode tag) with
     | some r, some g => g.covers k.toNat && r.required.contains (tagPort tag)
     | _, _ => false)
  | _, _ => false

/-- The descriptor of a task at a cluster. -/
def Cluster.findTask (cl : Cluster) (x : CtxId) (task : BitVec 16) : Option (BitVec 10) :=
  if cl.slotOf x = none then none
  else (cl.tasks.first fun _ k => k.ctx == x && k.task == task).map fun e => BitVec.ofNat 10 e.1

/-- A token of an input that has passed its checks goes to the delay list, the bypass path or the lookups. -/
def State.acceptNode (s : State) (c : ClusterId) (tok : Token) : State :=
  let x := tagCtx tok.tag
  let s := s.act c x
  match tok.tick with
  | some k =>
    (match s.dlInsert c x k (.inl tok) with
     | some s => (s.inflightSub x 1).couchFreed c 2
     | none => (s.violation tok).couchFreed c 2)
  | none =>
    match s.requiredOf x (tagNode tok.tag) with
    | some [_] => (s.updCluster c fun cl => { cl with bypassIn := cl.bypassIn ++ [tok] }).bypass c
    | _ => s.updCluster c fun cl => { cl with ingress := cl.ingress ++ [tok] }

/-- The token that the payload of an EVENT stands for: its tag names the context and the task (log 131). -/
def eventToken (v : DWord) : Token :=
  { tag := mkTag (bits v 0 13) (BitVec.setWidth 20 (bits v 13 16 : BitVec 16)) 0 0 2 0, value := v, tick := none }

/-- The context a VC0 packet is for: that of its tag, or of its event (11 R317). -/
def Packet.ctx (p : Packet) : CtxId := if p.type = 2 then bits p.head 0 13 else tagCtx (bits p.head 0 64)

/-- The token read from the inbound couch (02 R45, R46): it is forwarded, refused, or goes to its place. An EVENT waits
for its own command. -/
def execClusterIngress (c : ClusterId) (s : State) : Out :=
  match s.inbox c 0 with
  | [] => .next s
  | p :: _ =>
    if p.type = 2 then .next s
    else
      let tok := packetToken p
      let x := tagCtx tok.tag
      match (s.cluster c).forward x with
      | some (n, f) =>
        if tok.flits ≤ (s.cluster c).couchOut.avail then
          .next (((s.readInbox c 0).couchFreed c tok.flits).forwardPacket c n f p)
        else .next s
      | none =>
        let s := s.readInbox c 0
        if s.shut c x then .next ((s.toBroke tok UNDELIVERABLE x true).couchFreed c tok.flits)
        else if tagKind tok.tag = 2 ∨ tagKind tok.tag = 3 then
          match (s.cluster c).findTask x (bits (tagNode tok.tag) 0 16) with
          | some d =>
            if ((s.cluster c).task d).chmask.getLsbD (bits (tagInst tok.tag) 0 3).toNat then
              .next (((s.updCluster c fun cl => { cl with chanIn := cl.chanIn ++ [(tok, p.sr ++ p.se)] }).act c x).couchFreed c 1)
            else .next ((s.toBroke tok RESERVED_FIELD x true).couchFreed c 1)
          | none => .next ((s.toBroke tok RESERVED_FIELD x true).couchFreed c 1)
        else if s.ingressNode c tok.tag then .next (s.acceptNode c tok)
        else .next ((s.toBroke tok RESERVED_FIELD x true).couchFreed c tok.flits)

/-! ## Channel words (04 R129, R131) -/

/-- A word is written to the chain: a message's words become visible with its end word, which releases the
reservation. -/
def Channel.put (h : Channel) (w : ChWord) (src : Byte) : Channel :=
  let ws := h.words ++ [w]
  if h.singles.contains src then
    { h with words := ws, coming := h.coming - 1, singles := h.singles.erase src,
             visible := if h.msgOpen then h.visible else ws.length }
  else if w.last then
    { h with words := ws, coming := h.coming - 1, msgOpen := false, holder := none, visible := ws.length }
  else { h with words := ws, coming := h.coming - 1, msgOpen := true }

/-- The word that a read of the stage gives, with the error that it meets there (02 R39, R43, 16 R441). -/
def stageWord (c : ClusterId) (tok : Token) (ecc : Ecc) : ChWord :=
  if ecc = .uncorrected then { value := poisonValue ECC_UNCORRECTED c, last := tagKind tok.tag == 3, poison := true }
  else { value := tok.value, last := tagKind tok.tag == 3, poison := false }

/-- A channel word is written to its stage, and its task wakes; `ecc` is what a read of the stage will find. -/
def execChannelWordArrival (c : ClusterId) (s : State) (ecc : Ecc := .clean) : Out :=
  match (s.cluster c).chanIn with
  | [] => .next s
  | (tok, src) :: r =>
    let x := tagCtx tok.tag
    match (s.cluster c).forward x with
    | some (n, f) =>
      if 1 ≤ (s.cluster c).couchOut.avail then
        .next ((s.updCluster c fun cl => { cl with chanIn := r }).forwardPacket c n f
          { clusterPacket c 0 0 0 0 (tokenFlits tok) with sr := bits src 4 4, se := bits src 0 4 })
      else .next s
    | none =>
      let s := s.updCluster c fun cl => { cl with chanIn := r }
      match (if s.shut c x then none else (s.cluster c).findTask x (bits (tagNode tok.tag) 0 16)) with
      | none => .next (s.toBroke tok UNDELIVERABLE x true)
      | some d =>
        let s := if ecc = .corrected then s.countCe c else s
        .next (((s.updChan c d (bits (tagInst tok.tag) 0 3) (·.put (stageWord c tok ecc) src)).inflightSub x 1).wakeTask c d)

/-- The next requester in order receives the reservation of a channel (04 R129). -/
def execChannelReservationGrant (c : ClusterId) (d : BitVec 10) (ch : BitVec 3) (s : State) : Out :=
  let h := (s.cluster c).chan d ch
  match h.holder, h.queue with
  | none, who :: r =>
    let s := s.updChan c d ch fun h => { h with holder := some who, queue := r }
    .next (match who with
      | .thread t => s.updThread t fun th => { th with outbox := { th.outbox with grant := true } }
      | .task e k => s.updTask e k fun x => { x with outbox := { x.outbox with grant := true } }
      | .ring f r => s.updRing f r fun g => { g with asm := g.asm.map fun o => { o with grant := true } }
      | _ => s)
  | _, _ => .next s

/-! ## Event messages (04 R123, R124, R132, 08 R250) -/

/-- A sleep entry leaves the delay list (05 R153, R156). -/
def State.dropSleep (s : State) (c : ClusterId) (d : BitVec 10) : State :=
  let cl := s.cluster c
  let old := cl.dl.length
  let dl := cl.dl.filter fun e => e.item != .inr d
  if dl.length = old then s
  else
    let x := (cl.task d).ctx
    ((s.updCluster c fun cl =>
      { cl with
        dl := dl
        dlRes := match cl.slotOf x with
          | some n => cl.dlRes.upd n {} fun r => { r with held := r.held - 1 }
          | none => cl.dlRes }).timersSub x).dlLevel c old

/-- A task goes to DORMANT by cancel; a thread that holds it lets it go (04 R124). -/
def State.cancelTask (s : State) (c : ClusterId) (d : BitVec 10) : State :=
  let s := (s.unready c d).dropSleep c d
  match s.threadOfTask c d with
  | some t => s.endTask t d
  | none => (s.tearSaved c d).toDormant c d

/-- SETEV with flag 30 (04 R124); `meet` says that a ready event of the task meets the cancel, which wins (R123). -/
def State.cancelEvent (s : State) (c : ClusterId) (d : BitVec 10) (meet : Bool) : State :=
  let k := (s.cluster c).task d
  let s := if meet then s.updCluster c fun cl => { cl with rdycancel := satInc cl.rdycancel } else s
  if k.state = RUNNINGT ∨ k.state = STOPPEDT then s.updTask c d fun k => { k with cancelp := true }
  else if k.state = FAULTED then s
  else s.cancelTask c d

/-- SETEV with flag 31 (04 R124). -/
def State.restartEvent (s : State) (c : ClusterId) (d : BitVec 10) : State :=
  if ((s.cluster c).task d).state = FAULTED then
    match s.threadOfTask c d with
    | some t => s.endTask t d
    | none => s.toDormant c d
  else s

/-- SETEV with a software flag: the flag is set, a DORMANT task starts, and a waiting one is tested again (04 R120,
R132, R133). -/
def State.flagEvent (s : State) (c : ClusterId) (d : BitVec 10) (f : BitVec 5) : State :=
  let s := s.updTask c d fun k => { k with evflags := k.evflags ||| ((1 : Word) <<< f.toNat) }
  if ((s.cluster c).task d).state = DORMANT then s.makeReady c d else s.wakeTask c d

/-- Does a thread hold the fault record of a task, for want of a fault-buffer place? -/
def State.heldFault (s : State) (c : ClusterId) (d : BitVec 10) : Bool :=
  match s.threadOfTask c d with
  | some t => (s.thread t).heldRec.isSome
  | none => false

/-- An EVENT packet reaches its task (08 R250). A restart waits while the task's fault record has no place. -/
def execEventMessage (c : ClusterId) (meet : Bool) (s : State) : Out :=
  match s.inbox c 0 with
  | [] => .next s
  | p :: _ =>
    if p.type ≠ 2 then .next s
    else
      let x := p.ctx
      let task : BitVec 16 := bits p.head 13 16
      let f : BitVec 5 := bits p.head 29 5
      let tok : Token := eventToken (bits p.head 0 64)
      match (s.cluster c).forward x with
      | some (n, w) =>
        if 1 ≤ (s.cluster c).couchOut.avail then .next (((s.readInbox c 0).couchFreed c 1).forwardPacket c n w p)
        else .next s
      | none =>
        if s.shut c x then .next (((s.readInbox c 0).toBroke tok UNDELIVERABLE x true).couchFreed c 1)
        else
          match (s.cluster c).findTask x task with
          | none => .next (((s.readInbox c 0).toBroke tok RESERVED_FIELD x true).couchFreed c 1)
          | some d =>
            if f = 31 ∧ s.heldFault c d then .next s
            else
              let s := ((((s.readInbox c 0).couchFreed c 1).inflightSub x 1).act c x)
              if f = 30 then .next (s.cancelEvent c d meet)
              else if f = 31 then .next (s.restartEvent c d)
              else .next (s.flagEvent c d f)

/-! ## Credits come back (01 R28, R29) -/

/-- One credit comes back to the producer, whose count never exceeds the `cap` places of its consumer (01 R29). -/
def Credits.back (cap : Nat) (k : Credits) : Credits :=
  if k.owed = 0 ∨ cap ≤ k.avail then k else { avail := k.avail + 1, owed := k.owed - 1 }

/-- A consumer returns a credit to its producer, which goes on where it waited for it. -/
def execCreditReturn (b : Boundary) (s : State) : Out :=
  match b with
  | .headbox false => .next (s.updHub fun h => { h with linkA := h.linkA.back 16 })
  | .headbox true => .next (s.updHub fun h => { h with linkB := h.linkB.back 16 })
  | .couchIn c => .next (s.updCluster c fun cl => { cl with couchIn := cl.couchIn.back 16 })
  | .dispatch c => .next ((s.updCluster c fun cl => { cl with readyCr := cl.readyCr.back 255 }).outputRun c)
  | .couchOut c => .next ((s.updCluster c fun cl => { cl with couchOut := cl.couchOut.back 16 }).pumpSends c)
  | .processIo => .next (s.updEth fun e => { e with credits := e.credits.back 16 })

end Sys2Proof.Machine
end

