-- ==== Sys2Proof/Machine/DelayList.lean ====
section
/-! DEFINITION. Release from the delay list, and the records of key errors in the delay list and the matching store
(05 R151-R159, 03 R93). -/

namespace Sys2Proof.Machine

/-- The kind a released time-tagged token takes (02 R39); one whose value is lost stays poison. -/
def releasedTag (tag : DWord) : DWord :=
  if tagKind tag = 6 then tag else putBits tag 10 (if tagPort tag = 3 then (4 : BitVec 3) else 0)

/-- The entry at place `i` leaves the list: its reservation and TIMERS fall. -/
def State.dlRemove (s : State) (c : ClusterId) (i : Nat) (e : DlEntry) : State :=
  let old := (s.cluster c).dl.length
  ((s.updCluster c fun cl =>
    { cl with
      dl := dropAt cl.dl i
      dlRes := match cl.slotOf e.ctx with
        | some n => cl.dlRes.upd n {} fun r => { r with held := r.held - 1 }
        | none => cl.dlRes
      dlCnt := { cl.dlCnt with rel := satInc cl.dlCnt.rel } }).timersSub e.ctx).dlLevel c old

/-- A sleeping task's tick is released (04 R120, R122). -/
def State.wakeSleep (s : State) (c : ClusterId) (d : BitVec 10) : State :=
  let k := (s.cluster c).task d
  if k.state = DELAYED then s.makeReady c d
  else if k.state = STOPPEDT then s.updTask c d fun k => { k with prev := READY }
  else s

/-- One entry is released. -/
def State.releaseEntry (s : State) (c : ClusterId) (i : Nat) (e : DlEntry) : State :=
  let s := s.dlRemove c i e
  match e.item with
  | .inr d => s.wakeSleep c d
  | .inl tok =>
    let tok : Token := { tag := releasedTag tok.tag, value := tok.value, tick := none }
    let s := s.inflightAdd e.ctx 1
    match s.requiredOf e.ctx (tagNode tok.tag) with
    | some [_] => (s.updCluster c fun cl => { cl with bypassRel := cl.bypassRel ++ [tok] }).bypass c
    | _ => s.updCluster c fun cl => { cl with release := cl.release ++ [tok] }

/-- The first releasable entry that can go; while the release queue is full token entries wait (05 R154). -/
def State.dlNext (s : State) (c : ClusterId) : Option (Nat × DlEntry) :=
  let cl := s.cluster c
  let k := s.fc c
  match cl.dl.findIdx? fun e => s.dlDue e && decide (e.elig ≤ k) && (!e.isToken || cl.releaseRoom) with
  | some i => (cl.dl[i]?).map fun e => (i, e)
  | none => none

/-- An entry of the list shows an uncorrected error: it is invalidated, counted and recorded, and the running firmware compares
(05 R158). -/
def State.dlKeyError (s : State) (c : ClusterId) (i : Nat) : State :=
  let old := (s.cluster c).dl.length
  let s := (s.updCluster c fun cl =>
    { cl with dl := dropAt cl.dl i, dlCnt := { cl.dlCnt with ue := satInc cl.dlCnt.ue } }).dlLevel c old
  let s := s.mgmtRecord recKeyError ECC_UNCORRECTED (BitVec.setWidth 64 c)
  if s.fwRuns then s.keyCheck c else s

/-- The entry at place `i` is read for its release, and its check finds `err` (05 R158). -/
def State.dlRead (s : State) (c : ClusterId) (i : Nat) (e : DlEntry) (err : EntryErr) : State :=
  match err with
  | .clean => s.releaseEntry c i e
  | .corrected =>
    ((s.updCluster c fun cl => { cl with dlCnt := { cl.dlCnt with ce := satInc cl.dlCnt.ce } }).countCe c).releaseEntry c i e
  | .value =>
    match e.item with
    | .inr _ => s.releaseEntry c i e
    | .inl tok =>
      (s.updCluster c fun cl => { cl with dlCnt := { cl.dlCnt with ue := satInc cl.dlCnt.ue } }).releaseEntry c i
        { e with item := .inl (tok.poisoned c) }
  | .key => s.dlKeyError c i

/-- Up to 2 entries per fc are released in list order (05 R154); where none is eligible yet, fabric cycles pass until one
is. The read of the first finds `err`, that of the second `err2`. -/
def execDelayListRelease (c : ClusterId) (s : State) (err : EntryErr := .clean) (err2 : EntryErr := .clean) : Out :=
  let due := (s.cluster c).dl.filter s.dlDue
  let s := match (due.map (·.elig)).min? with
    | some k => s.passFc (clusterSection c) k
    | none => s
  match s.dlNext c with
  | none => .next s
  | some (i, e) =>
    let s := s.dlRead c i e err
    match s.dlNext c with
    | none => .next s
    | some (i, e) => .next (s.dlRead c i e err2)

/-! ## Key errors (03 R93, 05 R158) -/

/-- A key error in a way of the matching store: the way is invalidated, and the record makes the firmware count (03
R93). -/
def execMsKeyErrorRecord (c : ClusterId) (set : BitVec 11) (way : BitVec 3) (s : State) : Out :=
  .next ((s.updSet c set.toNat fun m => { m with ways := m.ways.filter fun w => w.1 != way }).keyError c (8 * set.toNat + way.toNat))

/-- A key error in a delay-list entry: the entry is invalidated, and the record makes the firmware compare (05 R158). -/
def execDlKeyErrorRecord (c : ClusterId) (i : BitVec 12) (s : State) : Out :=
  if (s.cluster c).dl.length ≤ i.toNat then .next s else .next (s.dlKeyError c i.toNat)

end Sys2Proof.Machine
end

