-- ==== Sys2Proof/Machine/Memory.lean ====
section
/-! DEFINITION. The homes of memory: banks, pseudo-channels and the lock unit, bank ownership and window caches (10 R292-R309). -/

namespace Sys2Proof.Machine

/-! ## Requests and responses (11 R317, R318) -/

/-- The number of the queue of packets delivered to endpoint `e` of router `r`. -/
def inKey (r e : BitVec 4) (vc : BitVec 2) : Nat := bufKey r (4 + e.toNat) vc
/-- Packets delivered to an endpoint. -/
def State.inq (s : State) (r e : BitVec 4) (vc : BitVec 2) : List Packet := s.spine.inq.getD (inKey r e vc) []
/-- Replace them. -/
def State.setInq (s : State) (r e : BitVec 4) (vc : BitVec 2) (l : List Packet) : State :=
  s.updSpine fun n => { n with inq := n.inq.set (inKey r e vc) l }

/-- A response leaves endpoint `e` of router `r` toward the requester. -/
def State.respond (s : State) (r e : BitVec 4) (p : Packet) (status : Byte) (data : DWord) (more : List (BitVec 128)) : State :=
  let ty : BitVec 4 := if p.type = 3 then 7 else if p.type = 4 then 8 else 9
  s.pushBuf r (4 + e.toNat)
    { dr := p.sr, de := p.se, vc := 2, type := ty, epoch := false, sr := r, se := e, pri := false,
      flits := responseHead (reqTxn p.head) status (if status = 0 then data else 0) :: (if status = 0 then more else []) }

/-- The access has been performed at its target: the thread that issued it may release or go on (08 R243, R248). -/
def State.performed (s : State) (p : Packet) : State :=
  if reqMaster p.head = 0 ∨ reqMaster p.head = 2 then
    let t := txnThread p.sr p.se (reqTxn p.head)
    (s.updThread t fun th =>
      { th with splits := th.splits.map fun q => if q.txn = reqTxn p.head then { q with performed := true } else q }).pump t
  else s

/-- The word that a CAS read whose write is discarded is kept for its destination (08 R242, log 16). -/
def State.keepOld (s : State) (p : Packet) (v : DWord) : State :=
  if p.type = 5 ∧ (reqMaster p.head = 0 ∨ reqMaster p.head = 2) then
    s.updThread (txnThread p.sr p.se (reqTxn p.head)) fun th =>
      { th with splits := th.splits.map fun q => if q.txn = reqTxn p.head then { q with old := some v } else q }
  else s

/-- Bytes of a request. -/
def reqBytes (h : BitVec 128) : Nat := if reqSize h = 5 then 64 else 2 ^ (reqSize h).toNat

/-- The 8-byte words that a write of `n` bytes at `a` replaces whole lose their error. -/
def State.healRange (s : State) (a n : Nat) : State :=
  { s with uecc := s.uecc.filter fun w => !((a + 7) / 8 ≤ w && decide (8 * w + 8 ≤ a + n)) }

/-- Does a write of `n` bytes at `a` leave part of a word with an uncorrected error? -/
def State.badPart (s : State) (a n : Nat) : Bool :=
  s.uecc.any fun w => a / 8 ≤ w && decide (w ≤ (a + n - 1) / 8) && !((a + 7) / 8 ≤ w && decide (8 * w + 8 ≤ a + n))

/-- The bytes a write request stores: the enabled bytes of a write of up to 16 B, all of 64 B. -/
def State.writeRequest (s : State) (p : Packet) : State :=
  let a := (reqPa p.head).toNat
  if reqSize p.head = 5 then
    (List.range 4).foldl (fun s i => s.wr (a + 16 * i) 16 (p.flits.getD (i + 1) 0).toNat) s
  else if inSpill a then s.spillStore a (reqBe p.head) p.flit1
  else
    (List.range (reqBytes p.head)).foldl (fun s i =>
      if (reqBe p.head).getLsbD i then s.wr (a + i) 1 (bits p.flit1 (8 * i) 8).toNat else s) s

/-- Data flits of a read response above 8 B. -/
def State.readFlits (s : State) (a n : Nat) : List (BitVec 128) :=
  if n ≤ 8 then [] else (List.range (n / 16)).map fun i => BitVec.ofNat 128 (s.load (a + 16 * i) 16)

/-- What a memory home does with a request: the new state, the status and the data (10 R300, R302, R305). -/
def State.memRequest (s : State) (p : Packet) : State × Byte × DWord × List (BitVec 128) :=
  let a := (reqPa p.head).toNat
  let n := reqBytes p.head
  if p.type = 3 then
    if s.badRange a n then (s, ECC_UNCORRECTED, 0, [])
    else (s, 0, BitVec.ofNat 64 (if n ≤ 8 then s.load a n else 0), s.readFlits a n)
  else if p.type = 4 then
    if s.badPart a n then (s, ECC_UNCORRECTED, 0, [])
    else ((s.writeRequest p).healRange a n, 0, 0, [])
  else
    if s.badRange a 8 then (s, ECC_UNCORRECTED, 0, [])
    else
      let old := BitVec.ofNat 64 (s.load a 8)
      (if old = bits p.flit1 0 64 then s.store a 8 (bits p.flit1 64 64).toNat else s, 0, old, [])

/-! ## Banks (10 R295-R300) -/

/-- May a request use bank `b` (10 R297)? -/
def Bank.allows (b : Bank) (h : BitVec 128) : Bool :=
  if reqMaster h = 0 || reqMaster h = 1 then b.grants (reqCtx h) else true

/-- The first request for bank `n` in a queue, with the queue without it. -/
def takeBank (n : Byte) : List Packet → Option (Packet × List Packet)
  | [] => none
  | p :: r => if bankOf (reqPa p.head).toNat = n then some (p, r) else (takeBank n r).map fun (q, l) => (q, p :: l)

/-- How many packets of the queue of a cluster's requests have left the couch for the 8-entry queues of their banks; a full queue
holds the couch (10 R295). `f` counts what each bank's queue holds. -/
def leftCouch : (Byte → Nat) → List Packet → Nat
  | _, [] => 0
  | f, p :: r =>
    let b := bankOf (reqPa p.head).toNat
    if f b < 8 then 1 + leftCouch (fun x => if x = b then f b + 1 else f x) r else 0

/-- The effect of a single-bit or double-bit error met at a word (10 R300): it is counted, or marked. -/
def State.bankEcc (s : State) (n : Byte) (a : Nat) (ecc : Ecc) : State :=
  match ecc with
  | .clean => s
  | .corrected => (s.updBank n fun b => { b with ce := satInc b.ce }).countCe (bankCluster n)
  | .uncorrected => s.setBad a true

/-- The address a forwarded bank access takes (16 R448). -/
def forwardPa (dst : Byte) (pa : BitVec 40) : BitVec 40 :=
  BitVec.ofNat 40 (bankBase + dst.toNat * 0x40000 + (pa.toNat - bankBase) % 0x40000)

/-- An access with an old address goes on to the bank that holds the copy (16 R448). -/
def State.forwardBank (s : State) (n : Byte) (p : Packet) : State :=
  let b := s.bank n
  let pa := forwardPa b.fwdBank (reqPa p.head)
  let c := bankCluster n
  let d := bankCluster b.fwdBank
  let s := s.updSect (clusterSection c) fun x => { x with lastFwd := s.scnt }
  s.pushBuf (clusterRouter c) (4 + (clusterEp c).toNat)
    { p with dr := clusterRouter d, de := clusterEp d, flits := putBits p.head 0 pa :: p.flits.tail }

/-- Port B performs a request; `lost` says that port A wrote a byte it would write otherwise, and `before` is the machine before
port A's write (10 R299). -/
def State.portB (s : State) (n : Byte) (p : Packet) (lost : Bool) (before : State) : State :=
  let c := bankCluster n
  let r := clusterRouter c
  let e := clusterEp c
  let s := s.updBank n fun b => { b with takenB := some (s.fc c) }
  if ¬ (s.bank n).allows p.head then
    ((s.updBank n fun b => { b with refuse := satInc b.refuse }).performed p).respond r e p ADDR_RIGHTS 0 []
  else if lost then
    let old := BitVec.ofNat 64 (before.rd (reqPa p.head).toNat 8)
    (((s.updBank n fun b => { b with coll := satInc b.coll }).keepOld p old).performed p).respond r e p LOST_TO_A 0 []
  else
    let (q, st, v, more) := (if p.type = 3 then { s with mem := before.mem, uecc := before.uecc } else s).memRequest p
    let q := if p.type = 3 then { q with mem := s.mem, uecc := s.uecc } else q
    let q := if st = ECC_UNCORRECTED then q.updBank n fun b => { b with ue := satInc b.ue } else q
    (q.performed p).respond r e p st v more

/-- Do a port-A write and a port-B write of one fc differ in a byte both enable, or does a CAS meet the write (10
R299)? -/
def portLost (a : PortA) (pa : Nat) (p : Packet) : Bool :=
  let b := (reqPa p.head).toNat
  let n := 2 ^ a.size.toNat
  a.store &&
    (if p.type = 5 then pa / 8 == b / 8
     else if p.type = 4 then
       (List.range n).any fun i =>
         let j := pa + i - b
         b ≤ pa + i && decide (j < reqBytes p.head) && (reqSize p.head == 5 || (reqBe p.head).getLsbD j) &&
           bits a.data (8 * i) 8 != (bits (p.flits.getD (1 + j / 16) 0) (8 * (j % 16)) 8 : Byte)
     else false)

/-- Address of a port-A access. -/
def portPa (a : PortA) (n : Byte) : Nat := bankBase + n.toNat * 0x40000 + a.offset.toNat

/-- Port A performs a near access of a thread of the cluster: the machine after it, and whether it was performed. A read sees the
machine `before` port B's write. -/
def State.portA (s : State) (n : Byte) (a : PortA) (before : State) : State × Bool :=
  let t := a.thread
  let size := 2 ^ a.size.toNat
  let s := s.updBank n fun b => { b with lastPe := tPe t, taken := some (s.fc (bankCluster n)) }
  let s' : State := if a.store then s else { s with mem := before.mem, uecc := before.uecc }
  match s'.nearAt (if isSteward t then none else some (s.threadCtx t)) (portPa a n) size a.store a.data with
  | .fault q cause => (({ q with mem := s.mem, uecc := s.uecc }).takeFault t cause, false)
  | .wait _ => (s, false)
  | .done q v =>
    if a.store then (q, true)
    else
      let q := { q with mem := s.mem, uecc := s.uecc, free := s.free + 1 }
      (q.updThread t fun th => th.writeLoad s.free (some (s.threadClock t + 4)) a.rd a.size a.signed v, true)

/-- The request that port B takes next at a bank: none while the bank is filled with zeros. -/
def State.portBNext (s : State) (n : Byte) : Option (Packet × List Packet) :=
  let c := bankCluster n
  let l := s.inq (clusterRouter c) (clusterEp c) 1
  let k := leftCouch (fun _ => 0) l
  if !(s.bank n).clring && s.sectRuns c then (takeBank n (l.take k)).map fun (p, r) => (p, r ++ l.drop k) else none

/-- A bank accepts an access of port A, of port B or of both in one fc: ownership is checked and the access performed (10
R297-R300). -/
def execBankAccess (n : BitVec 8) (a : Option PortA) (b : Bool) (ecc : Ecc) (s : State) : Out :=
  let c := bankCluster n
  if (match a with | some x => !x.thread.wf | none => false) then .fault .noSuchObject
  else
    let k := s.bank n
    let pick := if b then s.portBNext n else none
    let s := match pick with
      | some (_, rest) => s.setInq (clusterRouter c) (clusterEp c) 1 rest
      | none => s
    let s := match pick, a with
      | some (p, _), _ => s.bankEcc n (reqPa p.head).toNat ecc
      | none, some x => s.bankEcc n (portPa x n) ecc
      | none, none => s
    let portB (t : State) (lost : Bool) : State := match pick with
      | some (p, _) => if k.fwdValid then t.forwardBank n p else t.portB n p lost s
      | none => t
    match a with
    | none => .next (portB s false)
    | some x =>
      if x.store then
        let r := s.portA n x s
        .next (portB r.1 (r.2 && match pick with | some (p, _) => portLost x (portPa x n) p | none => false))
      else .next ((portB s false).portA n x s).1

/-- A write to BANK_OWNER[n] (10 R298): KIND 3 is ignored whole, and CLR starts the zero-fill. -/
def State.bankOwner (s : State) (n : Byte) (v : Word) : State :=
  let kind : BitVec 2 := bits v 0 2
  if kind = 3 then s
  else
    let clr := v.getLsbD 2
    s.updBank n fun b =>
      { b with kind := kind, ctx := bits v 4 13, clring := b.clring || clr,
               clrDue := if clr then s.fc (bankCluster n) + 4096 else b.clrDue
               pendDue := max ((b.taken.map (· + 6)).getD 0) ((b.takenB.map (· + 6)).getD 0) }

/-- BANK_OWNER[n] is written. -/
def execBankOwnerWrite (n : BitVec 8) (v : Word) (s : State) : Out := .next (s.bankOwner n v)

/-- Threads whose near access waits for a bank, or whose access waits for a window, try again. -/
def State.pumpAll (s : State) (p : Wait → Bool) : State :=
  (s.threads.filter fun e => p e.2.wait).foldl (fun s e => s.pump (BitVec.ofNat 13 e.1)) s

/-- Is the thread's near access waiting at bank `n`? -/
def Thread.waitsAt (th : Thread) (n : Byte) : Bool := match th.wait with | .bank _ pa => bankOf pa.toNat == n | _ => false

/-- The near accesses that wait at a bank are performed one in each fc, in the order of 10 R296; `left` bounds their number. -/
def State.serveBank (s : State) (n : Byte) : Nat → List Tid → State
  | 0, _ => s
  | left + 1, ts =>
    match firstBy (s.bankBefore n) ts with
    | none => s
    | some t =>
      let rest := ts.filter (· != t)
      let s := (s.pump t).updBank n fun b =>
        { b with cntWait := (rest.map fun u => (tPe u).toNat).eraseDups.foldl (fun m p => m.upd p 0 satInc) b.cntWait }
      s.serveBank n left rest

/-- A bank's zero-fill ends: every word is zero, and the accesses that waited are performed (10 R298). -/
def State.zeroFilled (s : State) (n : Byte) : State :=
  let b := s.bank n
  if b.clring then
    let s := s.passFc (clusterSection (bankCluster n)) b.clrDue
    let base := bankBase + n.toNat * 0x40000
    let s := { s with mem := Memory.clear s.mem base 0x40000, uecc := s.uecc.filter fun w => !(base / 8 ≤ w && decide (w < base / 8 + 32768)) }
    let ts := (s.threads.filter fun e => e.2.waitsAt n).map fun e => BitVec.ofNat 13 e.1
    (s.updBank n fun b => { b with clring := false }).serveBank n ts.length ts
  else s

/-- A zero-fill ends. -/
def execZeroFillComplete (n : BitVec 8) (s : State) : Out := .next (s.zeroFilled n)

/-! ## HBM (10 R301-R303, R305) -/

/-- Does a request read a word of its home: a read, a CAS or a sub-word write (10 R302)? -/
def Packet.readsHome (p : Packet) : Bool := p.type != 4 || decide (reqBytes p.head < 8)

/-- A pseudo-channel performs its oldest request; what it reads may show an error. -/
def execHbmAccess (p : BitVec 4) (ecc : Ecc) (s : State) : Out :=
  let (r, e) := pcHome p
  match (if s.clockRuns .memc then s.inq r e 1 else []) with
  | [] => .next s
  | q :: rest =>
    let s := s.setInq r e 1 rest
    let s := match if q.readsHome then ecc else .clean with
      | .clean => s
      | .corrected => s.updPch p fun x => { x with ce := satInc x.ce }
      | .uncorrected => s.setBad (reqPa q.head).toNat true
    let (s, st, v, more) := s.memRequest q
    let s := if st = ECC_UNCORRECTED then s.updPch p fun x => { x with ue := satInc x.ue } else s
    .next ((s.performed q).respond r e q st v more)

/-- The refresh rate after a reading of the stack's sensors, in units of 0.125 °C (10 R303). -/
def refreshRate (cur : BitVec 3) (v : Int) : BitVec 3 :=
  if v > 840 then 4
  else if v > 816 ∧ cur = 4 then 4
  else if v > 680 then 2
  else if v > 656 ∧ 2 ≤ cur.toNat then 2
  else 1

/-! ## The lock unit (10 R306-R309) -/

/-- Write a lock word and its holder. -/
def State.setLock (s : State) (n : BitVec 12) (v : DWord) (h : Option Holder) : State :=
  { s with locks := { s.locks with
      words := s.locks.words.set n.toNat v
      holders := match h with
        | some h => s.locks.holders.set n.toNat h
        | none => s.locks.holders.erase n.toNat } }

/-- Does function `f` have the rights of the group of word `n`? -/
def State.lockFunc (s : State) (n : BitVec 12) (f : FuncId) : Bool :=
  let g := s.locks.groups.getD (n.toNat / 64) {}
  !g.refuse && (if f.toNat < 64 then g.f0.getLsbD f.toNat else g.f1.getLsbD (f.toNat - 64))

/-- Does context `x` have the rights of the group of word `n`? -/
def State.lockCtx (s : State) (n : BitVec 12) (x : CtxId) : Bool :=
  let e := s.ctx x
  (s.locks.groups.getD (n.toNat / 64) {}).cl.getLsbD e.cls.toNat && s.lockFunc n e.owner

/-- Does a holder match a master (10 R307)? A reset master matches nothing. -/
def Holder.matches_ (h m : Holder) : Bool :=
  h.valid && !h.reset &&
    (if h.kind.toNat < 2 then decide (m.kind.toNat < 2) && h.who == m.who
     else if h.kind = 2 then m.kind == 2 && h.who == m.who
     else m.kind == 3)

/-- ID of a holder in the lock word (10 R307). -/
def Holder.id (h : Holder) : BitVec 12 := if h.kind = 1 then bits h.task 0 12 else bits h.who 0 12

/-- The word written by a CAS that finds its expected value, and the new holder; none where the requester may not (10
R308). -/
def lockNew (old new : DWord) (h m : Holder) : Option (DWord × Option Holder) :=
  let pay : DWord := BitVec.setWidth 64 (bits new 0 48 : BitVec 48)
  match old.getLsbD 63, new.getLsbD 63 with
  | false, true => some (putBits (putBits pay 48 m.id) 60 ((2 : BitVec 2) ++ m.kind), some { m with valid := true })
  | true, nh =>
    if h.matches_ m then (if nh then some (putBits old 0 (bits new 0 48 : BitVec 48), some h) else some (pay, none)) else none
  | false, false => some (putBits pay 62 (bits old 62 1 : BitVec 1), none)

/-- A CAS at the lock unit by a master with or without the group's rights: the state, the status and the old word. -/
def State.lockCas (s : State) (n : BitVec 12) (expect new : DWord) (m : Holder) (rights : Bool) : State × Byte × DWord :=
  let old := s.lockWord n
  let h := s.locks.holders.getD n.toNat {}
  let release := old == expect && old.getLsbD 63 && !new.getLsbD 63 && h.matches_ m
  if !rights && !release then (s, ADDR_RIGHTS, 0)
  else if old ≠ expect then (s, 0, old)
  else
    match lockNew old new h m with
    | some (v, k) => (s.setLock n v k, 0, old)
    | none => (s, ADDR_RIGHTS, 0)

/-- The master of a request at the lock unit, and whether it has the rights of the word's group. -/
def State.lockMaster (s : State) (n : BitVec 12) (p : Packet) : Holder × Bool :=
  if reqMaster p.head = 0 then
    let t := txnThread p.sr p.se (reqTxn p.head)
    let x := reqCtx p.head
    let m : Holder := match s.taskOf t with
      | some d => { kind := 1, valid := true, who := x, task := ((s.cluster (tCluster t)).task d).task }
      | none => { kind := 0, valid := true, who := x }
    (m, s.lockCtx n x)
  else ({ kind := 3, valid := true, who := BitVec.setWidth 13 (bits (reqTxn p.head) 12 2 : BitVec 2) }, true)

/-- A lock word with an uncorrected error is rewritten as HELD 0, ABANDONED 1, PAYLOAD 0 (16 R441). -/
def State.lockEcc (s : State) (n : BitVec 12) : Ecc → State
  | .uncorrected => s.setLock n ((1 : BitVec 2) ++ (0 : BitVec 62)) none
  | _ => s

/-- The lock unit performs its oldest request; the word's own check comes first. -/
def execLockUnitAccess (s : State) (ecc : Ecc := .clean) : Out :=
  match s.inq 4 7 1 with
  | [] => .next s
  | p :: rest =>
    let a := (reqPa p.head).toNat
    let n := lockOf a
    let s := (s.setInq 4 7 1 rest).lockEcc n ecc
    let (m, ok) := s.lockMaster n p
    if p.type = 5 then
      let (s, st, old) := s.lockCas n (bits p.flit1 0 64) (bits p.flit1 64 64) m ok
      .next ((s.performed p).respond 4 7 p st old [])
    else if ¬ ok then .next ((s.performed p).respond 4 7 p ADDR_RIGHTS 0 [])
    else if p.type = 3 then
      .next ((s.performed p).respond 4 7 p 0 (s.lockWord n >>> (8 * (a % 8)) &&& BitVec.ofNat 64 (2 ^ (8 * min 8 (reqBytes p.head)) - 1)) [])
    else if reqMaster p.head = 2 then
      .next (((s.lockStore a (min 8 (reqBytes p.head)) (bits p.flit1 0 64)).performed p).respond 4 7 p 0 0 [])
    else .next ((s.performed p).respond 4 7 p ADDR_RIGHTS 0 [])

/-- The oldest queued word of a reset master is released: HELD 0, ABANDONED 1, PAYLOAD kept (10 R309). Words beyond the
queue are released by the firmware. -/
def execLockRelease (s : State) : Out :=
  let free (s : State) (n : BitVec 12) : State :=
    if (s.locks.holders.getD n.toNat {}).reset then
      s.setLock n ((1 : BitVec 2) ++ (0 : BitVec 14) ++ (bits (s.lockWord n) 0 48 : BitVec 48)) none
    else s
  match s.locks.relQ, s.locks.fwQ with
  | n :: r, _ => .next (free { s with locks := { s.locks with relQ := r } } n)
  | [], n :: r => if s.fwRuns then .next (free { s with locks := { s.locks with fwQ := r } } n) else .next s
  | [], [] => .next s

/-! ## Window caches (10 R293, R294) -/

/-- Does a thread wait for window `w` of context `x`? -/
def Wait.isWindow (w : BitVec 6) : Wait → Bool
  | .window a => a.win == w
  | _ => false

/-- Does a thread of cluster `c` that holds work of context `x` wait for window `w`, or hold a split access that does? -/
def State.missed (s : State) (c : ClusterId) (x : CtxId) (w : BitVec 6) : Bool :=
  s.threads.anyV fun k th =>
    let t : Tid := BitVec.ofNat 13 k
    !isSteward t && tCluster t == c && s.threadCtx t == x &&
      (th.wait.isWindow w || th.splits.any fun p => match p.held with | some (v, _) => v == w | none => false)

/-- The requests of a thread's split accesses that waited for window `w` leave (07 R226). -/
def State.sendHeld (s : State) (t : Tid) (w : BitVec 6) : State :=
  let ps := (s.thread t).splits.filterMap fun p => p.held.filter fun h => h.1 == w
  let s := s.updThread t fun th =>
    { th with splits := th.splits.map fun p => if (p.held.filter fun h => h.1 == w).isSome then { p with held := none } else p }
  let (sr, se) := threadHome t
  ps.foldl (fun s h => s.pushBuf sr (4 + se.toNat) h.2) s

/-- The read of a window entry from HBM meets an error at its first word, or one that was there: it is counted (10 R302). -/
def State.winEcc (s : State) (a : Nat) (ecc : Ecc) : State :=
  let s := match ecc with
    | .clean => s
    | .corrected => s.countPc a false
    | .uncorrected => s.setBad a true
  if s.badRange a 16 then s.countPc a true else s

/-- A miss load completes: the entry is cached, and the accesses that waited proceed. With a parity error of the cached entry,
that entry is discarded and reloaded. -/
def execWindowEntryLoad (c : ClusterId) (x : CtxId) (w : BitVec 6) (s : State) (parity : Bool := false) (ecc : Ecc := .clean) : Out :=
  if !s.missed c x w && !(parity && (s.winEntry c x w).isSome) then .next s
  else
    let s := s.winEcc ((s.ctx x).wtp.toNat + 16 * w.toNat) ecc
    let e := s.readWin x w
    let s := s.updCluster c fun cl => { cl with wcache := winAdd cl.wcache (winKey x w) e }
    let s := (s.threads.filter fun e => !isSteward (BitVec.ofNat 13 e.1) && tCluster (BitVec.ofNat 13 e.1) == c &&
      s.threadCtx (BitVec.ofNat 13 e.1) == x).foldl (fun s e => s.sendHeld (BitVec.ofNat 13 e.1) w) s
    .next (s.pumpAll (·.isWindow w))

/-- An invalidation removes an entry. -/
def execWindowInvalidate (c : ClusterId) (x : CtxId) (w : BitVec 6) (s : State) : Out :=
  .next (s.updCluster c fun cl => { cl with wcache := cl.wcache.filter fun e => e.1 != winKey x w })

end Sys2Proof.Machine
end

