-- ==== Sys2Proof/Machine/Reel.lean ====
section
/-! DEFINITION. The reel: ring indices and entries, staging and ordered flows, the gap timer, moderation, the result
window, the broke queue and fault records on their way to a host (01 R30, 04 R136, R137, 05 R160-R167, 12 R346-R359). -/

namespace Sys2Proof.Machine

/-! ## Rings (12 R345-R347) -/

/-- SIZE of a ring. -/
def Ring.size (g : Ring) : Nat := 2 ^ g.lsize.toNat
/-- Free entries of a REEL ring (12 R351). -/
def Ring.room (g : Ring) : Nat := g.size - (g.d - g.h).toNat
/-- A ring takes a new form; its watermark sees the change of level, and an enabled edge raises its vector, once together with another
cause that arises with it (03 R100, 12 R351, R358). -/
def State.ringTo (s : State) (f : FuncId) (r : RingId) (g g' : Ring) (cause : Bool := false) : State :=
  let (w, up) := g'.wm.change g.level g'.level
  let s := s.setRing f r { g' with wm := w }
  if up || cause then s.raise f g'.vec else s

/-- A ring enters RING_FAULT (12 R346, R358): the function is told and the ring's vector raised. -/
def State.ringFault (s : State) (f : FuncId) (r : RingId) (cause : BitVec 4) : State :=
  match s.ring f r with
  | none => s
  | some g =>
    if g.rfault then s
    else ((s.setRing f r { g with rfault := true, fcause := cause }).event f 0x0011 r.toNat (BitVec.setWidth 64 cause)).raise f g.vec

/-! ## Entries (12 R350, R351, R356) -/

/-- Bytes 24 to 31 of a reel entry. -/
def ReelItem.last (i : ReelItem) (phase : Bool) : DWord :=
  (bit phase : BitVec 1) ++ (0 : BitVec 46) ++ (bit i.tt : BitVec 1) ++ i.cause ++ (0 : BitVec 3) ++ (bit i.poison : BitVec 1) ++
    i.type

/-- A reel entry as 32 bytes. -/
def ReelItem.entry (i : ReelItem) (tb : DWord) (phase : Bool) : BitVec 256 := i.last phase ++ tb ++ i.value ++ i.tag

/-- The item of a token. -/
def Token.item (tok : Token) : ReelItem :=
  { tag := tok.tag, value := tok.value, type := 0, poison := tagKind tok.tag == 6, cause := 0, tt := false,
    ctx := some (tagCtx tok.tag) }

/-- The reel writes one entry at W into the ring or its result-window slot, moderates the ring's vector, and a token
leaves INFLIGHT (05 R166, 06 R181, 12 R351, R356, R357). -/
def State.reelPut (s : State) (f : FuncId) (r : RingId) (i : ReelItem) : State :=
  match s.ring f r with
  | none => s
  | some g =>
    let k := g.d.toNat
    let e := i.entry s.tb.now (g.win || (k / g.size) % 2 == 0)
    let s := match i.ctx with | some x => s.inflightSub x 1 | none => s
    let s :=
      if g.win then
        let n := 64 * f.toNat + g.firstSlot.toNat + k % g.size
        s.updHub fun h => { h with slots := h.slots.upd n {} fun w =>
          { ready := true, taken := false, seq := w.seq + 1, entry := e, ring := r } }
      else s.emitFor f (.hostWrite f (g.base + BitVec.ofNat 64 (32 * (k % g.size))) (leBytes 32 e.toNat))
    let n := g.uncovered + 1
    s.ringTo f r g { g with d := g.d + 1, uncovered := n, uncoveredAt := if g.uncovered = 0 then s.scnt else g.uncoveredAt }
      (decide (g.count ≤ n))

/-- An entry leaves a REEL ring's staging, or waits there: a fault record is written whole (12 R350). A token of a ring in
RING_FAULT goes to the broke queue (12 R346). -/
def execReelEntryWrite (f : FuncId) (r : RingId) (s : State) : Out :=
  match s.ring f r with
  | none => .next s
  | some g =>
    if g.kind ≠ 1 then .next s
    else if g.rfault then
      match g.items.find? fun i => i.ctx.isSome with
      | none => .next s
      | some i =>
        .next ((s.setRing f r { g with items := g.items.erase i, staged := g.staged - 1 }).toBroke
          { tag := i.tag, value := i.value, tick := none } UNDELIVERABLE (tagCtx i.tag) true i.poison)
    else
      match g.items with
      | [] => .next s
      | i :: rest =>
        if g.room = 0 then .next s
        else
          .next ((s.setRing f r { g with items := rest, staged := if i.ctx.isSome then g.staged - 1 else g.staged }).reelPut f r i)

/-- TIME µs after the first entry that no message covers, the ring's vector is raised (12 R351). -/
def execReelModerationTimeout (f : FuncId) (r : RingId) (s : State) : Out :=
  match s.ring f r with
  | none => .next s
  | some g =>
    if g.kind ≠ 1 ∨ g.uncovered = 0 ∨ g.time = 0 then .next s
    else
      .next ((s.passTo (g.uncoveredAt + scUs g.time)).raise f g.vec)

/-! ## Ordered flows (05 R160-R167) -/

/-- The item for NEXT. -/
def Flow.head (g : Flow) : Option ReelItem := g.items.find g.next.toNat
/-- Reorder entries in use: items held but that for NEXT, and entries granted to tokens on their way (05 R162). -/
def Flow.used (g : Flow) : Nat := (g.items.filter fun e => e.1 != g.next.toNat).length + g.granted.length
/-- Position of a sequence number after NEXT (05 R161). -/
def Flow.ahead (g : Flow) (q : BitVec 16) : Nat := (q - g.next).toNat
/-- The lowest sequence number the flow holds (05 R165). -/
def Flow.lowest (g : Flow) : BitVec 16 :=
  g.items.foldl (fun (best : BitVec 16) e =>
    let q := BitVec.ofNat 16 e.1
    if g.ahead q < g.ahead best then q else best) (g.next - 1)
/-- Whether the gap timer is active after a change; it starts at 0 in the tick in which it becomes active (05 R165). -/
def Flow.retime (g : Flow) : Flow :=
  let on := !g.items.isEmpty && g.head.isNone
  { g with trun := on, timer := if on && g.trun then g.timer else 0 }

/-- How a request for a reel credit is answered (01 R30, 05 R162, 14 R412). -/
inductive Grant where
  | granted (s : State)
  | withheld
  /-- No credit is needed: the token goes to the broke queue. -/
  | broke (s : State) (cause : Byte)

/-- Ask for the reel credit of a token of context `x`. -/
def State.reelGrant (s : State) (tok : Token) : Grant :=
  let x := tagCtx tok.tag
  let f := (s.ctx x).owner
  let r : RingId := bits (tagNode tok.tag) 0 6
  if s.claimed f r then
    match s.templateFor x r (tagInst tok.tag) with
    | none => .broke s UNDELIVERABLE
    | some (n, t) =>
      if t.timed then .granted s
      else if t.granted || t.staged.isSome || !t.toGo.isEmpty then .withheld
      else .granted (s.updEth fun e => { e with templates := e.templates.set n { t with granted := true } })
  else
    match s.ring f r with
    | none => .broke s UNDELIVERABLE
    | some g =>
      if g.kind ≠ 1 ∨ g.rfault ∨ g.refuse then .broke s UNDELIVERABLE
      else
        match s.flowOf f r with
        | none =>
          if tagKind tok.tag = 5 then .broke s RESERVED_FIELD
          else if g.staged < g.stage then .granted (s.setRing f r { g with staged := g.staged + 1 })
          else .withheld
        | some n =>
          let w := s.flow n
          let d := w.ahead (tagInst tok.tag)
          if 32768 ≤ d then .broke (s.updFlow n fun w => { w with late := satInc w.late }) UNDELIVERABLE
          else if d = 0 then .granted s
          else if d < 256 ∧ w.used < w.quota.toNat then
            .granted (s.updFlow n fun w => { w with granted := w.granted ++ [tagInst tok.tag] })
          else .withheld

/-- A token that no ring takes: to the broke queue, out of the flow's or the ring's books. -/
def State.reelReject (s : State) (tok : Token) (poison : Bool := false) : State := s.toBroke tok UNDELIVERABLE (tagCtx tok.tag) true poison

/-- Does the context's state let its own tokens come to the reel (02 R51)? -/
def State.reelAccepts (s : State) (x : CtxId) : Bool :=
  let st := (s.ctx x).state
  (st == RUNNING || st == QUIESCING || st == UPDATING || st == STOPPED) && !s.dying x

/-- Credits of the hub link that serves a function's port (11 R315). -/
def State.linkOf (s : State) (f : FuncId) : Credits := if (funcPort f).toNat < 2 then s.hub.linkA else s.hub.linkB
/-- Take credits of a hub link. -/
def State.takeLink (s : State) (f : FuncId) (n : Nat) : State :=
  s.updHub fun h =>
    if (funcPort f).toNat < 2 then { h with linkA := { h.linkA with avail := h.linkA.avail - n } }
    else { h with linkB := { h.linkB with avail := h.linkB.avail - n } }

/-- A VC0 packet leaves the hub by the link of a function's port. -/
def State.sendHub (s : State) (f : FuncId) (dr de ty : BitVec 4) (flits : List (BitVec 128)) : State :=
  let (r, e) := hubLink f
  (s.takeLink f flits.length).pushBuf r (4 + e.toNat)
    { dr := dr, de := de, vc := 0, type := ty, epoch := false, sr := r, se := e, pri := false, flits := flits }

/-- A token of a bound flow reaches the reel: late, a duplicate, or held for its turn (05 R161-R164). -/
def State.flowArrive (s : State) (n : BitVec 14) (tok : Token) : State :=
  let w := s.flow n
  let q := tagInst tok.tag
  let w := { w with granted := w.granted.erase q }
  let s := s.updFlow n fun _ => w
  if 32768 ≤ w.ahead q then (s.updFlow n fun w => { w with late := satInc w.late }).reelReject tok
  else if (w.items.find q.toNat).isSome then (s.updFlow n fun w => { w with dup := satInc w.dup }).reelReject tok
  else s.updFlow n fun w => ({ w with items := w.items.set q.toNat tok.item } : Flow).retime

/-- A reel-value token reaches the hub (05 R161, 12 R346, R355, 14 R412). -/
def execReelTokenArrival (s : State) : Out :=
  match s.hub.reelIn with
  | [] => .next s
  | p :: rest =>
    let tok := packetToken p
    let x := tagCtx tok.tag
    let f := (s.ctx x).owner
    let r : RingId := bits (tagNode tok.tag) 0 6
    let s' := s.updHub fun h => { h with reelIn := rest }
    if (s.ctx x).state = FREE then .next (s'.reelReject tok)
    else if !s.reelAccepts x then .next ((s'.lostCredit tok.tag).reelReject tok)
    else if s.claimed f r then
      if (s.linkOf f).avail = 0 then .next s else .next (s'.sendHub f 11 6 0 p.flits)
    else
      match s.ring f r with
      | none => .next (s'.reelReject tok)
      | some g =>
        if g.kind ≠ 1 ∨ g.rfault then .next ((s'.lostCredit tok.tag).reelReject tok)
        else
          match s.flowOf f r with
          | some n => .next (s'.flowArrive n tok)
          | none => .next (s'.setRing f r { g with items := g.items ++ [tok.item] })

/-- A sender asks for a reel credit (01 R30, 05 R162): a thread's token leaves with it, a headbox entry goes on. A thread
takes the credit together with the VC0 places its token needs. -/
def State.threadReel (s : State) (t : Tid) : State :=
  match (s.thread t).wait with
  | .reel tok =>
    match s.reelGrant tok with
    | .withheld => s
    | .broke s cause => (s.toBroke tok cause (tagCtx tok.tag) false).finish t
    | .granted q =>
      if tok.flits ≤ (s.cluster (tCluster t)).couchOut.avail then (q.injectFrom (tCluster t) tok false false).finish t else s
  | _ => s

/-- An item whose value has an uncorrected error becomes a poison output; the cluster in its value is open (16 R441, log 133). -/
def ReelItem.checked (i : ReelItem) (free : Nat) : EntryErr → ReelItem
  | .value => { i with poison := true, value := poisonValue ECC_UNCORRECTED (bits (Config.freeValue free) 0 6) }
  | _ => i

/-- The item for NEXT is lost with its sequence number: its gap ends as any other (05 R165, 16 R441). -/
def State.loseItem (s : State) (n : BitVec 14) : State :=
  let w := s.flow n
  match w.head with
  | some i =>
    let s := s.updFlow n fun w => ({ w with items := w.items.erase w.next.toNat } : Flow).retime
    match i.ctx with | some x => s.inflightSub x 1 | none => s
  | none => s

/-- The reel releases the item at NEXT (05 R163); in RING_FAULT it goes to the broke queue (12 R346). -/
def execOrderedRelease (n : BitVec 14) (s : State) (ecc : EntryErr := .clean) : Out :=
  let w := s.flow n
  if ¬ w.valid then .next s
  else if ecc = .key then .next (s.loseItem n)
  else
    match w.head.map fun (i : ReelItem) => i.checked s.free ecc, s.ring w.func w.ring with
    | some i, some g =>
      let s := if ecc = .value then s.takeFree else s
      let w' := ({ w with items := w.items.erase w.next.toNat, next := w.next + 1 } : Flow).retime
      if g.rfault then
        .next ((s.updFlow n fun _ => w').reelReject { tag := i.tag, value := i.value, tick := none } i.poison)
      else if g.room = 0 then .next s
      else if tagKind i.tag = 5 then
        .next ((s.updFlow n fun _ => { w' with skip := satInc w.skip }).inflightSub (tagCtx i.tag) 1)
      else .next ((s.updFlow n fun _ => w').reelPut w.func w.ring i)
    | _, _ => .next s

/-- A flow's gap timer reaches GAPTO (05 R165): a GAP record is written and NEXT moves to the lowest item held. A full
ring holds the timer. -/
def execGapTimeout (n : BitVec 14) (s : State) : Out :=
  let w := s.flow n
  match s.ring w.func w.ring with
  | none => .next s
  | some g =>
    if ¬ (w.valid ∧ w.trun) ∨ g.rfault ∨ g.room = 0 then .next s
    else
      let left := w.gapto.toNat - w.timer
      let s := if left = 0 then s else s.pass (s.ticksTo (s.tb.tc.toNat + left))
      let lo := w.lowest
      let rec_ : ReelItem :=
        { tag := mkTag w.ctx (0xFFFC0 ||| BitVec.setWidth 20 w.ring) w.next 0 0 0,
          value := BitVec.setWidth 64 (lo - w.next), type := 1, poison := false, cause := 0, tt := false, ctx := none }
      .next ((s.updFlow n fun v => ({ v with next := lo, gaps := satInc v.gaps, trun := false } : Flow).retime).reelPut w.func w.ring rec_)

/-! ## The result window (12 R356, R357) -/

/-- Does function `f` answer accesses to its BARs (12 R340, R364)? An access in the cycle of its FLR comes after it (12 R367). No
host reaches it while a rail of HOST is lost (16 R459). -/
def State.barsAnswer (s : State) (f : FuncId) : Bool :=
  s.funcExists f && s.hostRails && !(s.func f).flr && (s.func f).flrAt != some s.scnt

/-- The half or the whole of a word that a read of 4 or 8 bytes at `off` returns; a misaligned read returns zero (12
R343). -/
def readPart (wide : Bool) (off : Nat) (w : DWord) : DWord :=
  if wide then (if off % 8 = 0 then w else 0)
  else if off % 4 ≠ 0 then 0
  else if off % 8 = 0 then BitVec.setWidth 64 (bits w 0 32) else BitVec.setWidth 64 (bits w 32 32)

/-! ## The broke queue (02 R46, 12 R359) -/

/-- A count in HB_BROKE_OVF: the new row. -/
def ovfAdd (o : BitVec 24 × Byte) (cause : Byte) : BitVec 24 × Byte := (satInc o.1, if o.2 = 0 then cause else o.2)

/-- HB_BROKE_OVF of a function counts a token, and BROKE_OVERFLOW is sent when FIRST leaves 0. -/
def State.brokeLost (s : State) (f : FuncId) (cause : Byte) : State :=
  let o := s.hub.brokeOvf.getD f.toNat (0, 0)
  let s := s.updHub fun h => { h with brokeOvf := h.brokeOvf.set f.toNat (ovfAdd o cause) }
  if o.2 = 0 then s.event f 0x0012 f.toNat (BitVec.setWidth 64 cause) else s

/-- The broke queue takes a token, or records it where it is full. -/
def execBrokeIntake (s : State) : Out :=
  match s.hub.brokeIn with
  | [] => .next s
  | b :: rest =>
    let free := (s.ctx b.ctx).state == FREE
    let s := s.updHub fun h => { h with brokeIn := rest }
    let s := if b.counted then s.inflightSub b.ctx 1 else s
    let s := if free then s else s.updCtx b.ctx fun e => { e with brokecnt := satInc e.brokecnt }
    if s.hub.broke.length < 4096 then .next (s.updHub fun h => { h with broke := h.broke ++ [b] })
    else .next (s.brokeLost (if free then s.hub.admin else (s.ctx b.ctx).owner) b.cause)

/-- Whose fault ring a record charged to context `x` goes to: the owner's, or the administrator's for a context in FREE or
an owner without one (12 R353, R359). True when it is an orphan. -/
def State.faultDest (s : State) (x : CtxId) : FuncId × Bool :=
  let e := s.ctx x
  if e.state = FREE ∨ s.faultRing e.owner = none then (s.hub.admin, true) else (e.owner, false)

/-- HB_BROKE_ORPH counts. -/
def State.orphan (s : State) (b : Bool) : State :=
  if b then s.updHub fun h => { h with brokeOrph := satInc h.brokeOrph } else s

/-- The first entry of the broke queue bound for function `f`, and the queue without it. -/
def State.takeBroke (s : State) (f : FuncId) : List Broke → Option (Broke × List Broke)
  | [] => none
  | b :: r => if (s.faultDest b.ctx).1 = f then some (b, r) else (s.takeBroke f r).map fun (q, l) => (q, b :: l)

/-- The broke queue writes its first entry for the fault ring of `f` once the ring has room. -/
def execBrokeEntryWrite (f : FuncId) (s : State) : Out :=
  match s.takeBroke f s.hub.broke with
  | none => .next s
  | some (b, rest) =>
    let s' := (s.updHub fun h => { h with broke := rest }).orphan (s.faultDest b.ctx).2
    match s.faultRing f with
    | none => .next (s'.brokeLost f b.cause)
    | some r =>
      match s.ring f r with
      | some g =>
        if g.rfault ∨ g.room = 0 then .next s
        else .next (s'.reelPut f r
          { tag := b.token.tag, value := b.token.value, type := 2, poison := b.poison, cause := b.cause, tt := b.token.tick.isSome,
            ctx := none })
      | none => .next s

/-! ## Fault records (04 R135-R137) -/

/-- The thread of a cluster that has held its fault record longest. -/
def State.heldFirst (s : State) (c : ClusterId) : Option (Tid × FaultRec) :=
  (s.threads.filterMap fun (k, th) =>
    let t : Tid := BitVec.ofNat 13 k
    if isSteward t || tCluster t != c then none else th.heldRec.map fun r => (t, r)).foldl
    (fun (o : Option (Tid × FaultRec)) e => match o with
      | none => some e
      | some b => if e.2.id < b.2.id then some e else some b) none

/-- A place of the fault buffer has freed: the thread that faulted first of those that hold their records puts it there and
leaves (04 R137, log 20). -/
def State.faultPlace (s : State) (c : ClusterId) : State :=
  match s.heldFirst c with
  | none => s
  | some (t, r) =>
    let s := s.updCluster c fun cl => { cl with faults := cl.faults ++ [r] }
    (s.updThread t fun th => { th with heldRec := none, wait := .none }).leaveFaulted t

/-- The reservation that a record has asked for is given back. -/
def State.dropRecordClaim (s : State) (c : ClusterId) (r : FaultRec) : State :=
  match s.findTask r.ctx (s.ctx r.ctx).sup with
  | some (d, k) => s.updChan d k 7 fun h => (h.withdraw (.fault c r.id) true).withdraw (.fault c r.id) false
  | none => s

/-- Does the record go to the supervisor's channel 7 (04 R136)? Then where that is. -/
def State.recordSup (s : State) (r : FaultRec) : Option (ClusterId × BitVec 10) :=
  let e := s.ctx r.ctx
  if e.sup = 0xFFFF ∨ e.state = FENCED ∨ e.state = FREE then none
  else
    match s.declared r.ctx e.sup 7 with
    | none => none
    | some (d, k) =>
      let w0 := r.words.getD 0 0
      let own := w0.getLsbD 8 && (bits (r.words.getD 2 0) 0 16 : BitVec 16) == e.sup
      if own || ((s.cluster d).task k).state == FAULTED then none else some (d, k)

/-- The record leaves the buffer as two entries of a fault ring, under one credit of two entries (12 R350, R353). -/
def State.recordToRing (s : State) (c : ClusterId) (i : Nat) (r : FaultRec) : State :=
  let gone (s : State) : State := ((s.dropRecordClaim c r).updCluster c fun cl => { cl with faults := dropAt cl.faults i }).faultPlace c
  let (f, orph) := s.faultDest r.ctx
  let w (k : Nat) : DWord := r.words.getD k 0
  let cause : Byte := bits (w 0) 0 8
  match s.faultRing f with
  | none => ((gone s).orphan orph).brokeLost f cause
  | some n =>
    match s.ring f n with
    | none => s
    | some g =>
      if g.rfault ∨ g.room < 2 then s
      else
        let item (t : BitVec 4) (a b : DWord) : ReelItem :=
          { tag := a, value := b, type := t, poison := false, cause := cause, tt := false, ctx := none }
        (((gone s).orphan orph).reelPut f n (item 3 (w 0) (w 1))).reelPut f n (item 4 (w 2) (w 3))

/-- A fault record leaves the buffer when its credits are taken (04 R136, R137). -/
def execFaultRecordSend (c : ClusterId) (i : BitVec 6) (s : State) : Out :=
  match (s.cluster c).faults[i.toNat]? with
  | none => .next s
  | some r =>
    match s.recordSup r with
    | none => .next (s.recordToRing c i.toNat r)
    | some (d, k) =>
      let h := (s.cluster d).chan k 7
      if h.holder ≠ some (.fault c r.id) then
        .next (if h.queue.contains (.fault c r.id) then s else s.requestChan d k 7 (.fault c r.id))
      else
        let e := s.ctx r.ctx
        let toks := messageTokens r.ctx e.sup 7 (s.placeOfTask r.ctx e.sup) r.words
        let gone (s : State) : State := (s.updCluster c fun cl => { cl with faults := dropAt cl.faults i.toNat }).faultPlace c
        if s.epShut d then .next (gone ((s.dropRecordClaim c r).creditRefused d r.ctx toks))
        else if h.free < 4 ∨ (s.cluster c).couchOut.avail < 4 then .next s
        else .next (gone (s.sendWords c d k 7 toks false))

end Sys2Proof.Machine
end

