-- ==== Sys2Proof/Machine/Headbox.lean ====
section
/-! DEFINITION. The headbox: doorbells and rewind marks, the checks of ring entries, channel words and messages from a
ring, memory rings, and the reel and channel credits that senders ask for (03 R101-R104, 04 R128-R130, 05 R149, R150, 12
R346-R355). -/

namespace Sys2Proof.Machine

/-! ## Fields of a headbox entry (12 R348) -/

/-- TAG of an entry. -/
def hbTag (e : BitVec 256) : DWord := bits e 0 64
/-- VALUE. -/
def hbValue (e : BitVec 256) : DWord := bits e 64 64
/-- TICK. -/
def hbTick (e : BitVec 256) : DWord := bits e 128 64
/-- FLAGS: MARK, NOTIFY, MSG. -/
def hbMark (e : BitVec 256) : Bool := e.getLsbD 192
def hbNotify (e : BitVec 256) : Bool := e.getLsbD 193
def hbMsg (e : BitVec 256) : Bool := e.getLsbD 194
/-- The token an entry asks for; a nonzero TICK makes it time-tagged (05 R149). -/
def hbToken (e : BitVec 256) : Token :=
  { tag := hbTag e, value := hbValue e, tick := if hbTick e = 0 then none else some (hbTick e) }

/-- The first stage of 02 R46: reserved bytes and bits, KIND and the headbox's right to write it, CTX, and a release tick
on a kind that has none (05 R150). -/
def hbStage1 (x : CtxId) (e : BitVec 256) : Bool :=
  let k := tagKind (hbTag e)
  bits e 200 56 == (0 : BitVec 56) && bits e 195 5 == (0 : BitVec 5) && (!hbMsg e || k == 2) && tagRsvd (hbTag e) == 0 &&
    !(k == 1 || k == 6 || k == 7) && tagCtx (hbTag e) == x && (hbTick e == 0 || k == 0 || k == 4)

/-- The third stage: the checks of 02 R44 against the context-table entry; a reel value only as a skip marker (R42). -/
def State.hbStage3 (s : State) (tag : DWord) : Bool :=
  s.entryFields tag && (!isReel (tagNode tag) || tagKind tag == 5)

/-- Does an INST lie from the boundary of an update (02 R54)? -/
def fromBoundary (inst b : BitVec 16) : Bool := decide ((inst - b).toNat < 32768)

/-- Does the context accept tokens at entry (02 R51)? -/
def State.entryAccepts (s : State) (x : CtxId) : Bool :=
  ((s.ctx x).state == RUNNING || (s.ctx x).state == UPDATING) && !s.dying x

/-- Must the token wait for the update boundary (02 R54)? -/
def State.entryHeld (s : State) (tag : DWord) : Bool :=
  let e := s.ctx (tagCtx tag)
  e.state == UPDATING && (tagKind tag == 0 || tagKind tag == 4) && fromBoundary (tagInst tag) e.updb

/-! ## Leaving the head of a ring -/

/-- The reuse boundary is written to the shadow address after every 32 entries and when the ring goes idle (12 R349). -/
def State.shadowF (s : State) (f : FuncId) (g : Ring) (r : RingId) : State :=
  let idle := g.d == g.h || (g.holdm && g.markv && decide (g.size ≤ (g.d - g.mark).toNat))
  if g.shadow = 0 then s
  else if idle ∨ 32 ≤ g.sinceShadow then
    (s.updRing f r fun g => { g with sinceShadow := 0 }).emitFor f
      (.hostWrite f g.shadow (leBytes 8 g.reuse.toNat))
  else s

/-- The head entry of a HEADBOX or MEMORY ring has been dealt with: D moves on. -/
def State.ringNext (s : State) (f : FuncId) (r : RingId) (notify : Bool) : State :=
  match s.ring f r with
  | none => s
  | some g =>
    let g' := { g with d := g.d + 1, waiting := none, held := false, sinceShadow := g.sinceShadow + 1 }
    (s.ringTo f r g g' notify).shadowF f g' r

/-- The head entry waits (12 R349). -/
def State.ringWait (s : State) (f : FuncId) (r : RingId) (e : BitVec 256) (held : Bool) : State :=
  s.updRing f r fun g => { g with waiting := some e, held := held }

/-- The head entry goes to the broke queue, charged to the bound context, and the ring goes on (02 R46). -/
def State.hbReject (s : State) (f : FuncId) (r : RingId) (x : CtxId) (e : BitVec 256) (cause : Byte) : State :=
  (s.toBroke (hbToken e) cause x false).ringNext f r (hbNotify e)

/-- A token has been accepted at entry: INSTB (02 R47). -/
def State.accepted (s : State) (tag : DWord) : State := s.updCtx (tagCtx tag) fun e => { e with instb := tagInst tag }

/-! ## Injection from a ring -/

/-- A token enters the spine by the hub link of function `f` and counts in INFLIGHT. -/
def State.hubInject (s : State) (f : FuncId) (tok : Token) : State :=
  let (dr, de) := s.tokenDest tok.tag
  ((s.accepted tok.tag).inflightAdd (tagCtx tok.tag) 1).sendHub f dr de (if tok.tick.isSome then 1 else 0) (tokenFlits tok)

/-- Channel words leave a ring in order, each taking a stage of the channel; `single` marks a word of no message. -/
def State.ringWords (s : State) (f : FuncId) (c : ClusterId) (d : BitVec 10) (ch : BitVec 3) (toks : List Token) (single : Bool) : State :=
  let (hr, he) := hubLink f
  let s := s.updChan c d ch fun h =>
    { h with coming := h.coming + toks.length, singles := if single then h.singles ++ [hr ++ he] else h.singles }
  toks.foldl (fun s tok => s.hubInject f tok) s

/-- A data or control token at the head of a ring (05 R149, R150). -/
def State.hbData (s : State) (f : FuncId) (r : RingId) (g : Ring) (e : BitVec 256) : State :=
  let tok := hbToken e
  if (match tok.tick with | some k => decide ((k - s.tb.tc).toInt > 16777216) | none => false) then
    s.hbReject f r g.ctx e HORIZON
  else
    let tok := { tok with tag := if tok.tick.isSome then putBits tok.tag 10 (1 : BitVec 3) else tok.tag }
    if tok.flits ≤ (s.linkOf f).avail then (s.hubInject f tok).ringNext f r (hbNotify e) else s.ringWait f r e false

/-- A skip marker at the head of a ring: with `ask`, its reel credit is asked for (05 R162). -/
def State.hbSkip (s : State) (f : FuncId) (r : RingId) (g : Ring) (e : BitVec 256) (ask : Bool) : State :=
  if ¬ ask then s.ringWait f r e false
  else
    match s.reelGrant (hbToken e) with
    | .withheld => s.ringWait f r e false
    | .broke s cause => s.hbReject f r g.ctx e cause
    | .granted q =>
      if 1 ≤ (s.linkOf f).avail then (q.hubInject f (hbToken e)).ringNext f r (hbNotify e) else s.ringWait f r e false

/-- A word that is no part of an assembled message: with `ask`, its stage credit is asked for (04 R129). -/
def State.hbWord (s : State) (f : FuncId) (r : RingId) (e : BitVec 256) (c : ClusterId) (d : BitVec 10) (ch : BitVec 3)
    (ask : Bool) : State :=
  let h := (s.cluster c).chan d ch
  if ask && s.epShut c then
    (s.updRouter (clusterRouter c) fun t => { t with turnback := satInc t.turnback }).hbReject f r (tagCtx (hbTag e)) e UNDELIVERABLE
  else if ask && h.openTo false && decide (1 ≤ h.free) && decide (1 ≤ (s.linkOf f).avail) then
    (s.ringWords f c d ch [hbToken e] true).ringNext f r (hbNotify e)
  else s.ringWait f r e false

/-- The end word of the message open in the assembly buffer. -/
def State.hbEnd (s : State) (f : FuncId) (r : RingId) (g : Ring) (o : Outbox) (e : BitVec 256) (c : ClusterId) (d : BitVec 10)
    (ch : BitVec 3) (ask : Bool) : State :=
  let h := (s.cluster c).chan d ch
  let ws := o.words ++ [hbValue e]
  let toks := messageTokens g.ctx o.task o.chan (tagPlace (hbTag e)) ws
  if ask && s.epShut c then
    (((s.updChan c d ch fun h => h.withdraw (.ring f r) o.grant).creditRefused c g.ctx toks).updRing f r
      fun g => { g with asm := none }).ringNext f r (hbNotify e)
  else if ask && o.grant && h.holder == some (.ring f r) && decide (ws.length ≤ h.free) && decide (ws.length ≤ (s.linkOf f).avail) then
    ((s.ringWords f c d ch toks false).updRing f r
      fun g => { g with asm := none }).ringNext f r (hbNotify e)
  else s.ringWait f r e false

/-- A channel word or end word at the head of a ring (12 R349). -/
def State.hbChan (s : State) (f : FuncId) (r : RingId) (g : Ring) (e : BitVec 256) (ask : Bool) : State :=
  let task : BitVec 16 := bits (tagNode (hbTag e)) 0 16
  let ch : BitVec 3 := bits (tagInst (hbTag e)) 0 3
  let last : Bool := tagKind (hbTag e) == 3
  match s.declared g.ctx task ch with
  | none => s.hbReject f r g.ctx e RESERVED_FIELD
  | some (c, d) =>
    if s.clusterAt g.ctx (tagPlace (hbTag e)).toNat ≠ c then s.hbReject f r g.ctx e RESERVED_FIELD
    else
      match g.asm with
      | none =>
        if hbMsg e ∧ ¬ last then
          ((s.requestChan c d ch (.ring f r)).updRing f r fun g =>
            { g with asm := some { words := [hbValue e], task := task, chan := ch } }).ringNext f r (hbNotify e)
        else s.hbWord f r e c d ch ask
      | some o =>
        let mine := o.task == task && o.chan == ch
        if hbMsg e || last then
          if !mine then s.hbReject f r g.ctx e RESERVED_FIELD
          else if 8 ≤ o.words.length then s.hbReject f r g.ctx e CREDIT_VIOLATION
          else if last then s.hbEnd f r g o e c d ch ask
          else (s.updRing f r fun g => { g with asm := some { o with words := o.words ++ [hbValue e] } }).ringNext f r (hbNotify e)
        else if mine then s.hbReject f r g.ctx e RESERVED_FIELD
        else s.hbWord f r e c d ch ask

/-- The headbox checks the head entry of a ring in the three stages of 02 R46 and injects it, holds it or rejects it. One that an
update holds back is checked against the entry that stands when it is held no more (02 R54). -/
def State.hbEntry (s : State) (f : FuncId) (r : RingId) (g : Ring) (e : BitVec 256) (ask : Bool) : State :=
  let x := g.ctx
  let k := tagKind (hbTag e)
  if !hbStage1 x e then s.hbReject f r x e RESERVED_FIELD
  else if !s.entryAccepts x || (s.ctx x).owner != f || g.refuse || (s.func f).refuse then s.hbReject f r x e UNDELIVERABLE
  else if s.entryHeld (hbTag e) then s.ringWait f r e true
  else if !s.hbStage3 (hbTag e) then s.hbReject f r x e RESERVED_FIELD
  else if k = 5 then s.hbSkip f r g e ask
  else if k = 2 ∨ k = 3 then s.hbChan f r g e ask
  else s.hbData f r g e

/-- May the headbox read the ring's next entry (03 R103, 12 R346, R363, R364)? -/
def State.ringReads (s : State) (f : FuncId) (g : Ring) : Bool :=
  s.barsAnswer f && !s.keeper.keeper && (s.func f).en && !g.rfault && g.h != g.d &&
    !(g.holdm && g.markv && decide (g.size ≤ (g.d - g.mark).toNat))

/-- The rings that have published entries which the headbox may read, by ring number 64 f + r. -/
def State.hbWaiting (s : State) : List Nat :=
  (s.hub.rings.filter fun e => e.2.kind == 0 && e.2.waiting.isNone && s.ringReads (BitVec.ofNat 7 (e.1 / 64)) e.2).map (·.1)

/-- How far on in the rotation a ring stands: over functions, and within a function over its rings (12 R349). The first ring served
after reset is the lowest of the lowest function (log 168). -/
def Hub.hbTurn (h : Hub) (k : Nat) : Nat :=
  let f : FuncId := BitVec.ofNat 7 (k / 64)
  64 * (f - h.hbFunc - 1).toNat + (BitVec.ofNat 6 k - h.hbRings.getD f.toNat 63 - 1).toNat

/-- Is it the turn of a ring: it comes first in the rotation, or the read request of the ring served last has not come to 32 entries? -/
def State.hbServes (s : State) (f : FuncId) (r : RingId) : Bool :=
  let h := s.hub
  (decide (1 ≤ h.hbRun) && decide (h.hbRun < 32) && h.hbFunc == f && h.hbRings.getD f.toNat 63 == r) ||
    s.hbWaiting.all fun k => decide (h.hbTurn (64 * f.toNat + r.toNat) ≤ h.hbTurn k)

/-- The headbox reads an entry of a ring. -/
def State.hbTake (s : State) (f : FuncId) (r : RingId) : State :=
  s.updHub fun h =>
    let same := h.hbFunc == f && h.hbRings.getD f.toNat 63 == r && decide (h.hbRun < 32)
    { h with hbFunc := f, hbRings := h.hbRings.set f.toNat r, hbRun := if same then h.hbRun + 1 else 1 }

/-- An entry read from host memory comes to the head of its ring and is checked, when it is the ring's turn; while an entry waits
there, that one is looked at again. A mark moves to the entry that is flagged (03 R101). -/
def execHeadboxEntry (f : FuncId) (r : RingId) (e : BitVec 256) (s : State) : Out :=
  match s.ring f r with
  | none => .next s
  | some g =>
    if g.kind ≠ 0 then .next s
    else
      match g.waiting with
      | some w => .next (s.hbEntry f r g w false)
      | none =>
        if ¬ s.ringReads f g ∨ ¬ s.hbServes f r then .next s
        else
          let s := s.hbTake f r
          let g := if hbMark e then { g with mark := g.d, markv := true, markSet := true, markLost := false } else g
          .next ((s.setRing f r g).hbEntry f r g e false)

/-! ## Credits that senders ask for (01 R30, 04 R128, 05 R162) -/

/-- The waiting head entry of a ring asks for its credit. -/
def State.ringCredit (s : State) (f : FuncId) (r : RingId) (p : BitVec 3 → Bool) : State :=
  match s.ring f r with
  | none => s
  | some g =>
    match g.waiting with
    | some e => if g.kind = 0 ∧ p (tagKind (hbTag e)) then s.hbEntry f r g e true else s
    | none => s

/-- A sender asks for a reel-staging credit. -/
def execReelCreditRequest (q : Requester) (s : State) : Out :=
  match q with
  | .thread t => if ¬ t.wf then .fault .noSuchObject else .next (s.threadReel t)
  | .ring f r => .next (s.ringCredit f r (· == 5))

/-- A CRD_REQ for channel stages reaches the destination cluster: the words leave when it is granted. -/
def execChannelCreditRequest (q : Requester) (s : State) : Out :=
  match q with
  | .thread t => if ¬ t.wf then .fault .noSuchObject else .next (s.threadCredit t)
  | .ring f r => .next (s.ringCredit f r fun k => k == 2 || k == 3)

/-- Head entries of a context's rings that an update held are looked at again (02 R52, R54). -/
def State.releaseHeld (s : State) (x : CtxId) : State :=
  s.hub.rings.foldl (fun s e =>
    let f : FuncId := BitVec.ofNat 7 (e.1 / 64)
    let r : RingId := BitVec.ofNat 6 e.1
    match s.ring f r with
    | some g =>
      (match g.waiting with
       | some w => if g.held && g.ctx == x then s.hbEntry f r { g with held := false } w false else s
       | none => s)
    | none => s) s

/-! ## Doorbells (03 R102, R103, 12 R346) -/

/-- The mark of a ring is lost to a doorbell that covers it (03 R102); the doorbell raises the ring's vector. -/
def State.markLost (s : State) (f : FuncId) (r : RingId) (g : Ring) : State :=
  (s.setRing f r { g with markv := false, markLost := true, lostFlag := true }).event f 0x0010 r.toNat (BitVec.setWidth 64 g.mark)

/-- A doorbell of a HEADBOX or MEMORY ring publishes index `p`. -/
def State.publish (s : State) (f : FuncId) (r : RingId) (g : Ring) (p : BitVec 16) : State :=
  if g.size - (g.h - g.d).toNat < (p - g.h).toNat then s.ringFault f r 1
  else if p = g.h then s
  else
    let covers := g.markv && !g.holdm && decide ((g.mark + BitVec.ofNat 16 g.size - g.h).toNat < (p - g.h).toNat)
    let beyond := g.markv && g.holdm && decide (g.size < (g.d - g.mark).toNat + (g.h - g.d).toNat + (p - g.h).toNat)
    let s := if covers then s.markLost f r g else s
    match s.ring f r with
    | none => s
    | some g => s.ringTo f r g { g with h := p, overrun := g.overrun || beyond } covers

/-- A doorbell of a REEL ring returns entries up to index `p`. -/
def State.consumed (s : State) (f : FuncId) (r : RingId) (g : Ring) (p : BitVec 16) : State :=
  if (g.d - g.h).toNat < (p - g.h).toNat then s.ringFault f r 1
  else s.ringTo f r g { g with h := p }

/-- A write to HB_RDB[r]. -/
def execRingDoorbell (f : FuncId) (r : RingId) (v : Word) (s : State) : Out :=
  if ¬ s.barsAnswer f then .next s
  else
    match s.ring f r with
    | none => .next s
    | some g => .next (if g.kind = 1 then s.consumed f r g (bits v 0 16) else s.publish f r g (bits v 0 16))

/-- A read of a ring's host memory fails: RING_FAULT, and none of its data is used and the error is reported through AER (12 R339). -/
def execRingReadFailure (f : FuncId) (r : RingId) (e : DmaIn) (s : State) : Out :=
  match s.ring f r with
  | none => .next s
  | some g =>
    if g.kind = 1 ∨ ¬ s.ringReads f g then .next s
    else
      match e with
      | .data _ => .next s
      | .timeout => .next ((s.ringFault f r 2).aerReport f .timeout)
      | .poisoned => .next ((s.ringFault f r 3).aerReport f .poisoned)
      | .urca => .next ((s.ringFault f r 4).aerReport f .unsupportedOrAbort)

/-! ## Memory rings (12 R354) -/

/-- HADDR of a memory-ring entry. -/
def mrHaddr (e : BitVec 256) : DWord := bits e 0 64
/-- LENGTH of a memory-ring entry. -/
def mrLength (e : BitVec 256) : Nat := fldN e 16 4
/-- OP 1: host to device. -/
def mrIn (e : BitVec 256) : Bool := fldN e 13 1 == 1

/-- The fields of a memory-ring entry keep their rules. -/
def mrOk (e : BitVec 256) : Bool :=
  let l := mrLength e
  fldN e 0 8 % 8 == 0 && fldN e 8 4 % 8 == 0 && decide (fldN e 8 4 < 0x10000000) && decide (fldN e 12 1 < 64) &&
    decide (fldN e 13 1 ≤ 1) && fldN e 14 2 == 0 && decide (8 ≤ l) && decide (l ≤ 65536) && l % 8 == 0 && fldN e 20 4 == 0

/-- The failure of one word at physical address `pa` (12 R354), none where it may be transferred. -/
def State.mrFault (s : State) (x : CtxId) (pa : Nat) (store : Bool) : Option Byte :=
  match homeOf (BitVec.ofNat 40 pa) with
  | none => some ADDR_WINDOW
  | some (r, e) =>
    let st := if e.toNat < 4 then (s.router r).ep.getD e.toNat 2 else 0
    if st = 1 then some TARGET_FENCED
    else if st = 2 then some TARGET_OFF
    else if inBanks pa ∧ ¬ (s.bank (bankOf pa)).grants x then some ADDR_RIGHTS
    else if inLocks pa ∧ ¬ s.lockCtx (lockOf pa) x then some ADDR_RIGHTS
    else if !store && s.bad pa then some ECC_UNCORRECTED
    else none

/-- An uncorrected error, a refusal or a packet turned back counts where it happens (10 R297, R300, R302, 11 R330). -/
def State.mrCount (s : State) (pa : Nat) (cause : Byte) : State :=
  if inBanks pa then
    if cause = ADDR_RIGHTS then s.updBank (bankOf pa) fun b => { b with refuse := satInc b.refuse }
    else if cause = ECC_UNCORRECTED then s.updBank (bankOf pa) fun b => { b with ue := satInc b.ue }
    else if cause = STORE_LOST then s.updBank (bankOf pa) fun b => { b with coll := satInc b.coll }
    else if cause = TARGET_FENCED ∨ cause = TARGET_OFF then
      s.updRouter (clusterRouter (bankCluster (bankOf pa))) fun t => { t with turnback := satInc t.turnback }
    else s
  else if inHbm pa ∧ cause = ECC_UNCORRECTED then s.updPch (pcOf (BitVec.ofNat 40 pa)) fun p => { p with ue := satInc p.ue }
  else s

/-- A read of the hub corrects a single-bit error (10 R300, R302). -/
def State.mrCorrected (s : State) (pa : Nat) : State :=
  if inBanks pa then (s.updBank (bankOf pa) fun b => { b with ce := satInc b.ce }).countCe (bankCluster (bankOf pa))
  else if inHbm pa then s.countPc pa false
  else s

/-- Words from the host are written in address order until one fails: the state, the bytes transferred and the cause. -/
def State.mrStore (x : CtxId) (lostAt : Option Nat) : List DWord → Nat → Nat → State → State × Nat × Byte
  | [], _, k, s => (s, 8 * k, 0)
  | v :: r, pa, k, s =>
    match s.mrFault x pa true with
    | some c => (s.mrCount pa c, 8 * k, c)
    | none =>
      if lostAt = some k ∧ inBanks pa then (s.mrCount pa STORE_LOST, 8 * k, STORE_LOST)
      else mrStore x lostAt r (pa + 8) (k + 1) ((s.wr pa 8 v.toNat).setBad pa false)

/-- Words for the host are read in address order until one fails: the state, the bytes read and the cause. `ceAt` is the word whose
read corrects an error. -/
def State.mrLoad (x : CtxId) (ceAt : Option Nat) : Nat → Nat → List Byte → State → State × List Byte × Byte
  | 0, _, acc, s => (s, acc, 0)
  | n + 1, pa, acc, s =>
    match s.mrFault x pa false with
    | some c => (s.mrCount pa c, acc, c)
    | none =>
      let v := if inLocks pa then (s.lockWord (lockOf pa)).toNat else s.rd pa 8
      mrLoad x ceAt n (pa + 8) (acc ++ leBytes 8 v) (if ceAt = some (acc.length / 8) then s.mrCorrected pa else s)

/-- The transfer of one entry through the bound context's window: the state, the bytes transferred and the cause. -/
def State.mrTransfer (s : State) (f : FuncId) (x : CtxId) (e : BitVec 256) (host : List DWord) (lostAt ceAt : Option Nat) : State × Nat × Byte :=
  let w := s.readWin x (BitVec.ofNat 6 (fldN e 12 1))
  let off := fldN e 8 4
  let len := mrLength e
  if !mrOk e then (s, 0, RESERVED_FIELD)
  else if (s.ctx x).state == FENCED then (s, 0, TARGET_FENCED)
  else if (s.ctx x).state == FREE || !w.valid || decide (w.len < off + len) then (s, 0, ADDR_WINDOW)
  else if (if mrIn e then !w.w else !w.r) then (s, 0, ADDR_RIGHTS)
  else if mrIn e then State.mrStore x lostAt (host.take (len / 8)) (w.base + off) 0 s
  else
    let (s, bs, c) := State.mrLoad x ceAt (len / 8) (w.base + off) [] s
    (if bs.isEmpty then s else s.emitFor f (.hostWrite f (mrHaddr e) bs), bs.length, c)

/-- Does the transfer reach a bank that is zero-filling, so that it waits (10 R298)? -/
def State.mrWaits (s : State) (x : CtxId) (e : BitVec 256) : Bool :=
  let w := s.readWin x (BitVec.ofNat 6 (fldN e 12 1))
  let a := w.base + fldN e 8 4
  mrOk e && w.valid && inBanks a && ((s.bank (bankOf a)).clring || (s.bank (bankOf (a + mrLength e - 1))).clring)

/-- The hub performs the transfer of a memory ring's next entry and writes its MEMDONE entry to the bound REEL ring. A
transfer to the device needs the words it reads from the host. Where the ring's or the function's row refuses every check (16 R441)
nothing is transferred, with ADDR_RIGHTS (DESIGN CHOICE, log 154). -/
def execMemoryRingTransfer (f : FuncId) (r : RingId) (e : BitVec 256) (host : List DWord) (lostAt : Option Nat) (s : State)
    (ceAt : Option Nat := none) : Out :=
  match s.ring f r with
  | none => .next s
  | some g =>
    if g.kind ≠ 2 ∨ ¬ s.ringReads f g ∨ s.mrWaits g.ctx e then .next s
    else if mrOk e ∧ mrIn e ∧ host.length < mrLength e / 8 then .next s
    else
      let (s, n, c) := if g.refuse || (s.func f).refuse then (s, 0, ADDR_RIGHTS) else s.mrTransfer f g.ctx e host lostAt ceAt
      let done : ReelItem :=
        { tag := BitVec.ofNat 64 n, value := BitVec.ofNat 64 (fldN e 24 8), type := 6, poison := false, cause := c, tt := false,
          ctx := none }
      .next ((s.stageItem f g.cring done).ringNext f r false)

end Sys2Proof.Machine
end

