-- ==== Sys2Proof/Machine/HostBars.lean ====
section
/-! DEFINITION. What a host does through a function's MSI-X capability and BAR2 (12 R344, R358). -/

namespace Sys2Proof.Machine

/-! ## MSI-X (12 R358) -/

/-- One message for each vector whose pending bit is set and that may now be sent; its bit clears. -/
def State.sendPending (s : State) (f : FuncId) : State :=
  let m := s.msix f
  if m.enable && !m.fmask then
    let go := m.pending.filter (m.unmasked.contains ·)
    let s := s.updHub fun h => { h with msix := h.msix.set f.toNat { m with pending := m.pending.filter (!m.unmasked.contains ·) } }
    go.foldl (fun s v => (s.emitFor f (m.message f v)).covered f v) s
  else s

/-- Change the capability or table of a function that answers, and send what is released. -/
def State.msixSet (s : State) (f : FuncId) (g : Msix → Msix) : State :=
  if s.barsAnswer f then (s.updHub fun h => { h with msix := h.msix.upd f.toNat {} g }).sendPending f else s

/-- A vector is unmasked. -/
def execMsixVectorUnmask (f : FuncId) (v : BitVec 6) (s : State) : Out :=
  .next (s.msixSet f fun m => { m with unmasked := if m.unmasked.contains v then m.unmasked else m.unmasked ++ [v] })

/-- MSI-X Enable is set. -/
def execMsixEnable (f : FuncId) (s : State) : Out := .next (s.msixSet f fun m => { m with enable := true })

/-- Function Mask is cleared. -/
def execFunctionMaskClear (f : FuncId) (s : State) : Out := .next (s.msixSet f fun m => { m with fmask := false })

/-- The class code that every function shows (12 R338). -/
def State.classCode (s : State) (f : FuncId) : Option (BitVec 24) := if s.funcExists f then some 0x120000 else none

/-! ## BAR2 (12 R344) -/

/-- The lock word at a BAR2 offset. -/
def bar2Word (off : BitVec 15) : BitVec 12 := bits off 3 12

/-- A read of 4 or 8 bytes: the word or half where the function has its group's rights, else zero. What a misaligned read
returns is not stated: a free value. -/
def execBar2Read (f : FuncId) (off : BitVec 15) (wide : Bool) (s : State) : Out :=
  if ¬ s.funcExists f then .next s
  else
    let n := bar2Word off
    if off.toNat % (if wide then 8 else 4) ≠ 0 then
      .next (s.takeFree.emit (.completion f (some (Config.freeValue s.free))))
    else
      let v := if s.lockFunc n f then s.lockWord n else 0
      .next (s.emit (.completion f (some (readPart wide off.toNat v))))

/-- A 64-bit AtomicOp CAS: aligned, the lock unit performs it and the completion carries the old word, or Completer Abort
where it is refused or an FLR of the requester came before it; misaligned, it is a malformed TLP, reported through AER, and
reaches no word. Any other AtomicOp is an Unsupported Request. -/
def execBar2Cas (f : FuncId) (off : BitVec 15) (expect new : DWord) (s : State) (op : AtomicOp := .cas64) : Out :=
  if ¬ s.funcExists f then .next s
  else if op ≠ .cas64 then .next (s.emit (.unsupported f))
  else if off.toNat % 8 ≠ 0 then .next (s.aerReport f .malformed)
  else if ¬ s.barsAnswer f then .next (s.emit (.completion f none))
  else
    let n := bar2Word off
    let m : Holder := { kind := 2, valid := true, who := BitVec.setWidth 13 f }
    let (s, st, old) := s.lockCas n expect new m (s.lockFunc n f)
    .next (s.emit (.completion f (if st = 0 then some old else none)))

/-- A memory write is discarded and counted by the lock unit. -/
def execBar2MemoryWrite (f : FuncId) (_off : BitVec 15) (_v : DWord) (s : State) : Out :=
  if ¬ s.barsAnswer f then .next s
  else .next { s with locks := { s.locks with barRefused := satInc s.locks.barRefused } }

end Sys2Proof.Machine
end

