-- ==== Sys2Proof/Machine/Bar0.lean ====
section
/-! DEFINITION. What a host reads in BAR0 (12 R342, R343, R347, R356-R358, 13 R369, 16 R457). -/

namespace Sys2Proof.Machine

/-- Do the 8 bytes at `o` hold one register, rather than two of 4 bytes? Of an MSI-X table entry the address is one register, data and
vector control are two (DESIGN CHOICE, log 172). -/
def bar0Whole (o : Nat) : Bool := !(decide (0x1000 ≤ o) && decide (o < 0x2000)) && !(decide (0x8000 ≤ o) && decide (o < 0x8400) && o % 16 == 8)

/-- What a read of 4 or 8 bytes returns: zero where it is not naturally aligned or not within one register (12 R343). -/
def State.bar0Read (s : State) (f : FuncId) (o : Nat) (wide : Bool) : DWord :=
  if wide && !bar0Whole (8 * (o / 8)) then 0 else readPart wide o (s.bar0Word f (8 * (o / 8)))

/-- A read that includes byte 0x27 of a READY slot consumes it and returns a credit to its ring (12 R357). -/
def State.slotRead (s : State) (f : FuncId) (o : Nat) (wide : Bool) : State :=
  let n := 64 * f.toNat + (o - 0x4000) / 256
  let w := s.hub.slots.getD n {}
  let last := if wide then o % 256 == 0x20 else o % 256 == 0x24
  if w.ready && last then
    let s := s.updHub fun h => { h with slots := h.slots.set n { w with ready := false, taken := true } }
    match s.ring f w.ring with
    | some g => if g.win && g.kind == 1 then s.ringTo f w.ring g { g with h := g.h + 1 } else s
    | none => s
  else s

/-- A host reads BAR0 at `off`, for the result window and every other register there. HB_RWM_CNT clears when it is read (00 R12). No
host reaches the part while a rail of HOST is lost (16 R459). -/
def execResultWindowRead (f : FuncId) (off : BitVec 16) (wide : Bool) (s : State) : Out :=
  if ¬ s.funcExists f ∨ ¬ s.hostRails then .next s
  else
    let o := off.toNat
    let s := s.emit (.completion f (some (s.bar0Read f o wide)))
    if 0x4000 ≤ o ∧ o < 0x8000 then .next (s.slotRead f o wide)
    else if 0x1000 ≤ o ∧ o < 0x2000 ∧ o % 64 = 0x20 ∧ !wide then
      .next (s.updRing f (BitVec.ofNat 6 ((o - 0x1000) / 64)) fun g => { g with wm := { g.wm with cnt := 0 } })
    else .next s

end Sys2Proof.Machine
end

