-- ==== Sys2Proof/Machine/Crypto.lean ====
section
/-! DEFINITION. SHA-384 and ECDSA over P-384, which 02 R66, R70, R71 and 13 R384 name (FIPS 180-4, FIPS 186-5). -/

namespace Sys2Proof.Machine

/-! ## SHA-384 -/

/-- The greatest `x` below 2^n over `acc` with `f x ≤ v`, bit by bit. -/
def rootBits (f : Nat → Nat) (v : Nat) : Nat → Nat → Nat
  | 0, acc => acc
  | n + 1, acc => rootBits f v n (if f (acc + 2 ^ n) ≤ v then acc + 2 ^ n else acc)

/-- Has `n` no divisor from 2 to `d + 1`? -/
def noDivisor (n : Nat) : Nat → Bool
  | 0 => true
  | d + 1 => (d + 2 == n || n % (d + 2) != 0) && noDivisor n d

/-- The primes below 410: the first 80. -/
def shaPrimes : List Nat := (List.range 410).filter fun n => 2 ≤ n && noDivisor n (n - 2)

/-- Round constants: the first 64 bits of the fractional parts of the cube roots of the first 80 primes. -/
def shaK : List DWord := shaPrimes.map fun p => BitVec.ofNat 64 (rootBits (fun x => x * x * x) (p * 2 ^ 192) 68 0)

/-- Initial value of SHA-384: the first 64 bits of the fractional parts of the square roots of the 9th to 16th primes. -/
def shaH0 : List DWord := ((shaPrimes.drop 8).take 8).map fun p => BitVec.ofNat 64 (rootBits (fun x => x * x) (p * 2 ^ 128) 69 0)

/-- Rotate right. -/
def rotr (x : DWord) (n : Nat) : DWord := (x >>> n) ||| (x <<< (64 - n))

/-- Extend the message schedule to `n` more words; newest first. -/
def shaSchedule : Nat → List DWord → List DWord
  | 0, w => w
  | n + 1, w =>
    let a := w.getD 1 0
    let b := w.getD 14 0
    let s1 := rotr a 19 ^^^ rotr a 61 ^^^ (a >>> 6)
    let s0 := rotr b 1 ^^^ rotr b 8 ^^^ (b >>> 7)
    shaSchedule n ((s1 + w.getD 6 0 + s0 + w.getD 15 0) :: w)

/-- One round on the eight working words. -/
def shaRound (v : List DWord) (kw : DWord) : List DWord :=
  match v with
  | [a, b, c, d, e, f, g, h] =>
    let t1 := h + (rotr e 14 ^^^ rotr e 18 ^^^ rotr e 41) + ((e &&& f) ^^^ (~~~e &&& g)) + kw
    let t2 := (rotr a 28 ^^^ rotr a 34 ^^^ rotr a 39) + ((a &&& b) ^^^ (a &&& c) ^^^ (b &&& c))
    [t1 + t2, a, b, c, d + t1, e, f, g]
  | _ => v

/-- The words of a 128-byte block, most significant byte first. -/
def shaWords : Nat → List Byte → List DWord
  | 0, _ => []
  | n + 1, bs => BitVec.ofNat 64 (beNat (bs.take 8)) :: shaWords n (bs.drop 8)

/-- One block. -/
def shaBlock (h : List DWord) (blk : List Byte) : List DWord :=
  let w := (shaSchedule 64 (shaWords 16 blk).reverse).reverse
  let v := (List.zipWith (· + ·) shaK w).foldl shaRound h
  List.zipWith (· + ·) h v

/-- All blocks. -/
def shaBlocks : Nat → List Byte → List DWord → List DWord
  | 0, _, h => h
  | n + 1, bs, h => shaBlocks n (bs.drop 128) (shaBlock h (bs.take 128))

/-- The SHA-384 digest, 48 bytes. -/
def sha384 (bs : List Byte) : List Byte :=
  let n := bs.length
  let pad := (239 - n % 128) % 128
  let m := bs ++ [0x80] ++ List.replicate pad 0 ++ beBytes 16 (8 * n)
  ((shaBlocks (m.length / 128) m shaH0).take 6).flatMap fun w => beBytes 8 w.toNat

/-! ## P-384 -/

/-- The field prime. -/
def p384 : Nat := 2 ^ 384 - 2 ^ 128 - 2 ^ 96 + 2 ^ 32 - 1
/-- The group order. -/
def n384 : Nat := 0xffffffffffffffffffffffffffffffffffffffffffffffffc7634d81f4372ddf581a0db248b0a77aecec196accc52973
/-- Coefficient b. -/
def b384 : Nat := 0xb3312fa7e23ee7e4988e056be3f82d19181d9c6efe8141120314088f5013875ac656398d8a2ed19d2a85c8edd3ec2aef
/-- The base point. -/
def g384 : Nat × Nat :=
  (0xaa87ca22be8b05378eb1c71ef320ad746e1d3b628ba79b9859f741e082542a385502f25dbf55296c3a545e3872760ab7,
   0x3617de4a96262c6f5d9e98bf9292dc29f8f41dbd289a147ce9da3113b5f0b8c00a60b1ce1d7e819d7a431d7c90ea0e5f)

/-- `b` to the power `e` modulo `m`, `n` bits of `e` from the top. -/
def powMod (m b e : Nat) : Nat → Nat → Nat
  | 0, acc => acc
  | n + 1, acc =>
    let a := acc * acc % m
    powMod m b e n (if e.testBit n then a * b % m else a)

/-- The inverse modulo a prime below 2^384. -/
def invMod (m a : Nat) : Nat := powMod m a (m - 2) 384 1

/-- Is the point on the curve? -/
def onCurve (x y : Nat) : Bool :=
  x < p384 && y < p384 && (y * y) % p384 == (x * x * x + (p384 - 3) * x + b384) % p384

/-- The sum of two points; none is the point at infinity. -/
def ecAdd : Option (Nat × Nat) → Option (Nat × Nat) → Option (Nat × Nat)
  | none, q => q
  | p, none => p
  | some (x1, y1), some (x2, y2) =>
    if x1 = x2 ∧ (y1 + y2) % p384 = 0 then none
    else
      let l := if x1 = x2 then (3 * x1 * x1 + (p384 - 3)) * invMod p384 (2 * y1 % p384) % p384
               else (y2 + (p384 - y1)) * invMod p384 ((x2 + (p384 - x1)) % p384) % p384
      let x := (l * l + (p384 - x1) + (p384 - x2)) % p384
      some (x, (l * (x1 + (p384 - x)) + (p384 - y1)) % p384)

/-- `k` times a point, `n` bits of `k` from the top. -/
def ecMul (k : Nat) (q : Option (Nat × Nat)) : Nat → Option (Nat × Nat) → Option (Nat × Nat)
  | 0, acc => acc
  | n + 1, acc =>
    let a := ecAdd acc acc
    ecMul k q n (if k.testBit n then ecAdd a q else a)

/-- Does the signature (r, s) of a digest verify under the key? -/
def ecdsaVerify (key : Nat × Nat) (digest r s : Nat) : Bool :=
  if r = 0 ∨ n384 ≤ r ∨ s = 0 ∨ n384 ≤ s then false
  else
    let w := invMod n384 s
    match ecAdd (ecMul (digest * w % n384) (some g384) 384 none) (ecMul (r * w % n384) (some key) 384 none) with
    | none => false
    | some (x, _) => x % n384 == r

end Sys2Proof.Machine
end

