-- ==== Sys2Proof/Machine/Flags.lean ====
section
/-! DEFINITION. The status flags and how they accrue: FST, DST (07 R194, R195, 09 R280). -/

namespace Sys2Proof.Machine

/-- FST.NX. -/
def NX : Word := 0x100
/-- FST.UF. -/
def UF : Word := 0x200
/-- FST.OF. -/
def OF : Word := 0x400
/-- FST.DZ. -/
def DZ : Word := 0x800
/-- FST.NV. -/
def NV : Word := 0x1000

/-- DST.INVALID. -/
def D_INVALID : Word := 1
/-- DST.INEXACT. -/
def D_INEXACT : Word := 2
/-- DST.RANGE. -/
def D_RANGE : Word := 4

/-- Flags accrue in FST at clock `due`. -/
def Thread.fstAccrue (th : Thread) (n due : Nat) (f : Word) : Thread :=
  if f = 0 then th else th.addLand n (some due) .fstFlags f

/-- Flags accrue in DST at clock `due`. -/
def Thread.dstAccrue (th : Thread) (n due : Nat) (f : Word) : Thread :=
  if f = 0 then th else th.addLand n (some due) .dstFlags f

/-- RM as a word reads it at its issue (07 R194, R201). -/
def Thread.rm (th : Thread) (n : Nat) : BitVec 2 := bits (th.early n 48 .fst th.fst) 0 2

end Sys2Proof.Machine
end

