-- ==== Sys2Proof/Machine/Float.lean ====
section
/-! DEFINITION. IEEE 754 arithmetic in binary32 and binary64, computed on exact integers and rounded once (08
R255-R258, 09 R271-R279). -/

namespace Sys2Proof.Machine

/-! ## Formats and values -/

/-- A format: bits of the significand with its hidden bit, and bits of the exponent. -/
structure Fmt where
  p : Nat
  eb : Nat
  deriving DecidableEq, Repr

/-- binary32. -/
def F32 : Fmt := ⟨24, 8⟩
/-- binary64. -/
def F64 : Fmt := ⟨53, 11⟩

/-- Exponent bias, the greatest exponent. -/
def Fmt.bias (f : Fmt) : Nat := 2 ^ (f.eb - 1) - 1
/-- Weight of the sign bit. -/
def Fmt.signW (f : Fmt) : Nat := 2 ^ (f.p - 1 + f.eb)
/-- Encoding of +infinity. -/
def Fmt.infBits (f : Fmt) : Nat := (2 ^ f.eb - 1) * 2 ^ (f.p - 1)
/-- Encoding of the canonical quiet NaN (09 R271 symbols). -/
def Fmt.qnan (f : Fmt) : Nat := f.infBits + 2 ^ (f.p - 2)

/-- A value: a NaN, an infinity, a zero, or sign, significand and exponent of `m * 2^e`. -/
inductive FVal where
  | nan (signalling : Bool)
  | inf (neg : Bool)
  | zero (neg : Bool)
  | num (neg : Bool) (m : Nat) (e : Int)
  deriving DecidableEq, Repr

/-- Decode an encoding. -/
def Fmt.unpack (f : Fmt) (x : Nat) : FVal :=
  let neg := decide (f.signW ≤ x % (2 * f.signW))
  let fr := x % 2 ^ (f.p - 1)
  let ex := x / 2 ^ (f.p - 1) % 2 ^ f.eb
  if ex = 2 ^ f.eb - 1 then
    if fr = 0 then .inf neg else .nan (fr < 2 ^ (f.p - 2))
  else if ex = 0 then
    if fr = 0 then .zero neg else .num neg fr (2 - (f.bias : Int) - f.p)
  else .num neg (2 ^ (f.p - 1) + fr) ((ex : Int) + 1 - f.bias - f.p)

/-- The sign bit of a result. -/
def Fmt.sign (f : Fmt) (neg : Bool) : Nat := if neg then f.signW else 0

/-! ## Rounding (09 R271) -/

/-- Bits of a number. -/
def bitLen (n : Nat) : Nat := if n = 0 then 0 else n.log2 + 1

/-- Round `m * 2^e` to a multiple of `2^lsb`: the quotient and whether it is inexact. -/
def roundAt (rm : BitVec 2) (neg : Bool) (m : Nat) (e lsb : Int) : Nat × Bool :=
  if lsb ≤ e then (m * 2 ^ (e - lsb).toNat, false)
  else
    let d := 2 ^ (lsb - e).toNat
    let q := m / d
    let r := m % d
    let up : Bool := match rm.toNat with
      | 0 => decide (d < 2 * r) || (decide (2 * r = d) && q % 2 == 1)
      | 1 => false
      | 2 => r != 0 && !neg
      | _ => r != 0 && neg
    (if up then q + 1 else q, r != 0)

/-- The result of an overflow. -/
def Fmt.overflow (f : Fmt) (rm : BitVec 2) (neg : Bool) : Nat :=
  let toInf : Bool := match rm.toNat with
    | 0 => true
    | 1 => false
    | 2 => !neg
    | _ => neg
  f.sign neg + (if toInf then f.infBits else f.infBits - 1)

/-- Round `m * 2^e`, `m` not 0, to the format: encoding and flags. -/
def Fmt.round (f : Fmt) (rm : BitVec 2) (neg : Bool) (m : Nat) (e : Int) : Nat × Word :=
  let top : Int := e + bitLen m - 1
  let emin : Int := 1 - f.bias
  let lsbU := top - (f.p - 1)
  let (u, _) := roundAt rm neg m e lsbU
  let topU := if u = 2 ^ f.p then top + 1 else top
  let tiny := topU < emin
  if (f.bias : Int) < topU then (f.overflow rm neg, OF ||| NX)
  else
    let lsb := max lsbU (emin - (f.p - 1))
    let (q, inexact) := roundAt rm neg m e lsb
    let (q, lsb) := if q = 2 ^ f.p then (2 ^ (f.p - 1), lsb + 1) else (q, lsb)
    let ex := if q < 2 ^ (f.p - 1) then 0 else (lsb + (f.p - 1) + f.bias).toNat
    let fr := if q < 2 ^ (f.p - 1) then q else q - 2 ^ (f.p - 1)
    let fl := (if inexact then NX else 0) ||| (if tiny && inexact then UF else 0)
    (f.sign neg + ex * 2 ^ (f.p - 1) + fr, fl)

/-- Round a signed exact sum; an exact zero of operands of opposite sign is -0 only when rounding down. -/
def Fmt.roundInt (f : Fmt) (rm : BitVec 2) (v : Int) (e : Int) : Nat × Word :=
  if v = 0 then (f.sign (rm == 3), 0) else f.round rm (v < 0) v.natAbs e

/-- A canonical NaN with a flag for an invalid operation. -/
def Fmt.nan (f : Fmt) (invalid : Bool) : Nat × Word := (f.qnan, if invalid then NV else 0)

/-- Is the value a NaN? -/
def FVal.isNan : FVal → Bool
  | .nan _ => true
  | _ => false
/-- Is the value a signalling NaN? -/
def FVal.isSnan : FVal → Bool
  | .nan s => s
  | _ => false
/-- Sign of a value that is no NaN. -/
def FVal.neg : FVal → Bool
  | .nan _ => false
  | .inf s => s
  | .zero s => s
  | .num s _ _ => s
/-- The value with its sign changed. -/
def FVal.negate : FVal → FVal
  | .nan s => .nan s
  | .inf s => .inf !s
  | .zero s => .zero !s
  | .num s m e => .num (!s) m e

/-- Signed integer significand. -/
def signed (neg : Bool) (m : Nat) : Int := if neg then -(m : Int) else m

/-- The exact sum of two finite numbers: a signed integer and its exponent. -/
def exactSum (s1 : Bool) (m1 : Nat) (e1 : Int) (s2 : Bool) (m2 : Nat) (e2 : Int) : Int × Int :=
  let e := min e1 e2
  (signed s1 m1 * 2 ^ (e1 - e).toNat + signed s2 m2 * 2 ^ (e2 - e).toNat, e)

/-! ## Operations -/

/-- Addition of values (09 R272, R277). -/
def Fmt.addV (f : Fmt) (rm : BitVec 2) (a b : FVal) : Nat × Word :=
  if a.isNan ∨ b.isNan then f.nan (a.isSnan || b.isSnan)
  else match a, b with
    | .inf s, .inf t => if s = t then (f.sign s + f.infBits, 0) else f.nan true
    | .inf s, _ => (f.sign s + f.infBits, 0)
    | _, .inf t => (f.sign t + f.infBits, 0)
    | .zero s, .zero t => if s = t then (f.sign s, 0) else (f.sign (rm == 3), 0)
    | .zero _, .num t m e => f.round rm t m e
    | .num s m e, .zero _ => f.round rm s m e
    | .num s1 m1 e1, .num s2 m2 e2 =>
      let (v, e) := exactSum s1 m1 e1 s2 m2 e2
      f.roundInt rm v e
    | _, _ => f.nan false

/-- Multiplication (09 R273, R277). -/
def Fmt.mulV (f : Fmt) (rm : BitVec 2) (a b : FVal) : Nat × Word :=
  let s := a.neg != b.neg
  if a.isNan ∨ b.isNan then f.nan (a.isSnan || b.isSnan)
  else match a, b with
    | .inf _, .zero _ => f.nan true
    | .zero _, .inf _ => f.nan true
    | .inf _, _ => (f.sign s + f.infBits, 0)
    | _, .inf _ => (f.sign s + f.infBits, 0)
    | .zero _, _ => (f.sign s, 0)
    | _, .zero _ => (f.sign s, 0)
    | .num _ m1 e1, .num _ m2 e2 => f.round rm s (m1 * m2) (e1 + e2)
    | _, _ => f.nan false

/-- Fused multiply-add `a * b + c` (09 R276, R277). -/
def Fmt.fmaV (f : Fmt) (rm : BitVec 2) (a b c : FVal) : Nat × Word :=
  let s := a.neg != b.neg
  let zinf : Bool := match a, b with
    | .inf _, .zero _ => true
    | .zero _, .inf _ => true
    | _, _ => false
  if a.isSnan ∨ b.isSnan ∨ c.isSnan ∨ zinf then f.nan true
  else if a.isNan ∨ b.isNan ∨ c.isNan then f.nan false
  else
    let prodInf : Bool := match a, b with
      | .inf _, _ => true
      | _, .inf _ => true
      | _, _ => false
    match a, b, c with
    | .num _ m1 e1, .num _ m2 e2, .num s3 m3 e3 =>
      let (v, e) := exactSum s (m1 * m2) (e1 + e2) s3 m3 e3
      f.roundInt rm v e
    | .num _ m1 e1, .num _ m2 e2, .zero _ => f.round rm s (m1 * m2) (e1 + e2)
    | _, _, .inf t => if prodInf && s != t then f.nan true else (f.sign t + f.infBits, 0)
    | _, _, c =>
      if prodInf then (f.sign s + f.infBits, 0)
      else f.addV rm (.zero s) c

/-- Division (09 R274, R277). -/
def Fmt.divV (f : Fmt) (rm : BitVec 2) (a b : FVal) : Nat × Word :=
  let s := a.neg != b.neg
  if a.isNan ∨ b.isNan then f.nan (a.isSnan || b.isSnan)
  else match a, b with
    | .inf _, .inf _ => f.nan true
    | .zero _, .zero _ => f.nan true
    | .inf _, _ => (f.sign s + f.infBits, 0)
    | _, .inf _ => (f.sign s, 0)
    | .zero _, _ => (f.sign s, 0)
    | _, .zero _ => (f.sign s + f.infBits, DZ)
    | .num _ m1 e1, .num _ m2 e2 =>
      let k := f.p + 3 + bitLen m2
      let n := m1 * 2 ^ k
      let q := 2 * (n / m2) + (if n % m2 = 0 then 0 else 1)
      f.round rm s q (e1 - e2 - k - 1)
    | _, _ => f.nan false

/-- Integer square root, by `n + 1` result bits from the top down. -/
def isqrtFrom (v : Nat) : Nat → Nat → Nat
  | 0, r => if (r + 1) * (r + 1) ≤ v then r + 1 else r
  | n + 1, r => let t := r + 2 ^ (n + 1); isqrtFrom v n (if t * t ≤ v then t else r)

/-- Integer square root of a number of at most 256 bits. -/
def isqrt (v : Nat) : Nat := isqrtFrom v 128 0

/-- Square root (09 R275). -/
def Fmt.sqrtV (f : Fmt) (rm : BitVec 2) (a : FVal) : Nat × Word :=
  match a with
  | .nan s => f.nan s
  | .zero s => (f.sign s, 0)
  | .inf s => if s then f.nan true else (f.infBits, 0)
  | .num s m e =>
    if s then f.nan true
    else
      let k : Nat := 2 * (f.p + 3)
      let odd := e % 2 != 0
      let n := m * 2 ^ (if odd then k + 1 else k)
      let r := isqrt n
      let q := 2 * r + (if r * r = n then 0 else 1)
      f.round rm false q ((e - (if odd then (k : Int) + 1 else k)) / 2 - 1)

/-- Signed order of an encoding that is no NaN: -0 equals +0. -/
def Fmt.order (f : Fmt) (x : Nat) : Int :=
  let m := x % f.signW
  if f.signW ≤ x % (2 * f.signW) then -(m : Int) else m

/-- Minimum or maximum number (08 R256). -/
def Fmt.minmax (f : Fmt) (isMax : Bool) (x y : Nat) : Nat × Word :=
  let a := f.unpack x
  let b := f.unpack y
  let fl : Word := if a.isSnan || b.isSnan then NV else 0
  if a.isNan ∧ b.isNan then (f.qnan, fl)
  else if a.isNan then (y, fl)
  else if b.isNan then (x, fl)
  else
    let xLess := f.order x < f.order y ∨ (f.order x = f.order y ∧ a.neg ∧ ¬ b.neg)
    (if isMax then (if xLess then y else x) else (if xLess then x else y), fl)

/-- FCMPEQ (08 R256). -/
def Fmt.cmpEq (f : Fmt) (x y : Nat) : Word × Word :=
  let a := f.unpack x
  let b := f.unpack y
  if a.isNan ∨ b.isNan then (0, if a.isSnan || b.isSnan then NV else 0)
  else (if f.order x = f.order y then 1 else 0, 0)

/-- FCMPLT and FCMPLE (08 R256). -/
def Fmt.cmpLess (f : Fmt) (orEq : Bool) (x y : Nat) : Word × Word :=
  if (f.unpack x).isNan ∨ (f.unpack y).isNan then (0, NV)
  else
    let r := if orEq then decide (f.order x ≤ f.order y) else decide (f.order x < f.order y)
    (if r then 1 else 0, 0)

/-- FCLASS (08 R257). -/
def Fmt.classOf (f : Fmt) (x : Nat) : Word :=
  let sub := decide (x / 2 ^ (f.p - 1) % 2 ^ f.eb = 0)
  match f.unpack x with
  | .inf s => if s then 1 else 0x80
  | .num s _ _ => if s then (if sub then 4 else 2) else (if sub then 0x20 else 0x40)
  | .zero s => if s then 8 else 0x10
  | .nan s => if s then 0x100 else 0x200

/-- A word to a format (08 R258). -/
def Fmt.fromInt (f : Fmt) (rm : BitVec 2) (v : Int) : Nat × Word :=
  if v = 0 then (0, 0) else f.round rm (v < 0) v.natAbs 0

/-- A format to a word, signed or not (08 R258, 09 R279). -/
def Fmt.toWord (f : Fmt) (rm : BitVec 2) (sgn : Bool) (x : Nat) : Word × Word :=
  let hi : Word := if sgn then 0x7FFFFFFF else 0xFFFFFFFF
  let lo : Word := if sgn then 0x80000000 else 0
  match f.unpack x with
  | .nan _ => (hi, NV)
  | .inf s => (if s then lo else hi, NV)
  | .zero _ => (0, 0)
  | .num s m e =>
    let (q, inexact) := roundAt rm s m e 0
    let v := signed s q
    let top : Int := if sgn then 2147483647 else 4294967295
    let bot : Int := if sgn then -2147483648 else 0
    if top < v then (hi, NV)
    else if v < bot then (lo, NV)
    else (BitVec.ofInt 32 v, if inexact then NX else 0)

/-- Conversion between formats (08 R258). -/
def convert (src dst : Fmt) (rm : BitVec 2) (x : Nat) : Nat × Word :=
  match src.unpack x with
  | .nan s => dst.nan s
  | .inf s => (dst.sign s + dst.infBits, 0)
  | .zero s => (dst.sign s, 0)
  | .num s m e => dst.round rm s m e

/-- Addition of encodings. -/
def Fmt.add (f : Fmt) (rm : BitVec 2) (x y : Nat) : Nat × Word := f.addV rm (f.unpack x) (f.unpack y)
/-- Subtraction of encodings: addition of the negated operand (09 R271). -/
def Fmt.sub (f : Fmt) (rm : BitVec 2) (x y : Nat) : Nat × Word := f.addV rm (f.unpack x) (f.unpack y).negate
/-- Multiplication of encodings. -/
def Fmt.mul (f : Fmt) (rm : BitVec 2) (x y : Nat) : Nat × Word := f.mulV rm (f.unpack x) (f.unpack y)
/-- Division of encodings. -/
def Fmt.div (f : Fmt) (rm : BitVec 2) (x y : Nat) : Nat × Word := f.divV rm (f.unpack x) (f.unpack y)
/-- Square root of an encoding. -/
def Fmt.sqrt (f : Fmt) (rm : BitVec 2) (x : Nat) : Nat × Word := f.sqrtV rm (f.unpack x)
/-- Fused multiply-add of encodings. -/
def Fmt.fma (f : Fmt) (rm : BitVec 2) (x y z : Nat) : Nat × Word := f.fmaV rm (f.unpack x) (f.unpack y) (f.unpack z)

end Sys2Proof.Machine
end

