-- ==== Sys2Proof/Machine/Interp.lean ====
section
/-! DEFINITION. The interpolation unit (08 R262-R265, 09 R285-R289). -/

namespace Sys2Proof.Machine

/-- IEEE comparison of binary32 words that are no NaNs: below. -/
def f32Less (x y : Word) : Bool := (F32.cmpLess false x.toNat y.toNat).1 == 1
/-- Is a binary32 word a NaN? -/
def f32Nan (x : Word) : Bool := (F32.unpack x.toNat).isNan
/-- The canonical NaN of binary32. -/
def f32Qnan : Word := BitVec.ofNat 32 F32.qnan

/-- Is the table's format binary32? -/
def Table.isFloat (t : Table) : Bool := t.format == 2

/-- Is `x` below `y` in the table's order of breakpoints (09 R285)? -/
def Table.less (t : Table) (x y : Word) : Bool := if t.isFloat then f32Less x y else x.slt y

/-- Where `x` falls among breakpoints (09 R285): a segment, or the index of the end value that a clamped `x` takes. -/
inductive Segment where
  | seg (i : Nat)
  | clamp (i : Nat)

/-- The greatest index `i` from 0 to `n` with b[i] ≤ x, for an x not below b[0]. -/
def Table.lastLe (t : Table) (b : List Word) (x : Word) : Nat → Nat
  | 0 => 0
  | n + 1 => if t.less x (b.getD (n + 1) 0) then t.lastLe b x n else n + 1

/-- The segment of `x` among the `n` breakpoints `b`. -/
def Table.segment (t : Table) (b : List Word) (n : Nat) (x : Word) : Segment :=
  if t.less x (b.getD 0 0) then (if t.ext then .seg 0 else .clamp 0)
  else if t.less (b.getD (n - 1) 0) x then (if t.ext then .seg (n - 2) else .clamp (n - 1))
  else .seg (min (t.lastLe b x (n - 1)) (n - 2))

/-- An integer quotient rounded to nearest, ties away from zero (08 R265); the divisor is positive. -/
def roundDiv (a b : Int) : Int :=
  let m := (2 * a.natAbs + b.natAbs) / (2 * b.natAbs)
  if a < 0 then -(m : Int) else m

/-- Saturated to the int32 range. -/
def satInt32 (v : Int) : Word :=
  if v > 2147483647 then 0x7FFFFFFF else if v < -2147483648 then 0x80000000 else BitVec.ofInt 32 v

/-- lerp of 08 R265: its operations decide, also where 09 R289 gives another value at a breakpoint (DESIGN CHOICE, log 170). -/
def Table.lerp (t : Table) (u u0 u1 a c w : Word) : Word :=
  if t.isFloat then
    let d := (F32.sub 0 c.toNat a.toNat).1
    let e := (F32.sub 0 u.toNat u0.toNat).1
    let f := (F32.mul 0 e w.toNat).1
    let g := (F32.mul 0 d f).1
    BitVec.ofNat 32 (F32.add 0 a.toNat g).1
  else
    satInt32 (a.toInt + roundDiv ((c.toInt - a.toInt) * (u.toInt - u0.toInt)) (u1.toInt - u0.toInt))

/-- Value (i, j) of a table. -/
def Table.value (t : Table) (i j : Nat) : Word := t.values.getD (j * t.nx + i) 0

/-- Interpolation along x on row `j`. -/
def Table.row (t : Table) (j : Nat) (x : Word) : Word :=
  match t.segment t.bx t.nx x with
  | .clamp i => t.value i j
  | .seg i => t.lerp x (t.bx.getD i 0) (t.bx.getD (i + 1) 0) (t.value i j) (t.value (i + 1) j) (t.wx.getD i 0)

/-- TLI1 at `x` (08 R263). -/
def Table.tli1 (t : Table) (x : Word) : Word := if t.isFloat && f32Nan x then f32Qnan else t.row 0 x

/-- TLI2 at `x`, `y` (08 R264). -/
def Table.tli2 (t : Table) (x y : Word) : Word :=
  if t.isFloat && (f32Nan x || f32Nan y) then f32Qnan
  else
    match t.segment t.vy t.ny y with
    | .clamp j => t.row j x
    | .seg j => t.lerp y (t.vy.getD j 0) (t.vy.getD (j + 1) 0) (t.row j x) (t.row (j + 1) x) (t.wy.getD j 0)

/-- The table of a context with a handle. -/
def CtxAux.table (a : CtxAux) (h : BitVec 16) : Option Table := a.tables.find? fun t => t.handle == h

/-- TLI: the table of rs1 in `dims` dimensions, or TABLE_INVALID. -/
def tliBody (t : Tid) (rd rs1 : GReg) (dims : Byte) (dist : Nat) (f : Thread → Nat → Table → Word) (s : State) (i : Iss) : Eff :=
  let th := s.thread t
  match (s.caux i.x).table (bits (th.read i.n rs1) 0 16) with
  | none => .fault s TABLE_INVALID
  | some tb =>
    if tb.dims ≠ dims then .fault s TABLE_INVALID
    else .ok (s.updThread t fun th' => th'.write i.n (some (i.k + dist)) rd (f th i.n tb))

/-- TLI1 (08 R263). -/
def execTli1 (t : Tid) (rd rs1 rs2 : GReg) (s : State) : Out :=
  issue t (wL3 0x39 rd rs1 rs2 0) (tliBody t rd rs1 1 12 fun th n tb => tb.tli1 (th.read n rs2)) s

/-- TLI2 (08 R264): x and y are the pair rs2. -/
def execTli2 (t : Tid) (rd rs1 rs2 : GReg) (s : State) : Out :=
  issue t (wL3 0x39 rd rs1 rs2 1)
    (tliBody t rd rs1 2 16 fun th n tb =>
      let p := th.readPair n rs2
      tb.tli2 (bits p 0 32) (bits p 32 32)) s

end Sys2Proof.Machine
end

