-- ==== Sys2Proof/Machine/Image.lean ====
section
/-! DEFINITION. EZG images: the checks of GRAPH_LOAD in their order, interpolation tables and seals (02 R60-R67, R71,
R498, 08 R262). -/

namespace Sys2Proof.Machine

/-! ## Mailbox statuses (13 R377) -/

def OK : BitVec 16 := 0x0000
def BUSY : BitVec 16 := 0x0002
def DENIED : BitVec 16 := 0x0010
def BAD_ARG : BitVec 16 := 0x0011
def NO_OBJECT : BitVec 16 := 0x0012
def WRONG_STATE : BitVec 16 := 0x0013
def CERT_INVALID : BitVec 16 := 0x0020
def BUDGET : BitVec 16 := 0x0021
def SEAL_INVALID : BitVec 16 := 0x0022
def MARK_LOST : BitVec 16 := 0x0030
def RING_FAULT : BitVec 16 := 0x0031
def HW_FENCED : BitVec 16 := 0x0040
def KEEPER_MODE : BitVec 16 := 0x0041
def INTERNAL : BitVec 16 := 0x00FF

/-- The offset of the first check that fails. -/
def firstBad : List (Bool × Nat) → Option Nat
  | [] => none
  | (ok, o) :: r => if ok then firstBad r else some o

/-- Are `n` bytes at offset `o` zero? -/
def zeros (bs : List Byte) (o n : Nat) : Bool := rdLe bs o n == 0

/-! ## Header and directory (02 R60, R61) -/

/-- The checks of the header, in the order of its fields. -/
def headerChecks (d : List Byte) : List (Bool × Nat) :=
  let cls := rdLe d 0x0C 1
  let drnd := rdLe d 0x0D 1
  let nsect := rdLe d 0x0E 2
  let nodecnt := rdLe d 0x10 4
  let csize := rdLe d 0x18 1
  [(rdLe d 0 4 == 0x32475A45, 0x00), (rdLe d 0x04 2 == 2, 0x04), (rdLe d 0x06 2 == 64, 0x06),
   (rdLe d 0x08 4 == d.length && decide (d.length ≤ 67108864), 0x08), (cls ≤ 2, 0x0C),
   (drnd ≤ 2 && (drnd == 0 || cls == 1), 0x0D), (4 ≤ nsect && decide (nsect ≤ 10), 0x0E),
   (1 ≤ nodecnt && decide (nodecnt ≤ 1048512), 0x10), (rdLe d 0x16 2 ≤ 16384, 0x16),
   (1 ≤ csize && decide (csize ≤ 64), 0x18), (zeros d 0x19 3, 0x19), (zeros d 0x20 32, 0x20)]

/-- A directory entry: its place, TYPE, OFFSET and SIZE. -/
structure DirEntry where
  place : Nat
  ty : Nat
  off : Nat
  size : Nat

/-- The directory of an image. -/
def directory (d : List Byte) : List DirEntry :=
  (List.range (rdLe d 0x0E 2)).map fun i =>
    let e := 0x40 + 16 * i
    { place := e, ty := rdLe d e 2, off := rdLe d (e + 8) 4, size := rdLe d (e + 12) 4 }

/-- The entry of a section type. -/
def dirOf (l : List DirEntry) (ty : Nat) : Option DirEntry := l.find? (·.ty == ty)
/-- Record size of a section type. -/
def recSize (ty : Nat) : Nat :=
  if ty = 1 then 4 else if ty = 2 ∨ ty = 6 then 16 else if ty = 3 ∨ ty = 4 ∨ ty = 5 ∨ ty = 8 then 8 else 1

/-- The size a section must have by the header, where the header says it. -/
def sizeByHeader (d : List Byte) (e : DirEntry) : Bool :=
  if e.ty = 2 then e.size == 16 * rdLe d 0x10 4
  else if e.ty = 5 then e.size == 8 * rdLe d 0x16 2
  else if e.ty = 6 then e.size == 16 * rdLe d 0x14 2
  else true

/-- Do two sections overlap? -/
def overlap (a b : DirEntry) : Bool :=
  decide (0 < a.size) && decide (0 < b.size) && decide (a.off < b.off + b.size) && decide (b.off < a.off + a.size)

/-- The checks of one directory entry against those before it. -/
def entryOk (d : List Byte) (l before : List DirEntry) (e : DirEntry) : Bool :=
  1 ≤ e.ty && e.ty ≤ 10 && zeros d (e.place + 2) 6 && before.all (fun b => b.ty != e.ty && !overlap b e) &&
    e.off % 4 == 0 && decide (0x40 + 16 * l.length ≤ e.off) && decide (e.off + e.size ≤ d.length) &&
    e.size % recSize e.ty == 0 && sizeByHeader d e &&
    (e.ty != 10 || (e.off + e.size == d.length && l.all fun b => b.ty == 10 || decide (b.off + b.size ≤ e.off)))

/-- The checks of the directory: each entry, then the sections that are required. -/
def directoryChecks (d : List Byte) : List (Bool × Nat) :=
  let l := directory d
  let has (ty : Nat) : Bool := (dirOf l ty).isSome
  (decide (0x40 + 16 * l.length ≤ d.length), 0x40) ::
  (l.mapIdx fun i e => (entryOk d l (l.take i) e, e.place)) ++
  [(has 1 && has 2 && has 4 && has 9 && (has 5 || rdLe d 0x16 2 == 0) && (has 6 || rdLe d 0x14 2 == 0), 0x40)]

/-- The bytes of a section; none where it is absent. -/
def sectionBytes (d : List Byte) (ty : Nat) : List Byte :=
  match dirOf (directory d) ty with
  | some e => (d.drop e.off).take e.size
  | none => []

/-- Offset of a section. -/
def sectionBase (d : List Byte) (ty : Nat) : Nat := match dirOf (directory d) ty with | some e => e.off | none => 0
/-- Offset of a section's directory entry. -/
def sectionEntry (d : List Byte) (ty : Nat) : Nat := match dirOf (directory d) ty with | some e => e.place | none => 0x40

/-- The records of a section as numbers, each with its offset in the image. -/
def records (d : List Byte) (ty n : Nat) : List (Nat × Nat) :=
  let b := sectionBytes d ty
  (List.range (b.length / n)).map fun i => (rdLe b (n * i) n, sectionBase d ty + n * i)

/-! ## Records (02 R62, R64, R498) -/

/-- Node record. -/
def nodeOf (r : Nat) : NodeRec :=
  let v := BitVec.ofNat 128 r
  { codeOff := bits v 0 32, codeLen := bits v 32 16, inputs := bits v 48 2, ctl := v.getLsbD 50, ndest := bits v 56 8,
    destOff := bits v 64 32, pgroup := bits v 96 16 }

/-- Destination record. -/
def destOf (r : Nat) : DestRec :=
  let v := BitVec.ofNat 64 r
  { node := bits v 0 20, port := bits v 20 2, kind := bits v 22 3, chan := bits v 25 3 }

/-- Placement group. -/
def groupOf (r : Nat) : GroupRec :=
  let v := BitVec.ofNat 64 r
  { first := bits v 0 6, count := bits v 6 7, rule := bits v 13 2, shift := bits v 15 4 }

/-- Task record. -/
def taskRecOf (r : Nat) : TaskRec :=
  let v := BitVec.ofNat 128 r
  { entry := bits v 0 32, prio := bits v 32 8, place := bits v 40 8, chmask := bits v 48 8, start := v.getLsbD 56,
    super := v.getLsbD 57, exth := v.getLsbD 58, arg := bits v 64 32 }

/-- Flow record. -/
def flowOfRec (r : Nat) : FlowRec :=
  let v := BitVec.ofNat 64 r
  { gapto := bits v 0 16, first := bits v 16 16 }

/-- External-input record. -/
def extOf (r : Nat) : ExtRec :=
  let v := BitVec.ofNat 64 r
  { node := bits v 0 20, port := bits v 20 2, source := bits v 22 2, chan := bits v 24 3, task := v.getLsbD 27 }

/-- Is a placement group well formed in an image of CSIZE positions? -/
def groupOk (csize r : Nat) : Bool :=
  let g := groupOf r
  r / 2 ^ 19 == 0 && 1 ≤ g.count.toNat && g.count.toNat ≤ 64 && g.rule != 3 && (g.rule == 2 || g.shift == 0) &&
    decide (g.first.toNat + g.count.toNat ≤ csize)

/-- Is a task record well formed? -/
def taskOk (code csize r : Nat) : Bool :=
  let t := taskRecOf r
  r / 2 ^ 96 == 0 && t.entry.toNat % 4 == 0 && decide (t.entry.toNat < code) && t.prio.toNat ≤ 31 &&
    decide (t.place.toNat < csize) && !t.chmask.getLsbD 7 && r / 2 ^ 59 % 32 == 0

/-- Is a node record well formed? DESTOFF of a node without destinations may not lie beyond the DEST records either (DESIGN CHOICE, log
155). -/
def nodeOk (code groups dests r : Nat) : Bool :=
  let n := nodeOf r
  r / 2 ^ 112 == 0 && n.codeOff.toNat % 4 == 0 && 1 ≤ n.codeLen.toNat && n.codeLen.toNat ≤ 16384 &&
    decide (n.codeOff.toNat + 4 * n.codeLen.toNat ≤ code) && n.inputs != 0 && r / 2 ^ 51 % 32 == 0 &&
    n.ndest.toNat ≤ 8 && decide (n.destOff.toNat + n.ndest.toNat ≤ dests) && decide (n.pgroup.toNat < groups)

/-- Is PORT a member of the node's required port set (03 R72)? -/
def NodeRec.hasPort (n : NodeRec) (p : BitVec 2) : Bool := p.toNat < n.inputs.toNat || (p == 3 && n.ctl)

/-- Does a destination record name an existing node, task or reel value with a valid PORT? -/
def destOk (nodes : List NodeRec) (taskcnt r : Nat) : Bool :=
  let e := destOf r
  let k := e.kind.toNat
  r / 2 ^ 28 == 0 &&
    if k = 2 ∨ k = 3 then decide (e.node.toNat < taskcnt) && e.port == 0 && e.chan != 7
    else e.chan == 0 &&
      if isReel e.node then e.port == 0 && (k == 0 || k == 4 || k == 5)
      else match nodes[e.node.toNat]? with
        | some n => (k == 0 && e.port != 3 && n.hasPort e.port) || (k == 4 && e.port == 3 && n.ctl)
        | none => false

/-- Is an external-input record well formed (02 R498)? -/
def extOk (nodes : List NodeRec) (tasks : List TaskRec) (r : Nat) : Bool :=
  let e := extOf r
  r / 2 ^ 28 == 0 && e.source != 3 &&
    if e.task then match tasks[e.node.toNat]? with
      | some t => e.chan != 7 && t.chmask.getLsbD e.chan.toNat && e.port == 0
      | none => false
    else match nodes[e.node.toNat]? with
      | some n => n.hasPort e.port && e.chan == 0
      | none => false

/-- Are two tasks before or at place `i` of the list flagged as supervisor, or as extension handler, the last at `i`? -/
def secondOf (p : TaskRec → Bool) (l : List TaskRec) (i : Nat) : Bool :=
  (match l[i]? with | some t => p t | none => false) && decide (1 < (l.take (i + 1)).countP p)

/-- The checks of the records: a record is checked after those it refers to. -/
def recordChecks (d : List Byte) : List (Bool × Nat) :=
  let csize := rdLe d 0x18 1
  let code := (sectionBytes d 1).length
  let groups := records d 4 8
  let dests := records d 3 8
  let nodes := records d 2 16
  let tasks := records d 6 16
  let ns := nodes.map fun r => nodeOf r.1
  let ts := tasks.map fun r => taskRecOf r.1
  groups.map (fun r => (groupOk csize r.1, r.2)) ++
  (tasks.mapIdx fun i r => (taskOk code csize r.1 && !secondOf (·.super) ts i && !secondOf (·.exth) ts i, r.2)) ++
  nodes.map (fun r => (nodeOk code groups.length dests.length r.1, r.2)) ++
  dests.map (fun r => (destOk ns tasks.length r.1, r.2)) ++
  (records d 5 8).map (fun r => (r.1 / 2 ^ 32 == 0 && (flowOfRec r.1).gapto != 0, r.2)) ++
  (records d 8 8).map (fun r => (extOk ns ts r.1, r.2))

/-! ## Seal, tables, certificate (02 R65-R67, R71, 08 R262) -/

/-- SEAL exactly for METERING and well formed, TABLE only for CONTROL. -/
def sealChecks (d : List Byte) : List (Bool × Nat) :=
  let cls := rdLe d 0x0C 1
  let l := directory d
  let sl := dirOf l 10
  let b := sectionBytes d 10
  [(sl.isSome == (cls == 1), sectionEntry d 10), (sl.isNone || b.length == 104, sectionEntry d 10),
   (zeros b 2 6, sectionBase d 10), ((dirOf l 7).isNone || cls == 0, sectionEntry d 7)]

/-- Bytes of a table's data by its header: breakpoints or origins and steps, then values. -/
def tableSize (dims fmt : Nat) (explicit : Bool) (nx ny : Nat) : Nat :=
  4 * (if explicit then nx + (if dims = 2 then ny else 0) else 2 * dims) + (if fmt = 0 then 2 else 4) * (nx * ny)

/-- The words of `n` bytes each from offset `o`, sign-extended. -/
def wordsAt (b : List Byte) (o n k : Nat) : List Word :=
  (List.range k).map fun i =>
    if n = 2 then BitVec.signExtend 32 (BitVec.ofNat 16 (rdLe b (o + 2 * i) 2)) else BitVec.ofNat 32 (rdLe b (o + 4 * i) 4)

/-- Breakpoints of a uniform table, each rounded once; none where an integer one is no int32. -/
def uniformPoints (fmt : Nat) (x0 dx : Word) (n : Nat) : List (Option Word) :=
  (List.range n).map fun i =>
    if fmt = 2 then some (BitVec.ofNat 32 (F32.fmaV 0 (if i = 0 then .zero false else .num false i 0) (F32.unpack dx.toNat) (F32.unpack x0.toNat)).1)
    else
      let v := x0.toInt + i * dx.toInt
      if -2147483648 ≤ v ∧ v ≤ 2147483647 then some (BitVec.ofInt 32 v) else none

/-- Is a binary32 word finite? -/
def f32Finite (x : Word) : Bool := (x.toNat / 2 ^ 23) % 256 != 255

/-- Do breakpoints increase strictly? -/
def increasing (fmt : Nat) : List Word → Bool
  | a :: b :: r => (if fmt = 2 then f32Less a b else a.slt b) && increasing fmt (b :: r)
  | _ => true

/-- The reciprocals of the segments of a binary32 table, each rounded once. -/
def reciprocals : List Word → List Word
  | a :: b :: r =>
    (match F32.unpack a.toNat, F32.unpack b.toNat with
      | .num s1 m1 e1, .num s2 m2 e2 =>
        let (v, e) := exactSum s2 m2 e2 (!s1) m1 e1
        BitVec.ofNat 32 (F32.divV 0 (.num false 1 0) (.num (decide (v < 0)) v.natAbs e)).1
      | .num s1 m1 e1, _ => BitVec.ofNat 32 (F32.divV 0 (.num false 1 0) (.num (!s1) m1 e1)).1
      | _, y => BitVec.ofNat 32 (F32.divV 0 (.num false 1 0) y).1) :: reciprocals (b :: r)
  | _ => []

/-- One table from a byte string that begins with its header: the table when it is valid, and its length. -/
def parseTable (b : List Byte) : Option (Table × Nat) :=
  let dims := rdLe b 2 1
  let fmt := rdLe b 3 1
  let flags := rdLe b 4 1
  let nx := rdLe b 6 2
  let ny := rdLe b 8 2
  let len := rdLe b 12 4
  let explicit := flags / 2 % 2 == 1
  let shape := if dims = 1 then 2 ≤ nx && nx ≤ 4096 && ny == 1 else 2 ≤ nx && nx ≤ 64 && 2 ≤ ny && ny ≤ 64
  if ¬ ((dims == 1 || dims == 2) && fmt ≤ 2 && flags ≤ 3 && zeros b 5 1 && zeros b 10 2 && shape &&
      len == tableSize dims fmt explicit nx ny && decide (16 + len ≤ b.length)) then none
  else
    let d := (b.drop 16).take len
    let p (o n : Nat) : List (Option Word) :=
      if explicit then (wordsAt d o 4 n).map some
      else
        let w := wordsAt d o 4 2
        if (if fmt = 2 then f32Less 0 (w.getD 1 0) else (0 : Word).slt (w.getD 1 0)) then uniformPoints fmt (w.getD 0 0) (w.getD 1 0) n
        else [none]
    let oy := if explicit then 4 * nx else 8
    let bx := p 0 nx
    let vy := if dims = 2 then p oy ny else []
    let xs := bx.filterMap id
    let ys := vy.filterMap id
    let ov := len - (if fmt = 0 then 2 else 4) * (nx * ny)
    let vs := wordsAt d ov (if fmt = 0 then 2 else 4) (nx * ny)
    if bx.all Option.isSome && vy.all Option.isSome && increasing fmt xs && increasing fmt ys &&
        (fmt != 2 || (xs.all f32Finite && ys.all f32Finite && vs.all f32Finite)) then
      some ({ handle := BitVec.ofNat 16 (rdLe b 0 2), dims := BitVec.ofNat 8 dims, format := BitVec.ofNat 8 fmt,
              ext := flags % 2 == 1, nx := nx, ny := ny, bx := xs, vy := ys, values := vs,
              wx := if fmt = 2 then reciprocals xs else [], wy := if fmt = 2 then reciprocals ys else [], size := 0 },
            16 + len)
    else none

/-- The tables of a TABLE section at offset `o` of the image, or the offset of the first that is not valid. -/
def parseTables : Nat → List Byte → Nat → List Table → List Table ⊕ Nat
  | 0, _, o, _ => .inr o
  | n + 1, b, o, acc =>
    if b.isEmpty then .inl acc
    else
      match parseTable b with
      | none => .inr o
      | some (t, len) =>
        if acc.any (·.handle == t.handle) then .inr o else parseTables n (b.drop len) (o + len) (acc ++ [t])

/-- The tables of an image. -/
def imageTables (d : List Byte) : List Table ⊕ Nat :=
  let b := sectionBytes d 7
  parseTables (b.length + 1) b (sectionBase d 7) []

/-- The words of CODE. -/
def imageCode (d : List Byte) : List Word := (records d 1 4).map fun r => BitVec.ofNat 32 r.1

/-- The census that decoding every word of CODE finds. -/
def censusOf (code : List Word) : Word := code.foldl (fun a w => a ||| wordCensus w) 0

/-- The bytes outside the CERT and SEAL sections. -/
def digested (d : List Byte) : List Byte :=
  let c := sectionBase d 9
  let n := (sectionBytes d 9).length
  let e := match dirOf (directory d) 10 with | some s => s.off | none => d.length
  d.take c ++ (d.take e).drop (c + n)

/-- The credit figures of a position. -/
def posOf (b : List Byte) (k : Nat) : PosRec :=
  let o := 0x40 + 8 * k
  { matching := rdLe b o 2, delay := rdLe b (o + 2) 2, tasks := rdLe b (o + 4) 2, channels := rdLe b (o + 6) 2 }

/-- Format, digest and census of the certificate. -/
def certChecks (d : List Byte) : List (Bool × Nat) :=
  let b := sectionBytes d 9
  let o := sectionBase d 9
  [(rdLe b 0 2 == 1 && rdLe b 4 4 < 32 && zeros b 12 4 && b.length == 0x40 + 8 * rdLe b 2 2, o),
   ((b.drop 0x10).take 48 == sha384 (digested d) && rdLe b 4 4 == (censusOf (imageCode d)).toNat, o)]

/-- The position records of the certificate. -/
def positionChecks (d : List Byte) : List (Bool × Nat) :=
  let b := sectionBytes d 9
  let o := sectionBase d 9
  let ts := (records d 6 16).map fun r => taskRecOf r.1
  (rdLe b 2 2 == rdLe d 0x18 1, o) ::
  (List.range (rdLe b 2 2)).map fun k =>
    let p := posOf b k
    (p.matching ≤ 16384 && p.delay ≤ 4096 && p.tasks ≤ 1024 && p.channels ≤ 8192 &&
      decide ((ts.countP fun t => t.place.toNat == k) ≤ p.tasks), o + 0x40 + 8 * k)

/-- The families of a census that a class forbids (01 R33). -/
def classForbids (cls : Nat) : Nat := if cls = 0 then 0x04 else if cls = 1 then 0x0B else 0x0C

/-- The image that a byte string holds once every check has passed. -/
def imageOfBytes (owner : FuncId) (d : List Byte) (tables : List Table) : Image :=
  let c := sectionBytes d 9
  { owner := owner, bytes := d, cls := BitVec.ofNat 2 (rdLe d 0x0C 1), drnd := BitVec.ofNat 2 (rdLe d 0x0D 1),
    nodecnt := rdLe d 0x10 4, taskcnt := rdLe d 0x14 2, flowcnt := rdLe d 0x16 2, csize := rdLe d 0x18 1,
    code := imageCode d, nodes := (records d 2 16).map fun r => nodeOf r.1, dests := (records d 3 8).map fun r => destOf r.1,
    groups := (records d 4 8).map fun r => groupOf r.1, flows := (records d 5 8).map fun r => flowOfRec r.1,
    tasks := (records d 6 16).map fun r => taskRecOf r.1, taskBytes := sectionBytes d 6, tables := tables,
    extins := (records d 8 8).map fun r => extOf r.1, census := BitVec.ofNat 32 (rdLe c 4 4), spill := rdLe c 8 4,
    pos := (List.range (rdLe d 0x18 1)).map (posOf c),
    sealed := match dirOf (directory d) 10 with | some e => d.take e.off | none => [] }

/-- The checks of GRAPH_LOAD but for room, in order (02 R65): the image, or the status and the offset in the data. -/
def parseImage (owner : FuncId) (d : List Byte) : Image ⊕ (BitVec 16 × Nat) :=
  match firstBad (headerChecks d) with
  | some o => .inr (BAD_ARG, o)
  | none =>
    match firstBad (directoryChecks d) with
    | some o => .inr (BAD_ARG, o)
    | none =>
      match firstBad (recordChecks d ++ sealChecks d) with
      | some o => .inr (BAD_ARG, o)
      | none =>
        match imageTables d with
        | .inr o => .inr (BAD_ARG, o)
        | .inl ts =>
          match firstBad (certChecks d ++ positionChecks d) with
          | some o => .inr (CERT_INVALID, o)
          | none =>
            if rdLe (sectionBytes d 9) 4 4 &&& classForbids (rdLe d 0x0C 1) = 0 then .inl (imageOfBytes owner d ts)
            else .inr (BAD_ARG, sectionBase d 9)

/-- Does the seal of an image verify under the slots (02 R71)? Keys hold X in bits 767:384 and Y in 383:0. -/
def Image.sealOk (m : Image) (keys : Map (BitVec 768)) : Bool :=
  let b := m.bytes.drop m.sealed.length
  match keys.find (rdLe b 0 1) with
  | none => false
  | some k =>
    rdLe b 1 1 == 1 &&
      ecdsaVerify ((bits k 384 384).toNat, (bits k 0 384).toNat) (beNat (sha384 m.sealed)) (beNat ((b.drop 8).take 48))
        (beNat ((b.drop 56).take 48))

end Sys2Proof.Machine
end

