-- ==== Sys2Proof/Machine/Mailbox.lean ====
section
/-! DEFINITION. The mailbox transport and envelope: doorbell, command buffer, the common checks of a command, the order in
which commands are performed, and the response (13 R369-R381, R497). -/

namespace Sys2Proof.Machine

/-! ## The response (13 R371, R376, R497) -/

/-- A response buffer. -/
def responseOf (status seq : BitVec 16) (detail : DWord) (payload : List Byte) : BitVec 2048 :=
  let b := leBytes 2 status.toNat ++ leBytes 2 seq.toNat ++ leBytes 2 payload.length ++ leBytes 2 1 ++ leBytes 8 detail.toNat ++ payload
  BitVec.ofNat 2048 (leNat b)

/-- A command of function `f` completes: response, STATUS and DONE, and vector 0 where NOTIFY asked for it. A command that
an FLR has discarded leaves no response. -/
def State.answer (s : State) (f : FuncId) (status : BitVec 16) (detail : DWord) (payload : List Byte) : State :=
  let m := s.mbox f
  if ¬ m.pend then s
  else
    let seq : BitVec 16 := fld m.latched 2 2
    let s := s.updMbox f fun m =>
      { m with rsp := responseOf status seq detail payload, done := true, pend := false, begun := false, status := status }
    let s := s.updHub fun h => { h with order := h.order.erase f }
    if m.latched.getLsbD 49 then s.raise f 0 else s

/-- How a command ends: with its payload and DMA-out data, with a failure (status, offset, subcode, offset in the DMA data,
and DMA-out data written all the same), or not
yet. -/
inductive Reply where
  | ok (s : State) (payload : List Byte) (out : Option (List Byte))
  | fail (status : BitVec 16) (off sub at_ : Nat) (out : Option (List Byte))
  /-- A failure that has been counted in `s`. -/
  | failIn (s : State) (status : BitVec 16) (off sub : Nat) (out : Option (List Byte))
  | later (s : State)
  /-- The data the row brings is no answer to the command's read: nothing happens. -/
  | idle

/-- A failure without more. -/
def Reply.bad (status : BitVec 16) (off : Nat) : Reply := .fail status off 0 0 none
/-- Success without a payload. -/
def Reply.done (s : State) : Reply := .ok s [] none

/-! ## Fields of the latched command (13 R375, R378) -/

/-- The latched buffer with the bytes beyond LENGTH as zero, so that absent fields read as zero. -/
def Mbox.request (m : Mbox) : BitVec 2048 :=
  let n := 8 * (16 + min 240 (fldN m.latched 4 2))
  if n < 2048 then m.latched &&& BitVec.setWidth 2048 (BitVec.allOnes n) else m.latched

/-- `n` bytes at offset `o` of the command of function `f`. -/
def State.arg (s : State) (f : FuncId) (o n : Nat) : Nat := fldN (s.mbox f).request o n
/-- The context that TARGET or a payload field names. -/
def State.argCtx (s : State) (f : FuncId) (o : Nat) : CtxId := BitVec.ofNat 13 (s.arg f o 2)
/-- FLAGS.DMA. -/
def State.argDma (s : State) (f : FuncId) : Bool := (s.mbox f).latched.getLsbD 48

/-- DMA-out data: written to HADDR, never beyond DLEN; the bytes written. -/
def State.dmaOut (s : State) (f : FuncId) (out : Option (List Byte)) : State × Nat :=
  match out with
  | none => (s, 0)
  | some b =>
    let b := b.take (s.arg f 0x18 4)
    (if b.isEmpty then s else s.emitFor f (.hostWrite f (BitVec.ofNat 64 (s.arg f 0x10 8)) b), b.length)

/-- DETAIL of a failure. -/
def failDetail (off sub at_ : Nat) : DWord := BitVec.ofNat 32 at_ ++ BitVec.ofNat 16 sub ++ BitVec.ofNat 16 off

/-- Complete, or leave begun, the command of function `f`. -/
def State.settle (s : State) (f : FuncId) : Reply → State
  | .ok t payload out =>
    let (t, n) := t.dmaOut f out
    t.answer f OK (BitVec.ofNat 32 n ++ (0 : BitVec 32)) payload
  | .fail st off sub at_ out => ((s.dmaOut f out).1).answer f st (failDetail off sub at_) []
  | .failIn t st off sub out => ((t.dmaOut f out).1).answer f st (failDetail off sub 0) []
  | .later t => t.updMbox f fun m => { m with begun := true }
  | .idle => s

/-! ## The commands (13, tables) -/

/-- Rights of 13 R380. -/
inductive Right where
  | any | own | adm | pio | dbg
  deriving DecidableEq, Repr

/-- How a command uses the DMA descriptor (13 R378). -/
inductive DmaUse where
  | none | din | dout | opt
  deriving DecidableEq, Repr

/-- The envelope of a command: opcode, right, DMA use, LENGTH without and with the DMA flag, bits of TARGET, and the
reserved parts of the payload (offset and bytes). -/
structure CmdSpec where
  op : Nat
  right : Right
  dma : DmaUse
  len : Nat
  /-- The other LENGTH of a command whose payload is its descriptor, left out where FLAGS.DMA is 0 (DEDUCED, log 177). -/
  short : Nat
  target : Nat
  zero : List (Nat × Nat)

/-- A command without DMA. -/
def cmdPlain (op : Nat) (right : Right) (len target : Nat) (zero : List (Nat × Nat) := []) : CmdSpec :=
  { op := op, right := right, dma := .none, len := len, short := len, target := target, zero := zero }
/-- A command with DMA. -/
def cmdDma (op : Nat) (right : Right) (use : DmaUse) (len target : Nat) (zero : List (Nat × Nat) := []) : CmdSpec :=
  { op := op, right := right, dma := use, len := len, short := len, target := target, zero := zero }

/-- The command tables of 13: a payload field that a command does not name is reserved. -/
def cmdTable : List CmdSpec :=
  [cmdPlain 0x0001 .any 0 0, cmdPlain 0x0002 .any 0 0, cmdDma 0x0003 .adm .din 16 0, cmdPlain 0x0004 .adm 0 0,
   cmdDma 0x0101 .any .din 16 0, cmdPlain 0x0102 .own 0 16, cmdDma 0x0103 .own .opt 20 13 [(0x21, 1)]] ++
  [cmdPlain 0x0201 .own 8 16 [(0x15, 3)], cmdPlain 0x0202 .own 0 13, cmdPlain 0x0203 .own 0 13, cmdPlain 0x0204 .own 0 13,
   cmdPlain 0x0205 .own 16 13 [(0x19, 7)],
   { cmdDma 0x0206 .own .opt 16 13 with short := 0 },
   cmdPlain 0x0301 .own 8 13 [(0x13, 1), (0x16, 2)], cmdPlain 0x0302 .any 32 6 [(0x2D, 3)], cmdPlain 0x0303 .any 0 6,
   cmdPlain 0x0304 .any 0 6] ++
  [cmdPlain 0x0401 .adm 8 0 [(0x14, 4)], cmdPlain 0x0402 .own 24 13 [(0x11, 7)], cmdPlain 0x0403 .adm 24 0 [(0x12, 6)],
   cmdPlain 0x0501 .adm 32 7, cmdPlain 0x0502 .any 0 64, cmdPlain 0x0503 .adm 104 0 [(0x12, 6)], cmdPlain 0x0601 .adm 8 0,
   cmdPlain 0x0602 .adm 16 0 [(0x12, 2), (0x1C, 4)], cmdPlain 0x0603 .adm 4 0] ++
  [cmdPlain 0x0701 .pio 72 12 [(0x11, 1), (0x14, 4)], cmdPlain 0x0702 .pio 136 11 [(0x11, 1), (0x14, 4)],
   cmdDma 0x0703 .adm .din 32 2 [(0x2E, 2)], cmdPlain 0x0801 .adm 0 4, cmdPlain 0x0802 .adm 0 4, cmdPlain 0x0803 .adm 0 4,
   cmdPlain 0x0804 .adm 16 0 [(0x19, 7)], cmdPlain 0x0805 .adm 128 0] ++
  [cmdPlain 0x0901 .any 0 0, cmdDma 0x0902 .any .dout 24 13 [(0x21, 1), (0x24, 4)], cmdPlain 0x0903 .adm 32 5 [(0x14, 4)],
   cmdDma 0x0904 .adm .dout 24 0 [(0x22, 2)], cmdDma 0x0905 .adm .dout 32 0 [(0x2C, 4)], cmdDma 0x0A01 .adm .din 16 0,
   cmdPlain 0x0A02 .adm 8 0 [(0x14, 4)]] ++
  [cmdPlain 0x0B01 .dbg 8 13 [(0x11, 7)], cmdPlain 0x0B02 .dbg 8 13 [(0x11, 1), (0x17, 1)],
   cmdPlain 0x0B03 .dbg 8 13 [(0x11, 1), (0x17, 1)], cmdDma 0x0B04 .dbg .dout 36 13 [(0x21, 1), (0x27, 1), (0x29, 3)]]

/-- The envelope of an opcode. -/
def cmdOf (op : Nat) : Option CmdSpec := cmdTable.find? (·.op == op)

/-! ## Check 1 (13 R378, R379) -/

/-- Does the command use the descriptor? -/
def CmdSpec.usesDma (c : CmdSpec) (flag : Bool) : Bool :=
  match c.dma with | .none => false | .din => true | .dout => true | .opt => flag

/-- May FLAGS.DMA be as it is? -/
def CmdSpec.flagOk (c : CmdSpec) (flag : Bool) : Bool :=
  match c.dma with | .none => !flag | .din => flag | .dout => flag | .opt => true

/-- The reserved parts of a payload whose layout its own fields decide (13 R387, R391): bits of POL and CFG, and what an operation of
FUNC_SET does not name. -/
def reservedIn (op : Nat) (v : BitVec 2048) : List (Bool × Nat) :=
  match op with
  | 0x0201 => [(decide (fldN v 0x14 1 < 4), 0x14)]
  | 0x0205 => [(decide (fldN v 0x18 1 < 8), 0x18)]
  | 0x0501 =>
    match fldN v 0x10 1 with
    | 0 => [(fldN v 0x11 1 &&& 0xF2 == 0, 0x11), (fldN v 0x12 6 == 0, 0x12)]
    | 1 => [(fldN v 0x11 1 == 0, 0x11), (fldN v 0x14 28 == 0, 0x14)]
    | _ => []
  | _ => []

/-- The first field of the command buffer that fails check 1. TABLE_LOAD needs FLAGS.DMA to load and forbids it to remove
(13 R386). -/
def CmdSpec.check1 (c : CmdSpec) (m : Mbox) : Option Nat :=
  let v := m.request
  let flag := m.latched.getLsbD 48
  firstBad ([(fldN m.latched 4 2 == c.len || (!flag && fldN m.latched 4 2 == c.short), 0x04),
    (fldN m.latched 6 2 < 4 && c.flagOk flag && (c.op != 0x0103 || fldN v 0x20 1 > 1 || flag == (fldN v 0x20 1 == 0)), 0x06), (decide (fldN m.latched 8 8 < 2 ^ c.target), 0x08)] ++
    (if c.usesDma flag then [(fldN v 0x10 8 % 8 == 0, 0x10), (fldN v 0x1C 4 == 0, 0x1C)]
     else if c.dma = .opt then [(fldN v 0x10 16 == 0, 0x10)] else []) ++
    (c.zero.map fun z => (fldN v z.1 z.2 == 0, z.1)) ++ reservedIn c.op v)

/-! ## Check 2 and the objects (13 R363, R379, R380) -/

/-- Does the caller hold the right that depends on the caller alone? -/
def State.hasRight (s : State) (f : FuncId) (c : CmdSpec) : Bool :=
  ((s.func f).en || c.op == 0x0001) && !(s.func f).refuse &&
    match c.right with
    | .any => true
    | .own => true
    | .adm => f == s.hub.admin
    | .pio => (s.func f).pio || f == s.hub.admin
    | .dbg => (s.func f).dbg || f == s.hub.admin

/-- Checks 3 to 5 on the context of TARGET: it exists, the caller owns it, and no deckle encloses it. -/
def State.ctxTarget (s : State) (f : FuncId) (x : CtxId) (k : Reply) : Reply :=
  let e := s.ctx x
  if e.state = FREE then .bad NO_OBJECT 0x08
  else if e.owner ≠ f ∧ f ≠ s.hub.admin then .bad DENIED 0x08
  else if (s.caux x).deckle then .bad HW_FENCED 0x08
  else k

/-! ## Order of commands (13 R381) -/

/-- The objects that commands name. -/
inductive Obj where
  | ctx (x : CtxId)
  | image (h : Nat)
  | admission
  | handles (f : FuncId)
  | ring (f : FuncId) (r : Nat)
  | rule (n : Nat)
  | template (n : Nat)
  | ethPort (p : Nat)
  | bank (n : Nat)
  | lockGroup (n : Nat)
  | func (f : Nat)
  | slot (n : Nat)
  | sect (n : Nat)
  | probe (n : Nat)
  deriving DecidableEq, Repr

/-- Does the opcode name the device? -/
def namesDevice (op : Nat) : Bool :=
  [0x0003, 0x0004, 0x0502, 0x0601, 0x0602, 0x0603, 0x0804, 0x0805, 0x0A01, 0x0A02].contains op

/-- The objects that the waiting command of a function names. -/
def State.objects (s : State) (f : FuncId) : List Obj :=
  let a := s.arg f
  let t := a 8 8
  let x : Obj := .ctx (BitVec.ofNat 13 t)
  let cx (o : Nat) : Obj := .ctx (BitVec.ofNat 13 (a o 2))
  match a 0 2 with
  | 0x0101 => [.handles f]
  | 0x0102 => [.image t]
  | 0x0103 => [x]
  | 0x0201 => [.image t, .admission]
  | 0x0202 => [x]
  | 0x0203 => [x]
  | 0x0204 => [x]
  | 0x0205 => if a 0x10 2 = 0 then [x] else [x, .image (a 0x10 2)]
  | 0x0206 => [x]
  | 0x0301 => [x]
  | 0x0302 => if a 0x10 1 = 2 then [.ring f t, .ring f (a 0x16 1)] else [.ring f t]
  | 0x0303 => [.ring f t]
  | 0x0304 => [.ring f t]
  | 0x0401 => if a 0x11 1 = 2 then [.bank (a 0x10 1), cx 0x12] else [.bank (a 0x10 1)]
  | 0x0402 => [x]
  | 0x0403 => [.lockGroup (a 0x10 1)]
  | 0x0501 => if a 0x10 1 = 1 then [.func t, cx 0x12] else [.func t]
  | 0x0503 => [.slot (a 0x10 1)]
  | 0x0701 => [.rule t, cx 0x12]
  | 0x0702 => [.template t, cx 0x12]
  | 0x0703 => [.ethPort t]
  | 0x0801 => [.sect t]
  | 0x0802 => [.sect t]
  | 0x0803 => [.sect t]
  | 0x0903 => [.probe t]
  | 0x0B01 => [x]
  | 0x0B02 => [x]
  | 0x0B03 => [x]
  | 0x0B04 => [x]
  | _ => []

/-- Does the command of `f` wait for an earlier command, one of the same object or of the device? -/
def State.waitsTurn (s : State) (f : FuncId) : Bool :=
  let before := s.hub.order.takeWhile (· != f)
  let mine := s.objects f
  let dev (g : FuncId) : Bool := namesDevice (s.arg g 0 2)
  (dev f && !before.isEmpty) || before.any fun g => dev g || (s.objects g).any mine.contains

/-- May the waiting command of `f` be performed: it waits for no earlier one, and of the 8 places one is left beside those that
have begun and the earlier ones that do not wait? -/
def State.eligible (s : State) (f : FuncId) : Bool :=
  let before := s.hub.order.takeWhile (· != f)
  let taken := s.hub.order.countP fun g => g != f && ((s.mbox g).begun || (before.contains g && !s.waitsTurn g))
  !s.waitsTurn f && ((s.mbox f).begun || decide (taken < 8))

/-- The firmware performs the waiting command of function `f` when its opcode is `op`, `sel` picks it and its turn has come:
checks 1 and 2, then `body`. An undefined opcode completes with BAD_ARG whichever command is looked for. -/
def State.perform (s : State) (f : FuncId) (op : Nat) (sel : Bool) (body : Reply) : State :=
  let m := s.mbox f
  if ¬ m.pend ∨ ¬ s.fwRuns then s
  else
    match cmdOf (s.arg f 0 2) with
    | none => if s.eligible f then s.settle f (.bad BAD_ARG 0) else s
    | some c =>
      if c.op ≠ op ∨ ¬ sel ∨ ¬ s.eligible f then s
      else if m.begun then s.settle f body
      else
        match c.check1 m with
        | some o => s.settle f (.bad BAD_ARG o)
        | none => if s.hasRight f c then s.settle f body else s.settle f (.bad DENIED 0xFFFF)

/-- The DMA-in data of a command: `k` of the bytes, or the failure of the read (13 R378). Data of another length than DLEN
is no read of this command. -/
def State.dmaIn (s : State) (f : FuncId) (d : DmaIn) (k : List Byte → Reply) : Reply :=
  match d with
  | .data b => if b.length = s.arg f 0x18 4 then k b else .idle
  | .timeout => .fail BAD_ARG 0x10 2 0 none
  | .poisoned => .fail BAD_ARG 0x10 3 0 none
  | .urca => .fail BAD_ARG 0x10 4 0 none

/-! ## Doorbell and command buffer (13 R369-R374) -/

/-- A response is retired: DONE 0, and the buffer reads zero (13 R371). -/
def Mbox.retire (m : Mbox) : Mbox := if m.done then { m with done := false, rsp := 0 } else m

/-- A doorbell that the host hub answers itself (13 R373, R374). -/
def State.hubAnswer (s : State) (f : FuncId) (status : BitVec 16) : State :=
  let s := s.updMbox f fun m => { m.retire with latched := m.cmd, seq := fld m.cmd 2 2, pend := true }
  s.answer f status 0 []

/-- A write to MB_DOORBELL. The mailbox reports BUSY throughout an FLR (12 R364); a doorbell in the cycle of the FLR is discarded (12
R367). -/
def execMailboxDoorbell (f : FuncId) (v : DWord) (s : State) : Out :=
  if ¬ s.funcExists f ∨ ¬ v.getLsbD 0 ∨ (s.func f).flrAt = some s.scnt then .next s
  else
    let m := s.mbox f
    if m.pend then .next (s.updMbox f fun m => { m with overlap := true })
    else if s.keeper.keeper then .next (s.hubAnswer f KEEPER_MODE)
    else if m.notrdy then .next (s.hubAnswer f BUSY)
    else
      let s := s.updMbox f fun m => { m.retire with latched := m.cmd, seq := fld m.cmd 2 2, pend := true }
      .next (s.updHub fun h => { h with order := h.order ++ [f] })

/-- A write of 4 or 8 bytes to the command buffer; a misaligned one is discarded (12 R343). -/
def execMailboxCommandBufferWrite (f : FuncId) (off : BitVec 8) (wide : Bool) (v : DWord) (s : State) : Out :=
  let n := if wide then 8 else 4
  if ¬ s.barsAnswer f ∨ off.toNat % n ≠ 0 then .next s
  else if (s.mbox f).pend then .next (s.updMbox f fun m => { m with overlap := true })
  else .next (s.updMbox f fun m => { m.retire with cmd := putFld m.cmd off.toNat n v.toNat })

end Sys2Proof.Machine
end

