-- ==== Sys2Proof/Machine/Teardown.lean ====
section
/-! DEFINITION. Taking things down: killing and purging a context, destroying a ring, unloading images, and the reset of a
function (02 R56, 03 R95, 12 R355, R364). -/

namespace Sys2Proof.Machine

/-! ## Killing a context (02 R56, 03 R95) -/

/-- A thread of a killed context stops: its message is torn, its split accesses complete first, and a fault record it holds
keeps its place (04 R130, R137, 07 R216). -/
def State.killThread (s : State) (x : CtxId) (t : Tid) : State :=
  if (s.thread t).heldRec.isSome then
    (s.tearOutbox t).updThread t fun th => { th with work := some (deadWork x), wait := .faulted, after := .ended }
  else s.dropThread x t

/-- The tasks of a context at a cluster are discarded, with their messages torn (04 R130). -/
def State.dropTasks (s : State) (x : CtxId) (c : ClusterId) : State :=
  let ds := (s.cluster c).tasksOf x
  let s := ds.foldl (fun s d => (s.tearSaved c d).unready c d) s
  s.updCluster c fun cl =>
    { cl with
      tasks := cl.tasks.keep fun d _ => !ds.contains (BitVec.ofNat 10 d)
      chans := cl.chans.keep fun k _ => !ds.contains (BitVec.ofNat 10 (k / 8)) }

/-- The delay-list entries of a context at a cluster are discarded, and its tokens in the release queue (05 R156). -/
def State.dropDelayed (s : State) (x : CtxId) (c : ClusterId) : State :=
  let cl := s.cluster c
  let n := cl.dl.countP fun e => e.ctx == x
  let keep (t : Token) : Bool := tagCtx t.tag != x
  let s := s.updCluster c fun cl =>
    { cl with
      dl := cl.dl.filter fun e => e.ctx != x
      dlRes := match cl.slotOf x with | some k => cl.dlRes.upd k {} fun r => { r with held := 0 } | none => cl.dlRes
      release := cl.release.filter keep
      bypassRel := cl.bypassRel.filter keep }
  (if n = 0 then s else s.dlLevel c cl.dl.length).updCtx x fun e => { e with timers := BitVec.ofNat 32 (e.timers.toNat - n) }

/-- Tokens of a context in reel staging and in its flows are discarded. -/
def State.dropReel (s : State) (x : CtxId) : State :=
  s.updHub fun h =>
    { h with
      rings := h.rings.mapV fun _ g =>
        let n := g.items.countP fun i => i.ctx == some x
        { g with items := g.items.filter fun i => i.ctx != some x, staged := g.staged - n }
      flows := h.flows.mapV fun _ w => if w.valid && w.ctx == x then ({ w with items := [] } : Flow).retime else w }

/-- Clusters of the part that anything is kept of. -/
def State.allClusters (s : State) : List ClusterId := s.clusters.map fun e => BitVec.ofNat 6 e.1

/-- A CTX_KILL begins (02 R56 steps 1 to 3): entry is refused, threads stop, tasks, activations, delayed and staged tokens
are discarded, parked ones go to the broke queue, and the residency slots become DEAD, so that the purges can walk the stores. -/
def State.killBegin (s : State) (x : CtxId) (by_ : Option FuncId) : State :=
  let place := s.placement x ++ (s.allClusters.filter fun c => ((s.cluster c).slotOf x).isSome && !(s.placement x).contains c)
  let s := s.updAux x fun a => { a with kill := some { clusters := place, by_ := by_ }, update := none, move := none, debugger := none }
  let s := (s.threadsOf x).foldl (fun s t => s.killThread x t) s
  let s := s.tearRings x
  let s := s.allClusters.foldl (fun s c => (((s.dropTasks x c).dropActivations x c).dropDelayed x c).dropParked x c) s
  let s := (s.dropReel x).dropStaged x
  place.foldl (fun s c => s.updCluster c fun cl =>
    match cl.slotOf x with
    | some n => { cl with msRes := cl.msRes.upd n {} fun r => { r with dead := true } }
    | none => cl) s

/-- The slot of a context at a cluster is freed with all that belongs to it. -/
def Cluster.freeSlot (cl : Cluster) (x : CtxId) : Cluster :=
  match cl.slotOf x with
  | none => cl.freeCode x
  | some n =>
    { cl.freeCode x with msRes := cl.msRes.erase n, dlRes := cl.dlRes.erase n, cdRes := cl.cdRes.erase n,
                         position := cl.position.erase n, fwd := cl.fwd.erase n }

/-- Every operand of a context leaves the store and the spill region of a cluster (03 R95). -/
def State.purgeStore (s : State) (x : CtxId) (c : ClusterId) : State :=
  let cl := s.cluster c
  let out := cl.spill.filterMap fun e => match e.2 with | .full m _ => if m.ctx == x then some (e.1, m) else none | _ => none
  let s := s.updCluster c fun cl =>
    { cl.dropMoved x with
      sets := cl.sets.mapV fun _ m => { m with ways := m.ways.filter fun w => w.2.ctx != x }
      refused := cl.refused.filter fun r => r.entry.ctx != x }
  out.foldl (fun s e => ((s.setSlot c e.1 .tomb).runFreed c (e.1 / 4)).updSet c (setOf e.2.key) fun m => { m with spc := m.spc - 1 }) s

/-- The walks of the store and the spill region of a cluster end (03 R95): the context's entries are gone and its slot is
free. -/
def State.purge (s : State) (x : CtxId) (c : ClusterId) : State := (s.purgeStore x c).updCluster c (·.freeSlot x)

/-- Every packet on its way in the spine or waiting at the reel. -/
def State.packets (s : State) : List Packet :=
  s.spine.bufs.flatMap (·.2) ++ s.spine.inq.flatMap (·.2) ++ s.hub.reelIn

/-- The staging places of reel values of a context that are still on their way are given back (01 R30). -/
def State.returnCredits (s : State) (x : CtxId) : State :=
  s.packets.foldl (fun s p =>
    if (p.type == 0 || p.type == 1) && tagCtx (bits p.head 0 64) == x then s.lostCredit (bits p.head 0 64) else s) s

/-- Windows of a context leave every cluster's cache (10 R294). -/
def State.dropWindows (s : State) (x : CtxId) : State :=
  { s with clusters := s.clusters.mapV fun _ cl => { cl with wcache := cl.wcache.filter fun e => e.1 / 64 != x.toNat } }

/-- The tokens of frames that wait for a rule of a context go to the broke queue (14 R418). -/
def State.dropFrames (s : State) (x : CtxId) : State :=
  let mine (h : HeldFrame) : Bool := tagCtx h.token.tag == x
  let gone : List HeldFrame := s.eth.waiting.flatMap fun e => e.2.filter mine
  let keep (l : List HeldFrame) : List HeldFrame := l.filter fun h => !mine h
  let s := s.updEth fun e => { e with waiting := (e.waiting.mapV fun _ l => keep l).keep fun _ l => !l.isEmpty }
  gone.foldl (fun s h => s.toBroke h.token UNDELIVERABLE x false) s

/-- The end of a CTX_KILL (02 R56 steps 4 to 6): its locks are abandoned, banks pass to FREE with CLR, windows, rules, templates and flows are
cleared, the owner is told, and the entry is zeroed. The counters of RL_FLOW_CNT go with a flow (DESIGN CHOICE, log 156). -/
def State.killEnd (s : State) (x : CtxId) : State :=
  let e := s.ctx x
  let s := (s.abandon fun h => h.kind.toNat < 2 && h.who == x).returnCredits x
  let s := s.updHub fun h =>
    { h with flows := h.flows.keep fun _ w => !(w.valid && w.ctx == x), spledger := h.spledger.erase x.toNat }
  let s := (List.range 256).foldl (fun s n =>
    let b := s.bank (BitVec.ofNat 8 n)
    if b.kind = 2 ∧ b.ctx = x then s.bankOwner (BitVec.ofNat 8 n) 4 else s) s
  let s := { s with mem := Memory.clear s.mem e.wtp.toNat 1024 }
  let s := s.dropWindows x
  let s := ((s.dropStaged x).dropFrames x).updEth fun k => { k with rules := k.rules.keep fun _ r => r.owner != x, templates := k.templates.keep fun _ t => t.owner != x }
  let s := s.event e.owner 0x0004 x.toNat 0
  { s with ctxs := s.ctxs.erase x.toNat, aux := s.aux.erase x.toNat }

/-- The purge of one cluster is done; with the last of them the kill ends and its command completes. Where a deckle has been raised
around the context meanwhile, FENCED stands and the command completes with HW_FENCED (01 R22). -/
def State.purgeDone (s : State) (x : CtxId) (c : ClusterId) : State :=
  match (s.caux x).kill with
  | none => s
  | some k =>
    if ¬ k.clusters.contains c then s
    else
      let s := s.purge x c
      let rest := k.clusters.filter (· != c)
      if rest.isEmpty then
        let s := if k.fenced then s.updAux x fun a => { a with kill := none } else s.killEnd x
        match k.by_ with
        | some f => if (s.mbox f).begun then s.answer f (if k.fenced then HW_FENCED else OK) (if k.fenced then failDetail 0x08 0 0 else 0) [] else s
        | none => s
      else s.updAux x fun a => { a with kill := some { k with clusters := rest } }

/-- The walks of a killed context end in one cluster. -/
def execPurgeComplete (x : CtxId) (c : ClusterId) (s : State) : Out := .next (if s.fwRuns then s.purgeDone x c else s)

/-- A context is killed at once, with its purges. -/
def State.killNow (s : State) (x : CtxId) : State :=
  let s := if s.dying x then s.updAux x fun a => { a with kill := a.kill.map fun k => { k with fenced := false } } else s.killBegin x none
  match (s.caux x).kill with
  | some k => if k.clusters.isEmpty then s.killEnd x else k.clusters.foldl (fun s c => s.purgeDone x c) s
  | none => s

/-! ## Destroying a ring (12 R355) -/

/-- The items of a ring go to the broke queue, those of tokens, charged to their contexts. -/
def State.brokeItems (s : State) (is : List ReelItem) : State :=
  is.foldl (fun s i => match i.ctx with
    | some x => s.toBroke { tag := i.tag, value := i.value, tick := none } UNDELIVERABLE x true
    | none => s) s

/-- A ring is destroyed: an open message is torn, staged and held items of a REEL ring go to the broke queue, a bound
flow is unbound, and the slots of a WINDOW ring are emptied (log 44). -/
def State.destroyRing (s : State) (f : FuncId) (r : RingId) : State :=
  match s.ring f r with
  | none => s
  | some g =>
    let s := match g.asm with
      | some o => s.tear (.ring f r) g.ctx o.task o.chan o.grant
      | none => s
    let s := s.brokeItems g.items
    let s := match s.flowOf f r with
      | some n => (s.brokeItems ((s.flow n).items.map fun (e : Nat × ReelItem) => e.2)).updFlow n fun w =>
          ({ w with valid := false, items := [], granted := [] } : Flow).retime
      | none => s
    s.updHub fun h =>
      { h with rings := h.rings.erase (ringKey f r)
               slots := h.slots.mapV fun k w =>
                 if g.win && k / 64 == f.toNat && decide (g.firstSlot.toNat ≤ k % 64) && decide (k % 64 < g.firstSlot.toNat + g.size) then
                   { w with ready := false, taken := false }
                 else w }

/-! ## Debug detach (04 R122, 13 R399) -/

/-- Work that stopped at a BRK goes on after it (08 R236): in its thread, or in its descriptor once that is saved. -/
def State.passBrk (s : State) (c : ClusterId) (d : BitVec 10) : State :=
  match s.threadOfTask c d with
  | some t => s.updThread t fun th => if th.brk then { th with pc := th.pc + 4, brk := false } else th
  | none => s.updTask c d fun k => if k.brk then { k with pc := k.pc + 4, brk := false } else k

/-- A stopped task goes on as PREV says, or to DORMANT where a cancel waits (04 R120, R122, R124). -/
def State.resumeTask (s : State) (c : ClusterId) (d : BitVec 10) : State :=
  let s := if ((s.cluster c).task d).state = STOPPEDT then s.passBrk c d else s
  let k := (s.cluster c).task d
  if k.state ≠ STOPPEDT then s
  else if k.cancelp then
    match s.threadOfTask c d with
    | some t => s.endTask t d
    | none => ((s.tearSaved c d).dropSleep c d).toDormant c d
  else if k.prev = READY ∨ k.prev = RUNNINGT then s.makeReady c d
  else
    let s := s.updTask c d fun k => { k with state := k.prev }
    s.wakeTask c d

/-- A debug-stopped activation goes on. -/
def State.resumeThread (s : State) (t : Tid) : State :=
  let th := s.thread t
  let s := s.updThread t fun th => { th with dbgStopped := false, dbgReq := false, brk := false }
  if th.dbgStopped && th.brk then s.retire t else s

/-- Every stopped work of a context resumes and its debugger leaves. -/
def State.detach (s : State) (x : CtxId) : State :=
  let s := s.updAux x fun a => { a with debugger := none }
  let s := (s.threadsOf x).foldl (fun s t => if (s.taskOf t).isNone then s.resumeThread t else s.updThread t fun th => { th with dbgReq := false }) s
  s.allClusters.foldl (fun s c => ((s.cluster c).tasksOf x).foldl (fun s d => s.resumeTask c d) s) s

/-! ## Resetting a function (12 R364-R366) -/

/-- Contexts that a function owns. -/
def State.ctxsOf (s : State) (f : FuncId) : List CtxId :=
  (s.ctxs.filter fun e => e.2.state != FREE && e.2.owner == f).map fun e => BitVec.ofNat 13 e.1

/-- Contexts that a function debugs. -/
def State.debugged (s : State) (f : FuncId) : List CtxId :=
  (s.aux.filter fun e => e.2.debugger == some f).map fun e => BitVec.ofNat 13 e.1

/-- The asker of a command, unless it is function `f`, whose responses are discarded. -/
def notAsked (f : FuncId) (o : Option FuncId) : Option FuncId := if o = some f then none else o

/-- The commands that function `f` has begun go on without their asker. -/
def State.forgetAsker (s : State) (f : FuncId) : State :=
  let kill (k : Kill) : Kill := { k with by_ := notAsked f k.by_ }
  let s := { s with aux := s.aux.mapV fun _ (a : CtxAux) => { a with kill := a.kill.map kill } }
  s.updFw fun w =>
    { w with activating := notAsked f w.activating
             fenceJob := match w.fenceJob with | some (n, o) => some (n, notAsked f o) | none => none }

/-- The steps of an FLR that the firmware takes, and its end (12 R364). -/
def State.flrSteps (s : State) (f : FuncId) : State :=
  let s := (s.debugged f).foldl State.detach s
  let s := s.forgetAsker f
  let s := (s.ctxsOf f).foldl State.killNow s
  let s := s.abandon fun h => h.kind == 2 && h.who == BitVec.setWidth 13 f
  let s := (List.range 64).foldl (fun s r => s.destroyRing f (BitVec.ofNat 6 r)) s
  let s := s.updHub fun h =>
    { h with
      slots := h.slots.keep fun k _ => k / 64 != f.toNat
      msix := h.msix.erase f.toNat
      mbox := h.mbox.set f.toNat { notrdy := !(s.port (funcPort f)).enabled }
      order := h.order.erase f
      offer := match h.offer with | some (g, t) => if g == f || f == h.admin then none else some (g, t) | none => none }
  (s.updFw fun w => { w with images := w.images.keep fun _ m => m.owner != f }).updFunc f fun e => { e with flr := false }

/-- An FLR of one function: its doorbells and DMA stop at once, and its mailbox is not ready until the firmware has taken
the steps. -/
def State.flrOne (s : State) (f : FuncId) : State :=
  if ¬ s.funcExists f then s
  else
    let s := s.updFunc f fun e => { e with flr := true, flrAt := some s.scnt }
    if s.fwRuns then s.flrSteps f
    else s.updHub fun h => { h with mbox := h.mbox.set f.toNat {}, order := h.order.erase f }

/-- The VFs of a port, and its PF first where `pf` says so. -/
def portFuncs (p : BitVec 2) (pf : Bool) : List FuncId :=
  (List.range 32).filterMap fun i => if i = 0 ∧ ¬ pf then none else some (p ++ BitVec.ofNat 5 i)

/-- FLR of a port's PF acts on every VF of the port (12 R365). -/
def State.flr (s : State) (f : FuncId) : State :=
  if funcIdx f = 0 then (portFuncs (funcPort f) true).foldl State.flrOne s else s.flrOne f

end Sys2Proof.Machine
end

