-- ==== Sys2Proof/Machine/Placement.lean ====
section
/-! DEFINITION. Budgets of functions, room in clusters, the choice of clusters for positions, and residency (02 R68, 03 R81,
R84, 12 R341, 16 R445). -/

namespace Sys2Proof.Machine

/-! ## Budgets (12 R341) -/

/-- The budgeted resources. -/
structure Use where
  ctxs : Nat := 0
  tasks : Nat := 0
  matching : Nat := 0
  dl : Nat := 0
  chan : Nat := 0
  spill : Nat := 0
  reorder : Nat := 0
  deriving DecidableEq, Repr

/-- Two uses together. -/
def Use.add (a b : Use) : Use :=
  { ctxs := a.ctxs + b.ctxs, tasks := a.tasks + b.tasks, matching := a.matching + b.matching, dl := a.dl + b.dl,
    chan := a.chan + b.chan, spill := a.spill + b.spill, reorder := a.reorder + b.reorder }

/-- Does `a` lie within `b` in every resource? -/
def Use.within (a b : Use) : Bool :=
  decide (a.ctxs ≤ b.ctxs) && decide (a.tasks ≤ b.tasks) && decide (a.matching ≤ b.matching) && decide (a.dl ≤ b.dl) &&
    decide (a.chan ≤ b.chan) && decide (a.spill ≤ b.spill) && decide (a.reorder ≤ b.reorder)

/-- What a context-table entry takes. -/
def Ctx.use (e : Ctx) : Use :=
  { ctxs := 1, tasks := e.taskres.toNat, matching := e.matchres.toNat, dl := e.dlres.toNat, chan := e.chres.toNat,
    spill := e.spillres.toNat }

/-- What the contexts and defined flows of a function take. -/
def State.used (s : State) (f : FuncId) : Use :=
  let a := (s.ctxs.filter fun e => e.2.state != FREE && e.2.owner == f).foldl (fun (u : Use) e => u.add e.2.use) {}
  (s.hub.flows.filter fun e => e.2.valid && e.2.func == f).foldl (fun (u : Use) e => u.add { reorder := e.2.quota.toNat }) a

/-- The budgets of a function-table entry. -/
def Func.budget (e : Func) : Use :=
  { ctxs := (bits e.bud0 0 14).toNat, tasks := (bits e.bud0 16 17).toNat, matching := (bits e.bud0 34 21).toNat,
    dl := (bits e.bud1 0 19).toNat, chan := (bits e.bud1 20 20).toNat, spill := (bits e.bud2 0 27).toNat,
    reorder := (bits e.bud2 32 19).toNat }

/-- Do the remaining budgets of `f` cover `u`? -/
def State.budgetFor (s : State) (f : FuncId) (u : Use) : Bool := ((s.used f).add u).within (s.func f).budget

/-! ## Clusters (02 R68, 03 R84) -/

/-- May new positions be placed at the cluster: its section in service and powered, the cluster neither fenced nor in the
repair reserve? -/
def State.admits (s : State) (c : ClusterId) : Bool :=
  let x := s.sect (clusterSection c)
  x.svc == 0 && x.pstate == 3 && !s.fw.fencedClusters.contains c && !s.fw.reserveSet.contains c

/-- Contexts resident at a cluster. -/
def Cluster.residents (cl : Cluster) : List CtxId := cl.msRes.filterMap fun e => if e.2.valid then some e.2.ctx else none

/-- The sum of a figure of the reservations at a cluster. -/
def State.reservedAt (s : State) (c : ClusterId) (g : PosRec → Nat) : Nat :=
  let cl := s.cluster c
  cl.msRes.foldl (fun n e =>
    if e.2.valid then n + g (((s.caux e.2.ctx).pos)[(cl.position.getD e.1 0).toNat]?.getD ⟨0, 0, 0, 0⟩) else n) 0

/-- The cluster check of 02 R68 for one position: free reservations, a residency slot, the spill region, and code-store room
for the codelets and tasks. -/
def State.clusterFits (s : State) (c : ClusterId) (m : Image) (k : Nat) (p : PosRec) : Bool :=
  let cl := s.cluster c
  decide (s.reservedAt c PosRec.matching + p.matching ≤ 16384) && decide (s.reservedAt c PosRec.delay + p.delay ≤ 4096) &&
    decide (s.reservedAt c PosRec.tasks + p.tasks ≤ 1024) && decide (s.reservedAt c PosRec.channels + p.channels ≤ 8192) &&
    decide (cl.residents.length < 256) &&
    decide (16384 + (cl.residents.map fun x => (s.ctx x).spillres.toNat).foldl (· + ·) 0 + m.spill ≤ 786432) &&
    (cl.codeRoom (m.needs k true)).isSome

/-! ## Choosing a cluster for every position -/

/-- Find a place for position `k`: the first free candidate, or one whose position finds another place. The places looked at
and the assignment so far are carried along. -/
def placeOne (cand : Nat → List Nat) : Nat → Nat → List Nat × Map Nat → Bool × List Nat × Map Nat
  | 0, _, st => (false, st)
  | n + 1, k, st =>
    match (cand k).find? fun c => !st.1.contains c && (st.2.find c).isNone with
    | some c => (true, c :: st.1, st.2.set c k)
    | none =>
      (cand k).foldl (fun (acc : Bool × List Nat × Map Nat) c =>
        if acc.1 || acc.2.1.contains c then acc
        else
          match acc.2.2.find c with
          | none => acc
          | some j =>
            let r := placeOne cand n j (c :: acc.2.1, acc.2.2)
            if r.1 then (true, r.2.1, r.2.2.set c k) else r) (false, st)

/-- An assignment of distinct places to the listed positions, when one exists: place to position. -/
def placeAll (cand : Nat → List Nat) (ks : List Nat) : Option (Map Nat) :=
  ks.foldl (fun (acc : Option (Map Nat)) k =>
    match acc with
    | none => none
    | some m => let r := placeOne cand 65 k ([], m); if r.1 then some r.2.2 else none) (some [])

/-- The clusters chosen for the positions of an image, by position (02 R68). -/
def State.choose (s : State) (m : Image) : Option (List ClusterId) :=
  let ok := (List.range 64).filter fun c => s.admits (BitVec.ofNat 6 c)
  let cand : List (List Nat) := (List.range m.csize).map fun k =>
    ok.filter fun c => s.clusterFits (BitVec.ofNat 6 c) m k (m.pos.getD k ⟨0, 0, 0, 0⟩)
  match placeAll (fun k => cand.getD k []) (List.range m.csize) with
  | none => none
  | some a => some ((List.range m.csize).map fun k =>
      match a.first fun _ j => j == k with | some (c, _) => BitVec.ofNat 6 c | none => 0)

/-! ## Residency (03 R81, 05 R153, 06 R182) -/

/-- A position becomes resident at a cluster: slots with its limits, and its code loaded from the images given. -/
def State.reside (s : State) (x : CtxId) (k : Nat) (c : ClusterId) (p : PosRec) (code : List (BitVec 16 × Image × Bool × Option Nat)) : State :=
  let s := s.updCluster c fun cl =>
    match least 256 fun n => !(cl.msRes.getD n {}).valid with
    | none => cl
    | some n =>
      { cl with msRes := cl.msRes.set n { ctx := x, valid := true, limit := BitVec.ofNat 15 p.matching },
                dlRes := cl.dlRes.set n { ctx := x, valid := true, limit := BitVec.ofNat 13 p.delay },
                cdRes := cl.cdRes.set n { ctx := x, valid := true }, position := cl.position.set n (BitVec.ofNat 6 k),
                fwd := cl.fwd.erase n }
  code.foldl (fun s i => (s.loadCode c x i.1 i.2.1 k i.2.2.1 i.2.2.2).getD s) s

/-- The image region of 768 MB and what is taken of it (10 R291, log 40). -/
def State.imageBytes (s : State) : Nat :=
  s.fw.images.foldl (fun n e => n + e.2.bytes.length) 0 +
    s.aux.foldl (fun n e => n + (e.2.tables.foldl (fun k t => k + t.size) 0)) 0
/-- Room in the image region for `n` more bytes. -/
def State.imageRoom (s : State) (n : Nat) : Bool := decide (s.imageBytes + n ≤ 768 * 1048576)

end Sys2Proof.Machine
end

