-- ==== Sys2Proof/Machine/MbGraph.lean ====
section
/-! DEFINITION. Mailbox commands on graph images, interpolation tables and contexts (02 R52-R59, R65, R68, 13 R385-R388). -/

namespace Sys2Proof.Machine

/-! ## Images and tables -/

/-- The image is loaded, under the lowest free handle. -/
def State.graphLoad (s : State) (f : FuncId) (b : List Byte) : Reply :=
  match parseImage f b with
  | .inr (st, at_) => .fail st 0xFFFF 0 at_ none
  | .inl m =>
    if ¬ s.imageRoom b.length then .bad BUDGET 0xFFFF
    else
      match least 65534 fun k => (s.fw.images.find (k + 1)).isNone with
      | none => .bad BUDGET 0xFFFF
      | some k =>
        .ok (s.updFw fun w => { w with images := w.images.set (k + 1) m })
          (leBytes 2 (k + 1) ++ leBytes 1 m.cls.toNat ++ [0] ++ leBytes 4 m.nodecnt) none

/-- GRAPH_LOAD. -/
def execGraphLoad (f : FuncId) (dma : DmaIn) (s : State) : Out :=
  .next (s.perform f 0x0101 true (s.dmaIn f dma (s.graphLoad f)))

/-- Does a context in a state other than FREE name the image, or an update on its way to it? -/
def State.imageUsed (s : State) (h : BitVec 16) : Bool :=
  s.ctxs.anyV (fun _ e => e.state != FREE && e.image == h) ||
    s.aux.anyV fun _ a => match a.update with | some u => u.image == h | none => false

/-- GRAPH_UNLOAD. -/
def execGraphUnload (f : FuncId) (s : State) : Out :=
  let h : BitVec 16 := BitVec.ofNat 16 (s.arg f 8 2)
  .next (s.perform f 0x0102 true
    (match s.image h with
     | none => .bad NO_OBJECT 0x08
     | some m =>
       if m.owner ≠ f ∧ f ≠ s.hub.admin then .bad DENIED 0x08
       else if s.imageUsed h then .bad WRONG_STATE 0x08
       else .done (s.updFw fun w => { w with images := w.images.erase h.toNat })))

/-- Checks 3 to 6 of TABLE_LOAD, whose own table gives WRONG_STATE for a FREE context (log 41). -/
def State.tableTarget (s : State) (f : FuncId) (x : CtxId) (k : Reply) : Reply :=
  if (s.ctx x).state = FREE then .bad WRONG_STATE 0x08 else s.ctxTarget f x k

/-- A table takes the place of the one with its handle, or joins the context's tables. -/
def putTable (l : List Table) (t : Table) : List Table :=
  if l.any (·.handle == t.handle) then l.map fun u => if u.handle == t.handle then t else u else l ++ [t]

/-- TABLE_LOAD with OP 0; an OP above 1 fails. -/
def execTableLoad (f : FuncId) (dma : DmaIn) (s : State) : Out :=
  let x := s.argCtx f 8
  let op := s.arg f 0x20 1
  let load (b : List Byte) : Reply :=
    if op ≠ 0 then .bad BAD_ARG 0x20
    else if (s.ctx x).cls ≠ 0 then .bad BAD_ARG 0x08
    else
      match parseTable b with
      | none => .bad BAD_ARG 0xFFFF
      | some (t, n) =>
        if n ≠ b.length then .bad BAD_ARG 0xFFFF
        else
          let t := { t with size := n }
          let old := ((s.caux x).tables.find? (·.handle == t.handle)).map (·.size)
          if ¬ s.imageRoom (n - old.getD 0) then .bad BUDGET 0xFFFF
          else .done (s.updAux x fun a => { a with tables := putTable a.tables t })
  .next (s.perform f 0x0103 (op != 1)
    (s.tableTarget f x (if s.argDma f then s.dmaIn f dma load else .bad BAD_ARG 0x20)))

/-- TABLE_LOAD with OP 1: the handle is removed. -/
def execTableRemove (f : FuncId) (s : State) : Out :=
  let x := s.argCtx f 8
  let h : BitVec 16 := BitVec.ofNat 16 (s.arg f 0x22 2)
  .next (s.perform f 0x0103 (s.arg f 0x20 1 == 1)
    (s.tableTarget f x
      (if (s.ctx x).cls ≠ 0 then .bad BAD_ARG 0x08
       else if !((s.caux x).tables.any (·.handle == h)) then .bad BAD_ARG 0x22
       else .done (s.updAux x fun a => { a with tables := a.tables.filter (·.handle != h) }))))

/-! ## Admission (02 R68) -/

/-- The sums over positions that an image asks for. -/
def Image.use (m : Image) : Use :=
  m.pos.foldl (fun (u : Use) p => u.add { matching := p.matching, dl := p.delay, tasks := p.tasks, chan := p.channels })
    { ctxs := 1, spill := m.spill }

/-- Does no token bearing the context number remain in the spine or in reel staging (02 R57)? -/
def State.numberClear (s : State) (x : CtxId) : Bool :=
  !(s.packets.any fun p => (p.type.toNat ≤ 2 || p.type == 11) && p.ctx == x) &&
    !(s.hub.rings.any fun e => e.2.items.any fun i => i.ctx == some x)

/-- The lowest context number that may be given (02 R57, R68). -/
def State.freeNumber (s : State) : Option CtxId :=
  (least 8192 fun n =>
    let x : CtxId := BitVec.ofNat 13 n
    (s.ctx x).state == FREE && !s.dying x && s.numberClear x).map (BitVec.ofNat 13)

/-- Device flow numbers that contexts hold, as first number and count. -/
def State.flowRuns (s : State) : List (Nat × Nat) :=
  s.ctxs.filterMap fun e => if e.2.state != FREE ∧ e.2.flowcnt ≠ 0 then some (e.2.flowbase.toNat, e.2.flowcnt.toNat) else none

/-- The lowest run of `n` flow numbers that no context holds: it begins at 0 or behind a run that is held. -/
def State.flowRun (s : State) (n : Nat) : Option Nat :=
  if n = 0 then some 0
  else
    let runs := s.flowRuns
    let free (a : Nat) : Bool := decide (a + n ≤ 16384) && runs.all fun r => decide (a + n ≤ r.1) || decide (r.1 + r.2 ≤ a)
    ((0 :: runs.map fun r => r.1 + r.2).filter free).min?

/-- The index of the task with a flag; 0xFFFF where no task has it (02 R47). -/
def Image.taskWith (m : Image) (p : TaskRec → Bool) : BitVec 16 :=
  match m.tasks.findIdx? p with
  | some i => BitVec.ofNat 16 i
  | none => 0xFFFF

/-- The entry of an admitted context (02 R47, R68). -/
def Image.entry (m : Image) (x : CtxId) (h : BitVec 16) (base : Nat) (fof dzt : Bool) : Ctx :=
  let u := m.use
  { state := ADMITTED, cls := m.cls, fof := fof, dzt := dzt, drnd := m.drnd, owner := m.owner, image := h,
    sup := m.taskWith (·.super), exth := m.taskWith (·.exth), nodecnt := BitVec.ofNat 20 m.nodecnt,
    csize := BitVec.ofNat 7 m.csize, taskcnt := BitVec.ofNat 16 m.taskcnt, flowbase := BitVec.ofNat 14 base,
    wtp := 0x3C8000000 + BitVec.ofNat 40 (1024 * x.toNat), flowcnt := BitVec.ofNat 15 m.flowcnt,
    matchres := BitVec.ofNat 21 u.matching, spillres := BitVec.ofNat 27 u.spill, taskres := BitVec.ofNat 17 u.tasks,
    dlres := BitVec.ofNat 19 u.dl, chres := BitVec.ofNat 20 u.chan }

/-- A task of an image takes the lowest free descriptor of its cluster (04 R114, R118); the supervisor declares channel 7
(02 R64). -/
def State.placeTask (s : State) (x : CtxId) (h : BitVec 16) (t : Nat) (r : TaskRec) : State :=
  let c := s.clusterAt x r.place.toNat
  s.updCluster c fun cl =>
    match least 1024 fun d => (cl.tasks.find d).isNone with
    | none => cl
    | some d =>
      let k : Task :=
        { state := DORMANT, prio := BitVec.setWidth 5 r.prio, ctx := x, task := BitVec.ofNat 16 t,
          chmask := if r.super then r.chmask ||| 0x80 else r.chmask, super := r.super, exth := r.exth,
          entry := cl.codeAddr x h r.entry, arg := r.arg }
      { cl with tasks := cl.tasks.set d k }

/-- A context is admitted at the chosen clusters. -/
def State.admitAt (s : State) (x : CtxId) (h : BitVec 16) (m : Image) (cs : List ClusterId) (base scanp : Nat) (fof dzt : Bool) : State :=
  let s := { s with ctxs := s.ctxs.set x.toNat (m.entry x h base fof dzt) }
  let a : CtxAux := { clmap := (List.range 64).map fun k => BitVec.setWidth 8 (cs.getD k 0), scanp := scanp, tables := m.tables, pos := m.pos }
  let s := { s with aux := s.aux.set x.toNat a }
  let s := cs.zipIdx.foldl (fun s (c, k) => s.reside x k c (m.pos.getD k ⟨0, 0, 0, 0⟩) [(h, m, true, none)]) s
  m.tasks.zipIdx.foldl (fun s (r, t) => s.placeTask x h t r) s

/-- CTX_ADMIT. -/
def State.ctxAdmit (s : State) (f : FuncId) : Reply :=
  let h : BitVec 16 := BitVec.ofNat 16 (s.arg f 8 2)
  let us := s.arg f 0x10 4
  let pol := s.arg f 0x14 1
  match s.image h with
  | none => .bad NO_OBJECT 0x08
  | some m =>
    if m.owner ≠ f ∧ f ≠ s.hub.admin then .bad DENIED 0x08
    else if (s.faultRing m.owner).isNone then .bad WRONG_STATE 0x08
    else if us ≠ 0 ∧ (us < 10 ∨ 1000000 < us) then .bad BAD_ARG 0x10
    else if m.cls = 1 ∧ !m.sealOk s.fw.seals then .bad SEAL_INVALID 0x08
    else if ¬ s.budgetFor m.owner m.use then .bad BUDGET 0xFFFF
    else
      match s.choose m, s.freeNumber, s.flowRun m.flowcnt with
      | some cs, some x, some base =>
        .ok (s.admitAt x h m cs base (if us = 0 then 100000 else 1000 * us) (pol % 2 == 1) (pol / 2 % 2 == 1))
          (leBytes 2 x.toNat ++ leBytes 1 m.csize ++ leBytes 5 0 ++ (List.range 64).map fun k => BitVec.setWidth 8 (cs.getD k 0)) none
      | _, _, _ => .bad BUDGET 0xFFFF

/-- CTX_ADMIT. -/
def execCtxAdmit (f : FuncId) (s : State) : Out := .next (s.perform f 0x0201 true (s.ctxAdmit f))

/-! ## Start, stop, kill (02 R52, R56) -/

/-- Tasks flagged START become READY at the first start. -/
def State.startTasks (s : State) (x : CtxId) : State :=
  match s.imageOf x with
  | none => s
  | some m => m.tasks.zipIdx.foldl (fun s (r, t) =>
      if r.start then match s.findTask x (BitVec.ofNat 16 t) with
        | some (c, d) => if ((s.cluster c).task d).state = DORMANT then s.makeReady c d else s
        | none => s
      else s) s

/-- Frozen delay-list entries whose tick has passed count as late (02 R52). -/
def State.lateFrozen (s : State) (x : CtxId) : State :=
  s.allClusters.foldl (fun s c =>
    let cl := s.cluster c
    let n := cl.dl.countP fun e => e.ctx == x && decide (e.tick.toNat < s.tb.tc.toNat)
    if n = 0 then s
    else s.updCluster c fun cl =>
      { cl with dlCnt := { cl.dlCnt with late := satAdd cl.dlCnt.late n }
                dlRes := match cl.slotOf x with
                  | some k => cl.dlRes.upd k {} fun r => { r with late := satAdd r.late n }
                  | none => cl.dlRes }) s

/-- CTX_START of function `f`. -/
def State.ctxStart (s : State) (f : FuncId) : State :=
  let x := s.argCtx f 8
  let st := (s.ctx x).state
  s.perform f 0x0202 true (s.ctxTarget f x
    (if st ≠ ADMITTED ∧ st ≠ STOPPED then .bad WRONG_STATE 0x08
     else
       let s' := s.updCtx x fun e => { e with state := RUNNING }
       if st = ADMITTED then .done (s'.startTasks x)
       else .done (s'.lateFrozen x)))

/-- CTX_START. -/
def execCtxStart (f : FuncId) (s : State) : Out := .next (s.ctxStart f)

/-- CTX_STOP. -/
def State.ctxStop (s : State) (f : FuncId) : State :=
  let x := s.argCtx f 8
  s.perform f 0x0203 true (s.ctxTarget f x
    (if (s.ctx x).state ≠ RUNNING then .bad WRONG_STATE 0x08
     else .done (s.updCtx x fun e => { e with state := QUIESCING })))

/-- CTX_STOP. -/
def execCtxStop (f : FuncId) (s : State) : Out := .next (s.ctxStop f)

/-- CTX_KILL: the kill begins, once a move of the context has ended (16 R449), and the purges complete it. -/
def State.ctxKill (s : State) (f : FuncId) : State :=
  let x := s.argCtx f 8
  s.perform f 0x0204 true
    (if s.dying x then .later s
     else s.ctxTarget f x (if (s.caux x).move.isSome then .later s else .later (s.killBegin x (some f))))

/-- CTX_KILL. -/
def execCtxKill (f : FuncId) (s : State) : Out := .next (s.ctxKill f)

/-! ## Updates (02 R54, R55) -/

/-- FOF and DZT as POL gives them. -/
def State.setPolicy (s : State) (x : CtxId) (pol : Nat) : State :=
  if pol % 2 = 1 then s.updCtx x fun e => { e with fof := pol / 2 % 2 == 1, dzt := pol / 4 % 2 == 1 } else s

/-- The check on POL: SETPOL is for the administrator alone (02 R59). -/
def State.policyFault (s : State) (f : FuncId) (pol : Nat) : Option Reply :=
  if pol % 2 = 1 ∧ f ≠ s.hub.admin then some (.bad DENIED 0x18)
  else none

/-- Is every figure of the new image at most the reservation at its position (02 R55)? -/
def State.withinReserved (s : State) (x : CtxId) (m : Image) : Bool :=
  decide (m.spill ≤ (s.ctx x).spillres.toNat) &&
    m.pos.zipIdx.all fun (p, k) =>
      let q := ((s.caux x).pos)[k]?.getD ⟨0, 0, 0, 0⟩
      decide (p.matching ≤ q.matching) && decide (p.delay ≤ q.delay) && decide (p.tasks ≤ q.tasks) && decide (p.channels ≤ q.channels)

/-- The codelets of a new image are loaded at every position, where there is room. An update to the image the context
runs loads nothing (log 42). -/
def State.loadNodes (s : State) (x : CtxId) (h : BitVec 16) (m : Image) : Option State :=
  if (s.ctx x).image = h then some s
  else (s.placement x).zipIdx.foldl (fun o (c, k) => o.bind fun s => s.loadCode c x h m k false none) (some s)

/-- The codelets of an image leave the clusters of a context. -/
def State.freeNodes (s : State) (x : CtxId) (h : BitVec 16) : State :=
  { s with clusters := s.clusters.mapV fun _ cl => cl.freeNodes x h }

/-- The checks of 02 R55 and the start of an update. -/
def State.ctxUpdate (s : State) (f : FuncId) (x : CtxId) : Reply :=
  let h : BitVec 16 := BitVec.ofNat 16 (s.arg f 0x10 2)
  let ms := s.arg f 0x14 4
  let pol := s.arg f 0x18 1
  let e := s.ctx x
  if e.state ≠ RUNNING then .bad WRONG_STATE 0x08
  else if 60000 < ms then .bad BAD_ARG 0x14
  else
    match s.policyFault f pol with
    | some r => r
    | none =>
      match s.image h, s.imageOf x with
      | some m, some old =>
        if m.owner ≠ e.owner then .bad DENIED 0x10
        else if m.cls ≠ e.cls ∨ m.csize ≠ e.csize.toNat ∨ m.taskBytes ≠ old.taskBytes ∨ m.taskcnt ≠ old.taskcnt ∨
            e.flowcnt.toNat < m.flowcnt then .bad BAD_ARG 0x10
        else if m.cls = 1 ∧ !m.sealOk s.fw.seals then .bad SEAL_INVALID 0x10
        else if ¬ s.withinReserved x m then .bad BUDGET 0xFFFF
        else
          match s.loadNodes x h m with
          | none => .bad BUDGET 0xFFFF
          | some t =>
            let t := t.setPolicy x pol
            let t := t.updCtx x fun e => { e with state := UPDATING, updb := BitVec.ofNat 16 (s.arg f 0x12 2) }
            .done (t.updAux x fun a => { a with update := some { image := h, dueSc := s.scnt + scMs (if ms = 0 then 1000 else ms) } })
      | _, _ => .bad NO_OBJECT 0x10

/-- CTX_UPDATE with an image. -/
def State.updateImage (s : State) (f : FuncId) : State :=
  let x := s.argCtx f 8
  s.perform f 0x0205 (s.arg f 0x10 2 != 0) (s.ctxTarget f x (s.ctxUpdate f x))

/-- CTX_UPDATE with an image. -/
def execCtxUpdate (f : FuncId) (s : State) : Out := .next (s.updateImage f)

/-- CTX_UPDATE with IMAGE 0: only the policy changes. -/
def State.updatePolicy (s : State) (f : FuncId) : State :=
  let x := s.argCtx f 8
  let pol := s.arg f 0x18 1
  s.perform f 0x0205 (s.arg f 0x10 2 == 0) (s.ctxTarget f x
    (if 60000 < s.arg f 0x14 4 then .bad BAD_ARG 0x14
     else match s.policyFault f pol with
       | some r => r
       | none => .done (s.setPolicy x pol)))

/-- CTX_UPDATE with IMAGE 0. -/
def execCtxUpdatePolicy (f : FuncId) (s : State) : Out := .next (s.updatePolicy f)

/-- The update timeout expires: the context goes on with the old image. -/
def execUpdateTimeout (x : CtxId) (s : State) : Out :=
  match (s.caux x).update with
  | none => .next s
  | some u =>
    if (s.ctx x).state ≠ UPDATING ∨ ¬ s.fwRuns then .next s
    else
      let s := s.passTo u.dueSc
      let s := if (s.ctx x).image = u.image then s else s.freeNodes x u.image
      let s := (s.updCtx x fun e => { e with state := RUNNING }).updAux x fun a => { a with update := none }
      .next ((s.event (s.ctx x).owner 0x0003 x.toNat 0).releaseHeld x)

/-! ## The drain condition (02 R50) -/

/-- Does the thread's work not keep the context from draining: a resident task blocked in RECV, WAITEV or a trap's wait? -/
def State.restful (s : State) (t : Tid) : Bool :=
  (s.taskOf t).isSome &&
    match (s.thread t).wait with
    | .recv _ => true
    | .event _ _ => true
    | .trap [] => true
    | _ => false

/-- Is the packet a channel word or an event message of the context? -/
def Packet.isMessage (p : Packet) (x : CtxId) : Bool :=
  (p.type == 2 && p.ctx == x) || (p.type == 0 && p.ctx == x && (tagKind (bits p.head 0 64) == 2 || tagKind (bits p.head 0 64) == 3))

/-- Channel words and event messages of a context that INFLIGHT counts. -/
def State.messagesInFlight (s : State) (x : CtxId) : Nat :=
  s.packets.countP (·.isMessage x) + (s.clusters.map fun e => e.2.chanIn.countP fun t => tagCtx t.1.tag == x).sum +
    s.hub.brokeIn.countP fun b => b.counted && b.ctx == x && (tagKind b.token.tag == 2 || tagKind b.token.tag == 3)

/-- The drain condition. It is not judged while a position moves (16 R449). In UPDATING only tokens and activations count: channel
words, event messages and kernel tasks go on across the swap (02 R54, R55). -/
def State.drained (s : State) (x : CtxId) : Bool :=
  (s.caux x).move.isNone && !s.dying x &&
    if (s.ctx x).state = UPDATING then
      decide ((s.ctx x).inflight.toNat ≤ s.messagesInFlight x) && (s.threadsOf x).all fun t => (s.taskOf t).isSome
    else (s.ctx x).inflight == 0 && (s.threadsOf x).all s.restful

/-- An image switch: the new image runs, the old codelets are freed and its tables come under those of the new one (log
43). -/
def State.switchImage (s : State) (x : CtxId) (u : Update) : State :=
  let old := (s.ctx x).image
  let s := if old = u.image then s else s.freeNodes x old
  let m := s.image u.image
  let s := s.updCtx x fun e =>
    { e with state := RUNNING, image := u.image, nodecnt := match m with | some m => BitVec.ofNat 20 m.nodecnt | none => e.nodecnt }
  let s := s.updAux x fun a =>
    { a with update := none, tables := match m with | some m => m.tables.foldl putTable a.tables | none => a.tables }
  (s.event (s.ctx x).owner 0x0002 x.toNat (BitVec.setWidth 64 u.image)).releaseHeld x

/-- What the firmware does with a drain record. -/
def State.drainAct (s : State) (x : CtxId) : State :=
  let e := s.ctx x
  if ¬ s.drained x then s
  else if e.state = QUIESCING then (s.updCtx x fun e => { e with state := STOPPED }).event e.owner 0x0001 x.toNat 0
  else if e.state = UPDATING then
    match (s.caux x).update with
    | some u => s.switchImage x u
    | none => s
  else s

/-! ## CTX_QUERY (13 R388) -/

/-- The context-table entry as 64 bytes (02 R47). -/
def Ctx.pack (e : Ctx) : List Byte :=
  let w0 : DWord := e.exth ++ e.sup ++ e.image ++ e.owner ++ e.drnd ++ (bit e.dzt : BitVec 1) ++ (bit e.fof : BitVec 1) ++ e.cls ++ e.state
  let w1 : DWord := (0 : BitVec 2) ++ e.flowbase ++ e.taskcnt ++ (0 : BitVec 5) ++ e.csize ++ e.nodecnt
  let w2 : DWord := (0 : BitVec 9) ++ e.flowcnt ++ e.wtp
  let w3 : DWord := (0 : BitVec 16) ++ e.spillres ++ e.matchres
  let w4 : DWord := (0 : BitVec 8) ++ e.chres ++ e.dlres ++ e.taskres
  let w5 : DWord := (0 : BitVec 24) ++ e.lastfault ++ e.instb ++ e.updb
  let w6 : DWord := e.timers ++ e.inflight
  let w7 : DWord := e.faultcnt ++ e.brokecnt
  [w0, w1, w2, w3, w4, w5, w6, w7].flatMap fun w => leBytes 8 w.toNat

/-- The bytes of a placement group (02 R62). -/
def GroupRec.pack (g : GroupRec) : List Byte :=
  leBytes 8 (g.first.toNat + 64 * g.count.toNat + 8192 * g.rule.toNat + 32768 * g.shift.toNat)

/-- CTX_QUERY. -/
def State.ctxQuery (s : State) (f : FuncId) : State :=
  let x := s.argCtx f 8
  let e := s.ctx x
  let map := (List.range 64).map fun k => if k < e.csize.toNat then (s.caux x).clmap.getD k 0 else 0
  let windows : List Byte := (List.range 1024).map fun i => Memory.get s.mem (e.wtp.toNat + i)
  let groups : List Byte := match s.imageOf x with | some m => m.groups.flatMap GroupRec.pack | none => []
  s.perform f 0x0206 true (s.ctxTarget f x
    (.ok s (leBytes 16 0 ++ e.pack ++ map) (if s.argDma f then some (windows ++ groups) else none)))

/-- CTX_QUERY. -/
def execCtxQuery (f : FuncId) (s : State) : Out := .next (s.ctxQuery f)

/-! ## The order of commands and drain records (02 R53) -/

/-- Does a command that names the context and has arrived still wait for its turn? -/
def State.ctxWaits (s : State) (x : CtxId) (f : FuncId) : Bool :=
  let m := s.mbox f
  m.pend && !m.begun && (s.objects f).contains (.ctx x)

/-- The firmware handles the command of `f`, if it is one on a context that asks for no data of the host. -/
def State.ctxCommand (s : State) (f : FuncId) : State :=
  match s.arg f 0 2 with
  | 0x0202 => s.ctxStart f
  | 0x0203 => s.ctxStop f
  | 0x0204 => s.ctxKill f
  | 0x0205 => if s.arg f 0x10 2 = 0 then s.updatePolicy f else s.updateImage f
  | 0x0206 => s.ctxQuery f
  | _ => s

/-- The drain condition holds, and its record reaches the firmware, which handles the commands on the context that arrived before it
first; while one of them cannot be handled yet, the record waits behind it (02 R53). -/
def execDrainCondition (x : CtxId) (s : State) : Out :=
  let st := (s.ctx x).state
  if ¬ s.drained x ∨ (st ≠ QUIESCING ∧ st ≠ UPDATING) then .next s
  else if s.fwRuns then
    let t := (s.hub.order.filter (s.ctxWaits x)).foldl State.ctxCommand s
    .next (if s.hub.order.any (t.ctxWaits x) then t else t.drainAct x)
  else .next (s.mgmtRecord recDrain 0 (BitVec.setWidth 64 x))

end Sys2Proof.Machine
end

