-- ==== Sys2Proof/Machine/MbHost.lean ====
section
/-! DEFINITION. Mailbox commands on flows, rings, banks, windows, lock groups, functions, the administrative role and seal keys
(03 R104, 05 R160, 10 R298, R294, R309, 12 R345, R362, 13 R389-R392, 02 R70). -/

namespace Sys2Proof.Machine

/-- The failure at the first failing check, or `k`. -/
def checked (st : BitVec 16) (l : List (Bool × Nat)) (k : Reply) : Reply :=
  match firstBad l with
  | some o => .bad st o
  | none => k

/-! ## Flows (05 R160, R167) -/

/-- Quotas of all defined flows. -/
def State.quotas (s : State) : Nat := s.hub.flows.foldl (fun n e => if e.2.valid then n + e.2.quota.toNat else n) 0

/-- FLOW_DEFINE. A flow for which the running image has no record begins at sequence number 0 with gap time 0 (DESIGN CHOICE,
log 137). -/
def State.flowDefine (s : State) (f : FuncId) (x : CtxId) : Reply :=
  let e := s.ctx x
  let i := s.arg f 0x10 2
  let r : RingId := BitVec.ofNat 6 (s.arg f 0x12 1)
  let q := if s.arg f 0x14 2 = 0 then 16 else s.arg f 0x14 2
  let n : BitVec 14 := e.flowbase + BitVec.ofNat 14 i
  let ringOk : Bool := decide (s.arg f 0x12 1 < 64) && (s.flowOf e.owner r).isNone &&
    match s.ring e.owner r with | some g => g.kind == 1 && !g.fault | none => false
  let w := ((s.imageOf x).bind fun m => m.flows[i]?).getD ⟨0, 0⟩
  if e.state ≠ ADMITTED ∧ e.state ≠ RUNNING ∧ e.state ≠ STOPPED then .bad WRONG_STATE 0x08
  else if e.flowcnt.toNat ≤ i then .bad BAD_ARG 0x10
  else if (s.flow n).valid then .bad WRONG_STATE 0x10
  else checked BAD_ARG [(ringOk, 0x12), (decide (q ≤ 256), 0x14)]
    (if 262144 < s.quotas + q ∨ !s.budgetFor e.owner { reorder := q } then .bad BUDGET 0xFFFF
     else
       .ok (s.updFlow n fun v =>
         { v with func := e.owner, ctx := x, next := w.first, ring := r, valid := true, quota := BitVec.ofNat 9 q, gapto := w.gapto,
                  items := [], granted := [], timer := 0, trun := false })
         (leBytes 2 n.toNat) none)

/-- FLOW_DEFINE. -/
def execFlowDefine (f : FuncId) (s : State) : Out :=
  let x := s.argCtx f 8
  .next (s.perform f 0x0301 true (s.ctxTarget f x (s.flowDefine f x)))

/-! ## Rings (12 R345, R353, R355, 13 R389) -/

/-- The ring of TARGET. -/
def State.argRing (s : State) (f : FuncId) : RingId := BitVec.ofNat 6 (s.arg f 8 1)

/-- Staging places of the REEL rings. -/
def State.stagingUsed (s : State) : Nat := s.hub.rings.foldl (fun n e => if e.2.kind = 1 then n + e.2.stage else n) 0

/-- Does slot `k` of function `f` belong to a WINDOW ring? -/
def State.slotTaken (s : State) (f : FuncId) (k : Nat) : Bool :=
  s.hub.rings.anyV fun n g => n / 64 == f.toNat && g.win && decide (g.firstSlot.toNat ≤ k) && decide (k < g.firstSlot.toNat + g.size)

/-- The range, option and slot checks of RING_CREATE for kind `k`; fields the kind does not use are zero. -/
def State.ringChecks (s : State) (f : FuncId) (k : Nat) : List (Bool × Nat) :=
  let a := s.arg f
  let opt := a 0x13 1
  let win := k == 1 && opt / 4 % 2 == 1
  let size := 2 ^ a 0x11 1
  let cring : Bool := decide (a 0x16 1 < 64) &&
    match s.ring f (BitVec.ofNat 6 (a 0x16 1)) with | some g => g.kind == 1 | none => false
  [(decide (k ≤ 2), 0x10), (if win then decide (a 0x11 1 ≤ 6) else decide (6 ≤ a 0x11 1) && decide (a 0x11 1 ≤ 15), 0x11),
   (decide (1 ≤ a 0x12 1) && decide (a 0x12 1 ≤ 63), 0x12),
   (if k = 0 then decide (opt ≤ 1) else if k = 1 then decide (opt ≤ 6) && opt % 2 == 0 else opt == 0, 0x13),
   (k != 1 || a 0x14 2 == 0, 0x14), (if k = 2 then cring else a 0x16 1 == 0, 0x16),
   (if k = 1 then decide (a 0x17 1 ≤ 64) else a 0x17 1 == 0, 0x17), (a 0x18 8 % 4096 == 0 && (!win || a 0x18 8 == 0), 0x18)] ++
  [(if k = 1 then a 0x20 8 == 0 else a 0x20 8 % 8 == 0, 0x20),
   (if k = 1 then decide (1 ≤ a 0x28 2) && decide (a 0x28 2 ≤ 256) else a 0x28 2 == 0, 0x28),
   (if k = 1 then decide (a 0x2A 2 ≤ 1023) else a 0x2A 2 == 0, 0x2A),
   (if win then decide (a 0x2C 1 + size ≤ 64) && (List.range size).all (fun i => !s.slotTaken f (a 0x2C 1 + i)) else a 0x2C 1 == 0, 0x2C)]

/-- RING_CREATE. A ring number that a template claims counts as existing (14 R412). -/
def State.ringCreate (s : State) (f : FuncId) : Reply :=
  let a := s.arg f
  let r := s.argRing f
  let k := a 0x10 1
  let opt := a 0x13 1
  let x := s.argCtx f 0x14
  let stage := if a 0x17 1 = 0 then 8 else a 0x17 1
  let mine : Bool := decide (a 0x14 2 < 8192) && (s.ctx x).state != FREE && (s.ctx x).owner == f
  if (s.ring f r).isSome || s.claimed f r then .bad WRONG_STATE 0x08
  else if k = 1 ∧ opt / 2 % 2 = 1 ∧ (s.faultRing f).isSome then .bad WRONG_STATE 0x13
  else if (k = 0 ∨ k = 2) ∧ !mine then .bad DENIED 0x14
  else checked BAD_ARG (s.ringChecks f k)
    (if k = 1 ∧ 16384 < s.stagingUsed + stage then .bad BUDGET 0xFFFF
     else
       .done (s.setRing f r
         { kind := BitVec.ofNat 2 k, lsize := BitVec.ofNat 4 (a 0x11 1), holdm := k == 0 && opt == 1, fault := k == 1 && opt / 2 % 2 == 1,
           win := k == 1 && opt / 4 % 2 == 1, vec := BitVec.ofNat 6 (a 0x12 1), ctx := x, cring := BitVec.ofNat 6 (a 0x16 1),
           base := BitVec.ofNat 64 (a 0x18 8), shadow := BitVec.ofNat 64 (a 0x20 8), stage := if k = 1 then stage else 0,
           count := if k = 1 then a 0x28 2 else 1, time := a 0x2A 2, firstSlot := BitVec.ofNat 6 (a 0x2C 1), h := 0, d := 0 }))

/-- RING_CREATE. -/
def execRingCreate (f : FuncId) (s : State) : Out := .next (s.perform f 0x0302 true (s.ringCreate f))

/-- RING_DESTROY. -/
def execRingDestroy (f : FuncId) (s : State) : Out :=
  let r := s.argRing f
  .next (s.perform f 0x0303 true
    (match s.ring f r with
     | none => .bad NO_OBJECT 0x08
     | some g =>
       if g.fault ∧ !(s.ctxsOf f).isEmpty then .bad WRONG_STATE 0x08
       else if g.kind = 1 ∧ (s.hub.rings.anyV fun n q => n / 64 == f.toNat && q.kind == 2 && q.cring == r) then .bad WRONG_STATE 0x08
       else .done (s.destroyRing f r)))

/-- The ring is set back to its mark: an open message is torn, and a held part is discarded (03 R104). The entry
at the mark has been published, so that H equals M only where the held part ends 2^16 entries after the mark. -/
def State.rewind (s : State) (f : FuncId) (r : RingId) (g : Ring) : State :=
  let s := match g.asm with
    | some o => s.tear (.ring f r) g.ctx o.task o.chan o.grant
    | none => s
  let h := if g.size < (g.h - g.mark).toNat ∨ g.h = g.mark then g.mark + BitVec.ofNat 16 g.size else g.h
  s.ringTo f r g { g with d := g.mark, h := h, asm := none, waiting := none, held := false }

/-- RING_REWIND: the head entry, where one waits in the headbox, is completed first (log 45). -/
def execRingRewind (f : FuncId) (s : State) : Out :=
  let r := s.argRing f
  .next (s.perform f 0x0304 true
    (match s.ring f r with
     | none => .bad NO_OBJECT 0x08
     | some g =>
       if g.kind ≠ 0 then .bad BAD_ARG 0x08
       else if g.rfault then .bad RING_FAULT 0x08
       else if ¬ g.markSet then .bad NO_OBJECT 0x08
       else if ¬ g.markv then .bad MARK_LOST 0x08
       else if g.waiting.isSome then .later s
       else .done (s.rewind f r g)))

/-! ## Banks, windows, lock groups (10 R294, R298, R309, 13 R390) -/

/-- Is the cluster of a bank, or its section, fenced or off (01 R24)? -/
def State.bankShut (s : State) (n : Byte) : Bool :=
  let x := s.sect (clusterSection (bankCluster n))
  x.svc != 0 || x.pstate != 3 || s.fw.fencedClusters.contains (bankCluster n)

/-- BANK_ASSIGN: CLR is set where the old owner is a context or the bank has not been assigned since PORST_N; the command
completes when PEND and CLRING are clear (10 R298). -/
def State.bankAssign (s : State) (f : FuncId) : Reply :=
  let n : Byte := BitVec.ofNat 8 (s.arg f 0x10 1)
  let k := s.arg f 0x11 1
  let x := s.argCtx f 0x12
  let b := s.bank n
  if (s.mbox f).begun then (if b.clring || s.bankPend n then .later s else .done s)
  else if k = 2 ∧ (8192 ≤ s.arg f 0x12 2 ∨ (s.ctx x).state = FREE) then .bad NO_OBJECT 0x12
  else if s.bankShut n then .bad HW_FENCED 0x10
  else if 2 < k then .bad BAD_ARG 0x11
  else if k ≠ 2 ∧ s.arg f 0x12 2 ≠ 0 then .bad BAD_ARG 0x12
  else
    let clr := b.kind == 2 || !b.assigned
    let v : Word := BitVec.ofNat 32 (k + (if clr then 4 else 0) + 16 * x.toNat)
    let t := (s.bankOwner n v).updBank n fun b => { b with assigned := true }
    if (t.bank n).clring || t.bankPend n then .later t else .done t

/-- BANK_ASSIGN. -/
def execBankAssign (f : FuncId) (s : State) : Out := .next (s.perform f 0x0401 true (s.bankAssign f))

/-- Does the range of an entry lie wholly in banks that the context owns? -/
def State.inOwnBanks (s : State) (x : CtxId) (raw : BitVec 128) : Bool :=
  let b := (bits raw 0 40).toNat
  let last := b + (bits raw 64 29).toNat - 1
  inBanks b && inBanks last &&
    (List.range ((last - bankBase) / 0x40000 + 1)).all fun n =>
      decide (n < (b - bankBase) / 0x40000) || (s.bank (BitVec.ofNat 8 n)).grants x

/-- An entry is written, and every cluster of the context drops its copy. -/
def State.setWindow (s : State) (x : CtxId) (w : BitVec 6) (raw : BitVec 128) : State :=
  let a := (s.ctx x).wtp.toNat + 16 * w.toNat
  let s := (s.wr a 16 raw.toNat).healRange a 16
  { s with clusters := s.clusters.mapV fun _ cl => { cl with wcache := cl.wcache.filter fun e => e.1 != winKey x w } }

/-- WINDOW_SET. -/
def execWindowSet (f : FuncId) (s : State) : Out :=
  let x := s.argCtx f 8
  let w := s.arg f 0x10 1
  let raw : BitVec 128 := BitVec.ofNat 128 (s.arg f 0x18 16)
  let valid := raw.getLsbD 48
  .next (s.perform f 0x0402 true (s.ctxTarget f x
    (if 63 < w then .bad BAD_ARG 0x10
     else if valid ∧ !winWellFormed raw then .bad BAD_ARG 0x18
     else if f ≠ s.hub.admin ∧ valid ∧ !s.inOwnBanks x raw then .bad DENIED 0x18
     else .done (s.setWindow x (BitVec.ofNat 6 w) raw))))

/-- LOCKGRP_RIGHTS. -/
def execLockgrpRights (f : FuncId) (s : State) : Out :=
  let g := s.arg f 0x10 1
  let row : LckGrp :=
    { f0 := BitVec.ofNat 64 (s.arg f 0x18 8), f1 := BitVec.ofNat 64 (s.arg f 0x20 8), cl := BitVec.ofNat 3 (s.arg f 0x11 1) }
  .next (s.perform f 0x0403 true
    (checked BAD_ARG [(decide (g ≤ 63), 0x10), (decide (s.arg f 0x11 1 ≤ 7), 0x11)]
      (.done { s with locks := { s.locks with groups := s.locks.groups.set g row } })))

/-! ## Functions and the administrative role (12 R361, R362, 13 R391, R392) -/

/-- Do the budget words lie in their ranges, with reserved bits zero (12 R341)? -/
def budgetOk (b0 b1 b2 : DWord) : List (Bool × Nat) :=
  let u := ({ bud0 := b0, bud1 := b1, bud2 := b2 } : Func).budget
  [(decide (u.ctxs ≤ 8192) && decide (u.tasks ≤ 65536) && decide (u.matching ≤ 1048576) && bits b0 14 2 == (0 : BitVec 2) &&
      !b0.getLsbD 33 && bits b0 55 9 == (0 : BitVec 9), 0x18),
   (decide (u.dl ≤ 262144) && decide (u.chan ≤ 524288) && !b1.getLsbD 19 && bits b1 40 24 == (0 : BitVec 24), 0x20),
   (decide (u.spill ≤ 67108864) && decide (u.reorder ≤ 262144) && bits b2 27 5 == (0 : BitVec 5) && bits b2 51 13 == (0 : BitVec 13), 0x28)]

/-- FUNC_SET with OP 0 sets the entry; an OP above 1 fails. -/
def execFuncSet (f : FuncId) (s : State) : Out :=
  let op := s.arg f 0x10 1
  let g : FuncId := BitVec.ofNat 7 (s.arg f 8 1)
  let cfg := s.arg f 0x11 1
  let b (o : Nat) : DWord := BitVec.ofNat 64 (s.arg f o 8)
  .next (s.perform f 0x0501 (op != 1)
    (checked BAD_ARG ([(op == 0, 0x10), (cfg % 2 == 1 || g != s.hub.admin, 0x11)] ++
        budgetOk (b 0x18) (b 0x20) (b 0x28))
      (.done (s.updFunc g fun e =>
        { e with en := cfg % 2 == 1, dbg := cfg / 4 % 2 == 1, pio := cfg / 8 % 2 == 1, bud0 := b 0x18, bud1 := b 0x20, bud2 := b 0x28, refuse := false }))))

/-- FUNC_SET with OP 1: a context and the image it names pass to function `g`. -/
def State.moveOwner (s : State) (f : FuncId) : Reply :=
  let g : FuncId := BitVec.ofNat 7 (s.arg f 8 1)
  let x := s.argCtx f 0x12
  let e := s.ctx x
  if 8192 ≤ s.arg f 0x12 2 ∨ e.state = FREE then .bad NO_OBJECT 0x12
  else if (s.caux x).deckle then .bad HW_FENCED 0x12
  else if (s.faultRing g).isNone then .bad WRONG_STATE 0x08
  else if (s.hub.flows.anyV fun _ w => w.valid && w.ctx == x) ∨
      (s.ctxs.anyV fun n c => n != x.toNat && c.state != FREE && c.owner == e.owner && c.image == e.image) then .bad WRONG_STATE 0x12
  else if g ≠ e.owner ∧ !s.budgetFor g e.use then .bad BUDGET 0xFFFF
  else
    let s := s.updCtx x fun c => { c with owner := g }
    .done (s.updFw fun w => { w with images := match w.images.find e.image.toNat with
      | some m => w.images.set e.image.toNat { m with owner := g }
      | none => w.images })

/-- FUNC_SET with OP 1. -/
def execFuncSetMoveContext (f : FuncId) (s : State) : Out :=
  .next (s.perform f 0x0501 (s.arg f 0x10 1 == 1) (s.moveOwner f))

/-- ADMIN_MOVE: the administrator offers the role, and the function named confirms within 10 s. -/
def execAdminMove (f : FuncId) (s : State) : Out :=
  let t := s.arg f 8 8
  let g : FuncId := BitVec.ofNat 7 t
  let live : Bool := match s.hub.offer with | some (h, due) => h == f && decide (s.scnt ≤ due) | none => false
  .next (s.perform f 0x0502 true
    (if 127 < t then .bad NO_OBJECT 0x08
     else if f = s.hub.admin then
       (if g = f then .bad BAD_ARG 0x08 else .done (s.updHub fun h => { h with offer := some (g, s.scnt + scMs 10000) }))
     else if g = f ∧ live then
       .done ((s.updHub fun h => { h with admin := f, offer := none }).event s.hub.admin 0x0022 f.toNat 0)
     else .bad DENIED 0xFFFF))

/-- An offer lapses 10 s after it was made (12 R362). -/
def execAdminOfferLapse (s : State) : Out :=
  match s.hub.offer with
  | none => .next s
  | some (_, due) => .next ((s.passTo due).updHub fun h => { h with offer := none })

/-! ## Seal keys (02 R70) -/

/-- X and Y of SEAL_KEY_SET. -/
def State.argKey (s : State) (f : FuncId) : Nat × Nat :=
  let v := (s.mbox f).request
  let be (o : Nat) : Nat := beNat ((List.range 48).map fun i => (fld v (o + i) 1 : Byte))
  (be 0x18, be 0x48)

/-- SEAL_KEY_SET with OP 0: the slot takes the key; an OP above 1 fails. -/
def execSealKeySet (f : FuncId) (s : State) : Out :=
  let slot := s.arg f 0x10 1
  let op := s.arg f 0x11 1
  let (x, y) := s.argKey f
  .next (s.perform f 0x0503 (op != 1)
    (checked BAD_ARG [(decide (slot ≤ 7), 0x10), (op == 0, 0x11), (onCurve x y, 0x18)]
      (.done (s.updFw fun w => { w with seals := w.seals.set slot (BitVec.ofNat 768 (x * 2 ^ 384 + y)) }))))

/-- SEAL_KEY_SET with OP 1: the slot is emptied. -/
def execSealKeyClear (f : FuncId) (s : State) : Out :=
  let slot := s.arg f 0x10 1
  let (x, y) := s.argKey f
  .next (s.perform f 0x0503 (s.arg f 0x11 1 == 1)
    (checked BAD_ARG [(decide (slot ≤ 7), 0x10), (x == 0, 0x18), (y == 0, 0x48)]
      (.done (s.updFw fun w => { w with seals := w.seals.erase slot }))))

end Sys2Proof.Machine
end

