-- ==== Sys2Proof/Machine/Resets.lean ====
section
/-! DEFINITION. Resets and their scopes, and the release of domains from reset (15 R427-R432, 16 R453). -/

namespace Sys2Proof.Machine

/-! ## Domains (15 R427-R429) -/

/-- Power domain of a section. -/
def sectDomain (n : BitVec 4) : Nat := 6 + n.toNat

/-- Crossings of domain `d` are resynchronised after a reset: counted, and recorded to management with whether management
asked for the reset (15 R427). -/
def State.resync (s : State) (d : Nat) (asked : Bool) : State :=
  (s.updXing d fun x => { x with rsync := true, rsyncCnt := satInc x.rsyncCnt, pending := 0 }).mgmtRecord recCrossing 0
    (BitVec.ofNat 64 (d + if asked then 256 else 0))

/-- A domain leaves reset: its first release since PORST_N leaves no record (15 R427). -/
def State.releaseDomain (s : State) (d : Nat) : State :=
  let x := s.xing d
  if ¬ x.inReset then s
  else
    let s := s.updXing d fun x => { x with inReset := false, released := true, pending := 0 }
    if x.released then s.resync d x.asked else s

/-- A domain enters reset; `asked` says that management requested it (15 R427, log 159). -/
def State.holdDomain (s : State) (d : Nat) (asked : Bool := false) : State := s.updXing d fun x => { x with inReset := true, asked := asked }

/-- `n` pulses come one after another into domain `d`. While it is in reset they wait in the pending counter; otherwise the first
is transferred, up to 15 are counted and replayed, and the rest is merged into them (15 R424, R427). -/
def State.pulses (s : State) (d n : Nat) : State :=
  s.updXing d fun x =>
    let room := if x.inReset then 15 - x.pending.toNat else 16
    let lost := n - room
    { x with pending := if x.inReset then BitVec.ofNat 4 (min 15 (x.pending.toNat + n)) else 0, merged := x.merged || decide (0 < lost),
             mergeCnt := satAdd x.mergeCnt lost }

/-! ## Sections -/

/-- What a cluster holds is lost: its stores, threads and couches, and the contents of its banks (15 R429). Its spill region
lies in HBM and stays (03 R92). -/
def State.resetCluster (s : State) (c : ClusterId) : State :=
  let port := 16 * (clusterRouter c).toNat + 4 + (clusterEp c).toNat
  let lo := bankBase + 4 * c.toNat * 0x40000
  { s with
    clusters := if (s.cluster c).spill.isEmpty then s.clusters.erase c.toNat
      else s.clusters.set c.toNat { spill := (s.cluster c).spill }
    threads := s.threads.keep fun k _ => isSteward (BitVec.ofNat 13 k) || tCluster (BitVec.ofNat 13 k) != c
    mem := Memory.clear s.mem lo 0x100000
    uecc := s.uecc.filter fun w => !(decide (lo / 8 ≤ w) && decide (w < lo / 8 + 0x20000))
    banks := s.banks.keep fun n _ => n / 4 != c.toNat
    spine := { s.spine with
      bufs := s.spine.bufs.mapV fun k l => if k / 4 != port then l else if s.spine.sent.getD k 0 = 0 then [] else l.take 1
      waits := s.spine.waits.keep fun k _ => k / 4 != port
      inq := s.spine.inq.keep fun k _ => k / 4 != port } }

/-- The clusters of a section. -/
def sectClusters (n : BitVec 4) : List ClusterId := (List.range 4).map fun k => n ++ BitVec.ofNat 2 k

/-- A section's reset. -/
def State.resetSection (s : State) (n : BitVec 4) (asked : Bool := false) : State :=
  ((sectClusters n).foldl State.resetCluster s).holdDomain (sectDomain n) asked

/-- Every section. -/
def allSections : List (BitVec 4) := (List.range 16).map (BitVec.ofNat 4)

/-! ## Resets of the part (15 R430-R432) -/

/-- What lies in flash and fuses, which no reset touches. -/
def Fw.flash (w : Fw) : Fw :=
  { bank := w.bank, versions := w.versions, staged := w.staged, keeperParts := w.keeperParts, keeperRuns := w.keeperRuns,
    fusedCounter := w.fusedCounter, fusedKeeper := w.fusedKeeper }

/-- Every domain in reset, with RST_CAUSE as given. -/
def State.coldReset (s : State) (cause : BitVec 5) : State :=
  { State.reset with
    pending := s.pending, free := s.free, out := s.out, clk := { State.reset.clk with rstCause := cause }, fw := s.fw.flash }

/-- VDD_AON reaches its level: all domains are reset, RST_CAUSE included. -/
def execVddAonPowerUp (s : State) : Out := .next (s.coldReset 0b10001)

/-- PORST_N goes low: a cold reset; RST_CAUSE bit 0 is set and the thermal trip's latch cleared. -/
def execPorstNAssert (s : State) : Out := .next (s.coldReset (s.clk.rstCause ||| 1))

/-- The administrative function that the straps name (12 R361). -/
def strapAdmin (straps : BitVec 6) (present : BitVec 2 → Bool) : FuncId :=
  let p : BitVec 2 := bits straps 2 2
  pfOf (if present p then p else 0)

/-- The ports that PCIE_BIF gives (12 R336). -/
def bifPorts (sel p : BitVec 2) : Bool := p == 0 || (sel == 1 && p == 2) || sel == 2

/-- An external programmer writes an image to a flash bank: its version, and no image is staged any more (18 R480). -/
def Fw.program (w : Fw) (e : Bool × Word) : Fw :=
  { w with versions := w.versions.set e.1.toNat e.2, keeperParts := w.keeperParts.set e.1.toNat (Config.keeperPart e.2), staged := none }

/-- PORST_N goes high (15 R433 step 1): AON leaves reset and the straps are sampled. `flash` is what an external programmer has
written to the flash banks while it was low (18 R480). -/
def execPorstNRelease (pcieBif adminSel smbSel : BitVec 2) (s : State) (flash : List (Bool × Word) := []) : Out :=
  if ¬ s.clk.porstLow then .next s
  else
    let s := s.updFw fun w => flash.foldl Fw.program w
    let straps : BitVec 6 := smbSel ++ adminSel ++ pcieBif
    let s := s.updHub fun h =>
      { h with straps := straps, admin := strapAdmin straps (bifPorts pcieBif),
               ports := h.ports.mapV fun k p => { p with present := bifPorts pcieBif (BitVec.ofNat 2 k) } }
    .next (({ s with scnt := 0 }.updClk fun k => { k with porstLow := false, aon := true }).releaseDomain 0)

/-- A thermal trip (15 R430, R431): every domain but AON is reset and held, the keeper included, until PORST_N. One while PORST_N is
low is latched too, and the part does not start before the next PORST_N. -/
def State.thermalTrip (s : State) : State :=
  if s.clk.porstLow then s.updClk fun k => { k with thermLatch := true, rstCause := k.rstCause ||| 2 }
  else
    let t := s.coldReset (s.clk.rstCause ||| 2)
    let k := { t.clk with porstLow := false, aon := true, thermLatch := true, refLoss := s.clk.refLoss, xing := s.clk.xing }
    let ports := s.hub.ports.mapV fun _ p => { present := p.present }
    let t := { t with clk := k, mon := s.mon, scnt := s.scnt, hub := { t.hub with straps := s.hub.straps, ports := ports } }
    (List.range 21).foldl (fun t d => t.holdDomain (d + 1)) t

/-- A thermal trip. -/
def execThermalTrip (s : State) : Out := .next s.thermalTrip

/-- Does start-up go on: PORST_N high and no thermal trip latched? -/
def State.awake (s : State) : Bool := s.clk.aon && !s.clk.porstLow && !s.clk.thermLatch

/-- A warm reset begins (15 R430, R432): MGMT, HOST, ETH, MEM and every section; `bit` is its place in RST_CAUSE. -/
def State.warmReset (s : State) (bit : Nat) : State :=
  let hub := { State.reset.hub with
    straps := s.hub.straps
    admin := strapAdmin s.hub.straps fun p => (s.port p).present
    ports := s.hub.ports.mapV fun _ p => { present := p.present, perst := p.perst, released := p.released, retrain := p.retrain } }
  let clk := { State.reset.clk with
    refLoss := s.clk.refLoss, safeLock := s.clk.safeLock, xing := s.clk.xing, rstCause := s.clk.rstCause ||| (1 <<< bit),
    refDead := s.clk.refDead, porstLow := false, aon := true, keeperOk := s.clk.keeperOk, dead := s.clk.dead, warmLow := true }
  let t := { State.reset with
    pending := s.pending, free := s.free, out := s.out, scnt := s.scnt, hub := hub, clk := clk, fw := s.fw.flash,
    keeper := { s.keeper with warmed := true },
    mon := { s.mon with traceOn := false, lost := s.mon.lost.filter fun n => (s.mon.vtol.find n).isSome, avsSent := none, mReq := [], fenceHot := [] } }
  (List.range 20).foldl (fun t d => t.holdDomain (d + 2)) t

/-- WARM_RST_N is low for at least 1 µs; during a warm reset it is merged into it. -/
def execWarmReset (s : State) : Out := .next (if ¬ s.awake ∨ s.clk.warmLow then s else s.warmReset 2)

/-- The warm reset is released, 10 µs after a request of the keeper mailbox. -/
def execWarmResetRelease (s : State) : Out :=
  if ¬ s.clk.warmLow then .next s
  else
    let s := if s.keeper.warmReq then s.passTo (s.keeper.warmAt + scUs 10) else s
    .next ((s.updClk fun k => { k with warmLow := false }).updKeeper fun k => { k with warmReq := false })

/-! ## PLLs (15 R419, R433 steps 2 and 3) -/

/-- Has the PLL of every present port locked? -/
def State.portsLocked (s : State) : Bool := (List.range 4).all fun p => !(s.port (BitVec.ofNat 2 p)).present || s.clk.pciLock.getLsbD p

/-- HOST leaves reset when the PLLs of step 3 have locked: TB starts from 0, and PCI_p of every present port whose PERST_N_p
is high leaves reset. -/
def State.hostRelease (s : State) : State :=
  let k := s.clk
  if k.coreLock && k.memLock && s.portsLocked && k.ethLock && k.timeLock && !k.warmLow && !s.hostUp then
    let s := { s.releaseDomain 3 with tb := {} }
    s.updHub fun h => { h with ports := h.ports.mapV fun _ p => if p.present && !p.perst then { p with released := true } else p }
  else s

/-- Step 2 of a power-on (15 R429): the PLL has locked and FAB_s runs at the M requested, in reset. -/
def State.sectLock (s : State) (n : BitVec 4) : State :=
  s.updSect n fun x => { x with pstate := 2, lock := true, gated := false, mcur := x.m, thr := false, phase := 0, was := none }

/-- A PLL locks. -/
def execPllLock (pll : Pll) (s : State) : Out :=
  if ¬ s.awake then .next s
  else
    match pll with
    | .safe =>
      if s.clk.safeLock then .next s
      else .next (((s.updClk fun k => { k with safeLock := true }).releaseDomain 1).updKeeper fun k => { k with running := true })
    | .core => .next (s.updClk fun k => { k with coreLock := true }).hostRelease
    | .memory => .next (s.updClk fun k => { k with memLock := true }).hostRelease
    | .ethernet => .next (s.updClk fun k => { k with ethLock := true }).hostRelease
    | .time => .next (s.updClk fun k => { k with timeLock := true }).hostRelease
    | .port p => .next (if (s.port p).present then (s.updClk fun k => { k with pciLock := k.pciLock ||| (1 <<< p.toNat) }).hostRelease else s)
    | .sect n => .next (if (s.sect n).pstate = 0 then s else if (s.sect n).pstate = 1 then s.sectLock n else s.updSect n fun x => { x with lock := true })

/-! ## Ports and functions (12 R340, R361-R366, 15 R433, 16 R435) -/

/-- Function-level reset. -/
def execFlr (f : FuncId) (s : State) : Out := .next (if s.funcExists f then s.flr f else s)

/-- VF Enable is set: VFs 1 to NumVFs exist, each with a mailbox that is ready once an FLR of it has ended (12 R364). NumVFs changes only while VF Enable is clear (12 R365). -/
def execVfEnableSet (p : BitVec 2) (numVfs : BitVec 5) (s : State) : Out :=
  let q := s.port p
  if ¬ q.present ∨ ¬ q.enabled ∨ q.vfEnable then .next s
  else
    let s := s.updPort p fun q => { q with vfEnable := true, numVfs := numVfs }
    .next ((List.range 32).foldl (fun s i =>
      if i = 0 ∨ numVfs.toNat < i then s else s.updMbox (p ++ BitVec.ofNat 5 i) fun _ => { notrdy := (s.func (p ++ BitVec.ofNat 5 i)).flr }) s)

/-- VF Enable is cleared: every VF of the port takes an FLR and exists no more. -/
def execVfEnableClear (p : BitVec 2) (s : State) : Out :=
  if ¬ (s.port p).vfEnable then .next s
  else .next (((portFuncs p false).foldl State.flrOne s).updPort p fun q => { q with vfEnable := false })

/-- A port goes down (12 R366): FLR of its PF and VFs, the port deckle is up, and an offer of the role to or by its functions
lapses. -/
def State.portDown (s : State) (p : BitVec 2) (why : Option PortReset) : State :=
  let s := (portFuncs p true).foldl State.flrOne s
  let s := s.updHub fun h =>
    { h with offer := match h.offer with | some (g, t) => if funcPort g = p ∨ funcPort h.admin = p then none else some (g, t) | none => none }
  let s := s.updPort p fun q =>
    { q with perst := q.perst || why == some .pin, retrain := q.retrain || (why == some .hot || why == some .dlDown), linkUp := false, crs := true, enabled := false, vfEnable := false, numVfs := 0, deckle := true,
             gen5 := false, gen4 := q.gen4 && why != some .pin && why != some .hot,
             eqMark := if why == some .pin || why == some .hot then 0 else q.eqMark }
  (portFuncs p true).foldl (fun s f => s.updHub fun h => { h with mbox := h.mbox.set f.toNat {}, order := h.order.erase f }) s

/-- PERST_N_p goes low, a hot reset, or DL_Down. -/
def execPerstNAssert (p : BitVec 2) (s : State) (why : PortReset := .pin) : Out :=
  .next (if (s.port p).present then s.portDown p (some why) else s)

/-- An uncorrectable link error, reported through AER, raises the port deckle. -/
def execPcieUncorrectableError (p : BitVec 2) (s : State) : Out :=
  .next (if (s.port p).present && (s.port p).linkUp then (s.aerReport (pfOf p) .link).portDown p none else s)

/-- PERST_N_p goes high: PCI_p leaves reset. Where it had been released before, the crossings between it and HIF are
resynchronised (15 R427). -/
def execPerstNRelease (p : BitVec 2) (s : State) : Out :=
  let q := s.port p
  if ¬ q.present ∨ ¬ q.perst then .next s
  else
    let up := s.hostUp && s.clk.pciLock.getLsbD p.toNat
    let s := s.updPort p fun q => { q with perst := false, released := q.released || up }
    .next (if q.released && up then s.resync 3 false else s)

/-- Port `p` has trained: its configuration space answers, with Retry Status (15 R433 step 4), and the port deckle is
lowered. After a hot reset or DL_Down PCI_p leaves reset with it, and its crossings are resynchronised (15 R427, R430). `gen5` says that
it has trained at 32 GT/s, which a port held at 16 GT/s does not (19 R494). -/
def execPcieLinkUp (p : BitVec 2) (s : State) (gen5 : Bool := true) : Out :=
  let q := s.port p
  if ¬ (q.present && !q.perst && s.hostUp && s.hostRails && s.clk.pciLock.getLsbD p.toNat && !q.linkUp) then .next s
  else
    let s := s.updPort p fun q => { q with linkUp := true, gen5 := gen5 && !q.gen4, deckle := false, retrain := false, released := true }
    .next (if q.retrain && q.released then s.resync 3 false else s)

/-- The functions of port `p` are enabled (15 R433 step 9, R434): Retry Status ends and NOTRDY clears, where no FLR of the PF is
still under way (12 R364). -/
def execPortEnable (p : BitVec 2) (s : State) : Out :=
  let q := s.port p
  if q.present && q.linkUp && !q.enabled && (s.fw.ready || s.keeper.keeper) then
    .next ((s.updPort p fun q => { q with crs := false, enabled := true }).updMbox (pfOf p) fun m => { m with notrdy := (s.func (pfOf p)).flr })
  else .next s

end Sys2Proof.Machine
end

