-- ==== Sys2Proof/Machine/Spine.lean ====
section
/-! DEFINITION. The spine: routing, delivery and turn-back at endpoints, probes, link errors, epochs and endpoint states
(11 R314-R335). -/

namespace Sys2Proof.Machine

/-! ## Routing (11 R314, R315, R325-R329) -/

/-- Entry `d` of a routing-table bank. -/
def rtPort (bank : DWord) (d : Nat) : Nat := (bits bank (4 * d) 3).toNat

/-- The neighbour of router `r` in direction `dir` (0 N, 1 E, 2 S, 3 W). -/
def neighbour (r dir : Nat) : Option Nat :=
  let x := r % 4
  let y := r / 4
  match dir with
  | 0 => if y = 0 then none else some (r - 4)
  | 1 => if x = 3 then none else some (r + 1)
  | 2 => if y = 3 then none else some (r + 4)
  | _ => if x = 0 then none else some (r - 1)

/-- The input port at which a packet sent in direction `dir` arrives. -/
def arrivesAt (dir : Nat) : Nat := (dir + 2) % 4

/-- Does endpoint `e` of router `r` exist for the virtual channel (11 R315)? The keeper's is there on VC3 only. -/
def endpointExists (r e : Nat) (vc : BitVec 2) : Bool :=
  e < 4 || ((e == 4 || e == 5) && (r / 4 == 0 || r / 4 == 3)) || (e == 6 && (r == 4 || r == 7 || r == 8 || r == 11)) ||
    (e == 7 && (r == 4 || (r == 8 && vc == 3))) || e == 8

/-- Where a routing-table bank sends a head. -/
inductive Hop where
  | dir (d : Nat)
  | local_
  | unroutable
  deriving DecidableEq

/-- The route of a packet at router `r` by its epoch's bank (11 R326). -/
def Router.route (t : Router) (r : BitVec 4) (p : Packet) : Hop :=
  let k := rtPort (t.bankOf p.epoch) p.dr.toNat
  if k = 0 then (if p.dr = r ∧ endpointExists r.toNat p.de.toNat p.vc then .local_ else .unroutable)
  else if k ≤ 4 ∧ (neighbour r.toNat (k - 1)).isSome then .dir (k - 1)
  else .unroutable

/-- Follow one route of a set of tables: it must reach `d` within `n` moves, and never turn into W after another
direction. -/
def routeOk (tab : Nat → DWord) (d : Nat) : Nat → Nat → Bool → Bool
  | 0, _, _ => false
  | n + 1, r, turned =>
    let k := rtPort (tab r) d
    if r = d then k == 0
    else if k = 0 ∨ 4 < k then false
    else if k = 4 ∧ turned then false
    else
      match neighbour r (k - 1) with
      | none => false
      | some q => routeOk tab d n q (turned || k != 4)

/-- The check of 11 R329. -/
def tablesOk (tab : Nat → DWord) : Bool :=
  (List.range 16).all fun d => (List.range 16).all fun r => routeOk tab d 16 r false

/-- A write of FLIP, or of a bank, is performed (11 R328): one of the bank of CUR is ignored. -/
def Spine.doWrite (n : Spine) : RtWrite → Spine
  | .rerouted _ _ => n
  | .flip => { n with cur := !n.cur }
  | .bank r b v =>
    if b = n.cur then n
    else { n with routers := n.routers.upd r.toNat (Router.reset r.toNat) fun t => if b then { t with rt1 := v } else { t with rt0 := v } }

/-- The writes that wait are performed in order, each when STALE is 0 (11 R328); the event that follows a flip is sent with it. -/
def State.runWrites : Nat → State → State
  | 0, s => s
  | k + 1, s =>
    match s.spine.regWait with
    | [] => s
    | .rerouted q d :: r =>
      runWrites k ((s.updSpine fun n => { n with regWait := r }).adminEvent 0x0109 q.toNat (BitVec.ofNat 64 (d.toNat + 1)))
    | w :: r => if s.stale then s else runWrites k (s.updSpine fun n => { n with regWait := r }.doWrite w)

/-- A write that waits for STALE = 0, behind those before it. -/
def State.rtWrite (s : State) (ws : List RtWrite) : State :=
  let s := s.updSpine fun n => { n with regWait := n.regWait ++ ws }
  State.runWrites s.spine.regWait.length s

/-- The bank that will be inactive once the flips that wait have been made. -/
def Spine.nextBank (n : Spine) : Bool := (n.regWait.countP (· == .flip) % 2 == 1) == n.cur

/-- The inactive bank of every router is written, then FLIP (11 R329); then what `more` says. -/
def State.newTables (s : State) (tab : Nat → DWord) (more : List RtWrite := []) : State :=
  s.rtWrite ((List.range 16).map (fun r => .bank (BitVec.ofNat 4 r) s.spine.nextBank (tab r)) ++ .flip :: more)

/-- A write of FLIP inverts CUR in all routers once no worm of the inactive epoch exists; until then it waits. -/
def execEpochFlip (s : State) : Out := .next (s.rtWrite [.flip])

/-- A write of NOC_EP_STATE (11 R332). -/
def execEndpointStateWrite (r : BitVec 4) (v : Word) (s : State) : Out := .next (s.writeEp r v)

/-! ## Probes (11 R334, R335) -/

/-- Does a probe watch the port: an input or output port number, or all inputs? -/
def Probe.watches (p : Probe) (out : Bool) (port : Nat) : Bool :=
  let k := (bits p.cfg 4 4).toNat
  if k = 15 then !out else p.cfg.getLsbD 3 == out && k == port && decide (k ≤ 12)

/-- Does a probe match a packet (11 R334)? -/
def Probe.hits (p : Probe) (h : Word) (q : Packet) : Bool :=
  p.cfg.getLsbD 0 && p.cfg.getLsbD (8 + q.vc.toNat) && ((h ^^^ bits p.hdr 0 32) &&& bits p.hdr 32 32 == (0 : Word)) &&
    ((bits q.head 0 64 ^^^ p.tag) &&& p.tagm == (0 : DWord))

/-- A trace record (11 R335). -/
def traceRecord (scnt : Nat) (h : Word) (probe : Nat) (out miss head : Bool) (port : Nat) (payload : BitVec 128) : BitVec 256 :=
  payload ++ (0 : BitVec 16) ++ BitVec.ofNat 8 port ++ (bit head : BitVec 1) ++ (bit miss : BitVec 1) ++ (bit out : BitVec 1) ++
    BitVec.ofNat 5 probe ++ h ++ BitVec.ofNat 64 scnt

/-- First address of the firmware's part of HBM, where the probe trace regions lie (10 R291). -/
def traceBase : Nat := 0x3F8800000

/-- A write of 64 bytes, two records, to the trace region of probe `k`, from the control endpoint of its router (11 R335). Where in
the firmware's part of HBM the region lies is open (log 129). -/
def traceWrite (k m : Nat) (u v : BitVec 256) : Packet :=
  let pa : BitVec 40 := BitVec.ofNat 40 (traceBase + 64 * (Config.tracePlace k m).toNat)
  let (dr, de) := pcHome (pcOf pa)
  { dr := dr, de := de, vc := 1, type := 4, epoch := false, sr := BitVec.ofNat 4 (k / 2), se := 8, pri := false,
    flits := [requestHead pa 5 (BitVec.ofNat 16 m) 0 3 0 0, bits u 0 128, bits u 128 128, bits v 0 128, bits v 128 128] }

/-- A record enters the shared buffer of 2,048 records, which wraps or stops. -/
def Spine.store (n : Spine) (k : Nat) (p : Probe) (v : BitVec 256) : Spine :=
  if n.trace.length < 2048 then { n with trace := n.trace ++ [v] }
  else if p.cfg.getLsbD 13 then { n with probes := n.probes.upd k {} fun p => { p with stopped := true } }
  else { n with trace := n.trace.tail ++ [v], wrap := true }

/-- The FIFO of probe `k` gives its records to the sink: at once to the shared buffer; to HBM in pairs, each a write of 64 bytes for
which the outbound couch of the control endpoint has room (11 R335, log 144). -/
def Spine.drain (n : Spine) (k : Nat) : Nat → Spine
  | 0 => n
  | left + 1 =>
    let p := n.probes.getD k {}
    if p.cfg.getLsbD 12 then
      let key := bufKey (BitVec.ofNat 4 (k / 2)) 12 1
      match p.fifo with
      | u :: v :: r =>
        if n.held key + 5 ≤ 16 then
          let l := n.traceHbm.getD k []
          Spine.drain { n with
            probes := n.probes.set k { p with fifo := r }
            traceHbm := n.traceHbm.set k (l ++ [u, v])
            bufs := n.bufs.upd key [] (· ++ [traceWrite k (l.length / 2) u v]) } k left
        else n
      | _ => n
    else
      match p.fifo with
      | v :: r => Spine.drain ({ n with probes := n.probes.set k { p with fifo := r } }.store k p v) k left
      | [] => n

/-- One flit, number `i` of packet `q`, passes a port that a probe may watch, in sc `sc`; `seq` and `seq0` are the SEQ of the flit and
of its head there, and `cap` is what the probe can do with it beside its own limits of one capture in an sc and 8 records on their
way. -/
def Spine.probe (n : Spine) (sc k : Nat) (out : Bool) (port : Nat) (q : Packet) (i : Nat) (seq seq0 : BitVec 5) (cap : Capture) : Spine :=
  let p := n.probes.getD k {}
  let len := q.flits.length
  if p.watches out port && p.hits (header q (len - 1) seq0) q then
    let mode : Nat := (bits p.cfg 1 2).toNat
    let p := { p with pkts := if i = 0 then satInc p.pkts else p.pkts, flits := satInc p.flits }
    let put (p : Probe) : Spine := { n with probes := n.probes.set k p }
    if !((mode = 2 || mode = 1 && i == 0) && !p.stopped) then put p
    else if cap = .missed ∨ p.last = some sc then put { p with miss := satInc p.miss, missed := true }
    else if cap = .dropped ∨ 8 ≤ p.fifo.length then put { p with drop := satInc p.drop, last := some sc }
    else
      let v := traceRecord sc (header q (len - 1 - i) seq) k out p.missed (i == 0) port (q.flits.getD i 0)
      (put { p with missed := false, last := some sc, fifo := p.fifo ++ [v] }).drain k 8
  else n

/-- Both probes of a router see a flit at a port. Flit `i` of a worm passes `i` sc after its head (DESIGN CHOICE, log 144). -/
def State.probes (s : State) (r : BitVec 4) (out : Bool) (port : Nat) (q : Packet) (i : Nat) (seq seq0 : BitVec 5) (cap : Capture) : State :=
  s.updSpine fun n => (n.probe (s.scnt + i) (2 * r.toNat) out port q i seq seq0 cap).probe (s.scnt + i) (2 * r.toNat + 1) out port q i seq seq0 cap

/-! ## Turn-back and lost worms (11 R320, R330, R331) -/

/-- The token a VC0 packet stands for. -/
def Packet.asToken (p : Packet) : Token := if p.type = 2 then eventToken (bits p.head 0 64) else packetToken p

/-- A BROKE packet from router `r`: its first flit, and what the second says of the endpoint, the cause and the tick (11 R331). -/
def brokePacket (r e : BitVec 4) (first : BitVec 128) (tick : Option DWord) (cause : Byte) (event : Bool) : Packet :=
  { dr := 4, de := 6, vc := 2, type := 11, epoch := false, sr := r, se := 8, pri := false, event := event,
    flits := [first, tick.getD 0 ++ (0 : BitVec 47) ++ (bit tick.isSome : BitVec 1) ++ e ++ r ++ cause] }

/-- A packet leaves the control endpoint of router `r`. -/
def State.fromControl (s : State) (r : BitVec 4) (p : Packet) : State := s.pushBuf r 12 p

/-- A request is answered with a status from router `r`, without effect at its target. -/
def State.refuseRequest (s : State) (r : BitVec 4) (p : Packet) (status : Byte) : State :=
  let ty : BitVec 4 := if p.type = 3 then 7 else if p.type = 4 then 8 else 9
  (s.performed p).fromControl r
    { dr := p.sr, de := p.se, vc := 2, type := ty, epoch := false, sr := r, se := 8, pri := false,
      flits := [responseHead (reqTxn p.head) status 0] }

/-- The poison value of a lost worm names its destination cluster; for another destination its cluster is open (11 R320, log 130). -/
def State.wormPoison (s : State) (p : Packet) : DWord :=
  poisonValue ECC_UNCORRECTED (if p.de.toNat < 4 then p.dr ++ BitVec.setWidth 2 p.de else bits (Config.freeValue s.free) 0 6)

/-- What becomes of a worm with an uncorrectable flit at router `r`, by its worm register (11 R320): the header, and CTX or TXN, of
the packet, which the model holds once. The rebuilt tag is the packet's own with KIND 6 (DESIGN CHOICE, log 171). -/
def State.lostWorm (s : State) (r : BitVec 4) (p : Packet) : State :=
  let s := (s.updRouter r fun t => { t with ue := satInc t.ue }).mgmtRecord recWorm ECC_UNCORRECTED (BitVec.setWidth 64 r)
  match p.vc.toNat with
  | 0 =>
    let t := p.asToken
    let q := brokePacket p.dr p.de (s.wormPoison p ++ putBits t.tag 10 (6 : BitVec 3)) t.tick ECC_UNCORRECTED false
    s.takeFree.fromControl r { q with sr := r }
  | 1 => s.refuseRequest r p ECC_UNCORRECTED
  | 2 =>
    if p.type = 11 then s.fromControl r { p with sr := r, se := 8 }
    else s.fromControl r { p with flits := [responseHead (rspTxn p.head) ECC_UNCORRECTED 0] }
  | _ => s

/-- A packet for a cluster endpoint that is not OPEN, or for none (11 R326, R330). -/
def State.turnBack (s : State) (r : BitVec 4) (p : Packet) (off : Bool) : State :=
  let count (s : State) : State := s.updRouter r fun t => { t with turnback := satInc t.turnback }
  match p.vc.toNat with
  | 0 => (count s).fromControl r (brokePacket r p.de p.head p.asToken.tick UNDELIVERABLE (p.type == 2))
  | 1 => (count s).refuseRequest r p (if off then TARGET_OFF else TARGET_FENCED)
  | 2 => s.updRouter r fun t => { t with disc := satInc t.disc }
  | _ =>
    s.fromControl r { dr := p.sr, de := p.se, vc := 3, type := 13, epoch := false, sr := r, se := 8, pri := false,
                      flits := [responseHead 0 TARGET_OFF 0] }

/-! ## Delivery (11 R324, R330) -/

/-- The broke intake of the host hub takes a BROKE packet (11 R331). -/
def State.brokeArrives (s : State) (p : Packet) : State :=
  let tok : Token :=
    if p.event then eventToken (bits p.head 0 64)
    else
      { tag := bits p.head 0 64, value := bits p.head 64 64,
        tick := if p.flit1.getLsbD 16 then some (bits p.flit1 64 64) else none }
  (s.lostCredit tok.tag).toBroke tok (bits p.flit1 0 8) (tagCtx tok.tag) true

/-- A packet has come to endpoint `de` of router `r`. -/
def State.arrive (s : State) (r : BitVec 4) (p : Packet) : State :=
  let e := p.de
  if p.vc = 2 ∧ p.type = 11 ∧ 4 ≤ e.toNat then s.brokeArrives p
  else if e = 6 ∧ (r = 4 ∨ r = 7) ∧ p.vc = 0 then s.updHub fun h => { h with reelIn := h.reelIn ++ [p] }
  else if e = 6 ∧ r = 11 ∧ p.vc = 0 then s.updEth fun x => { x with inq := x.inq ++ [p] }
  else if e = 8 then s
  else (if e.toNat < 4 then s.wakeSect r else s).setInq r e p.vc (s.inq r e p.vc ++ [p])

/-- Flits that stand in the inbound couch of endpoint `e` of router `r`, beside those of a worm that is coming in (11 R324, 10 R295). -/
def State.couchHolds (s : State) (r e : BitVec 4) (vc : BitVec 2) : Nat :=
  if e = 6 ∧ (r = 4 ∨ r = 7) ∧ vc = 0 then flitsOf (s.hub.reelIn.filter fun p => p.dr == r)
  else if e = 6 ∧ r = 11 ∧ vc = 0 then flitsOf s.eth.inq
  else
    let l := s.inq r e vc
    if e.toNat < 4 ∧ vc = 1 then flitsOf (l.drop (leftCouch (fun _ => 0) l)) else flitsOf l

/-- Has the couch of a local endpoint a place for one more flit of a packet, `sent` of whose flits it holds? Tokens to a cluster take
its credits; a BROKE packet is never refused (11 R331), and the control endpoint takes all. -/
def State.couchRoom (s : State) (r : BitVec 4) (p : Packet) (sent : Nat) : Bool :=
  if p.de = 8 ∨ p.vc = 2 ∧ p.type = 11 then true
  else if p.de.toNat < 4 ∧ p.vc = 0 then decide (1 ≤ (s.cluster (r ++ BitVec.setWidth 2 p.de)).couchIn.avail)
  else decide (s.couchHolds r p.de p.vc + sent < 16)

/-! ## Worms (11 R319-R323, R326) -/

/-- Places of a router input per virtual channel (11 R321). -/
def vcPlaces (vc : BitVec 2) : Nat := if vc = 3 then 4 else 8

/-- Flits of the packet at the head of a buffer that stand in it. -/
def Spine.here (n : Spine) (k : Nat) : Nat :=
  match n.bufs.getD k [] with
  | [] => 0
  | [p] => p.flits.length - n.short.getD k 0 - n.sent.getD k 0
  | p :: _ => p.flits.length - n.sent.getD k 0

/-- The link of router `r` in direction `d`. -/
def Router.link (t : Router) (d : Nat) : Link := t.links.getD d {}
/-- Change a link. -/
def State.updLink (s : State) (r : BitVec 4) (d : Nat) (f : Link → Link) : State :=
  s.updRouter r fun t => { t with links := t.links.upd d {} f }

/-- The packet at the head of an input, stamped with CUR where it enters the spine (11 R327). -/
def State.headAt (s : State) (r : BitVec 4) (port : Nat) (vc : BitVec 2) : Option Packet :=
  (s.buf r port vc).head?.map fun p =>
    if 4 ≤ port ∧ s.spine.sent.getD (bufKey r port vc) 0 = 0 then { p with epoch := s.spine.cur } else p

/-- Is a packet for a local endpoint of router `r` turned back: its cluster's state is not OPEN, and it is not one that is delivered
all the same (11 R330)? -/
def State.closed (s : State) (r : BitVec 4) (p : Packet) : Option Bool :=
  let st := (s.router r).ep.getD p.de.toNat 2
  if 4 ≤ p.de.toNat ∨ st = 0 ∨ (st = 1 ∧ 2 ≤ p.vc.toNat) then none else some (st == 2)

/-- Where a router sends a head: a reserved type is an uncorrected error (11 R317), and a head for a link that has been routed around
is lost with it (16 R443). -/
def State.headRoute (s : State) (r : BitVec 4) (p : Packet) : WormOut :=
  if 14 ≤ p.type.toNat then .lost
  else
    match (s.router r).route r p with
    | .dir d => if ((s.router r).link d).dead then .lost else .out d
    | .local_ => match s.closed r p with | some off => .turn off | none => .out (4 + p.de.toNat)
    | .unroutable => .turn true

/-- Where the worm at the head of an input goes. -/
def State.want (s : State) (r : BitVec 4) (port : Nat) (vc : BitVec 2) : Option WormOut :=
  match s.spine.route.find (bufKey r port vc) with
  | some o => some o
  | none => (s.headAt r port vc).map (s.headRoute r)

/-- The first of a list counted upward, cyclically in `n`, from the one after `last` (11 R323). -/
def nextAfter (n last : Nat) (l : List Nat) : Option Nat :=
  ((List.range n).map fun i => (last + 1 + i) % n).find? l.contains

/-- The input port that holds a virtual channel of an output, or that is granted it: the next in order whose head asks for it, on VC3
an urgent one first (11 R322, R323). -/
def State.grantee (s : State) (r : BitVec 4) (o : Nat) (vc : BitVec 2) : Option Nat :=
  let ports := List.range 13
  match ports.find? fun i => s.spine.route.find (bufKey r i vc) == some (.out o) with
  | some i => some i
  | none =>
    let asks := ports.filter fun i => (s.spine.route.find (bufKey r i vc)).isNone && s.want r i vc == some (.out o)
    let urgent := asks.filter fun i => match s.headAt r i vc with | some p => p.pri | none => false
    nextAfter 13 ((s.router r).grantLast.getD (4 * o + vc.toNat) 12) (if vc = 3 ∧ urgent ≠ [] then urgent else asks)

/-- Has the next buffer or couch a place for a flit of the worm at input `port`? -/
def State.credit (s : State) (r : BitVec 4) (port o : Nat) (vc : BitVec 2) : Bool :=
  if o < 4 then
    match neighbour r.toNat o with
    | none => false
    | some q => !((s.router r).link o).failed &&
        decide (s.spine.held (bufKey (BitVec.ofNat 4 q) (arrivesAt o) vc) < vcPlaces vc)
  else match s.headAt r port vc with
    | some p => s.couchRoom r p (s.spine.sent.getD (bufKey r port vc) 0)
    | none => false

/-- The input whose flit would leave next by virtual channel `vc` of output `o`. -/
def State.mover (s : State) (r : BitVec 4) (o : Nat) (vc : BitVec 2) : Option Nat :=
  (s.grantee r o vc).filter fun i => decide (0 < s.spine.here (bufKey r i vc)) && s.credit r i o vc

/-- The virtual channel that output `o` serves next (11 R323): the first, after the one served last, with a flit and a credit. -/
def State.nextVc (s : State) (r : BitVec 4) (o : Nat) : Option Nat :=
  nextAfter 4 ((s.router r).vcLast.getD o 3) ((List.range 4).filter fun v => (s.mover r o (BitVec.ofNat 2 v)).isSome)

/-- May a flit of the worm at input `port` go its way `o` now? -/
def State.goes (s : State) (r : BitVec 4) (port : Nat) (vc : BitVec 2) (o : WormOut) : Bool :=
  match o with
  | .out k => s.mover r k vc == some port && s.nextVc r k == some vc.toNat
  | _ => decide (0 < s.spine.here (bufKey r port vc))

/-- A place of a router input is free, and its credit owed to the unit behind a local port (01 R28, 11 R324). -/
def State.freePlace (s : State) (r : BitVec 4) (port : Nat) (vc : BitVec 2) : State :=
  if vc ≠ 0 then s
  else if 4 ≤ port ∧ port < 8 then
    s.updCluster (r ++ BitVec.ofNat 2 (port - 4)) fun cl => { cl with couchOut := { cl.couchOut with owed := cl.couchOut.owed + 1 } }
  else if port = 10 ∧ r = 4 then s.updHub fun h => { h with linkA := { h.linkA with owed := h.linkA.owed + 1 } }
  else if port = 10 ∧ r = 7 then s.updHub fun h => { h with linkB := { h.linkB with owed := h.linkB.owed + 1 } }
  else if port = 10 ∧ r = 11 then s.updEth fun e => { e with credits := { e.credits with owed := e.credits.owed + 1 } }
  else s

/-- The router accepts a head (11 R320, R322, R326): its way is kept until its tail has left. -/
def State.acceptHead (s : State) (r : BitVec 4) (port : Nat) (vc : BitVec 2) (p : Packet) (o : WormOut) : State :=
  let key := bufKey r port vc
  let s := s.updSpine fun n => { n with route := n.route.set key o, bufs := n.bufs.upd key [] fun l => p :: l.tail }
  s.updRouter r fun t =>
    { t with unroute := if t.route r p = .unroutable then satInc t.unroute else t.unroute
             grantLast := match o with | .out k => t.grantLast.set (4 * k + vc.toNat) port | _ => t.grantLast }

/-- The parity of a word's bits. -/
def parity {w : Nat} (v : BitVec w) : Bool := (List.range w).foldl (fun b i => b ^^ v.getLsbD i) false

/-- Flit `i` of packet `p` as it crosses a link with `seq`: header, payload and check field (11 R316, R319). The two codes are not
given: free functions (log 142). -/
def flitOf (p : Packet) (i : Nat) (seq : BitVec 5) : BitVec 176 :=
  let h := header p (p.flits.length - 1 - i) seq
  let v := p.flits.getD i 0
  let code := Config.headerCode h
  Config.payloadCode v ++ code ++ (bit (parity (code ++ h)) : BitVec 1) ++ v ++ h

/-- The last 16 flits. -/
def last16 (l : List (BitVec 176)) : List (BitVec 176) := l.drop (l.length - 16)

/-- A number of a sparse map that is absent when it is 0. -/
def putNat (m : Map Nat) (k v : Nat) : Map Nat := if v = 0 then m.erase k else m.set k v

/-- Flit `i` of packet `p` crosses the link in direction `d`: the next SEQ, and a place of the neighbour's buffer. -/
def State.crossFlit (s : State) (r : BitVec 4) (d : Nat) (p : Packet) (i : Nat) (cap : Capture) : State :=
  match neighbour r.toNat d with
  | none => s
  | some q =>
    let key := bufKey (BitVec.ofNat 4 q) (arrivesAt d) p.vc
    let seq := ((s.router r).link d).seq
    let seq0 := if i = 0 then seq else s.spine.headSeq.getD key 0
    let s := (s.probes r true d p i seq seq0 cap).probes (BitVec.ofNat 4 q) false (arrivesAt d) p i seq seq0 cap
    let s := s.updLink r d fun k =>
      { k with seq := k.seq + 1, expect := seq + 1, fails := 0, replayBuf := last16 (k.replayBuf ++ [flitOf p i seq]) }
    s.updSpine fun n =>
      { n with
        bufs := if i = 0 then n.bufs.upd key [] (· ++ [p]) else n.bufs
        headSeq := n.headSeq.set key seq0
        short := putNat n.short key (p.flits.length - 1 - i) }

/-- Flit `i` of packet `p` goes its way `o`. -/
def State.outFlit (s : State) (r : BitVec 4) (p : Packet) (i : Nat) (o : WormOut) (cap : Capture) : State :=
  match o with
  | .out k =>
    let s := s.updRouter r fun t => { t with vcLast := t.vcLast.set k p.vc.toNat }
    if k < 4 then s.crossFlit r k p i cap
    else
      let s := s.probes r true k p i 0 0 cap
      if p.vc = 0 ∧ p.de.toNat < 4 then
        s.updCluster (r ++ BitVec.setWidth 2 p.de) fun cl => { cl with couchIn := { cl.couchIn with avail := cl.couchIn.avail - 1 } }
      else s
  | _ => s

/-- The tail of a worm has left: it has come to its endpoint, or is turned back. -/
def State.tailGone (s : State) (r : BitVec 4) (p : Packet) (o : WormOut) : State :=
  match o with
  | .out k => if k < 4 then s else s.arrive r p
  | .turn off => s.turnBack r p off
  | .lost => s

/-- The next flit of the worm at an input leaves it; true where it was the tail. -/
def State.stepFlit (s : State) (r : BitVec 4) (port : Nat) (vc : BitVec 2) (o : WormOut) (cap : Capture) : State × Bool :=
  let key := bufKey r port vc
  match s.headAt r port vc with
  | none => (s, true)
  | some p =>
    let i := s.spine.sent.getD key 0
    let s := if i = 0 then s.acceptHead r port vc p o else s
    let s := if 4 ≤ port then s.probes r false port p i 0 0 cap else s
    let s := (s.outFlit r p i o cap).freePlace r port vc
    if i + 1 < p.flits.length then (s.updSpine fun n => { n with sent := n.sent.set key (i + 1) }, false)
    else
      ((s.updSpine fun n =>
        let n := { n with bufs := n.bufs.upd key [] List.tail, sent := n.sent.erase key, route := n.route.erase key }
        n.fill r port vc (n.waits.getD key [])).tailGone r p o, true)

/-- Flits of the worm at an input leave while the router serves them, up to its tail. -/
def State.moveWorm (r : BitVec 4) (port : Nat) (vc : BitVec 2) (o : WormOut) (cap : Capture) : Nat → State → State
  | 0, s => s
  | k + 1, s =>
    if s.goes r port vc o then
      let (t, done) := s.stepFlit r port vc o cap
      if done then t else moveWorm r port vc o cap k t
    else s

/-- The part of a worm that has gone on from router `r` by its way `o` is discarded with the rest (log 130). -/
def State.dropAhead : Nat → BitVec 4 → BitVec 2 → WormOut → Nat → State → State
  | 0, _, _, _, _, s => s
  | k + 1, r, vc, o, n, s =>
    match o with
    | .out d =>
      if d < 4 then
        match neighbour r.toNat d with
        | none => s
        | some q =>
          let key := bufKey (BitVec.ofNat 4 q) (arrivesAt d) vc
          let l := s.spine.bufs.getD key []
          let way := if l.length = 1 then (s.spine.route.find key).map fun w => (w, s.spine.sent.getD key 0) else none
          let s := s.updSpine fun n =>
            { n with
              bufs := n.bufs.set key l.dropLast
              short := n.short.erase key
              sent := if l.length = 1 then n.sent.erase key else n.sent
              route := if l.length = 1 then n.route.erase key else n.route }
          match way with
          | some (w, m) => dropAhead k (BitVec.ofNat 4 q) vc w m s
          | none => s
      else if vc = 0 ∧ d < 8 then
        s.updCluster (r ++ BitVec.ofNat 2 (d - 4)) fun cl => { cl with couchIn := { cl.couchIn with avail := cl.couchIn.avail + n } }
      else s
    | _ => s

/-- The worm at the head of an input is lost (11 R320): what has gone on of it is discarded, and the rest as it comes. -/
def State.loseWorm (s : State) (r : BitVec 4) (port : Nat) (vc : BitVec 2) (cap : Capture) : State :=
  match s.headAt r port vc, s.want r port vc with
  | some p, some o =>
    let key := bufKey r port vc
    let n := s.spine.sent.getD key 0
    let s := (if n = 0 then s else State.dropAhead 16 r vc o n s).lostWorm r p
    let s := s.updSpine fun m => { m with route := m.route.set key .lost }
    State.moveWorm r port vc .lost cap 8 s
  | _, _ => s

/-- A failed replay of the link in direction `d`: after 4 the link fails (11 R319). -/
def State.replay (s : State) (r : BitVec 4) (d : Nat) : State :=
  let s := s.updRouter r fun t => { t with replay := satInc t.replay }
  let l := (s.router r).link d
  if l.failed then s
  else if l.fails + 1 < 4 then s.updLink r d fun k => { k with fails := k.fails + 1 }
  else
    (s.updLink r d fun k => { k with fails := 4, failed := true, failedSince := s.scnt, lastRetry := s.scnt }).mgmtRecord recLinkFail 0
      (BitVec.ofNat 64 (8 * r.toNat + d))

/-- What waits for the spine is tried again: an endpoint state of router `r`, and writes that wait for STALE = 0. -/
def State.settleSpine (s : State) (r : BitVec 4) : State :=
  let s := (s.retryEp r).updSpine fun n => (n.drain (2 * r.toNat) 8).drain (2 * r.toNat + 1) 8
  State.runWrites s.spine.regWait.length s

/-- The router at the receiving end of the link by which a worm goes on, which corrects and counts (11 R319); of a flit that crosses
none, the router that reads it. -/
def receiver (r : BitVec 4) : WormOut → BitVec 4
  | .out d => if d < 4 then match neighbour r.toNat d with | some q => BitVec.ofNat 4 q | none => r else r
  | _ => r

/-- The worm at an input moves as the router serves it; `err` says what the check of a flit finds. -/
def State.hop (s : State) (r : BitVec 4) (port : Nat) (vc : BitVec 2) (err : HopErr) (cap : Capture) : State :=
  match s.want r port vc with
  | none => s
  | some o =>
    if s.spine.here (bufKey r port vc) = 0 then s
    else
      let s := if err = .corrected then s.updRouter (receiver r o) fun t => { t with ce := satInc t.ce } else s
      let fresh := (s.spine.route.find (bufKey r port vc)).isNone
      if o ≠ .lost ∧ err = .stored ∨ o = .lost ∧ fresh then s.loseWorm r port vc cap
      else
        match o, err with
        | .out d, .link => if d < 4 ∧ s.goes r port vc o then s.replay r d else s
        | _, _ => State.moveWorm r port vc o cap 8 s

/-- A router accepts the head at an input, and moves its worm on while its arbiters serve it (11 R322, R323, R326). -/
def execSpinePacketHop (r : BitVec 4) (port : BitVec 4) (vc : BitVec 2) (err : HopErr) (s : State)
    (cap : Capture := .kept) : Out :=
  if ¬ (port.toNat ≤ 12 ∧ (4 ≤ port.toNat ∨ meshPort r (port.setWidth 2))) then .fault .noSuchObject
  else if ¬ s.clockRuns .spine then .next s
  else .next ((s.hop r port.toNat vc err cap).settleSpine r)

/-- A negative acknowledgement: the sender replays, and after 4 failed replays the link fails (11 R319). -/
def execNegativeAcknowledgement (r : BitVec 4) (dir : BitVec 2) (s : State) : Out :=
  if ¬ meshPort r dir then .fault .noSuchObject else .next (if s.clockRuns .spine then s.replay r dir.toNat else s)

/-- A failed link retries, once per µs (11 R319). -/
def execLinkRetry (r : BitVec 4) (dir : BitVec 2) (ok : Bool) (s : State) : Out :=
  if ¬ meshPort r dir then .fault .noSuchObject
  else if ((s.router r).link dir.toNat).failed && s.clockRuns .spine then
    let s := s.passTo (((s.router r).link dir.toNat).lastRetry + scUs 1)
    let s := s.updRouter r fun t => { t with replay := satInc t.replay }
    .next (s.updLink r dir.toNat fun k =>
      { k with lastRetry := s.scnt, failed := if ok then false else k.failed, fails := if ok then 0 else k.fails })
  else .next s

/-- The worms at the head of an input that wait on a link, one after another, are lost. -/
def State.loseWaiting (r : BitVec 4) (port d : Nat) (vc : BitVec 2) : Nat → State → State
  | 0, s => s
  | k + 1, s =>
    if s.want r port vc = some (.out d) ∧ 0 < s.spine.here (bufKey r port vc) then loseWaiting r port d vc k (s.loseWorm r port vc .kept)
    else s

/-- Every worm that waits on a failed link ends (16 R443). -/
def State.dropWaiting (s : State) (r : BitVec 4) (d : Nat) : State :=
  ((List.range 13).flatMap fun port => (List.range 4).map fun v => (port, BitVec.ofNat 2 v)).foldl
    (fun s (k : Nat × BitVec 2) => State.loseWaiting r k.1 d k.2 (s.buf r k.1 k.2).length s) s

/-! ## Tables that avoid failed links (16 R443) -/

/-- Moves to `d` by E, S and N alone, for each router, after `n` rounds; 99 means none. -/
def ensDist (dead : Nat → Nat → Bool) (d : Nat) : Nat → List Nat
  | 0 => (List.range 16).map fun r => if r = d then 0 else 99
  | n + 1 =>
    let l := ensDist dead d n
    (List.range 16).map fun r =>
      [1, 2, 0].foldl (fun best k =>
        match neighbour r k with
        | some q => if dead r k then best else min best (l.getD q 99 + 1)
        | none => best) (l.getD r 99)

/-- The port code from `r` toward `d`: an E, S or N move that comes nearer, else W, else 5 where there is none. -/
def avoidPort (dead : Nat → Nat → Bool) (d r : Nat) (l : List Nat) : Nat :=
  if r = d then 0
  else if l.getD r 99 < 99 then
    (([1, 2, 0].find? fun k => match neighbour r k with
      | some q => !dead r k && l.getD q 99 + 1 == l.getD r 99
      | none => false).getD 4) + 1
  else if (neighbour r 3).isSome && !dead r 3 then 4 else 5

/-- The bank of router `r` that avoids the dead links (log 28). -/
def avoidBank (dead : Nat → Nat → Bool) (r : Nat) : DWord :=
  (List.range 16).foldl (fun acc d => acc ||| (BitVec.ofNat 64 (avoidPort dead d r (ensDist dead d 16)) <<< (4 * d))) 0

end Sys2Proof.Machine
end

