-- ==== Sys2Proof/Machine/Keeper.lean ====
section
/-! DEFINITION. The keeper: its table and the safe outputs, entry into keeper mode, its mailbox, heartbeat and lockstep, and
the causes of keeper mode that are timeouts (16 R438, R443, R453-R458). -/

namespace Sys2Proof.Machine

/-! ## The keeper table (16 R455) -/

/-- OUT[i] of a keeper table. -/
def kprOut (t : BitVec 2688) (i : Nat) : DWord := fld t (0x20 + 8 * i) 8
/-- WDOGP in µs. -/
def Keeper.wdogp (k : Keeper) : Nat := match k.table with | some t => fldN t 0x08 4 | none => 500
/-- HBP in ms. -/
def Keeper.hbp (k : Keeper) : Nat := match k.table with | some t => fldN t 0x0C 4 | none => 0

/-- The first byte offset of a table that breaks its range. -/
def kprBad (t : BitVec 2688) : Option Nat :=
  firstBad ([(fldN t 0 4 == 0x5452504B, 0x00), (fldN t 4 2 == 1, 0x04), (fldN t 6 2 == 336, 0x06),
      (decide (100 ≤ fldN t 8 4) && decide (fldN t 8 4 ≤ 100000), 0x08), (decide (fldN t 12 4 ≤ 10000), 0x0C),
      (fldN t 0x10 16 == 0, 0x10)] ++
    (List.range 32).map fun i =>
      let e := kprOut t i
      (decide ((bits e 0 3).toNat ≤ 5) && bits e 3 5 == (0 : BitVec 5) && decide ((bits e 18 2).toNat ≤ 2) &&
        bits e 20 12 == (0 : BitVec 12) && bits e 48 16 == (0 : BitVec 16), 0x20 + 8 * i))

/-- Drive of one output: whether it is driven, and at which level. -/
def driveBit (e : DWord) (inputs : BitVec 16) (mode held heldDriven : Bool) : Bool × Bool :=
  if ¬ mode then ((bits e 18 2).toNat != 0, (bits e 18 2).toNat == 2)
  else
    let a := inputs.getLsbD (bits e 8 4).toNat != e.getLsbD 16
    let b := inputs.getLsbD (bits e 12 4).toNat != e.getLsbD 17
    match (bits e 0 3).toNat with
    | 0 => (true, false)
    | 1 => (true, true)
    | 3 => (heldDriven, held)
    | 4 => (true, a)
    | 5 => (true, a && b)
    | _ => (false, false)

/-- Does MODE govern output `i`: keeper mode, and DELAY over? -/
def Keeper.moded (k : Keeper) (i : Nat) (e : DWord) : Bool := k.keeper && (bits e 32 16 == (0 : BitVec 16) || k.delayed.getLsbD i)

/-- The word whose bit `i` is `f i`. -/
def wordOf (f : Nat → Bool) : Word := (List.range 32).foldl (fun (w : Word) i => if f i then w ||| (1 <<< i) else w) 0

/-- The safe outputs as the table gives them, none of them driven during a restart of the keeper or with VDD_SAFE lost (18 R489); an
output that is not driven rests at its board pull and reads 0 (log 47). -/
def Keeper.drive (k : Keeper) : Keeper :=
  match (if k.restartAt.isSome || k.safeLost then none else k.table) with
  | none => { k with driven := 0, level := 0 }
  | some t =>
    let d (i : Nat) : Bool × Bool := driveBit (kprOut t i) k.safeIn (k.moded i (kprOut t i)) (k.entryLevel.getLsbD i) (k.entryDriven.getLsbD i)
    { k with driven := wordOf fun i => (d i).1, level := wordOf fun i => (d i).1 && (d i).2 }

/-- The outputs are driven anew, but for a warm reset, during which they keep their drive (15 R432). -/
def State.drive (s : State) : State := if s.clk.warmLow then s else s.updKeeper Keeper.drive

/-- A restart of the keeper is over 5 ms after it began: the keeper goes on in the mode the device was in (16 R458). Whatever the keeper
does next comes after it (log 160). -/
def State.keeperBack (s : State) : State :=
  match s.keeper.restartAt with
  | none => s
  | some t => (s.passTo (t + scMs 5)).updKeeper fun k => ({ k with restartAt := none } : Keeper).drive

/-- KEEPER_TABLE_SET. -/
def execKeeperTableSet (f : FuncId) (dma : DmaIn) (s : State) : Out :=
  .next (s.perform f 0x0A01 true (s.dmaIn f dma fun b =>
    if b.length ≠ 336 then .bad BAD_ARG 0x18
    else
      let t : BitVec 2688 := BitVec.ofNat 2688 (leNat b)
      match kprBad t with
      | some o => .fail BAD_ARG 0xFFFF 0 o none
      | none => .done (s.keeperBack.updKeeper fun k => { k with table := some t }).drive))

/-! ## Entering keeper mode (16 R453) -/

/-- The steward complex is held: its threads are gone and its locks abandoned (15 R430). -/
def State.holdStewards (s : State) (asked : Bool := false) : State :=
  ((({ s with threads := s.threads.keep fun k _ => !isSteward (BitVec.ofNat 13 k) } : State).abandon fun h => h.kind == 3).updFw
    fun w => { w with sramBad := [] }).holdDomain 2 asked

/-- Every section is held in reset, and with the sections the contexts, their tokens and their reservations are lost. -/
def State.loseContexts (s : State) : State :=
  let s := allSections.foldl (fun s n => s.resetSection n) s
  let s := s.abandon fun h => h.kind.toNat < 2
  let token (k : Nat) : Bool := k % 4 == 0
  let s := s.updSpine fun n =>
    { n with bufs := n.bufs.keep (fun k _ => !token k), inq := n.inq.keep (fun k _ => !token k), route := n.route.keep fun k _ => !token k,
             sent := n.sent.keep fun k _ => !token k, short := n.short.keep fun k _ => !token k, headSeq := n.headSeq.keep fun k _ => !token k }
  let s := s.updHub fun h =>
    { h with spledger := [], flows := [], reelIn := [],
             rings := h.rings.mapV fun _ g => { g with asm := none, waiting := none, held := false, items := g.items.filter fun i => i.ctx.isNone } }
  let s := s.updEth fun e => { e with inq := [] }
  let clk := s.clk.sections.mapV fun _ x => { x with pstate := if x.pstate = 3 then 2 else x.pstate }
  { s with ctxs := [], aux := [], clk := { s.clk with sections := clk } }

/-- Waiting commands are answered as in keeper mode (13 R372, R374). -/
def State.refuseCommands (s : State) : State := s.hub.order.foldl (fun s f => s.answer f KEEPER_MODE 0 []) s

/-- Keeper mode is entered with a cause. -/
def State.keeperEnter (s : State) (cause : Byte) : State :=
  if s.keeper.keeper ∨ ¬ s.keeper.running ∨ s.clk.dead then s
  else
    let s := (s.keeperBack.updFw fun w => { w with ready := false, held := true, paused := 0, activating := none }).holdStewards
    let s := s.loseContexts
    let s := s.updKeeper fun k =>
      { k with keeper := true, cause := cause, keeperAct := true, faultN := true, entryLevel := k.level, entryDriven := k.driven,
               entryTb := s.tb.now, entrySc := s.scnt, delayed := 0, hbSeq := 0, warmed := false, adminPort := funcPort s.hub.admin }
    let s := (List.range 4).foldl (fun s p =>
      if (s.port (BitVec.ofNat 2 p)).present then s.raise (pfOf (BitVec.ofNat 2 p)) 0 else s) s
    s.refuseCommands.drive

/-- A cause of keeper mode has come about. -/
def execKeeperModeEntry (cause : Byte) (s : State) : Out :=
  .next (if 1 ≤ cause.toNat ∧ cause.toNat ≤ 6 then s.keeperEnter cause else s)

/-- KEEPER_ENTER: OK is answered first. -/
def execKeeperEnter (f : FuncId) (s : State) : Out :=
  let ok : Bool := s.arg f 0x10 4 == 0x4B454550
  let t := s.perform f 0x0A02 true (if ok then .done s else .bad BAD_ARG 0x10)
  .next (if (s.mbox f).pend && s.arg f 0 2 == 0x0A02 && !(t.mbox f).pend && (t.mbox f).status == OK then t.keeperEnter 5 else t)

/-! ## What the keeper does (16 R454-R458) -/

/-- Every 10 µs: a changed level is accepted after 3 equal samples. -/
def execSafeInputSample (v : BitVec 16) (s : State) : Out :=
  if ¬ s.keeper.keeper ∨ ¬ s.keeper.running then .next s
  else
    let s := s.keeperBack.every 164 (scUs 10)
    let two := s.keeper.samples
    let same := match two with
      | [a, b] => ~~~((v ^^^ a) ||| (v ^^^ b))
      | _ => 0
    let k := s.keeper
    .next ((s.updKeeper fun _ => { k with samples := v :: two.take 1, safeIn := (k.safeIn &&& ~~~same) ||| (v &&& same) }).drive)

/-- DELAY of an output is over. -/
def execSafeOutputDelay (i : BitVec 5) (s : State) : Out :=
  let s := s.keeperBack
  match s.keeper.table with
  | none => .next s
  | some t =>
    let d := (bits (kprOut t i.toNat) 32 16).toNat
    if ¬ s.keeper.keeper ∨ d = 0 ∨ s.keeper.delayed.getLsbD i.toNat then .next s
    else .next (((s.passTo (s.keeper.entrySc + scMs d)).updKeeper fun k => { k with delayed := k.delayed ||| (1 <<< i.toNat) }).drive)

/-- WDOG_OUT_N toggles with half-period WDOGP, in every mode. -/
def execWdogToggle (s : State) : Out :=
  if ¬ s.keeper.running then .next s
  else
    let s := s.keeperBack
    .next ((s.every 163 (scUs s.keeper.wdogp)).updKeeper fun k => { k with wdogOut := !k.wdogOut })

/-- The heartbeat frame, without its FCS. -/
def Keeper.heartbeat (k : Keeper) (t : BitVec 2688) : List Byte :=
  leBytes 48 (fldN t 0x120 48) ++ beBytes 2 k.cause.toNat ++ beBytes 4 k.hbSeq.toNat ++ beBytes 2 k.safeIn.toNat ++ beBytes 4 k.level.toNat

/-- Every HBP ms the keeper sends the heartbeat frame on ETH_0 in keeper mode, while HOST and ETH run and have their rails. -/
def execKeeperHeartbeat (s : State) : Out :=
  let s := s.keeperBack
  match s.keeper.table with
  | none => .next s
  | some t =>
    if s.keeper.keeper && s.keeper.running && s.keeper.hbp != 0 && (s.ethPort 0).link && s.hostUp && s.hostRails && s.domUp 4 then
      let s := s.every 165 (scMs s.keeper.hbp)
      .next (((s.emit (.frame 0 (s.keeper.heartbeat t))).updEthPort 0 fun p => { p with tx := satInc p.tx }).updKeeper
        fun k => { k with hbSeq := k.hbSeq + 1 })
    else .next s

/-- The lockstep pair miscompares: the outputs are released and WDOG_OUT_N stands still while the keeper restarts from ROM. Its table
is kept where its check passes. -/
def execLockstepMiscompare (tableOk : Bool) (s : State) : Out :=
  if ¬ s.keeper.running then .next s
  else
    .next (s.updKeeper fun k =>
      { k with faultN := true, table := if tableOk then k.table else none, driven := 0, level := 0, samples := [], sramBad := [],
               restartAt := some s.scnt })

/-! ## The keeper mailbox (16 R457) -/

/-- OP of a write to KPR_CMD. -/
def kprOp (w : DWord) : Nat := (bits w 0 16).toNat

/-- The keeper answers a write to KPR_CMD of port `p`. -/
def State.kprAnswer (s : State) (p : BitVec 2) (w : DWord) (status : BitVec 16) : State :=
  s.updKeeper fun k => { k with rsp := k.rsp.set p.toNat (status, bits w 16 16, true) }

/-- Is the keeper mailbox of port `p` served? -/
def State.kprServed (s : State) (p : BitVec 2) : Bool := s.barsAnswer (pfOf p) && s.keeper.running && s.hostUp && !s.clk.warmLow

/-- An 8-byte write to KPR_CMD whose OP is STATUS, or one the keeper does not know. -/
def execKeeperStatus (p : BitVec 2) (w : DWord) (s : State) : Out :=
  .next (if ¬ s.kprServed p ∨ kprOp w = 2 then s else s.keeperBack.kprAnswer p w (if kprOp w = 1 then OK else BAD_ARG))

/-- An 8-byte write to KPR_CMD whose OP is WARM_RESET. -/
def execKeeperWarmReset (p : BitVec 2) (w : DWord) (s : State) : Out :=
  let q := if s.keeper.keeper then s.keeper.adminPort else funcPort s.hub.admin
  if ¬ s.kprServed p ∨ kprOp w ≠ 2 then .next s
  else if p ≠ q then .next (s.keeperBack.kprAnswer p w DENIED)
  else if bits w 32 32 ≠ (0x5741524D : Word) then .next (s.keeperBack.kprAnswer p w BAD_ARG)
  else
    let s := s.keeperBack
    .next (((s.kprAnswer p w OK).updKeeper fun k => { k with warmReq := true, warmAt := s.scnt }).warmReset 3)

/-! ## Steward restarts and timeouts (16 R438, R443, R451, R453) -/

/-- The stewards are held and loaded again: PAUSED, their locks abandoned. -/
def State.stewardRestart (s : State) (pause : BitVec 2) : State :=
  (s.updFw fun w => { w with paused := pause, restartAt := s.scnt, lastRestart := some s.scnt }).holdStewards

/-- Was there a steward restart within the last 10 minutes? -/
def State.restartedLately (s : State) : Bool :=
  match s.fw.lastRestart with | some t => decide (s.scnt < t + scMs 600000) | none => false

/-- The steward deckle is raised; a second restart within 10 minutes enters keeper mode. -/
def State.stewardDeckle (s : State) (cause : Byte) : State :=
  if ¬ s.fwRuns ∨ cause = 0 ∨ 3 < cause.toNat then s
  else if s.restartedLately then s.keeperEnter 1
  else (s.stewardRestart 3).updFw fun w => { w with restartCause := cause }

/-- A cause of 16 R438 raises the steward deckle. -/
def execStewardRestart (cause : Byte) (s : State) : Out := .next (s.stewardDeckle cause)

/-- The stewards have not reported ready 250 ms into a restart. -/
def execStewardRestartTimeout (s : State) : Out :=
  if s.fw.paused.toNat < 2 then .next s
  else .next ((s.passTo (s.fw.restartAt + scMs 250)).keeperEnter 1)

/-- The stewards have not written the keeper's watchdog for 100 ms. -/
def execStewardWatchdogTimeout (s : State) : Out :=
  .next (if s.fw.held ∨ 2 ≤ s.fw.paused.toNat ∨ s.clk.warmLow then s else s.keeperEnter 1)

/-- A unit has been silent at its management endpoint for 10 ms. -/
def execManagementEndpointTimeout (_u : MgmtUnit) (s : State) : Out := .next (s.keeperEnter 4)

/-- Is a link routed around? -/
def State.deadLink (s : State) (r k : Nat) : Bool := ((s.router (BitVec.ofNat 4 r)).link k).dead

/-- A link has failed for 1 ms: the worms that wait on it end, and it is routed around, or keeper mode follows. The firmware
does its part where it runs. -/
def execLinkFailTimeout (r : BitVec 4) (dir : BitVec 2) (s : State) : Out :=
  if ¬ meshPort r dir then .fault .noSuchObject
  else
    let l := (s.router r).link dir.toNat
    if ¬ l.failed then .next s
    else
      let s := (s.passTo (l.failedSince + scMs 1)).dropWaiting r dir.toNat
      if ¬ s.fwRuns then .next s
      else
        let s := s.updLink r dir.toNat fun k => { k with dead := true }
        let tab (q : Nat) : DWord := avoidBank s.deadLink q
        if tablesOk tab then .next (s.newTables tab [.rerouted r dir])
        else .next (s.keeperEnter 4)

/-! ## FW_STAGE and FW_ACTIVATE (13 R384, 16 R451) -/

/-- The version the stewards run. -/
def Fw.running (w : Fw) : Word := (w.versions.find w.bank.toNat).getD (Config.bankVersion w.bank)

/-- FW_STAGE: the image is verified and written to the inactive bank. -/
def execFwStage (f : FuncId) (dma : DmaIn) (s : State) : Out :=
  let stage (b : List Byte) : Reply :=
    match Config.fwVerdict b s.fw.fusedCounter s.fw.fusedKeeper with
    | 0 =>
      let v := Config.fwVersion b
      .ok (s.updFw fun w =>
        { w with versions := w.versions.set (!w.bank).toNat v, keeperParts := w.keeperParts.set (!w.bank).toNat (Config.keeperPart v),
                 staged := some v }) (leBytes 4 v.toNat) none
    | n => .fail BAD_ARG 0xFFFF n 0 none
  .next (s.perform f 0x0003 true (if 0x400000 < s.arg f 0x18 4 then .fail BAD_ARG 0x18 7 0 none else s.dmaIn f dma stage))

/-- FW_ACTIVATE: PAUSED is set and the staged stewards start from the other bank. -/
def execFwActivate (f : FuncId) (s : State) : Out :=
  .next (s.perform f 0x0004 true
    (if s.fw.staged.isNone then .bad WRONG_STATE 0x08
     else .later ((s.updFw fun w => { w with paused := 1, activating := some f, activateAt := s.scnt, bank := !w.bank }).holdStewards true)))

/-- The new firmware has not reported ready within 100 ms: the previous image starts as a steward restart. -/
def execFwActivateTimeout (s : State) : Out :=
  if s.fw.paused ≠ 1 then .next s
  else
    let s := (s.passTo (s.fw.activateAt + scMs 100)).updFw fun w => { w with bank := !w.bank }
    .next (if s.restartedLately then s.keeperEnter 1 else s.stewardRestart 2)

end Sys2Proof.Machine
end

