-- ==== Sys2Proof/Machine/Startup.lean ====
section
/-! DEFINITION. Start-up, the power sequences of sections, fabric clocks and references (15 R419-R422, R429, R433, R434). -/

namespace Sys2Proof.Machine

/-! ## Start-up (15 R433, R434) -/

/-- The version of the keeper part in a flash bank. -/
def Fw.keeperOf (w : Fw) (b : Bool) : Word := (w.keeperParts.find b.toNat).getD (Config.keeperPart (Config.bankVersion b))

/-- The keeper's image is verified from the active bank, else from the other, and the keeper runs that part (13 R384); when both fail
the ROM asserts FAULT_N and nothing follows. -/
def execKeeperImageVerify (ok0 ok1 : Bool) (s : State) : Out :=
  if ¬ s.keeper.running ∨ s.clk.keeperOk ∨ s.clk.dead then .next s
  else if ok0 || ok1 then
    .next ((s.updClk fun k => { k with keeperOk := true }).updFw fun w => { w with keeperRuns := some (w.keeperOf (if ok0 then w.bank else !w.bank)) })
  else .next ((s.updClk fun k => { k with dead := true }).updKeeper fun k => { k with faultN := true })

/-- The stewards' image is loaded and verified, and MGMT and MEM are released; when both banks fail, keeper mode follows, and only a
warm reset lets the load be tried again (15 R430). -/
def execStewardImageLoad (ok0 ok1 : Bool) (s : State) : Out :=
  let s := s.keeperBack
  if s.fw.held && !s.fw.ready && s.clk.keeperOk && s.awake && !s.clk.warmLow && s.hostUp && (!s.keeper.keeper || s.keeper.warmed) then
    if ok0 || ok1 then
      let s := s.updFw fun w => { w with held := false, bank := if ok0 then w.bank else !w.bank }
      .next ((s.releaseDomain 2).releaseDomain 5)
    else if s.keeper.keeper then .next (s.updKeeper fun k => { k with cause := 6, warmed := false })
    else .next (s.keeperEnter 6)
  else .next s

/-- The stewards train the HBM stack, lay out the management region and write every spill slot EMPTY. -/
def execHbmInitialisation (s : State) : Out :=
  if s.fw.held ∨ s.fw.ready ∨ s.clk.hbmUp then .next s
  else
    let s := s.updClk fun k => { k with hbmUp := true }
    .next { s with clusters := s.clusters.mapV fun _ cl => { cl with spill := [] } }

/-- Endpoint states of a section's clusters. -/
def State.setEps (s : State) (n : BitVec 4) (v : BitVec 2) : State :=
  s.updRouter n fun t => { t with ep := [v, v, v, v], busy := false, epWait := [] }

/-- Step 1 of a power-on (15 R429): the power switches close and the supply ramps. -/
def State.sectRamp (s : State) (n : BitVec 4) : State := s.updSect n fun x => { x with req := true, pstate := 1, iso := true, lock := false }

/-- Steps 3 and 4: the clamps and the reset are released. -/
def State.sectRelease (s : State) (n : BitVec 4) : State :=
  (s.updSect n fun x => { x with pstate := 3, iso := false }).releaseDomain (sectDomain n)

/-- The whole power-on sequence of section `n`. -/
def State.sectionUp (s : State) (n : BitVec 4) : State := ((s.sectRamp n).sectLock n).sectRelease n

/-- The stewards power on a section and test its stores: it comes into service, or stays off (R450 FAILED). With the last of
them ETH is released, and ETH_PHY_RST_N with it (18 R478). -/
def execSectionStartup (n : BitVec 4) (ok : Bool) (s : State) : Out :=
  if ¬ s.clk.hbmUp ∨ s.fw.held ∨ s.fw.ready ∨ (s.sect n).tried then .next s
  else
    let s := if ok then ((s.sectionUp n).setEps n 0).updSect n fun x => { x with tried := true, svc := 0 }
      else s.updSect n fun x => { x with tried := true, svc := 4, req := false }
    .next (if allSections.all fun k => (s.sect k).tried then (s.releaseDomain 4).updEth fun e => { e with phyRstN := true } else s)

/-! ## Pins of the ports (18 R478) -/

/-- Is PCIE_CLKREQ_N_p held low? -/
def State.clkreqLow (s : State) (p : BitVec 2) : Bool := (s.port p).present && !s.clk.porstLow

/-- Is PCIE_WAKE_N_p asserted? Never in stepping B0. -/
def State.wakeLow (_s : State) (_p : BitVec 2) : Bool := false

/-- The level of ETH_PHY_RST_N_p. -/
def State.phyRst (s : State) : Bool := s.eth.phyRstN && !(s.xing 4).inReset

/-- The level of WDOG_OUT_N and of KEEPER_ACT: not driven while PORST_N is low or SAFE is in reset (18 R476, R489). -/
def State.wdogPin (s : State) : Option Bool := if s.clk.porstLow || !s.domUp 1 then none else some s.keeper.wdogOut
def State.keeperActPin (s : State) : Option Bool := if s.clk.porstLow || !s.domUp 1 then none else some s.keeper.keeperAct

/-- The output balls of 18 R476 whose state while PORST_N is low is stated and that no register or event of the model drives. -/
inductive Ball where
  | qspi | mdc | mdio | tdo | uartTx | avsClk | avsData | trace | smbus | pcieTx | ethTx
  deriving DecidableEq, Repr

/-- A ball's state: high impedance, low, high, idle, released, or whatever its unit drives. -/
inductive BallState where
  | highZ | low | high | idle | released | active
  deriving DecidableEq, Repr

/-- A ball while PORST_N is low, and after (18 R476, R480). -/
def State.ball (s : State) (b : Ball) : BallState :=
  if ¬ s.clk.porstLow then .active
  else match b with
    | .qspi => .highZ
    | .mdc => .highZ
    | .mdio => .highZ
    | .tdo => .highZ
    | .uartTx => .high
    | .avsClk => .low
    | .avsData => .released
    | .trace => .low
    | .smbus => .released
    | .pcieTx => .idle
    | .ethTx => .idle

/-! ## Power of a section (15 R429) -/

/-- A section that has drained loses its power, and is powered on again where that has been asked for meanwhile. While it is being
powered on the request is held. -/
def State.powerOff (s : State) (n : BitVec 4) : State :=
  let x := s.sect n
  if x.pstate = 0 then s
  else if x.pstate = 1 ∨ x.pstate = 2 then s.updSect n fun x => { x with req := false, heldReq := some false }
  else if (s.router n).ep.all (· == 2) then
    let s := (s.resetSection n true).updSect n fun x =>
      { x with req := false, pstate := 0, iso := true, lock := false, gated := false, heldReq := none }
    if x.heldReq = some true then s.sectRamp n else s
  else s.updSect n fun x => { x with req := false, pstate := 4 }

/-- PWR_SEC REQ 0: the sequence runs once the section's endpoints are OFF; until then the section is in DRAIN. -/
def execSectionPowerOff (n : BitVec 4) (s : State) : Out := .next (s.powerOff n)

/-- PWR_SEC REQ 1: the section's supply ramps. Its PLL locks by PLL_LOCK, and CLOCK_WAKE is FAB_s running, which ends its reset (log
161). While the section powers off the request is held. -/
def execSectionPowerOn (n : BitVec 4) (s : State) : Out :=
  let x := s.sect n
  .next (if x.pstate = 0 then (if s.fw.held then s else s.sectRamp n)
    else if x.pstate = 4 then s.updSect n fun x => { x with req := true, heldReq := some true } else s)

/-! ## Fabric clocks (15 R421, R422) -/

/-- Is the hardware throttle of a section active: a source of it is hot, or MCUR has not come back to M (15 R421, 16 R452)? -/
def State.throttled (s : State) (n : BitVec 4) : Bool :=
  (s.sect n).thr || s.mon.hot.contains (2 * n.toNat) || s.mon.hot.contains (2 * n.toNat + 1)

/-- CLK_FAB[s] is written: an M outside 4 to 20 is ignored, MCUR follows unless the throttle holds it below M, and the clock
wakes. -/
def State.setM (s : State) (n : BitVec 4) (v : BitVec 5) : State :=
  let m := if s.mon.avsFault ∧ 16 < v.toNat ∧ v.toNat ≤ 20 then 16 else v
  if m.toNat < 4 ∨ 20 < m.toNat then s
  else
    let active := s.throttled n
    s.updSect n fun x =>
      let cur := if ¬ active then m else if x.mcur.toNat < m.toNat then x.mcur else if m = 4 then 4 else m - 1
      { x.setCur cur with m := m, thr := active && decide (cur.toNat < m.toNat), gated := false }

/-- CLK_FAB[s] is written: the M written is what the firmware requests (17 R465). -/
def execClkFabWrite (n : BitVec 4) (v : Word) (s : State) : Out :=
  let k : BitVec 5 := bits v 0 5
  .next (if 4 ≤ k.toNat ∧ k.toNat ≤ 20 then (s.setM n k).updMon fun m => { m with mReq := m.mReq.erase n.toNat } else s)

/-- Does a cluster hold no work and nothing on its way to work? A task that is not DORMANT is work (log 48). -/
def Cluster.idle (cl : Cluster) : Bool :=
  cl.ingress.isEmpty && cl.bypassIn.isEmpty && cl.release.isEmpty && cl.bypassRel.isEmpty && cl.spillRet.isEmpty && cl.searching.isEmpty &&
    cl.pendBuf.isEmpty && cl.ledger.isEmpty && cl.chanIn.isEmpty && cl.output.isNone && cl.movedIn.isEmpty && cl.ready.isEmpty && cl.holds.isEmpty &&
    cl.dl.isEmpty && cl.faults.isEmpty && cl.park.isEmpty && (cl.pes.all fun e => e.2.slot.isNone) && cl.tasks.all fun e => e.2.state == DORMANT

/-- Are the couches of a cluster empty? -/
def State.couchEmpty (s : State) (c : ClusterId) : Bool :=
  let port := 4 + (clusterEp c).toNat
  (List.range 4).all fun v =>
    (s.buf (clusterRouter c) port (BitVec.ofNat 2 v)).isEmpty && (s.spine.waits.getD (bufKey (clusterRouter c) port (BitVec.ofNat 2 v)) []).isEmpty && (s.spine.inq.getD (bufKey (clusterRouter c) port (BitVec.ofNat 2 v)) []).isEmpty

/-- May the section gate its clock? -/
def State.sectionIdle (s : State) (n : BitVec 4) : Bool :=
  (sectClusters n).all fun c => (s.cluster c).idle && s.couchEmpty c &&
    s.threads.all fun e => isSteward (BitVec.ofNat 13 e.1) || tCluster (BitVec.ofNat 13 e.1) != c || e.2.work.isNone

/-- A section that holds nothing gates its clock. -/
def execClockGate (n : BitVec 4) (s : State) : Out :=
  let x := s.sect n
  .next (if x.pstate = 3 ∧ x.lock ∧ s.sectionIdle n then s.updSect n fun x => { x with gated := true } else s)

/-- The reset of a section that is being powered on ends after 16 cycles of FAB_s; a power-off asked for meanwhile begins. -/
def State.sectRun (s : State) (n : BitVec 4) : State :=
  let s := (s.passFc n ((s.sect n).fc + 16)).sectRelease n
  if (s.sect n).heldReq = some false then (s.updSect n fun x => { x with heldReq := none }).powerOff n else s

/-- `n` wake requests come to the section, by a pulse crossing: a gated clock restarts, and the reset of a section whose FAB_s runs in
its power-on sequence ends. -/
def execClockWake (n : BitVec 4) (s : State) (count : Nat := 1) : Out :=
  let s := s.pulses (sectDomain n) count
  .next (if (s.sect n).pstate = 2 ∧ (s.sect n).lock ∧ ¬ s.fw.held then s.sectRun n else s.wakeSect n)

/-- The references that are watched: the PCIE_REFCLK of an absent port is ignored (12 R336). -/
def State.refWatched (s : State) : Byte :=
  (List.range 4).foldl (fun w p => if (s.port (BitVec.ofNat 2 p)).present then w ||| (1 <<< p) else w) 0xF0

/-- The references are checked: a lost one sets its flag, and a record goes to management for each that the last check did not find
lost or whose flag has been cleared since (log 162). -/
def execReferenceCheck (lost : Byte) (s : State) : Out :=
  if (s.xing 1).inReset then .next s
  else
    let lost := lost &&& s.refWatched
    let fresh := lost &&& ~~~(s.clk.refDead &&& s.clk.refLoss)
    let s := s.updClk fun k => { k with refLoss := k.refLoss ||| lost, refDead := lost }
    .next (if fresh = 0 then s else s.mgmtRecord recReference 0 (BitVec.setWidth 64 fresh))

end Sys2Proof.Machine
end

