-- ==== Sys2Proof/Machine/Fences.lean ====
section
/-! DEFINITION. The quiescence scan and the fence it asks for, the fence around a context, and the lowering of its deckle (02
R58, 06 R183-R188, 16 R435-R437). -/

namespace Sys2Proof.Machine

/-! ## The scan (06 R183, R184) -/

/-- Does a blocked task of the context wait on the channel an EXTIN record names? -/
def State.waitsOn (s : State) (x : CtxId) (r : ExtRec) : Bool :=
  match s.findTask x (bits r.node 0 16) with
  | none => false
  | some (c, d) =>
    let k := (s.cluster c).task d
    k.blockedWait && ((k.wait == 1 && k.wch == r.chan) || ((k.wait == 2 || k.wait == 3) && k.evmask.getLsbD r.chan.toNat))

/-- Does a cluster hold an operand of a node of the context? -/
def Cluster.holdsOperand (cl : Cluster) (x : CtxId) (n : BitVec 20) : Bool :=
  (cl.sets.any fun e => e.2.ways.any fun w => w.2.ctx == x && w.2.node == n) ||
    cl.spill.any fun e => match e.2 with | .full m _ => m.ctx == x && m.node == n | _ => false

/-- Is a declared external input outstanding (06 R184)? -/
def State.outstanding (s : State) (x : CtxId) : Bool :=
  match s.imageOf x with
  | none => false
  | some m => m.extins.any fun r =>
      if r.task then s.waitsOn x r else (s.placement x).any fun c => (s.cluster c).holdsOperand x r.node

/-- The sum of ACT over a context's placement. -/
def State.sumAct (s : State) (x : CtxId) : Word := (s.placement x).foldl (fun v c => v + s.cdAct c x) 0

/-- Is some work of the context debug-stopped? -/
def State.anyDbg (s : State) (x : CtxId) : Bool := (s.placement x).any fun c => s.cdDbg c x

/-- Is the context a candidate for deadlock (06 R183)? One whose only blocked work is activations in an extension-trap wait is a
candidate too (DEDUCED, log 138). -/
def State.candidate (s : State) (x : CtxId) : Bool :=
  let e := s.ctx x
  let sum (f : ClusterId → Nat) : Nat := ((s.placement x).map f).sum
  e.state == RUNNING && e.inflight == 0 && e.timers == 0 && sum (fun c => s.cdReady c x) == 0 && sum (fun c => s.cdRun c x) == 0 &&
    decide (0 < sum fun c => s.cdBlocked c x) && !s.anyDbg x

/-- Once per scan period the firmware examines a RUNNING context whose positions do not move. -/
def execQuiescenceScan (x : CtxId) (s : State) : Out :=
  let a := s.caux x
  if ¬ s.fwRuns ∨ (s.ctx x).state ≠ RUNNING ∨ s.dying x ∨ a.move.isSome then .next s
  else
    let s := s.passTo (a.lastScan + scNs a.scanp)
    let cand := s.candidate x
    let act := s.sumAct x
    let ask := cand && a.prevCand && act == a.prevAct && !s.outstanding x
    .next (s.updAux x fun a =>
      { a with prevCand := cand, prevAct := act, lastScan := s.scnt, fenceReq := if ask then some act else none })

/-! ## The conditional fence (06 R185, R186) -/

/-- The lowest-numbered blocked task of a context, with its place. -/
def State.firstBlocked (s : State) (x : CtxId) : Option (ClusterId × BitVec 10 × Task) :=
  (s.placement x).foldl (fun (best : Option (ClusterId × BitVec 10 × Task)) c =>
    (s.cluster c).tasks.foldl (fun best e =>
      if e.2.ctx == x && e.2.blockedWait then
        match best with
        | some (_, _, k) => if e.2.task.toNat < k.task.toNat then some (c, BitVec.ofNat 10 e.1, e.2) else best
        | none => some (c, BitVec.ofNat 10 e.1, e.2)
      else best) best) none

/-- The GRAPH_DEADLOCK record of a blocked task goes to the owner's fault ring. -/
def State.deadlockRecord (s : State) (x : CtxId) : State :=
  match s.firstBlocked x, s.faultRing (s.ctx x).owner with
  | some (c, d, k), some r =>
    let t := (s.threadOfTask c d).getD (mkTid c 0 0)
    let live := (s.threadOfTask c d).isSome
    let pc := if live then (s.thread t).pc else k.pc
    let w : Word := match (s.cluster c).code.find (pc.toNat / 4) with | some v => v.word | none => 0
    let tst := if live then (s.thread t).tstFull else k.tst
    let ws := recordWords GRAPH_DEADLOCK true t x 0 pc w (BitVec.setWidth 20 k.task) tst s.tb.now
    let item (ty : BitVec 4) (a b : Nat) : ReelItem :=
      { tag := ws.getD a 0, value := ws.getD b 0, type := ty, poison := false, cause := GRAPH_DEADLOCK, tt := false, ctx := none }
    (s.stageItem (s.ctx x).owner r (item 3 0 1)).stageItem (s.ctx x).owner r (item 4 2 3)
  | _, _ => s

/-- The host hub raises the deckle only if INFLIGHT is zero and ACT is what the scan saw. -/
def execConditionalFence (x : CtxId) (s : State) : Out :=
  match (s.caux x).fenceReq with
  | none => .next s
  | some act =>
    let s := s.updAux x fun a => { a with fenceReq := none }
    if (s.ctx x).state = RUNNING ∧ (s.ctx x).inflight = 0 ∧ s.sumAct x = act then
      .next (((s.deadlockRecord x).updCtx x fun e => { e with lastfault := GRAPH_DEADLOCK }).fence x GRAPH_DEADLOCK)
    else .next s

/-! ## The deckle of a context (02 R58, 16 R435-R437) -/

/-- A deckle is raised around a context. -/
def execContextFence (x : CtxId) (cause : Byte) (s : State) : Out := .next (s.fence x cause)

/-- The effects of a fence are complete when no thread of the context goes on: all that may be left are threads that hold a
fault record. -/
def State.fenceDone (s : State) (x : CtxId) : Bool := (s.threadsOf x).all fun t => (s.thread t).heldRec.isSome

/-- The management plane lowers the deckle of a fenced context. -/
def execDeckleLower (x : CtxId) (s : State) : Out :=
  .next (if s.fwRuns ∧ (s.caux x).deckle ∧ s.fenceDone x then s.updAux x fun a => { a with deckle := false } else s)

end Sys2Proof.Machine
end

