-- ==== Sys2Proof/Machine/Containment.lean ====
section
/-! DEFINITION. Fences of clusters and sections, the moves of positions and banks off them, and repair (06 R174, 10 R298, 16
R435-R450). -/

namespace Sys2Proof.Machine

/-! ## Targets (16 R445) -/

/-- Code that a position of a context needs: that of the image it runs, with its tasks, and that of an update on its way. The
places it has at cluster `a` are asked for again. -/
def State.codeFor (s : State) (x : CtxId) (a : ClusterId) : List (BitVec 16 × Image × Bool × Option Nat) :=
  let h := (s.ctx x).image
  let cl := s.cluster a
  (match s.image h with | some m => [(h, m, true, cl.baseOf x 0)] | none => []) ++
    match (s.caux x).update with
    | some u => if u.image = h then [] else match s.image u.image with | some m => [(u.image, m, false, cl.baseOf x u.image)] | none => []
    | none => []

/-- Can cluster `c` take position `k` of a context from cluster `a`? -/
def State.canTake (s : State) (x : CtxId) (k : BitVec 6) (a c : ClusterId) : Bool :=
  let y := s.sect (clusterSection c)
  y.svc == 0 && y.pstate == 3 && !s.fw.fencedClusters.contains c && ((s.cluster c).slotOf x).isNone &&
    (match s.imageOf x with
     | some m => s.clusterFits c m k.toNat (((s.caux x).pos)[k.toNat]?.getD ⟨0, 0, 0, 0⟩)
     | none => false) &&
    ((s.codeFor x a).foldl (fun (o : Option State) i => o.bind fun s => s.loadCode c x i.1 i.2.1 k.toNat i.2.2.1 i.2.2.2) (some s)).isSome

/-- The target of a position: the repair reserve first, in descending number, then the other clusters in ascending number. -/
def State.target (s : State) (x : CtxId) (k : BitVec 6) (a : ClusterId) : Option ClusterId :=
  let all := (List.range 64).map (BitVec.ofNat 6)
  ((all.reverse.filter s.fw.reserveSet.contains) ++ all.filter fun c => !s.fw.reserveSet.contains c).find? fun c => s.canTake x k a c

/-- Position `k` of a context becomes resident at `c` as it was at `a`. -/
def State.resideFrom (s : State) (x : CtxId) (k : BitVec 6) (a c : ClusterId) : State :=
  s.reside x k.toNat c (((s.caux x).pos)[k.toNat]?.getD ⟨0, 0, 0, 0⟩) (s.codeFor x a)

/-- Is the context moving off the cluster? -/
def State.movingOff (s : State) (x : CtxId) (c : ClusterId) : Bool :=
  match (s.caux x).move with
  | some m => m.source == c
  | none => false

/-- Positions placed at a cluster that are still to be moved: those of contexts that are neither fenced nor being killed nor
already on their way. -/
def State.positionsAt (s : State) (c : ClusterId) : List (CtxId × BitVec 6) :=
  let cl := s.cluster c
  cl.msRes.filterMap fun e =>
    if e.2.valid && !(cl.fwd.getD e.1 {}).valid && (s.ctx e.2.ctx).state != FENCED && !s.dying e.2.ctx && !s.movingOff e.2.ctx c then
      some (e.2.ctx, cl.position.getD e.1 0)
    else none

/-- A plan under way: the state as if what has been planned had moved, the moves, and the contexts that found no target. -/
structure Planning where
  virt : State
  plan : List (CtxId × BitVec 6 × ClusterId) := []
  failed : List CtxId := []

/-- A position is planned for cluster `b`: the state as if it had moved, with `b` out of the repair reserve. -/
def State.planned (s : State) (x : CtxId) (k : BitVec 6) (a b : ClusterId) : State :=
  (s.resideFrom x k a b).updFw fun w => { w with reserveSet := w.reserveSet.erase b }

/-- Targets for every position at the clusters `cs`, chosen before any position moves, beside those of an earlier plan that still
waits. -/
def State.planMoves (s : State) (cs : List ClusterId) : Planning :=
  let base := s.fw.plan.foldl (fun v (x, k, b) => v.planned x k (s.clusterAt x k.toNat) b) s
  cs.foldl (fun (p : Planning) c => (s.positionsAt c).foldl (fun p (x, k) =>
    match p.virt.target x k c with
    | some b =>
      { p with virt := p.virt.planned x k c b, plan := p.plan ++ [(x, k, b)] }
    | none => { p with failed := p.failed ++ [x] }) p) { virt := base }

/-- The plan is taken up; contexts with a position that no cluster takes are fenced (16 R439). -/
def State.takePlan (s : State) (p : Planning) : State :=
  let s := s.updFw fun w =>
    { w with plan := (w.plan.filter fun e => !(p.plan.any fun q => q.1 == e.1 && q.2.1 == e.2.1)) ++ p.plan }
  p.failed.foldl (fun s x => s.fence x TARGET_FENCED) s

/-! ## Raising the deckle of a cluster or a section (06 R174, 16 R439, R441, R444) -/

/-- The clusters of a section leave admission. -/
def State.leaveAdmission (s : State) (n : BitVec 4) : State :=
  (s.updSect n fun x => { x with svc := 1 }).updFw fun w => { w with reserveSet := w.reserveSet.filter fun c => clusterSection c != n }

/-- A section fence begins; one that the firmware raises waits while another is in progress. -/
def State.fenceSection (s : State) (n : BitVec 4) (cause : Byte) (by_ : Option FuncId) : State :=
  if (s.sect n).svc ≠ 0 then s
  else if s.fw.fenceJob.isSome then
    s.updFw fun w => { w with fenceWait := if w.fenceWait.any (·.1 == n) then w.fenceWait else w.fenceWait ++ [(n, cause)] }
  else
    let kept := s.fw.reserveSet.filter fun c => clusterSection c == n
    let s := (s.leaveAdmission n).adminEvent 0x0100 n.toNat (BitVec.setWidth 64 cause)
    let s := s.updFw fun w => { w with fenceJob := some (n, by_), fenceKept := kept }
    s.takePlan (s.planMoves (sectClusters n))

/-- A cluster leaves admission, and its positions are to be moved. -/
def State.fenceCluster (s : State) (c : ClusterId) : State :=
  let s := s.updFw fun w => { w with fencedClusters := w.fencedClusters ++ [c], reserveSet := w.reserveSet.erase c }
  s.takePlan (s.planMoves [c])

/-- SECTION_FENCE. -/
def State.sectionFence (s : State) (f : FuncId) : Reply :=
  let n : BitVec 4 := BitVec.ofNat 4 (s.arg f 8 1)
  if s.fw.fenceJob = some (n, some f) then .later s
  else if (s.sect n).svc ≠ 0 then .bad WRONG_STATE 0x08
  else if s.fw.fenceJob.isSome then .later s
  else if !((s.leaveAdmission n).planMoves (sectClusters n)).failed.isEmpty then .bad BUDGET 0xFFFF
  else .later (s.fenceSection n 1 (some f))

/-- SECTION_FENCE. -/
def execSectionFence (f : FuncId) (s : State) : Out := .next (s.perform f 0x0801 true (s.sectionFence f))

/-- SPINE cycles of 24 hours. -/
def scDay : Nat := scMs 86400000

/-- Errors of a cluster in a log within the last `n` cycles. -/
def State.recent (s : State) (l : List (ClusterId × Nat)) (c : ClusterId) (n : Nat) : Nat :=
  l.countP fun e => e.1 == c && decide (s.scnt ≤ e.2 + n)

/-- A cluster that has counted 16 uncorrected errors within 24 h or 1,000 corrected errors within 1 s is fenced; the second
of a section within 24 h fences the section. -/
def execClusterFence (c : ClusterId) (s : State) : Out :=
  let n := clusterSection c
  if ¬ s.fwRuns ∨ s.fw.fencedClusters.contains c ∨ (s.sect n).svc ≠ 0 ∨
      (s.recent s.fw.ueLog c scDay < 16 ∧ s.recent s.fw.ceLog c (scMs 1000) < 1000) then .next s
  else
    let second := s.fw.clusterFences.any fun e => e.1 != c && clusterSection e.1 == n && decide (s.scnt ≤ e.2 + scDay)
    let s := (s.fenceCluster c).updFw fun w => { w with clusterFences := w.clusterFences ++ [(c, s.scnt)] }
    .next (if second then s.fenceSection n 2 none else s)

/-- A spill refusal has lasted 10 ms: the cluster is fenced and migrated, or SPILL_STUCK is reported where the reserve is
empty. -/
def execSpillStuckTimeout (c : ClusterId) (s : State) : Out :=
  match (s.cluster c).refusedSince with
  | none => .next s
  | some t =>
    if ¬ s.fwRuns then .next s
    else
      let s := s.passTo (t + scMs 10)
      if s.fw.fencedClusters.contains c ∨ (s.sect (clusterSection c)).svc ≠ 0 then .next s
      else if s.fw.reserveSet.isEmpty then .next (s.adminEvent 0x0030 c.toNat 0)
      else .next (s.fenceCluster c)

/-! ## Moving a position (16 R446, R447, R449) -/

/-- A thread is asked to stop its task at an instruction-word boundary: at once where it stands at one or its work is blocked. -/
def State.askStop (s : State) (t : Tid) : State :=
  let th := s.thread t
  match th.wait with
  | .none => if th.mayStop then s.stopReq t else s
  | w => if w.blocks && th.mayStop then s.stopReq t else s

/-- The tasks of a context that threads of a cluster hold are asked to stop. -/
def State.askMoves (s : State) (x : CtxId) (a : ClusterId) : State :=
  (s.threadsAt a x).foldl (fun s t =>
    if (s.taskOf t).isSome then (s.updThread t fun th => { th with moveReq := true }).askStop t else s) s

/-- Every reservation and every place in a queue of the senders that `g` renames. -/
def State.renameSenders (s : State) (g : Sender → Sender) : State :=
  { s with clusters := s.clusters.mapV fun _ cl =>
      { cl with chans := cl.chans.mapV fun _ h => { h with holder := h.holder.map g, queue := h.queue.map g } } }

/-- A task descriptor and its channel stages are copied from cluster `a` to the lowest free descriptor of `b`, with AFFV
cleared; code addresses move by `delta`. -/
def State.moveTask (s : State) (a b : ClusterId) (delta : Word) (d : BitVec 10) : State × Option (BitVec 10 × BitVec 10) :=
  match least 1024 fun e => ((s.cluster b).tasks.find e).isNone with
  | none => (s, none)
  | some e =>
    let k := (s.cluster a).task d
    let k := { k with affv := false, lastpe := 0, pc := k.pc + delta, entry := k.entry + delta, resident := false }
    let chans := (s.cluster a).chans
    let s := s.updCluster b fun cl =>
      { cl with
        tasks := cl.tasks.set e k
        chans := (List.range 8).foldl (fun (m : Map Channel) i =>
          match chans.find (8 * d.toNat + i) with
          | some h => m.set (8 * e + i) h
          | none => m) cl.chans }
    let s := s.updCluster a fun cl =>
      { cl with tasks := cl.tasks.erase d.toNat, chans := cl.chans.keep fun i _ => i / 8 != d.toNat }
    (s, some (d, BitVec.ofNat 10 e))

/-- The new descriptor of a moved task. -/
def newDesc (ren : List (BitVec 10 × BitVec 10)) (d : BitVec 10) : BitVec 10 :=
  match ren.find? fun e => e.1 == d with | some e => e.2 | none => d

/-- The operands of a context at a cluster are read for a move, and meet the errors of their ways and slots (03 R93). -/
def State.readOperands (s : State) (x : CtxId) (c : ClusterId) : State :=
  let s := (s.cluster c).sets.foldl (fun s e => s.readBad c e.1) s
  (s.cluster c).spill.foldl (fun s e => match e.2 with | .full m _ => if m.ctx == x then s.readSlot c e.1 .clean else s | _ => s) s

/-- Step 5: the operands of a context at cluster `a`, all of them in its spill region by now, come to the spill-return source of
`b` in the order of their arrival ranks. -/
def State.moveOperands (s : State) (x : CtxId) (a b : ClusterId) : State :=
  let s := (s.readOperands x a).evacuate a fun e => e.ctx == x
  let cl := s.cluster a
  let left : List SpillRet := cl.sets.flatMap fun e => (e.2.ways.filter fun w => w.2.ctx == x).map fun w => ⟨w.2, false⟩
  let spilled : List SpillRet := cl.spill.filterMap fun e =>
    match e.2 with | .full m al => if m.ctx == x then some ⟨m, al⟩ else none | _ => none
  let waiting := cl.movedOperands x
  let s := s.purgeStore x a
  let s := s.updCluster a fun cl =>
    { cl with msRes := match cl.slotOf x with | some n => cl.msRes.upd n {} fun r => { r with held := 0, disp := 0 } | none => cl.msRes }
  s.updCluster b fun cl =>
    { cl with spillRet := cl.spillRet ++ ((left ++ spilled ++ waiting).foldl (fun l r => insertRank r l) []).map Returned.operand }

/-- Step 6: the delay-list entries of a context go from the list of `a` into that of `b`; those that have become due count as late
(05 R158), but for the frozen ones of a stopped context, which CTX_START counts. -/
def State.moveDelayed (s : State) (x : CtxId) (a b : ClusterId) (ren : List (BitVec 10 × BitVec 10)) : State :=
  let dl := ((s.cluster a).dl.filter fun e => e.ctx == x).map fun e =>
    { e with elig := s.fc b + 4, item := match e.item with | .inr d => Sum.inr (newDesc ren d) | t => t }
  let late := if s.releases x then dl.countP fun e => decide (e.tick.toNat ≤ s.tb.tc.toNat) else 0
  let oldA := (s.cluster a).dl.length
  let oldB := (s.cluster b).dl.length
  let s := s.updCluster a fun cl =>
    { cl with dl := cl.dl.filter fun e => e.ctx != x
              dlRes := match cl.slotOf x with | some n => cl.dlRes.upd n {} fun r => { r with held := 0 } | none => cl.dlRes }
  let s := s.updCluster b fun cl =>
    { cl with dl := dl.foldl (fun l e => insertDl e l) cl.dl
              dlCnt := { cl.dlCnt with ins := satAdd cl.dlCnt.ins dl.length, late := satAdd cl.dlCnt.late late }
              dlRes := match cl.slotOf x with
                | some n => cl.dlRes.upd n {} fun r => { r with held := BitVec.ofNat 13 dl.length, late := satAdd r.late late }
                | none => cl.dlRes }
  if dl.isEmpty then s else (s.dlLevel a oldA).dlLevel b oldB

/-- Step 7: READY tasks enter the ready lists of `b` in the order they held at `a`, and activations that are ready go with
them, waiting for places of the ready queue of `b` (log 49). -/
def State.moveReady (s : State) (x : CtxId) (a b : ClusterId) (works : List Work) (ren : List (BitVec 10 × BitVec 10)) : State :=
  let s := ren.foldl (fun s e => s.unready a e.1) s
  let acts := works.filterMap fun w => match w with | .activation k => if k.ctx = x then some k else none | .task _ => none
  let s := (s.dropActivations x a).inflightAdd x acts.length
  let s := works.foldl (fun s w => match w with
    | .activation _ => s
    | .task d => if ren.any fun e => e.1 == d then s.enqueue b (.task (newDesc ren d)) else s) s
  (s.updCluster b fun cl => { cl with movedIn := cl.movedIn ++ acts }).outputRun b

/-- Tasks move one after the other; the descriptors they leave and those they take. -/
def State.moveTasks (s : State) (a b : ClusterId) (delta : Word) (ds : List (BitVec 10)) : State × List (BitVec 10 × BitVec 10) :=
  ds.foldl (fun (acc : State × List (BitVec 10 × BitVec 10)) d =>
    let r := acc.1.moveTask a b delta d
    (r.1, acc.2 ++ r.2.toList)) (s, [])

/-- The code that cluster `b` was given when the move began follows a CTX_UPDATE that has met the move (16 R449): what is no
longer needed leaves, what has come is loaded; none where there is no room for it. -/
def State.followCode (s : State) (x : CtxId) (k : BitVec 6) (a b : ClusterId) : Option State :=
  let code := s.codeFor x a
  let s := s.updCluster b fun cl =>
    (cl.bases.filter fun e => e.1 == x && e.2.1 != 0 && !(code.any fun i => i.1 == e.2.1)).foldl (fun cl e => cl.freeNodes x e.2.1) cl
  code.foldl (fun (o : Option State) i => o.bind fun s =>
    if ((s.cluster b).baseOf x i.1).isSome then some s else s.loadCode b x i.1 i.2.1 k.toNat i.2.2.1 i.2.2.2) (some s)

/-- The work of a context that has stopped at cluster `a` moves to `b` (steps 3 to 8). -/
def State.moveWork (s : State) (x : CtxId) (m : Move) : State :=
  let a := m.source
  let b := m.target
  let base (c : ClusterId) : Nat := ((s.cluster c).baseOf x 0).getD 0
  let delta : Word := BitVec.ofNat 32 (4 * base b) - BitVec.ofNat 32 (4 * base a)
  let cl := s.cluster a
  let works := cl.items.map (·.work) ++ (match cl.output with | some o => [.activation o] | none => []) ++ cl.movedIn.map Work.activation
  let (s, ren) := s.moveTasks a b delta (cl.tasksOf x)
  let s := s.renameSenders fun q => match q with | .task c d => if c = a ∧ ren.any (fun e => e.1 == d) then .task b (newDesc ren d) else q | _ => q
  let s := ((s.moveReady x a b works ren).moveOperands x a b).moveDelayed x a b ren
  let s := s.updCluster a fun cl =>
    match cl.slotOf x with
    | some n => { cl with fwd := cl.fwd.set n { target := b, valid := true } }
    | none => cl
  let s := s.updAux x fun e => { e with clmap := updAt e.clmap m.position.toNat fun _ => BitVec.setWidth 8 b, move := none }
  s.event (s.ctx x).owner 0x0101 x.toNat (BitVec.ofNat 64 (m.position.toNat + 256 * a.toNat + 65536 * b.toNat))

/-- Moves in progress. -/
def State.moves (s : State) : List Move := s.aux.filterMap fun e => e.2.move

/-- The cluster that a planned move goes to: the one planned, or another where that one can take the position no more. -/
def State.moveTarget (s : State) (x : CtxId) (k : BitVec 6) (a b : ClusterId) : Option ClusterId :=
  if s.canTake x k a b then some b else s.target x k a

/-- Step 1 of a move: the position becomes resident at `b` with its code, `b` leaves the repair reserve, and the work at `a` is
asked to stop. -/
def State.beginMove (s : State) (x : CtxId) (k : BitVec 6) (a b : ClusterId) : State :=
  let m : Move := { position := k, source := a, target := b, startSc := s.scnt }
  ((((s.planned x k a b).updFw fun w => { w with plan := w.plan.filter fun e => !(e.1 == x && e.2.1 == k) }).updAux x fun e =>
    { e with move := some m })).askMoves x a

/-- A planned move begins where 4 are not under way and none from its cluster; it ends when all work of the context at the
cluster has stopped. A context whose position no cluster can take is fenced (16 R439). -/
def State.positionMove (s : State) (x : CtxId) (k : BitVec 6) : State :=
  match (s.caux x).move with
  | some m =>
    if m.position ≠ k then s
    else
      let s := s.askMoves x m.source
      if (s.threadsAt m.source x).isEmpty then
        match s.followCode x k m.source m.target with
        | some s => s.moveWork x m
        | none => s.fence x TARGET_FENCED
      else s
  | none =>
    match s.fw.plan.find? fun e => e.1 == x && e.2.1 == k with
    | none => s
    | some (_, _, b) =>
      let a := s.clusterAt x k.toNat
      let st := (s.ctx x).state
      if st = FREE ∨ st = FENCED ∨ s.dying x then s.updFw fun w => { w with plan := w.plan.filter fun e => e.1 != x }
      else if 4 ≤ s.moves.length ∨ s.moves.any fun m => m.source == a then s
      else
        match s.moveTarget x k a b with
        | some b => s.beginMove x k a b
        | none => s.fence x TARGET_FENCED

/-- Position `k` of a context moves. -/
def execPositionMove (x : CtxId) (k : BitVec 6) (s : State) : Out := .next (if s.fwRuns then s.positionMove x k else s)

/-- Work has not stopped 1 ms into a move: the move is abandoned and the context fenced. -/
def execMoveTimeout (x : CtxId) (s : State) : Out :=
  match (s.caux x).move with
  | none => .next s
  | some m =>
    if ¬ s.fwRuns ∨ (s.threadsAt m.source x).isEmpty then .next s
    else .next ((s.passTo (m.startSc + scMs 1)).fence x TARGET_FENCED)

/-! ## Copying a bank (16 R448) -/

/-- Is the bank one of a context that has moved off its cluster, and not yet copied? -/
def State.bankWaits (s : State) (n : Byte) : Bool :=
  let b := s.bank n
  b.kind == 2 && !b.fwdValid && ((s.cluster (bankCluster n)).forward b.ctx).isSome

/-- Banks that the bytes of a window lie in. -/
def banksOf (base len : Nat) : List Nat :=
  if base < bankBase ∨ len = 0 then []
  else
    let n := (base - bankBase) / 0x40000
    (List.range ((base - bankBase + len - 1) / 0x40000 + 1 - n)).map (n + ·)

/-- The windows of a context that map a bank are rewritten once the last of their banks has been copied: the base goes to the new
place of the bank it lies in (log 50). Until then the old addresses are forwarded. -/
def State.rewriteWindows (s : State) (x : CtxId) (old : Byte) : State :=
  (List.range 64).foldl (fun s w =>
    let raw : BitVec 128 := BitVec.ofNat 128 (s.rd ((s.ctx x).wtp.toNat + 16 * w) 16)
    let ns := banksOf (bits raw 0 40).toNat (bits raw 64 29).toNat
    let first := s.bank (BitVec.ofNat 8 (ns.headD 0))
    if raw.getLsbD 48 && ns.contains old.toNat && !(ns.any fun n => s.bankWaits (BitVec.ofNat 8 n) && (s.bank (BitVec.ofNat 8 n)).ctx == x) &&
        first.fwdValid && first.ctx == x then
      s.setWindow x (BitVec.ofNat 6 w) (putBits raw 0 (forwardPa first.fwdBank (bits raw 0 40)))
    else s) s

/-- The contents of a bank are copied to another, errors included. -/
def State.copyBank (s : State) (old new : Byte) : State :=
  let lo := bankBase + old.toNat * 0x40000
  let dst := bankBase + new.toNat * 0x40000
  let m := Memory.clear s.mem dst 0x40000
  let cells := s.mem.filter fun e => lo ≤ e.1 && decide (e.1 < lo + 0x40000)
  let bad := s.uecc.filter fun w => lo / 8 ≤ w && decide (w < lo / 8 + 0x8000)
  let keep := s.uecc.filter fun w => !(decide (dst / 8 ≤ w) && decide (w < dst / 8 + 0x8000))
  { s with mem := cells.foldl (fun m e => Memory.set m (e.1 - lo + dst) e.2) m, uecc := bad.foldl (fun l w => badAdd (w - lo / 8 + dst / 8) l) keep }

/-- The FREE bank of cluster `c` that takes a copy of bank `n`: the one at the same place in its cluster, so that windows over
several banks stay whole, else the lowest. -/
def State.freeBank (s : State) (c : ClusterId) (n : Byte) : Option Byte :=
  let free (i : Nat) : Bool := (s.bank (c ++ BitVec.ofNat 2 i)).kind == 0
  (if free (n.toNat % 4) then some (n.toNat % 4) else least 4 free).map fun i => c ++ BitVec.ofNat 2 i

/-- A moved context's bank is copied to a FREE bank of its new cluster, or the context is fenced where there is none. -/
def execBankCopy (n : BitVec 8) (s : State) : Out :=
  if ¬ s.fwRuns ∨ ¬ s.bankWaits n then .next s
  else
    let x := (s.bank n).ctx
    match (s.cluster (bankCluster n)).forward x with
    | none => .next s
    | some (_, f) =>
      match s.freeBank f.target n with
      | none => .next (s.fence x TARGET_FENCED)
      | some dst =>
        let s := (s.copyBank n dst).updBank dst fun b => { b with kind := 2, ctx := x, assigned := true }
        .next ((s.updBank n fun b => { b with fwdBank := dst, fwdValid := true }).rewriteWindows x n)

/-! ## The end of a fence (16 R444 steps 5 and 6) -/

/-- The clusters of a section whose endpoints are still to become FENCED. -/
def State.leaving (s : State) (n : BitVec 4) : List ClusterId :=
  match s.fw.fenceJob with
  | some (k, _) => if k = n then sectClusters n else []
  | none => (sectClusters n).filter fun c => s.fw.fencedClusters.contains c && (s.router n).ep.getD (clusterEp c).toNat 2 == 0

/-- Does a queue of the cluster still hold a token of a context that has left? -/
def Cluster.holdsLeft (cl : Cluster) : Bool :=
  let left (t : Token) : Bool := (cl.forward (tagCtx t.tag)).isSome
  let leftA (a : Arrival) : Bool := (cl.forward a.ctx).isSome
  cl.ingress.any left || cl.bypassIn.any left || cl.release.any left || cl.bypassRel.any left || cl.pendBuf.any leftA ||
    (cl.searching.any fun p => leftA p.arr) || (cl.chanIn.any fun t => left t.1) ||
    cl.ledger.any fun q => match q with | .take t _ => left t | .give _ => false

/-- Have the moves and the copies off the clusters ended, and has every token that waited there gone after its position? -/
def State.evacuated (s : State) (cs : List ClusterId) : Bool :=
  (cs.all fun c => !(s.cluster c).holdsLeft) &&
  (s.fw.plan.all fun e => !cs.contains (s.clusterAt e.1 e.2.1.toNat)) && (s.moves.all fun m => !cs.contains m.source) &&
    cs.all fun c => (List.range 4).all fun i => !s.bankWaits (c ++ BitVec.ofNat 2 i)

/-- Forwarding ends at a cluster: the slots of contexts that have left are freed, and its endpoint becomes FENCED. -/
def State.endForwarding (s : State) (c : ClusterId) : State :=
  let gone := (s.cluster c).residents.filter fun x => ((s.cluster c).forward x).isSome
  let s := gone.foldl (fun s x => s.updCluster c (·.freeSlot x)) s
  let s := (List.range 4).foldl (fun s i => s.updBank (c ++ BitVec.ofNat 2 i) fun b => { b with fwdValid := false }) s
  s.updRouter (clusterRouter c) fun t => { t with ep := updAt t.ep (clusterEp c).toNat fun _ => 1 }

/-- The first waiting section fence that still has something to do begins. -/
def State.nextFence (s : State) : List (BitVec 4 × Byte) → State
  | [] => s.updFw fun w => { w with fenceWait := [] }
  | (q, cause) :: r =>
    if (s.sect q).svc = 0 then (s.updFw fun w => { w with fenceWait := r }).fenceSection q cause none else s.nextFence r

/-- The section fence in progress is over: its command completes, and the next one begins. -/
def State.endFence (s : State) (n : BitVec 4) : State :=
  match s.fw.fenceJob with
  | some (k, by_) =>
    if k ≠ n then s
    else
      let s := s.updFw fun w => { w with fenceJob := none }
      let s := match by_ with
        | some f => if (s.mbox f).begun && s.arg f 0 2 == 0x0801 then s.answer f OK 0 [] else s
        | none => s
      s.nextFence s.fw.fenceWait
  | none => s

/-- No item has been forwarded for 10 µs. -/
def execForwardQuietTimeout (n : BitVec 4) (s : State) : Out :=
  let cs := s.leaving n
  if ¬ s.fwRuns ∨ cs.isEmpty ∨ ¬ s.evacuated cs then .next s
  else
    let s := s.passTo ((s.sect n).lastFwd + scUs 10)
    .next ((cs.foldl State.endForwarding s).endFence n)

/-! ## Repair and return (16 R450) -/

/-- SECTION_REPAIR: the entries that are left in the section's matching stores are evacuated (03 R92), and the section is
powered off, and on again with its endpoints OFF; its full test begins. -/
def State.sectionRepair (s : State) (f : FuncId) : Reply :=
  let n : BitVec 4 := BitVec.ofNat 4 (s.arg f 8 1)
  let svc := (s.sect n).svc
  let busy : Bool := match s.fw.fenceJob with | some (k, _) => k == n | none => false
  if ¬ (s.mbox f).begun ∧ (svc = 0 ∨ svc = 2 ∨ busy = true) then .bad WRONG_STATE 0x08
  else
    let s := if (s.sect n).pstate = 0 then s
      else ((sectClusters n).foldl (fun s c => s.evacuate c fun _ => true) s |>.writeEp n 0b10101010).powerOff n
    if (s.sect n).pstate ≠ 0 then .later s
    else
      let s := (s.setEps n 2).sectionUp n
      .done (s.updSect n fun x => { x with svc := 2 })

/-- SECTION_REPAIR. -/
def execSectionRepair (f : FuncId) (s : State) : Out := .next (s.perform f 0x0802 true (s.sectionRepair f))

/-- A section's full test ends: it stays powered and gated, or is powered off. -/
def execRepairTestDone (n : BitVec 4) (code : Byte) (s : State) : Out :=
  if ¬ s.fwRuns ∨ (s.sect n).svc ≠ 2 ∨ 7 < code.toNat then .next s
  else
    let s := if code = 0 then s.updSect n fun x => { x with svc := 3, gated := true }
      else (s.powerOff n).updSect n fun x => { x with svc := 4 }
    .next (s.adminEvent 0x0102 n.toNat (BitVec.setWidth 64 code))

/-- SECTION_RETURN: the section opens, and its clusters return to the reserve, in descending number, and to admission. Their
error counts begin anew (log 51). -/
def State.sectionReturn (s : State) (f : FuncId) : Reply :=
  let n : BitVec 4 := BitVec.ofNat 4 (s.arg f 8 1)
  if (s.sect n).svc ≠ 3 then .bad WRONG_STATE 0x08
  else
    let mine (c : ClusterId) : Bool := clusterSection c == n
    let back := (sectClusters n).reverse.take (s.fw.reserve - s.fw.reserveSet.length)
    let mask := back.foldl (fun m c => m + 2 ^ c.toNat) 0
    let s := (s.setEps n 0).updSect n fun x => { x with svc := 0, gated := false }
    let s := s.updFw fun w =>
      { w with
        fencedClusters := w.fencedClusters.filter fun c => !mine c
        reserveSet := w.reserveSet ++ back
        ueLog := w.ueLog.filter fun e => !mine e.1
        ceLog := w.ceLog.filter fun e => !mine e.1
        clusterFences := w.clusterFences.filter fun e => !mine e.1 }
    .done (s.adminEvent 0x0103 n.toNat (BitVec.ofNat 64 mask))

/-- SECTION_RETURN. -/
def execSectionReturn (f : FuncId) (s : State) : Out := .next (s.perform f 0x0803 true (s.sectionReturn f))

/-! ## The repair reserve and background tests (13 R395) -/

/-- RESERVE changes: raising takes empty clusters in descending number, lowering returns the lowest-numbered; none where too few
can be taken. -/
def State.setReserve (s : State) (n : Nat) : Option State :=
  let w := s.fw
  let all := (List.range 64).map (BitVec.ofNat 6)
  if w.reserve < n then
    let free := all.reverse.filter fun c => s.admits c && (s.cluster c).residents.isEmpty && !(w.plan.any fun e => e.2.2 == c)
    let need := n - w.reserveSet.length
    if free.length < need then none else some (s.updFw fun w => { w with reserve := n, reserveSet := w.reserveSet ++ free.take need })
  else
    some (s.updFw fun w => { w with reserve := n, reserveSet := (all.reverse.filter w.reserveSet.contains).take n })

/-- BTE_CONFIG. -/
def execBteConfig (f : FuncId) (s : State) : Out :=
  let a := s.arg f
  let sram := a 0x10 4
  let hbm := a 0x14 4
  let res := a 0x18 1
  .next (s.perform f 0x0804 true
    (checked BAD_ARG [(decide (sram ≤ 65536) || sram == 0xFFFFFFFF, 0x10), (decide (hbm ≤ 1000000) || hbm == 0xFFFFFFFF, 0x14),
        (decide (res ≤ 8) || res == 0xFF, 0x18)]
      (match if res = 0xFF then some s else s.setReserve res with
       | none => .bad BUDGET 0xFFFF
       | some t => .done (t.updFw fun w =>
           { w with sramRate := if sram = 0xFFFFFFFF then w.sramRate else BitVec.ofNat 32 sram,
                    hbmRate := if hbm = 0xFFFFFFFF then w.hbmRate else BitVec.ofNat 32 hbm }))))

end Sys2Proof.Machine
end

