-- ==== Sys2Proof/Machine/Monitors.lean ====
section
/-! DEFINITION. Temperature and voltage monitors and what they set off, the throttle, adaptive voltage scaling and MON_READ (13
R396, 16 R452, 17 R461-R467, 19 R494). -/

namespace Sys2Proof.Machine

/-- Is the source in a section that is powered off? -/
def State.sectOff (s : State) (n : Nat) : Bool := decide (n < 16) && (s.sect (BitVec.ofNat 4 n)).pstate == 0

/-- ALERT_N is low while a source is above its warning threshold or a monitor outside its warning window. -/
def State.alert (s : State) : State := s.updMon fun m => { m with alertN := !m.warm.isEmpty || !m.vout.isEmpty }

/-! ## Readings (17 R461) -/

/-- TEMP[i]. -/
def State.tempOf (s : State) (i : Nat) : BitVec 16 :=
  if decide (i < 32) && s.sectOff (i / 2) then 0x8000 else s.mon.temp.getD i 0
/-- VOLT[n]. -/
def State.voltOf (s : State) (n : Nat) : BitVec 16 := if s.sectOff n then 0 else s.mon.volt.getD n 0
/-- PROC[n]: a ring oscillator's count of the last conversion. -/
def State.procOf (s : State) (n : Nat) : BitVec 16 := if s.sectOff n then 0 else s.mon.proc.getD n 0

/-- The ring oscillators have converted where 1 ms has passed since the last time; the counts are free values. -/
def State.convertProc (s : State) : State :=
  if (match s.mon.last.find 162 with | some t => decide (t + scMs 1 ≤ s.scnt) | none => true) then
    (s.updMon fun m =>
      { m with proc := (List.range 20).map fun n => (n, Config.procReading n s.free), last := m.last.set 162 s.scnt }).takeFree
  else s

/-- The hotter of a section's two sources. -/
def State.hottest (s : State) (n : Nat) : BitVec 16 :=
  let a := s.tempOf (2 * n)
  let b := s.tempOf (2 * n + 1)
  if a.toInt < b.toInt then b else a

/-- MON_READ. -/
def execMonRead (f : FuncId) (s : State) : Out :=
  let two (g : Nat → BitVec 16) (n : Nat) : List Byte := (List.range n).flatMap fun i => leBytes 2 (g i).toNat
  let s := s.convertProc
  .next (s.perform f 0x0901 true (.ok s (two s.tempOf 38 ++ two s.voltOf 24 ++ two s.procOf 20 ++ [0, 0, 0, 0]) none))

/-! ## Temperature (16 R452, 19 R494) -/

/-- THERMAL to the administrator. -/
def State.thermal (s : State) (i : Nat) (v : BitVec 16) (level : Nat) : State :=
  s.adminEvent 0x0104 i (BitVec.ofNat 64 (v.toNat + 65536 * level))

/-- The in-service section with the highest reading. -/
def State.hottestSection (s : State) : Option Nat :=
  ((List.range 16).filter fun n => (s.sect (BitVec.ofNat 4 n)).svc == 0).foldl (fun (best : Option Nat) n =>
    match best with
    | none => some n
    | some b => if (s.hottest b).toInt < (s.hottest n).toInt then some n else best) none

/-- Is P0 a ×16 port whose link runs at 32 GT/s (12 R336, 19 R493)? -/
def State.wide (s : State) : Bool :=
  let p := s.port 0
  (bits s.hub.straps 0 2 == (0 : BitVec 2) || bits s.hub.straps 0 2 == (3 : BitVec 2)) && p.linkUp && p.gen5 && !p.gen4

/-- The link re-equalises with TEMP[35] at `v`, and its mark becomes `mark`; where that fails it retrains to 16 GT/s. -/
def State.reEqualise (s : State) (ok : Bool) (mark : Nat) : State :=
  s.updPort 0 fun q => if ok then { q with eqMark := BitVec.ofNat 16 mark } else { q with gen4 := true, gen5 := false, eqMark := 0 }

/-- The ×16 link re-equalises as TEMP[35] goes from `old` to `v`; it retrains to 16 GT/s where that fails, or where 115 °C is crossed
while the stewards do not run. -/
def State.equalise (s : State) (old v : Int) (ok : Bool) : State :=
  let mark := (s.port 0).eqMark.toNat
  if ¬ s.wide then s
  else if ¬ s.fwRuns then
    if old < 920 ∧ 920 ≤ v then s.reEqualise false 0 else s
  else if 920 ≤ v then
    let band := 920 + 40 * ((v - 920).toNat / 40)
    if band ≤ mark then s else s.reEqualise ok band
  else if v < 880 ∧ mark ≠ 0 then s.reEqualise ok 0
  else s

/-- Warning and throttle thresholds of a source. -/
def State.thresholds (s : State) (i : Nat) (v : BitVec 16) : State :=
  let t := v.toInt
  let s := if i < 36 ∧ 880 ≤ t ∧ ¬ s.mon.warm.contains i then (s.updMon fun m => { m with warm := m.warm ++ [i] }).thermal i v 1
    else if t < 856 then s.updMon fun m => { m with warm := m.warm.filter (· != i) } else s
  let s := if i < 32 ∧ 960 ≤ t ∧ ¬ s.mon.hot.contains i then (s.updMon fun m => { m with hot := m.hot ++ [i] }).thermal i v 2
    else if t < 936 then s.updMon fun m => { m with hot := m.hot.filter (· != i) } else s
  s.alert

/-- A reading of TEMP[n], in units of 0.125 °C: the stack's sensors give whole degrees (DESIGN CHOICE: rounded down, log 163). -/
def readingOf (n : Nat) (v : BitVec 16) : BitVec 16 := if 36 ≤ n then v &&& 0xFFF8 else v

/-- A reading of 125 °C or more (16 R452): an uncore or stack source enters keeper mode, and for a section source the firmware, as soon
as it runs, fences the hottest section once. -/
def State.tooHot (s : State) (n : Nat) (old : Int) (v : BitVec 16) : State :=
  if 32 ≤ n then s.keeperEnter 3
  else
    let s := if 1000 ≤ old then s else s.thermal n v 3
    if s.mon.fenceHot.contains n ∨ ¬ s.fwRuns then s
    else
      let s := s.updMon fun m => { m with fenceHot := m.fenceHot ++ [n] }
      match s.hottestSection with
      | some k => s.fenceSection (BitVec.ofNat 4 k) 3 none
      | none => s

/-- A conversion of TEMP[n]. -/
def State.convertTemp (s : State) (n : Nat) (v : BitVec 16) (eqOk : Bool) : State :=
  let v := readingOf n v
  let s := s.every n (if n < 36 then scUs 100 else scMs 1)
  if decide (n < 32) && s.sectOff (n / 2) then
    (s.updMon fun m => { m with temp := m.temp.set n 0x8000, warm := m.warm.filter (· != n), hot := m.hot.filter (· != n) }).alert
  else
    let old := (s.mon.temp.getD n 0).toInt
    let t := v.toInt
    let s := (s.updMon fun m => { m with temp := m.temp.set n v, fenceHot := if t < 1000 then m.fenceHot.filter (· != n) else m.fenceHot }).thresholds n v
    let s := if n = 35 then s.equalise old t eqOk else s
    if 1080 ≤ t then s.thermalTrip else if t < 1000 then s else s.tooHot n old v

/-- A conversion of TEMP[i], in units of 0.125 °C. A re-equalisation it leads to may fail. -/
def execTemperatureSample (i : BitVec 6) (v : BitVec 16) (s : State) (eqOk : Bool := true) : Out :=
  let n := i.toNat
  if 37 < n then .fault .noSuchObject
  else if s.clk.porstLow then .next s
  else .next (s.convertTemp n v eqOk)

/-- Every 1 ms the memory controller reads both sensors of the stack, TEMP[36] and TEMP[37]: the higher decides the refresh rate (10
R303), and each is compared as 17 R462 and 16 R452 state. -/
def execStackTemperatureRead (t0 t1 : BitVec 16) (s : State) : Out :=
  if ¬ s.clockRuns .memc then .next s
  else
    let v := max (readingOf 36 t0).toInt (readingOf 37 t1).toInt
    let s := s.updFw fun f => { f with hbmRefresh := refreshRate f.hbmRefresh v }
    .next ((s.convertTemp 36 t0 true).convertTemp 37 t1 true)

/-- While a source of the section is hot, MCUR falls by 1 every 100 µs, down to 4. -/
def execThrottleStep (n : BitVec 4) (s : State) : Out :=
  if s.mon.hot.contains (2 * n.toNat) || s.mon.hot.contains (2 * n.toNat + 1) then
    .next ((s.every (128 + n.toNat) (scUs 100)).updSect n fun x =>
      let cur := if 4 < x.mcur.toNat then x.mcur - 1 else x.mcur
      { x.setCur cur with thr := decide (cur.toNat < x.m.toNat) })
  else .next s

/-- Below 117 °C MCUR rises by 1 every 1 ms up to M. -/
def execThrottleRecoveryStep (n : BitVec 4) (s : State) : Out :=
  let x := s.sect n
  if s.mon.hot.contains (2 * n.toNat) || s.mon.hot.contains (2 * n.toNat + 1) || !decide (x.mcur.toNat < x.m.toNat) then .next s
  else
    .next ((s.every (144 + n.toNat) (scMs 1)).updSect n fun x =>
      { x.setCur (x.mcur + 1) with thr := decide (x.mcur.toNat + 1 < x.m.toNat) })

/-! ## Voltage (16 R452, 17 R463, R464) -/

/-- Is a reading outside a window of half-width `w` (in 0.1 %) around NOM? While NOM changes the window runs from the lower of
the old and new NOM to the higher. -/
def State.outside (s : State) (n w mv : Nat) : Bool :=
  let new := (s.nomOf n).toNat
  let old := match s.mon.slew.find n with | some v => v.toNat | none => new
  decide (1000 * mv < min old new * (1000 - w)) || decide (max old new * (1000 + w) < 1000 * mv)

/-- The window returns to the new NOM alone once the reading has been within 10 mV of it for 10 µs. -/
def State.slewEnd (s : State) (n mv : Nat) : State :=
  if (s.mon.slew.find n).isNone then s
  else
    let nom := (s.nomOf n).toNat
    if mv ≤ nom + 10 ∧ nom ≤ mv + 10 then
      match s.mon.slewSince.find n with
      | none => s.updMon fun m => { m with slewSince := m.slewSince.set n s.scnt }
      | some t => if t + scUs 10 ≤ s.scnt then s.updMon fun m => { m with slew := m.slew.erase n, slewSince := m.slewSince.erase n } else s
    else s.updMon fun m => { m with slewSince := m.slewSince.erase n }

/-- VOLTAGE to the administrator. -/
def State.voltage (s : State) (n mv : Nat) (crit : Bool) : State :=
  s.adminEvent 0x0105 n (BitVec.ofNat 64 (mv + (if (s.nomOf n).toNat < mv then 65536 else 0) + if crit then 131072 else 0))

/-- The warning window: VOLTAGE and ALERT_N when a monitor leaves it; cleared 1 ms after it is back. -/
def State.warnWindow (s : State) (n mv : Nat) : State :=
  if s.outside n (s.mon.warn.getD n 30).toNat mv then
    let s := s.updMon fun m => { m with vbackSince := m.vbackSince.erase n }
    if s.mon.vout.contains n then s else ((s.updMon fun m => { m with vout := m.vout ++ [n] }).voltage n mv false).alert
  else if s.mon.vout.contains n then
    match s.mon.vbackSince.find n with
    | none => s.updMon fun m => { m with vbackSince := m.vbackSince.set n s.scnt }
    | some t =>
      if t + scMs 1 ≤ s.scnt then
        (s.updMon fun m => { m with vout := m.vout.filter (· != n), vbackSince := m.vbackSince.erase n }).alert
      else s
  else s

/-- Half-width of a supply's tolerance in 0.1 % (18 R483). -/
def railTolerance (n : Nat) : Nat := if n = 19 then 50 else 30

/-- Do the safe supplies keep their tolerance (18 R486)? -/
def State.safeRails (s : State) : Bool := (s.mon.vtol.find 22).isNone && (s.mon.vtol.find 23).isNone

/-- A supply outside its tolerance, or its critical window. One of VDD_CORE, VDD_SRAM, VDDQ_HBM or PCIe outside for 10 µs enters keeper
mode, and is lost (16 R452, R459, 18 R486, log 164); without VDD_SAFE the safe outputs are not driven (18 R489). -/
def State.railWindow (s : State) (n : Nat) (out : Bool) : State :=
  let s := s.updMon fun m => { m with vtol := if ¬ out then m.vtol.erase n else if (m.vtol.find n).isSome then m.vtol else m.vtol.set n s.scnt }
  if n = 23 then (s.updKeeper fun k => { k with safeLost := out }).drive
  else if out ∧ (n = 16 ∨ n = 17 ∨ n = 18 ∨ n = 20 ∨ n = 21) ∧ s.mon.vtol.getD n s.scnt + scUs 10 ≤ s.scnt then
    let s := s.updMon fun m => { m with lost := if m.lost.contains n then m.lost else m.lost ++ [n] }
    if s.safeRails then s.keeperEnter 2 else s
  else s

/-- The critical window: a section's monitor fences the section; a supply's window goes with its tolerance. -/
def State.critWindow (s : State) (n mv : Nat) : State :=
  let crit := s.outside n (s.mon.crit.getD n 60).toNat mv
  let s :=
    if ¬ crit then s.updMon fun m => { m with vcrit := m.vcrit.erase n }
    else if (s.mon.vcrit.find n).isNone then (s.updMon fun m => { m with vcrit := m.vcrit.set n s.scnt }).voltage n mv true
    else s
  if 16 ≤ n then s.railWindow n (crit || s.outside n (railTolerance n) mv)
  else if crit && s.fwRuns then s.fenceSection (BitVec.ofNat 4 n) 4 none
  else s

/-! ## Adaptive voltage scaling (17 R465-R467) -/

/-- need[s] of a section at a requested multiple: the fused table is not given, save that M = 16 fits within 850 mV. -/
def State.needOf (s : State) (n : Nat) (m : BitVec 5) : Nat :=
  let v := Config.vmin n m (s.procOf n) (s.hottest n)
  if m.toNat ≤ 16 then min v 835 else v

/-- Sections in service and powered, with their requested multiples. -/
def State.avsSections (s : State) : List (Nat × BitVec 5) :=
  (List.range 16).filterMap fun n =>
    let x := s.sect (BitVec.ofNat 4 n)
    if x.svc = 0 ∧ x.pstate = 3 then some (n, s.mon.mReq.getD n x.m) else none

/-- The section of largest need, lowest number first. -/
def State.neediest (s : State) (l : List (Nat × BitVec 5)) : Option (Nat × Nat) :=
  l.foldl (fun (best : Option (Nat × Nat)) e =>
    let v := s.needOf e.1 e.2
    match best with
    | none => some (e.1, v)
    | some b => if b.2 < v then some (e.1, v) else best) none

/-- The target and the multiples it goes with: while it lies above 850 mV the multiple of the neediest section falls by 1. -/
def State.avsCompute (s : State) : Nat → List (Nat × BitVec 5) → Nat × List (Nat × BitVec 5)
  | 0, l => (850, l)
  | k + 1, l =>
    match s.neediest l with
    | none => (650, l)
    | some (n, v) =>
      let t := (v + 15 + 4) / 5 * 5
      if 850 < t then
        (if l.any fun e => e.1 == n && decide (e.2.toNat ≤ 4) then (850, l)
         else s.avsCompute k (l.map fun e => if e.1 = n then (n, e.2 - 1) else e))
      else (max t 650, l)

/-- Every VDD_CORE window runs from NOM to the new target from the write on (17 R464). -/
def State.slewTo (s : State) (v : BitVec 16) : State :=
  let old := s.nomOf
  let moves := (List.range 17).filter fun n => old n != v
  s.updMon fun m =>
    { m with avsTarget := v,
             slew := moves.foldl (fun (w : Map (BitVec 16)) n => if (w.find n).isSome then w else w.set n (old n)) m.slew,
             slewSince := moves.foldl (fun (w : Map Nat) n => w.erase n) m.slewSince,
             nom := moves.foldl (fun (w : Map (BitVec 16)) n => w.set n v) m.nom }

/-- M is raised once the target has been acknowledged and VOLT[16] has read within 10 mV of it (17 R466). -/
def State.raiseM (s : State) : State :=
  let v := (s.voltOf 16).toNat
  let t := s.mon.avsTarget.toNat
  if s.mon.avsAcked && !s.mon.avsFault && decide (v ≤ t + 10) && decide (t ≤ v + 10) then
    (s.mon.mReq.foldl (fun s e => s.setM (BitVec.ofNat 4 e.1) e.2) s).updMon fun m => { m with mReq := [] }
  else s

/-- A transaction on the AVSBus (17 R465, R466): M is lowered first, and the voltage only when MCUR equals it. An acknowledgement ends
a regulator fault; without one the transaction stays outstanding. -/
def State.avsRun (s : State) (ack : Bool) : State :=
  let s := s.convertProc
  let (t, l) := s.avsCompute 300 s.avsSections
  let v : BitVec 16 := BitVec.ofNat 16 t
  let down := l.filter fun e => decide (e.2.toNat < (s.sect (BitVec.ofNat 4 e.1)).m.toNat)
  let s := down.foldl (fun s e => s.setM (BitVec.ofNat 4 e.1) e.2) s
  let s := s.updMon fun m => { m with mReq := (l.filter fun e => (s.sect (BitVec.ofNat 4 e.1)).m != e.2) }
  if v.toNat < s.mon.avsTarget.toNat ∧ down.any fun e => (s.sect (BitVec.ofNat 4 e.1)).mcur != (s.sect (BitVec.ofNat 4 e.1)).m then s
  else
    let s := (s.slewTo v).emit (.avs v)
    let s := s.updMon fun m => { m with avsAcked := ack, avsFault := m.avsFault && !ack, avsSent := if ack || m.avsFault then none else some s.scnt }
    s.raiseM

/-- Every 10 ms the firmware computes and sets the target, while no transaction is outstanding. `want` is a multiple that the firmware
requests of a section. -/
def execAvsUpdate (ack : Bool) (s : State) (want : Option (BitVec 4 × BitVec 5) := none) : Out :=
  if ¬ s.fwRuns ∨ s.mon.avsFault ∨ s.mon.avsSent.isSome then .next s
  else
    let s := s.every 160 (scMs 10)
    let s := match want with
      | some (n, m) => if 4 ≤ m.toNat ∧ m.toNat ≤ 20 then s.updMon fun x => { x with mReq := x.mReq.set n.toNat m } else s
      | none => s
    .next (s.avsRun ack)

/-- An AVSBus transaction has had no valid response in 1 ms: the voltage stays, M is held at 16 or below, and VOLTAGE is sent. -/
def execRegulatorFault (s : State) : Out :=
  match s.mon.avsSent with
  | none => .next s
  | some t =>
    if ¬ s.fwRuns then .next s
    else
      let s := (s.passTo (t + scMs 1)).updMon fun m => { m with avsFault := true, avsSent := none, mReq := [] }
      let s := allSections.foldl (fun s n => if 16 < (s.sect n).m.toNat then s.setM n 16 else s) s
      .next (s.adminEvent 0x0105 16 (BitVec.setWidth 64 (s.voltOf 16)))

/-- Every 100 ms after a regulator fault the transaction is tried again. -/
def execAvsbusRetry (ack : Bool) (s : State) : Out :=
  .next (if s.fwRuns ∧ s.mon.avsFault then (s.every 160 (scMs 100)).avsRun ack else s)

/-! ## Voltage conversions (16 R452, 17 R463, R466) -/

/-- A conversion of VOLT[n], in mV. -/
def execVoltageSample (n : BitVec 5) (mv : BitVec 16) (s : State) : Out :=
  let k := n.toNat
  if 23 < k then .fault .noSuchObject
  else if s.clk.porstLow then .next s
  else
    let s := s.every (64 + k) (if k < 22 then scUs 1 else scUs 10)
    if s.sectOff k then .next (s.updMon fun m => { m with volt := m.volt.set k 0 })
    else
      let s := (s.updMon fun m => { m with volt := m.volt.set k mv }).slewEnd k mv.toNat
      let s := (s.warnWindow k mv.toNat).critWindow k mv.toNat
      .next (if k = 16 ∧ s.fwRuns then s.raiseM else s)

end Sys2Proof.Machine
end

