-- ==== Sys2Proof/Machine/Time.lean ====
section
/-! DEFINITION. The timebase commands and the discipline servo: TIME_SET, TIME_SOURCE, TICK_SET, a TB_STEP write, offset samples,
holdover and the PTM exchange (05 R141-R148, 13 R393). -/

namespace Sys2Proof.Machine

/-- Change the timebase. -/
def State.updTb (s : State) (f : TimeBase → TimeBase) : State := { s with tb := f s.tb }

/-- TB_RATE as the register holds it: values beyond 200 ppm saturate there (05 R148). -/
def rateHeld (r : Word) : Word := BitVec.ofInt 32 (rateOf r)

/-- TIME_SET steps TB to a value while the source is FREE (05 R144). -/
def State.timeSet (s : State) (v : DWord) : Reply :=
  if s.tb.src ≠ 0 then .bad WRONG_STATE 0x08 else .done (s.stepTb (v - s.tb.now))

/-- TIME_SET. -/
def execTimeSet (f : FuncId) (s : State) : Out :=
  .next (s.perform f 0x0601 true (s.timeSet (BitVec.ofNat 64 (s.arg f 0x10 8))))

/-- TIME_SOURCE restarts the servo on the named source: TB does not step, and holdover is cleared (13 R393). -/
def State.timeSource (s : State) (f : FuncId) : Reply :=
  let src := s.arg f 0x10 1
  let port := s.arg f 0x11 1
  let th := s.arg f 0x14 4
  let trim := s.arg f 0x18 4
  checked BAD_ARG
    [(decide (src ≤ 2), 0x10), (decide (port ≤ 3) && (src != 2 || (s.port (BitVec.ofNat 2 port)).present), 0x11),
     (th == 0 || (decide (1000 ≤ th) && decide (th ≤ 1000000000)), 0x14), (src == 0 || trim == 0, 0x18)]
    (.done (s.updTb fun t =>
      { t with src := BitVec.ofNat 2 src, port := BitVec.ofNat 2 port, holdover := false, lastSample := s.scnt,
               stepth := if th = 0 then 100000 else BitVec.ofNat 32 th,
               rate := if src = 0 then rateHeld (BitVec.ofNat 32 trim) else t.rate }))

/-- TIME_SOURCE. -/
def execTimeSource (f : FuncId) (s : State) : Out := .next (s.perform f 0x0602 true (s.timeSource f))

/-- A changed TK: TC is recomputed as floor(TB / TK), and may be lower than before (05 R146). -/
def State.setTk (s : State) (ns : Nat) : State :=
  s.updTb fun t => { t with tk := BitVec.ofNat 18 (ns / 5), tc := BitVec.ofNat 64 (t.now.toNat / (5 * (BitVec.ofNat 18 (ns / 5)).toNat)) }

/-- TICK_SET changes TK while every context is FREE (05 R146). -/
def State.tickSet (s : State) (ns : Nat) : Reply :=
  if s.ctxs.any fun e => e.2.state != FREE then .bad WRONG_STATE 0x08
  else if ns % 5 ≠ 0 ∨ ns < 125 ∨ 1000000 < ns then .bad BAD_ARG 0x10
  else .done (s.setTk ns)

/-- TICK_SET. -/
def execTickSet (f : FuncId) (s : State) : Out := .next (s.perform f 0x0603 true (s.tickSet (s.arg f 0x10 4)))

/-- A write to TB_STEP (05 R148). -/
def execTbStep (v : DWord) (s : State) : Out := .next (s.stepTb v)

/-! ## The servo (05 R143) -/

/-- A valid sample ends holdover. -/
def State.lockTime (s : State) : State :=
  let h := s.tb.holdover
  let s := s.updTb fun t => { t with holdover := false, lastSample := s.scnt }
  if h then s.adminEvent 0x0021 0 0 else s

/-- An offset sample of the current source: above the step threshold TB steps by the offset, otherwise TB_RATE changes. -/
def State.sample (s : State) (off : DWord) : State :=
  if ¬ s.fwRuns ∨ s.tb.src = 0 then s
  else
    let s := s.lockTime
    if s.tb.stepth.toNat < off.toInt.natAbs then s.stepTb off
    else s.updTb fun t => { t with rate := rateHeld (Config.servoRate off t.rate) }

/-- An offset sample. -/
def execTimeSample (off : DWord) (s : State) : Out := .next (s.sample off)

/-- No valid sample for 1 s: the servo enters holdover, keeps TB_RATE, and tells the administrator. -/
def execHoldoverTimeout (s : State) : Out :=
  if ¬ s.fwRuns ∨ s.tb.src = 0 ∨ s.tb.holdover then .next s
  else
    .next (((s.passTo (s.tb.lastSample + scMs 1000)).updTb fun t => { t with holdover := true }).adminEvent 0x0020 0 0)

/-- Every 10 ms the part runs one PTM exchange on the named port, which yields a sample (05 R142). -/
def execPtmExchange (off : DWord) (s : State) : Out :=
  if ¬ s.fwRuns ∨ s.tb.src ≠ 2 ∨ ¬ (s.port s.tb.port).linkUp then .next s
  else .next (((s.every 161 (scMs 10)).emit (.ptm s.tb.port)).sample off)

end Sys2Proof.Machine
end

