-- ==== Sys2Proof/Machine/MbDevice.lean ====
section
/-! DEFINITION. DEV_INFO, DEV_HEALTH and ROUTE_EPOCH (11 R328, R329, 13 R382, R383). -/

namespace Sys2Proof.Machine

/-- `n` bytes of a number. -/
abbrev le (n v : Nat) : List Byte := leBytes n v

/-- A word with bit `n` set where `p` accepts `n`. -/
def maskOf (k : Nat) (p : Nat → Bool) : Nat := ((List.range k).filter p).foldl (fun a n => a + 2 ^ n) 0

/-- Sections with `p` as a mask. -/
def State.sectMask (s : State) (p : Section → Bool) : Nat := maskOf 16 fun n => p (s.sect (BitVec.ofNat 4 n))

/-- The answer to DEV_INFO (13 R382). -/
def State.devInfo (s : State) (f : FuncId) : List Byte :=
  le 2 0x0C64 ++ [0xB0, 2] ++ le 4 s.fw.running.toNat ++ le 1 f.toNat ++ le 1 s.hub.admin.toNat ++
    le 1 (s.hub.straps.toNat % 16) ++ le 1 (maskOf 4 fun p => (s.port (BitVec.ofNat 2 p)).present) ++
    le 2 (s.sectMask (·.svc == 0)) ++ le 1 s.fw.reserve ++ [0] ++ le 8 0x380000000 ++ le 8 0x80000000 ++ le 8 0x380000000 ++
    le 4 s.tkNs ++ le 4 0

/-- DEV_INFO. -/
def execDevInfo (f : FuncId) (s : State) : Out := .next (s.perform f 0x0001 true (.ok s (s.devInfo f) none))

/-- The highest temperature of the logic die: TEMP[0] to TEMP[35], powered-off sources left out. -/
def State.tmax (s : State) : BitVec 16 :=
  (((List.range 36).map s.tempOf).filter (· != 0x8000)).foldl (fun (a : BitVec 16) v => if a.toInt < v.toInt then v else a) 0x8000

/-- The answer to DEV_HEALTH (13 R383). -/
def State.devHealth (s : State) (f : FuncId) : List Byte :=
  let u := s.used f
  le 2 u.ctxs ++ le 2 0 ++ [u.tasks, u.matching, u.dl, u.chan, u.spill, u.reorder].flatMap (le 4) ++ le 2 s.tmax.toNat ++
    le 1 s.fw.hbmRefresh.toNat ++ le 1 (s.tb.src.toNat + if s.tb.holdover then 4 else 0) ++
    le 2 (s.sectMask fun x => x.svc != 0) ++ le 2 (s.sectMask fun x => x.pstate == 0) ++
    le 1 (if s.keeper.table.isSome then 1 else 0) ++ le 3 0 ++ le 4 (s.hub.steward.lost.toNat + s.hub.keeper.lost.toNat) ++ le 4 0

/-- DEV_HEALTH. -/
def execDevHealth (f : FuncId) (s : State) : Out := .next (s.perform f 0x0002 true (.ok s (s.devHealth f) none))

/-- ROUTE_EPOCH: once no worm of the inactive epoch exists, the new tables go into the inactive banks; where every route passes
the check, FLIP is written, and otherwise CUR stays (11 R329). -/
def State.routeEpoch (s : State) (f : FuncId) : Reply :=
  let tab (r : Nat) : DWord := BitVec.ofNat 64 (s.arg f (0x10 + 8 * r) 8)
  let clear : Bool := (List.range 16).all fun r => (List.range 16).all fun d => !(tab r).getLsbD (4 * d + 3)
  if s.stale then .later s
  else if clear && tablesOk tab then
    let s := s.newTables tab
    .ok s (le 1 (if s.spine.cur then 1 else 0)) none
  else .bad BAD_ARG 0x10

/-- ROUTE_EPOCH. -/
def execRouteEpoch (f : FuncId) (s : State) : Out := .next (s.perform f 0x0805 true (s.routeEpoch f))

end Sys2Proof.Machine
end

