-- ==== Sys2Proof/Machine/Ethernet.lean ====
section
/-! DEFINITION. Process I/O: received frames, the classifier, held frames, egress templates, gate control lists and transmission
(14 R401-R418). -/

namespace Sys2Proof.Machine

/-! ## Ports (14 R401-R403, 15 R419) -/

/-- Is ETH out of reset, with power? -/
def State.ethUp (s : State) : Bool := !(s.xing 4).inReset

/-- May frames pass, that is, outside keeper mode (14 R418)? -/
def State.ethRuns (s : State) : Bool := s.ethUp && !s.keeper.keeper

/-- TICK cycles until TB reaches `t`. -/
def State.ticksToTb (s : State) (t : DWord) : Nat :=
  let need : Int := (t - s.tb.now).toInt * 4294967296 - (s.tb.frac.toNat : Int)
  let step : Int := 5 * 4294967296 + rateOf s.tb.rate
  ((need + step - 1) / step).toNat

/-- Time passes until TB is `t` or later. -/
def State.passTb (s : State) (t : DWord) : State := if (t - s.tb.now).toInt ≤ 0 then s else s.pass (s.ticksToTb t)

/-- Rate of a port in units of 100 kb/s, by SPEED. -/
def speedRate (v : BitVec 3) : Nat :=
  match v.toNat with
  | 0 => 100
  | 1 => 1000
  | 2 => 10000
  | 3 => 25000
  | 4 => 50000
  | _ => 100000

/-- SPEED for the speed field of a USXGMII auto-negotiation word (log 52). -/
def speedOf (w : BitVec 16) : Option (BitVec 3) :=
  match (bits w 9 3).toNat with
  | 0 => some 0
  | 1 => some 1
  | 2 => some 2
  | 3 => some 5
  | 4 => some 3
  | 5 => some 4
  | _ => none

/-- The firmware reaches the PHYs over MDIO when a link changes: frames of clause 22 or clause 45, 32 ones and the start bits first. When
it asks, and what, is not stated (log 166). -/
def State.mdio (s : State) : State :=
  if ¬ s.fwRuns then s
  else
    ((Config.mdioFrames s.free).foldl (fun s q =>
      s.emit (.mdio ((0xFFFFFFFF : Word) ++ (if q.1 then 0 else 1 : BitVec 2) ++ q.2))) s).takeFree

/-- An auto-negotiation word sets the rate and brings the link up, or holds the port down for half duplex. -/
def execLinkNegotiation (p : BitVec 2) (w : BitVec 16) (s : State) : Out :=
  if ¬ s.ethUp then .next s
  else if ¬ w.getLsbD 15 then .next (s.updEthPort p fun q => { q with link := false }).mdio
  else if ¬ w.getLsbD 12 then .next (s.updEthPort p fun q => { q with link := false, hdx := true }).mdio
  else
    match speedOf w with
    | none => .next (s.updEthPort p fun q => { q with link := false, hdx := false }).mdio
    | some v => .next (s.updEthPort p fun q => { q with link := true, hdx := false, speed := v }).mdio

/-- A port's link goes down. -/
def execEthLinkLoss (p : BitVec 2) (s : State) : Out := .next (s.updEthPort p fun q => { q with link := false }).mdio

/-! ## Frames (14 R402, R407) -/

/-- A frame after its tags have been removed: the bytes, the TCI of its C-tag, the sequence number of its R-TAG. -/
structure Stripped where
  bytes : List Byte
  tci : Option (BitVec 16)
  seq : Option (BitVec 16)
  deriving DecidableEq, Repr

/-- `n` bytes at offset `o`, most significant first. -/
def rdBe (b : List Byte) (o n : Nat) : Nat := beNat ((b.drop o).take n)

/-- One C-tag, then one R-TAG, are removed (log 53). -/
def stripTags (b : List Byte) : Stripped :=
  let (b, tci) := if rdBe b 12 2 = 0x8100 then (b.take 12 ++ b.drop 16, some (BitVec.ofNat 16 (rdBe b 14 2))) else (b, none)
  if rdBe b 12 2 = 0xF1C1 then { bytes := b.take 12 ++ b.drop 18, tci := tci, seq := some (BitVec.ofNat 16 (rdBe b 16 2)) }
  else { bytes := b, tci := tci, seq := none }

/-! ## Rules (14 R406-R409) -/

/-- PORTS, with ELIM as bit 4. -/
def Rule.ports (r : Rule) : BitVec 4 := bits r.raw 0 4
def Rule.elim (r : Rule) : Bool := r.raw.getLsbD 4
/-- A bit of MSEL. -/
def Rule.msel (r : Rule) (k : Nat) : Bool := r.raw.getLsbD (8 + k)
/-- WOFF, VOFF and IOFF. -/
def Rule.woff (r : Rule) : Nat := fldN r.raw 0x0C 2
def Rule.voff (r : Rule) : Nat := fldN r.raw 0x26 2
def Rule.ioff (r : Rule) : Nat := fldN r.raw 0x2A 2
/-- VLEN. -/
def Rule.vlen (r : Rule) : Nat := fldN r.raw 0x28 1
/-- A bit of VFLAGS. -/
def Rule.vflag (r : Rule) (k : Nat) : Bool := r.raw.getLsbD (8 * 0x29 + k)
/-- KIND, PORT, CHAN, PLACE and NODE. -/
def Rule.kind (r : Rule) : BitVec 3 := bits r.raw (8 * 0x24 + 2) 3
def Rule.port (r : Rule) : BitVec 2 := bits r.raw (8 * 0x24) 2
def Rule.chan (r : Rule) : BitVec 3 := bits r.raw (8 * 0x24 + 5) 3
def Rule.place (r : Rule) : Nat := fldN r.raw 0x25 1
def Rule.node (r : Rule) : BitVec 20 := bits r.raw (8 * 0x20) 20
/-- RECTO in SPINE cycles. -/
def Rule.recto (r : Rule) : Nat := scMs (fldN r.raw 0x30 2)

/-- The 8-byte window of a rule: byte for byte in wire order. -/
def Rule.windowHit (r : Rule) (b : List Byte) : Bool :=
  decide (r.woff + 8 ≤ b.length) && (List.range 8).all fun i =>
    let m : Byte := fld r.raw (0x18 + i) 1
    (b.getD (r.woff + i) 0 ^^^ fld r.raw (0x10 + i) 1) &&& m == 0

/-- Does a frame received on port `p` match the rule? -/
def Rule.hits (r : Rule) (p : BitVec 2) (v : Stripped) : Bool :=
  r.ports.getLsbD p.toNat &&
    (!r.msel 0 || (List.range 6).all fun i => v.bytes.getD i 0 == (fld r.raw (6 + i) 1 : Byte)) &&
    (!r.msel 1 || rdBe v.bytes 12 2 == fldN r.raw 2 2) &&
    (!r.msel 2 || match v.tci with | some t => bits t 0 12 == (bits r.raw 32 12 : BitVec 12) | none => false) &&
    (!r.msel 3 || v.tci.isNone) && (!r.msel 4 || r.windowHit v.bytes)

/-- The lowest-numbered rule that matches. -/
def State.ruleFor (s : State) (p : BitVec 2) (v : Stripped) : Option (Nat × Rule) := s.eth.rules.first fun _ r => r.hits p v

/-- Do the value and INST fields lie within the frame? -/
def Rule.fits (r : Rule) (b : List Byte) : Bool :=
  decide (r.voff + r.vlen ≤ b.length) && (!r.vflag 2 || r.kind == 2 || decide (r.ioff + 2 ≤ b.length))

/-- VALUE: the bytes in the order VFLAGS gives, zero-extended or sign-extended. -/
def Rule.value (r : Rule) (b : List Byte) : DWord :=
  let f := (b.drop r.voff).take r.vlen
  let v := if r.vflag 0 then beNat f else leNat f
  if r.vflag 1 ∧ 2 ^ (8 * r.vlen - 1) ≤ v then BitVec.ofNat 64 (v + (2 ^ 64 - 2 ^ (8 * r.vlen))) else BitVec.ofNat 64 v

/-- The token a frame makes; a release tick is floor(timestamp / TK) + RELOFF. -/
def State.ruleToken (s : State) (r : Rule) (b : List Byte) : Token :=
  let inst : BitVec 16 :=
    if r.kind = 2 then BitVec.setWidth 16 r.chan
    else if r.vflag 2 then BitVec.ofNat 16 (rdBe b r.ioff 2)
    else r.arrivals
  { tag := mkTag r.owner r.node inst r.port r.kind (BitVec.ofNat 6 r.place), value := r.value b,
    tick := if r.vflag 3 then some (BitVec.ofNat 64 (s.tb.now.toNat / s.tkNs + fldN r.raw 0x2C 4)) else none }

/-! ## Elimination (14 R417) -/

/-- How far a sequence number lies below the newest one. -/
def below (newest q : BitVec 16) : Int := (newest - q).toInt

/-- Is the frame a copy: its number in the history, or more than 32 below the newest? -/
def Rule.isCopy (r : Rule) (q : BitVec 16) : Bool :=
  r.hist.contains q || match r.hist with | n :: _ => decide (32 < below n q) | [] => false

/-- A number joins a history that is sorted newest first. -/
def histInsert (q : BitVec 16) : List (BitVec 16) → List (BitVec 16)
  | [] => [q]
  | h :: t => if below h q < 0 then q :: h :: t else h :: histInsert q t

/-- A frame has come for a rule: its history is reset where RECTO has passed without one, and takes the number. -/
def Rule.seen (r : Rule) (sc : Nat) (seq : Option (BitVec 16)) : Rule × Bool :=
  if ¬ r.elim then (r, false)
  else
    let r := if r.lastSc + r.recto ≤ sc then { r with hist := [] } else r
    let r := { r with lastSc := sc }
    match seq with
    | none => (r, false)
    | some q => if r.isCopy q then (r, true) else ({ r with hist := (histInsert q r.hist).take 32 }, false)

/-- After RECTO ms without a frame the history is reset. -/
def execEliminationResetTimeout (n : BitVec 12) (s : State) : Out :=
  match s.eth.rules.find n.toNat with
  | none => .next s
  | some r =>
    if ¬ r.elim ∨ r.hist.isEmpty then .next s
    else
      .next ((s.passTo (r.lastSc + r.recto)).updEth fun e => { e with rules := e.rules.set n.toNat { r with hist := [] } })

/-! ## Injection (02 R44, R46, R51, R54, 14 R409, R410) -/

/-- Count a rule. -/
def State.countRule (s : State) (n : Nat) (f : RuleCnt → RuleCnt) : State := s.updEth fun e => { e with ruleCnt := e.ruleCnt.upd n {} f }

/-- The token enters the spine from process I/O and counts in INFLIGHT. -/
def State.ethInject (s : State) (tok : Token) : State :=
  let (dr, de) := s.tokenDest tok.tag
  let s := (s.accepted tok.tag).inflightAdd (tagCtx tok.tag) 1
  let s := s.updEth fun e => { e with credits := { e.credits with avail := e.credits.avail - tok.flits } }
  s.pushBuf 11 10
    { dr := dr, de := de, vc := 0, type := if tok.tick.isSome then 1 else 0, epoch := false, sr := 11, se := 6, pri := false,
      flits := tokenFlits tok }

/-- What becomes of the token of a rule: it is in the spine or the broke queue, or it cannot be injected yet. -/
def State.ethEnter (s : State) (refuse : Bool) (tok : Token) : Option State :=
  let x := tagCtx tok.tag
  let reject (cause : Byte) : Option State := some (s.toBroke tok cause x false)
  if tok.tick.isSome && tagKind tok.tag == 2 then reject RESERVED_FIELD
  else if !s.entryAccepts x || refuse then reject UNDELIVERABLE
  else if s.entryHeld tok.tag then none
  else if !s.hbStage3 tok.tag then reject RESERVED_FIELD
  else if (match tok.tick with | some k => decide ((k - s.tb.tc).toInt > 16777216) | none => false) then reject HORIZON
  else if tagKind tok.tag = 2 then
    let ch : BitVec 3 := bits (tagInst tok.tag) 0 3
    match s.declared x (bits (tagNode tok.tag) 0 16) ch with
    | none => reject RESERVED_FIELD
    | some (c, d) =>
      let h := (s.cluster c).chan d ch
      if s.clusterAt x (tagPlace tok.tag).toNat ≠ c then reject RESERVED_FIELD
      else if s.epShut c then some (s.creditRefused c x [tok])
      else if h.openTo false && decide (1 ≤ h.free) && decide (1 ≤ s.eth.credits.avail) then
        some ((s.updChan c d ch fun h => { h with coming := h.coming + 1, singles := h.singles ++ [0xB6] }).ethInject tok)
      else none
  else if tok.flits ≤ s.eth.credits.avail then
    some (s.ethInject { tok with tag := if tok.tick.isSome then putBits tok.tag 10 (1 : BitVec 3) else tok.tag })
  else none

/-- Bytes of the frames held in the ingress buffer of a port. -/
def State.heldBytes (s : State) (p : BitVec 2) : Nat :=
  s.eth.waiting.foldl (fun a e => a + ((e.2.filter (·.port == p)).map (·.size)).sum) 0

/-- A frame is discarded at the wire. -/
def State.overflow (s : State) (p : BitVec 2) : State := s.updEthPort p fun q => { q with ovf := satInc q.ovf }

/-- The token of a frame that rule `n` has taken is made: it enters, or waits behind those that wait, up to 8 of them. -/
def State.ruleTake (s : State) (n : Nat) (r : Rule) (p : BitVec 2) (size : Nat) (b : List Byte) : State :=
  let tok := s.ruleToken r b
  let held := s.eth.waiting.getD n []
  let go := if held.isEmpty then s.ethEnter r.refuse tok else none
  let r' := { r with arrivals := r.arrivals + 1 }
  let setR (s : State) (r : Rule) : State := (s.updEth fun e => { e with rules := e.rules.set n r }).countRule n fun c => { c with hits := satInc c.hits }
  match go with
  | some t => setR t r'
  | none =>
    if held.length < 8 then
      (setR s r').updEth fun e => { e with waiting := e.waiting.set n (held ++ [{ token := tok, port := p, size := size }]) }
    else ((s.updEth fun e => { e with rules := e.rules.set n r }).overflow p).countRule n fun c => { c with drop := satInc c.drop }

/-- A frame is classified (14 R408, R417). -/
def State.classify (s : State) (p : BitVec 2) (size : Nat) (v : Stripped) : State :=
  let s := s.updEthPort p fun q => { q with rx := satInc q.rx }
  match s.ruleFor p v with
  | none => s.updEthPort p fun q => { q with noRule := satInc q.noRule }
  | some (n, r) =>
    let (r, copy) := r.seen s.scnt v.seq
    let s := s.updEth fun e => { e with rules := e.rules.set n r }
    if copy then s.countRule n fun c => { c with dup := satInc c.dup }
    else if ¬ r.fits v.bytes then s.countRule n fun c => { c with short := satInc c.short }
    else s.ruleTake n r p size v.bytes

/-! ## gPTP (14 R404, R405) -/

/-- Bytes in a queue, with the FCS of each frame. -/
def EthPort.queued (e : EthPort) (q : Nat) : Nat := ((e.queues.getD q []).map fun b => b.length + 4).sum

/-- A frame joins a queue of a port. -/
def State.queueFrame (s : State) (p : BitVec 2) (q : Nat) (b : List Byte) : State :=
  s.updEthPort p fun e => { e with queues := e.queues.upd q [] (· ++ [b]) }

/-- Gates of the 32 KB of a queue: is there room for a frame and its FCS (14 R415)? -/
def State.queueRoom (s : State) (p : BitVec 2) (q : Nat) (b : List Byte) : Bool :=
  decide ((s.ethPort p).queued q + b.length + 4 ≤ 32768)

/-- The firmware's gPTP frames join queue 7 of a port, each where it has room; what follows their EtherType is not stated (log 167). -/
def State.sendGptp (s : State) (p : BitVec 2) (l : List (List Byte)) : State :=
  l.foldl (fun s b =>
    let f := b.take 12 ++ [0x88, 0xF7] ++ b.drop 12
    if s.queueRoom p 7 f then s.queueFrame p 7 f else s) s

/-- The state that BMCA gives an enabled port: time receiver on the port that TIME_SOURCE names, passive on the others, and while the
source is FREE or PTM master, or passive where it hears a better clock, of which the manual states nothing (log 167). -/
def State.asRole (s : State) (p : BitVec 2) : BitVec 2 :=
  if ¬ (s.ethPort p).link then 0
  else if s.tb.src = 1 then (if s.tb.port = p then 2 else 3)
  else if Config.freeBit s.free 5 then 1 else 3

/-- BMCA runs on a port. -/
def State.bmca (s : State) (p : BitVec 2) : State := (s.updEthPort p fun e => { e with asRole := s.asRole p }).takeFree

/-- The 802.1AS engine acts on a port of its own: peer-delay requests, and a grandmaster's Sync, Follow_Up and Announce frames. -/
def State.gptpOwn (s : State) (p : BitVec 2) : State :=
  let s := s.bmca p
  let s := (s.sendGptp p (Config.gptpPdelay s.free)).takeFree
  if (s.ethPort p).asRole = 1 then (s.sendGptp p (Config.gptpSync s.free)).takeFree else s

/-- A gPTP frame goes to the firmware's engine, whose answers go to queue 7; it may yield an offset sample. -/
def State.gptp (s : State) (p : BitVec 2) (off : Option DWord) : State :=
  if ¬ s.fwRuns then s
  else
    let s := s.bmca p
    let s := (s.sendGptp p (Config.gptpAnswer s.free)).takeFree
    match off with
    | some v => if s.tb.src = 1 ∧ s.tb.port = p then s.sample v else s
    | none => s

/-- A frame with EtherType 0x88F7 comes; with `own`, none has come, and the engine's own interval on the port ends. -/
def execGptpFrame (p : BitVec 2) (off : Option DWord) (s : State) (own : Bool := false) : Out :=
  .next
    (if !s.ethRuns || !(s.ethPort p).link then s
     else if own then (if s.fwRuns then s.gptpOwn p else s)
     else s.gptp p off)

/-- A frame is received: discarded under 14 R402, or for want of buffer space, or classified. -/
def execFrameReceive (p : BitVec 2) (fr : Frame) (s : State) : Out :=
  let size := fr.bytes.length + 4
  if !s.ethUp || !(s.ethPort p).link then .next s
  else if !fr.fcsOk || fr.pause || decide (size < 64) || decide (2048 < size) then
    .next (s.updEthPort p fun q => { q with bad := satInc q.bad })
  else if s.keeper.keeper then .next s
  else
    let v := stripTags fr.bytes
    if rdBe v.bytes 12 2 = 0x88F7 then .next (s.gptp p none)
    else if 131072 < s.heldBytes p + size then .next (s.overflow p)
    else .next (s.classify p size v)

/-- The first frame held for a rule makes its token once it can be injected, whatever has become of the rule. -/
def execHeldFrameInject (n : BitVec 12) (s : State) : Out :=
  if ¬ s.ethRuns then .next s
  else
    match s.eth.waiting.getD n.toNat [] with
    | [] => .next s
    | h :: rest =>
      match s.ethEnter (match s.eth.rules.find n.toNat with | some r => r.refuse | none => false) h.token with
      | none => .next s
      | some t =>
        .next (t.updEth fun e => { e with waiting := if rest.isEmpty then e.waiting.erase n.toNat else e.waiting.set n.toNat rest })

/-! ## Gate control lists (14 R414, R415) -/

/-- The first instant `base + n * cycle`, for any integer n, at or after `t`. -/
def instantFrom (base t : DWord) (cycle : Nat) : DWord :=
  let d := (t - base).toInt
  let c : Int := cycle
  base + BitVec.ofInt 64 ((d + c - 1) / c * c)

/-- Is the gate of a queue open: all are while no list operates. -/
def EthPort.gateOpen (e : EthPort) (q : Nat) : Bool :=
  match e.list with
  | none => true
  | some l => ((l.entries.getD e.entry (0xFF, 0)).1).getLsbD q

/-- Nanoseconds that the gate of a queue stays open after the entry in force; none when every entry has it open. -/
def GateList.openFor (l : GateList) (q : Nat) : Nat → Nat → Option Nat
  | 0, _ => none
  | n + 1, k =>
    let e := l.entries.getD (k % l.entries.length) (0, 0)
    if e.1.getLsbD q then (l.openFor q n (k + 1)).map (· + e.2.toNat) else some 0

/-- TB at which the open gate of a queue closes. -/
def EthPort.gateEnd (e : EthPort) (q : Nat) : Option DWord :=
  match e.list with
  | none => none
  | some l => (l.openFor q l.entries.length (e.entry + 1)).map fun n => e.entryEnd + BitVec.ofNat 64 n

/-- A gate interval ends, and the next entry's gates apply. -/
def execGateIntervalEnd (p : BitVec 2) (s : State) : Out :=
  let e := s.ethPort p
  match e.list with
  | none => .next s
  | some l =>
    let k := (e.entry + 1) % l.entries.length
    .next ((s.passTb e.entryEnd).updEthPort p fun q =>
      { q with entry := k, entryEnd := e.entryEnd + BitVec.setWidth 64 (l.entries.getD k (0, 0)).2 })

/-- A newly installed list begins to operate at its first cycle start. -/
def execGateListStart (p : BitVec 2) (s : State) : Out :=
  match (s.ethPort p).pendingList with
  | none => .next s
  | some (l, t) =>
    .next ((s.passTb t).updEthPort p fun q =>
      { q with list := some l, pendingList := none, entry := 0, entryEnd := t + BitVec.setWidth 64 (l.entries.getD 0 (0, 0)).2 })

/-! ## Templates (14 R411-R413, R416) -/

/-- Fields of a template. -/
def Template.tport (t : Template) : BitVec 2 := bits t.raw 0 2
def Template.red (t : Template) : Bool := t.raw.getLsbD 2
def Template.queue (t : Template) : Nat := fldN t.raw 1 1
def Template.flag (t : Template) (k : Nat) : Bool := t.raw.getLsbD (32 + k)
def Template.vlen (t : Template) : Nat := fldN t.raw 5 1
def Template.voff (t : Template) : Nat := fldN t.raw 6 2
def Template.flen (t : Template) : Nat := fldN t.raw 0x0A 2
def Template.loff (t : Template) : DWord := BitVec.ofNat 64 (fldN t.raw 0x0C 4)
def Template.ioff (t : Template) : Nat := fldN t.raw 0x10 2

/-- The ports a frame of the template leaves by: both of the pair where it is replicated. -/
def Template.outPorts (t : Template) : List (BitVec 2) := if t.red then [t.tport &&& 2, t.tport ||| 1] else [t.tport]

/-- Bytes put in place of those at an offset. -/
def overlay (b : List Byte) (o : Nat) (v : List Byte) : List Byte := b.take o ++ v ++ b.drop (o + v.length)

/-- The frame of a value, without its FCS: value and INST written, tags inserted, padded to 60 bytes. -/
def Template.frame (t : Template) (v : DWord) (inst : Byte) : List Byte :=
  let image := (List.range t.flen).map fun i => (fld t.raw (0x20 + i) 1 : Byte)
  let b := overlay image t.voff (if t.flag 2 then beBytes t.vlen v.toNat else leBytes t.vlen v.toNat)
  let b := if t.ioff = 0xFFFF then b else overlay b t.ioff [inst]
  let tags := (if t.flag 0 then [0x81, 0x00] ++ beBytes 2 (fldN t.raw 8 2) else []) ++
    (if t.red then [0xF1, 0xC1, 0, 0] ++ beBytes 2 t.rtag.toNat else [])
  let b := b.take 12 ++ tags ++ b.drop 12
  b ++ List.replicate (60 - b.length) 0

/-- The launch instant of a TIMED value on a port. -/
def State.launchOn (s : State) (t : Template) (p : BitVec 2) : Option DWord :=
  ((s.ethPort p).list).map fun l => instantFrom (l.base + t.loff) t.launch l.cycle.toNat

/-- Count a template. -/
def State.countTpl (s : State) (n : Nat) (f : TplCnt → TplCnt) : State := s.updEth fun e => { e with tplCnt := e.tplCnt.upd n {} f }

/-- Write a template. -/
def State.setTpl (s : State) (n : Nat) (t : Template) : State := s.updEth fun e => { e with templates := e.templates.set n t }

/-- The copy of a template's frame for port `p` enters its queue where there is room; with the last copy the staging place
empties. -/
def State.launchCopy (s : State) (n : Nat) (p : BitVec 2) : State :=
  match s.eth.templates.find n with
  | none => s
  | some t =>
    match t.staged with
    | none => s
    | some (v, inst) =>
      let b := t.frame v inst
      if !t.toGo.contains p || !s.queueRoom p t.queue b then s
      else
        let rest := t.toGo.filter (· != p)
        let t' := if rest.isEmpty then { t with toGo := [], staged := none, rtag := if t.red then t.rtag + 1 else t.rtag } else { t with toGo := rest }
        (((s.queueFrame p t.queue b).setTpl n t').countTpl n fun c => { c with sent := satInc c.sent })

/-- Is the copy for port `p` due to enter its queue: at once, or from its launch instant? -/
def State.copyDue (s : State) (t : Template) (p : BitVec 2) : Bool :=
  t.toGo.contains p && (!t.timed || match s.launchOn t p with | some i => decide ((i - s.tb.now).toInt ≤ 0) | none => true)

/-- Copies that wait for room in a queue of port `p` enter it. -/
def State.refill (s : State) (p : BitVec 2) : State :=
  s.eth.templates.foldl (fun s e =>
    match s.eth.templates.find e.1 with
    | some t => if s.copyDue t p then s.launchCopy e.1 p else s
    | none => s) s

/-- The sequence number that the next value of a template takes: a copy that has left has used the one before (14 R416). -/
def Template.nextTag (t : Template) : BitVec 16 := if t.red && t.staged.isSome && t.toGo != t.outPorts then t.rtag + 1 else t.rtag

/-- A value reaches the staging place of a template. -/
def State.stage (s : State) (n : Nat) (t : Template) (tok : Token) : State :=
  let s := s.inflightSub (tagCtx tok.tag) 1
  let inst : Byte := bits (tagInst tok.tag) 0 8
  let t' := { t with staged := some (tok.value, inst), granted := false, launch := s.tb.now + 1000, toGo := t.outPorts, rtag := t.nextTag }
  if ¬ t.timed then t'.outPorts.foldl (fun s p => s.launchCopy n p) (s.setTpl n t')
  else
    let s := if t.staged.isSome then s.countTpl n fun c => { c with overwrite := satInc c.overwrite } else s
    let missed := t.outPorts.any fun p =>
      match (s.ethPort p).list with
      | some l => instantFrom (l.base + t.loff) s.tb.now l.cycle.toNat != instantFrom (l.base + t.loff) t'.launch l.cycle.toNat
      | none => false
    let s := if missed then s.countTpl n fun c => { c with late := satInc c.late } else s
    s.setTpl n t'

/-- A reel-value token for a claimed ring number reaches process I/O. -/
def execTemplateTokenArrival (s : State) : Out :=
  match s.eth.inq with
  | [] => .next s
  | p :: rest =>
    let tok := packetToken p
    let x := tagCtx tok.tag
    let s := s.updEth fun e => { e with inq := rest }
    match s.templateFor x (bits (tagNode tok.tag) 0 6) (tagInst tok.tag) with
    | none => .next (s.reelReject tok)
    | some (n, t) => if s.ethRuns && s.reelAccepts x then .next (s.stage n t tok) else .next ((s.lostCredit tok.tag).reelReject tok)

/-- Of the ports a TIMED frame has still to leave by, the one whose instant comes first, with that instant. -/
def State.firstLaunch (s : State) (t : Template) (ports : List (BitVec 2)) : Option (BitVec 2 × DWord) :=
  ports.foldl (fun (best : Option (BitVec 2 × DWord)) p =>
    match best, s.launchOn t p with
    | none, some i => some (p, i)
    | some b, some i => if (i - b.2).toInt < 0 then some (p, i) else some b
    | b, none => b) none

/-- Has the queue of a template on a port room for the staged frame? -/
def State.copyRoom (s : State) (t : Template) (p : BitVec 2) : Bool :=
  match t.staged with
  | some (v, inst) => s.queueRoom p t.queue (t.frame v inst)
  | none => false

/-- At its launch instant a TIMED template's frame is queued: the copy whose instant comes first, of those whose queues have room; one
whose queue is full enters it when the port transmits, and holds no other back. -/
def execTimedLaunch (tpl : BitVec 11) (s : State) : Out :=
  match s.eth.templates.find tpl.toNat with
  | none => .next s
  | some t =>
    if ¬ s.ethRuns ∨ ¬ t.timed ∨ t.staged.isNone then .next s
    else
      match (s.firstLaunch t (t.toGo.filter (s.copyRoom t))).or (s.firstLaunch t t.toGo) with
      | none => .next s
      | some (p, i) => .next ((s.passTb i).launchCopy tpl.toNat p)

/-! ## Transmission (14 R415) -/

/-- Nanoseconds a frame occupies its port: preamble and gap with it, 20 byte times. -/
def EthPort.duration (e : EthPort) (b : List Byte) : Nat := ((b.length + 24) * 80000 + speedRate e.speed - 1) / speedRate e.speed

/-- The highest queue whose gate is open and whose first frame ends before the gate closes. -/
def EthPort.pick (e : EthPort) (now : DWord) : Option (Nat × List Byte) :=
  ([7, 6, 5, 4, 3, 2, 1, 0].find? fun q =>
    match e.queues.getD q [] with
    | [] => false
    | b :: _ => e.gateOpen q && match e.gateEnd q with
      | some t => decide ((now + BitVec.ofNat 64 (e.duration b) - t).toInt ≤ 0)
      | none => true).map fun q => (q, (e.queues.getD q []).headD [])

/-- The port starts a frame, once the one in transmission has ended. -/
def execFrameTransmit (p : BitVec 2) (s : State) : Out :=
  if !s.ethRuns || !(s.ethPort p).link then .next s
  else
    let s := if (s.ethPort p).queues.any (fun q => !q.2.isEmpty) then s.passTb (s.ethPort p).busyUntil else s
    let e := s.ethPort p
    match e.pick s.tb.now with
    | none => .next s
    | some (q, b) =>
      let s := s.updEthPort p fun e =>
        { e with queues := e.queues.upd q [] List.tail, busyUntil := s.tb.now + BitVec.ofNat 64 (e.duration b), tx := satInc e.tx }
      .next ((s.emit (.frame p b)).refill p)

end Sys2Proof.Machine
end

