-- ==== Sys2Proof/Machine/MbEthernet.lean ====
section
/-! DEFINITION. IO_RULE_SET, IO_TEMPLATE_SET and IO_GATE_SET (13 R394, 14 R406, R411-R415). -/

namespace Sys2Proof.Machine

/-- The rights on a slot (13 R380, R394): the caller owns the context named, and the slot belongs to no other context; a slot
of a fenced context lies inside its deckle. -/
def State.ioTarget (s : State) (f : FuncId) (slot : Option CtxId) (k : CtxId → Reply) : Reply :=
  let n := s.arg f 0x12 2
  let x := s.argCtx f 0x12
  let adm := f == s.hub.admin
  let live := decide (n < 8192) && (s.ctx x).state != FREE
  let foreign := match slot with | some o => o != x | none => false
  let fenced := match slot with | some o => (s.caux o).deckle | none => false
  if !adm && !(live && (s.ctx x).owner == f) then .bad DENIED 0xFFFF
  else if !adm && foreign then .bad DENIED 0x08
  else if fenced then .bad HW_FENCED 0x08
  else if !live then .bad NO_OBJECT 0x12
  else k x

/-! ## Rules (14 R406) -/

/-- The content checks of a rule for context `x`: each with its offset in the command. -/
def State.ruleChecks (s : State) (x : CtxId) (r : Rule) : List (Bool × Nat) :=
  let raw := r.raw
  let zero (lo n : Nat) : Bool := bits raw lo n == (0 : BitVec n)
  let kindOk := r.kind == 0 || r.kind == 2 || r.kind == 4
  let reel := r.kind != 2 && isReel r.node
  let portOk := if r.kind = 2 then r.port == 0 && r.chan != 7 else if reel then r.port == 0 else (r.port == 3) == (r.kind == 4)
  [(r.ports != 0 && zero 5 3 && (!r.elim || r.ports == 3 || r.ports == 12), 0x18), (zero 13 3, 0x19), (zero 44 4, 0x1C),
   (decide (r.woff ≤ 2040), 0x24), (zero 112 16, 0x26), (zero (8 * 0x20 + 20) 12, 0x38), (kindOk && portOk, 0x3C),
   (decide (r.place < (s.ctx x).csize.toNat) && (!reel || r.place == 0), 0x3D), (decide (r.voff ≤ 2040), 0x3E),
   (decide (1 ≤ r.vlen) && decide (r.vlen ≤ 8), 0x40), (zero (8 * 0x29 + 4) 4, 0x41), (decide (r.ioff ≤ 2040), 0x42),
   (zero (8 * 0x32) 112, 0x4A)]

/-- The rule slot of TARGET. -/
def State.argRule (s : State) (f : FuncId) : Option Rule := s.eth.rules.find (s.arg f 8 2)

/-- IO_RULE_SET writes a rule; an OP above 1 fails. Frames that wait for the slot were checked before the write. -/
def execIoRuleSet (f : FuncId) (s : State) : Out :=
  let old := s.argRule f
  .next (s.perform f 0x0701 (s.arg f 0x10 1 != 1) (s.ioTarget f (old.map (·.owner)) fun x =>
    let r : Rule := { raw := BitVec.ofNat 512 (s.arg f 0x18 64), owner := x, lastSc := s.scnt }
    checked BAD_ARG ((s.arg f 0x10 1 == 0, 0x10) :: s.ruleChecks x r)
      (.done (s.updEth fun e => { e with rules := e.rules.set (s.arg f 8 2) r }))))

/-- IO_RULE_SET with OP 1 clears a slot; frames that wait for it were checked before and go on waiting (01 R21). -/
def execIoRuleClear (f : FuncId) (s : State) : Out :=
  .next (s.perform f 0x0701 (s.arg f 0x10 1 == 1) (s.ioTarget f ((s.argRule f).map (·.owner)) fun _ =>
    .done (s.updEth fun e => { e with rules := e.rules.erase (s.arg f 8 2) })))

/-! ## Templates (14 R411, R412) -/

/-- Does another template of the same function hold the pair of RNUM and SUB? -/
def State.pairHeld (s : State) (n : Nat) (g : FuncId) (t : Template) : Bool :=
  s.eth.templates.anyV fun k u => k != n && (s.ctx u.owner).owner == g && u.rnum == t.rnum && u.sub_ == t.sub_

/-- The content checks of a template for slot `n`: each with its offset in the command. IOFF may equal FLEN; INST then follows the image
(DESIGN CHOICE, log 173). -/
def State.templateChecks (s : State) (n : Nat) (t : Template) : List (Bool × Nat) :=
  let raw := t.raw
  let g := (s.ctx t.owner).owner
  let zero (lo n : Nat) : Bool := bits raw lo n == (0 : BitVec n)
  [(zero 3 5, 0x18), (decide (t.queue ≤ 7), 0x19), (decide (fldN raw 2 1 ≤ 63) && (s.ring g t.rnum).isNone, 0x1A), (!s.pairHeld n g t, 0x1B),
   (zero 35 5 && (!t.timed || t.outPorts.all fun p => (s.ethPort p).list.isSome), 0x1C), (decide (1 ≤ t.vlen) && decide (t.vlen ≤ 8), 0x1D),
   (decide (t.voff + t.vlen ≤ t.flen), 0x1E), (decide (14 ≤ t.flen) && decide (t.flen ≤ 96), 0x22),
   (t.ioff == 0xFFFF || decide (t.ioff ≤ t.flen), 0x28), (zero (8 * 0x12) 112, 0x2A)]

/-- The template slot of TARGET. -/
def State.argTemplate (s : State) (f : FuncId) : Option Template := s.eth.templates.find (s.arg f 8 2)

/-- IO_TEMPLATE_SET writes a template: a staged value is discarded, and the ring number claimed. -/
def execIoTemplateSet (f : FuncId) (s : State) : Out :=
  let n := s.arg f 8 2
  let old := s.argTemplate f
  .next (s.perform f 0x0702 (s.arg f 0x10 1 != 1) (s.ioTarget f (old.map (·.owner)) fun x =>
    let t : Template := { raw := BitVec.ofNat 1024 (s.arg f 0x18 128), owner := x }
    let same := match old with | some o => o.granted && o.owner == x && o.rnum == t.rnum && o.sub_ == t.sub_ | none => false
    checked BAD_ARG ((s.arg f 0x10 1 == 0, 0x10) :: s.templateChecks n t)
      (.done ((s.updEth (·.discard fun k _ => k == n)).setTpl n { t with granted := same }))))

/-- IO_TEMPLATE_SET with OP 1 clears a template: a staged value is discarded, and the claim released. -/
def execIoTemplateClear (f : FuncId) (s : State) : Out :=
  let n := s.arg f 8 2
  .next (s.perform f 0x0702 (s.arg f 0x10 1 == 1) (s.ioTarget f ((s.argTemplate f).map (·.owner)) fun _ =>
    .done ((s.updEth (·.discard fun k _ => k == n)).updEth fun e => { e with templates := e.templates.erase n })))

/-! ## Gate lists (14 R414, R415) -/

/-- Entry `k` of a gate list. -/
def gateEntry (b : List Byte) (k : Nat) : Byte × Word := (BitVec.ofNat 8 (rdLe b (8 * k) 1), BitVec.ofNat 32 (rdLe b (8 * k + 1) 4))

/-- Does an entry keep its rules? -/
def gateEntryOk (b : List Byte) (k : Nat) : Bool :=
  let v := rdLe b (8 * k + 1) 4
  v % 8 == 0 && decide (64 ≤ v) && rdLe b (8 * k + 5) 3 == 0

/-- IO_GATE_SET: the list operates from the first cycle start at or after both BASETIME and now. -/
def State.gateSet (s : State) (f : FuncId) (b : List Byte) : Reply :=
  let n := s.arg f 0x2C 2
  let cycle := s.arg f 0x28 4
  let base : DWord := BitVec.ofNat 64 (s.arg f 0x20 8)
  let entries := (List.range n).map (gateEntry b)
  let l : GateList := { base := base, cycle := BitVec.ofNat 32 cycle, entries := entries }
  let start := if 0 ≤ (base - s.tb.now).toInt then base else instantFrom base s.tb.now cycle
  checked BAD_ARG [(decide (1000 ≤ cycle) && decide (cycle ≤ 1000000000), 0x28), (decide (1 ≤ n) && decide (n ≤ 256), 0x2C), (b.length == 8 * n, 0x18)]
    (match least n fun k => !gateEntryOk b k with
     | some k => .fail BAD_ARG 0xFFFF 0 (8 * k) none
     | none =>
       if (entries.map fun e => e.2.toNat).sum ≠ cycle then .fail BAD_ARG 0xFFFF 0 0 none
       else .done (s.updEthPort (BitVec.ofNat 2 (s.arg f 8 1)) fun e => { e with pendingList := some (l, start) }))

/-- IO_GATE_SET. -/
def execIoGateSet (f : FuncId) (d : DmaIn) (s : State) : Out := .next (s.perform f 0x0703 true (s.dmaIn f d (s.gateSet f)))

end Sys2Proof.Machine
end

