-- ==== Sys2Proof/Machine/MbObserve.lean ====
section
/-! DEFINITION. STATS_READ, PROBE_SET, TRACE_READ, DIAG_READ and the trace port (11 R335, 13 R397, R398, 17 R470, R471). -/

namespace Sys2Proof.Machine

/-! ## STATS_READ (13 R397) -/

/-- The registers that fit DLEN are written, and their RC fields cleared. -/
def State.statReply (s : State) (f : FuncId) (l : List StatReg) : Reply :=
  let got := l.take (s.arg f 0x18 4 / 8)
  .ok (got.foldl (fun s r => r.clear s) s) [] (some (l.flatMap fun r => leBytes 8 r.value.toNat))

/-- STATS_READ. -/
def State.statsRead (s : State) (f : FuncId) : Reply :=
  let scope := s.arg f 0x20 1
  let i := s.arg f 0x22 2
  let x := s.argCtx f 8
  let zero (k : Reply) : Reply := if s.arg f 8 2 ≠ 0 then .bad BAD_ARG 0x08 else k
  let adm (k : Reply) : Reply := if f = s.hub.admin then zero k else .bad DENIED 0xFFFF
  match scope with
  | 0 => s.ctxTarget f x (if i ≠ 0 then .bad BAD_ARG 0x22 else s.statReply f (s.ctxRegs x))
  | 1 => s.ctxTarget f x (if (s.ctx x).flowcnt.toNat ≤ i then .bad BAD_ARG 0x22 else s.statReply f (s.flowRegs ((s.ctx x).flowbase + BitVec.ofNat 14 i)))
  | 2 => zero (if 63 < i then .bad BAD_ARG 0x22 else s.statReply f (s.ringRegs f (BitVec.ofNat 6 i)))
  | 3 => adm (if 63 < i then .bad BAD_ARG 0x22 else s.statReply f (s.clusterRegs (BitVec.ofNat 6 i)))
  | 4 => adm (if 15 < i then .bad BAD_ARG 0x22 else s.statReply f (s.routerRegs (BitVec.ofNat 4 i)))
  | _ => .bad BAD_ARG 0x20

/-- STATS_READ. -/
def execStatsRead (f : FuncId) (s : State) : Out := .next (s.perform f 0x0902 true (s.statsRead f))

/-! ## Probes and the trace buffer (11 R335) -/

/-- PROBE_SET writes a probe and clears its counters. -/
def execProbeSet (f : FuncId) (s : State) : Out :=
  let cfg := s.arg f 0x10 4
  let v (o : Nat) : DWord := BitVec.ofNat 64 (s.arg f o 8)
  .next (s.perform f 0x0903 true
    (if 2 ^ 14 ≤ cfg ∨ cfg / 2 % 4 = 3 then .bad BAD_ARG 0x10
     else .done (s.updProbe (s.arg f 8 1) fun _ => { cfg := BitVec.ofNat 14 cfg, hdr := v 0x18, tag := v 0x20, tagm := v 0x28 })))

/-- TRACE_READ returns records, oldest first, with SCNT and TB sampled together; records of the on-chip buffer leave it. While the
trace port is enabled that buffer drains to the port alone. -/
def State.traceRead (s : State) (f : FuncId) : Reply :=
  let src := s.arg f 0x20 1
  let probe := s.arg f 0x21 1
  let limit := min (s.arg f 0x24 4) (s.arg f 0x18 4 / 32)
  let recs := (if src = 0 then (if s.mon.traceOn then [] else s.spine.trace) else s.spine.traceHbm.getD probe []).take limit
  let pay := leBytes 8 s.scnt ++ leBytes 8 s.tb.now.toNat ++ leBytes 4 recs.length ++ leBytes 1 (if s.spine.wrap then 1 else 0) ++ leBytes 3 0
  checked BAD_ARG [(decide (src ≤ 1), 0x20), (decide (probe ≤ 31), 0x21)]
    (.ok (if src = 0 then s.updSpine fun n => { n with trace := n.trace.drop recs.length, wrap := false } else s) pay
      (some (recs.flatMap fun r => leBytes 32 r.toNat)))

/-- TRACE_READ. -/
def execTraceRead (f : FuncId) (s : State) : Out := .next (s.perform f 0x0904 true (s.traceRead f))

/-! ## The trace port (17 R471) -/

/-- The trace port is enabled over JTAG after debug unlock. -/
def execTracePortEnable (s : State) : Out :=
  .next (if s.clk.porstLow then s else s.updMon fun m => { m with traceOn := true, traceSince := 0 })

/-- The sync record: byte 12 is 0xFF, and what the rest holds is not stated: free values. -/
def syncRecord (n : Nat) : BitVec 256 :=
  putFld ((Config.freeValue n) ++ (Config.freeValue (n + 1)) ++ (Config.freeValue (n + 2)) ++ (Config.freeValue (n + 3))) 12 1 0xFF

/-- The port sends a sync record. -/
def State.sendSync (s : State) : State :=
  (({ s with free := s.free + 4 } : State).emit (.trace (syncRecord s.free))).updMon fun m => { m with traceSince := 0 }

/-- The trace port sends the oldest record, or a sync record after every 256 and whenever the buffer is empty. -/
def execTracePortRecord (s : State) : Out :=
  if ¬ s.clockRuns .trace then .next s
  else if 256 ≤ s.mon.traceSince then .next s.sendSync
  else
    match s.spine.trace with
    | [] => .next s.sendSync
    | r :: rest =>
      .next (((s.updSpine fun n => { n with trace := rest }).emit (.trace r)).updMon fun m => { m with traceSince := m.traceSince + 1 })

/-! ## DIAG_READ (10 R290, R291, 13 R398) -/

/-- The 8-byte word at a physical address. A register reads as its value, and keeps its RC fields; the registers' addresses are not
given (log 128). The layout of the send parks, images and firmware data in HBM is not stated: free values there, and for a word with an
uncorrected error. -/
def State.diagWord (s : State) (a : Nat) : DWord :=
  if inLocks a then s.lockWord (lockOf a)
  else if s.bad a then Config.regWord a s.free
  else if inSpill a then BitVec.ofNat 64 (s.load a 8)
  else if (inHbm a ∧ ¬ (0x3C0000000 ≤ a ∧ ¬ (0x3C8000000 ≤ a ∧ a < 0x3C8800000))) ∨ inBanks a then BitVec.ofNat 64 (s.rd a 8)
  else if inRegs a then (match Config.regAt a with | some n => (s.regRead n).value | none => 0)
  else Config.regWord a s.free

/-- The end of the range of 10 R290 that holds an address. -/
def rangeEnd (a : Nat) : Option Nat :=
  if inHbm a then some 0x400000000
  else if inBanks a then some (bankBase + 0x4000000)
  else if 0x8000000000 ≤ a ∧ a < 0xF000000000 then some 0xF000000000
  else if inLocks a then some (lockBase + 0x8000)
  else none

/-- DIAG_READ has no side effect. -/
def State.diagRead (s : State) (f : FuncId) : Reply :=
  let a := s.arg f 0x20 8
  let n := s.arg f 0x28 4
  match rangeEnd a with
  | none => .bad BAD_ARG 0x20
  | some e =>
    if a % 8 ≠ 0 then .bad BAD_ARG 0x20
    else if n < 1 ∨ 8192 < n ∨ e < a + 8 * n then .bad BAD_ARG 0x28
    else .ok s.takeFree [] (some ((List.range n).flatMap fun i => leBytes 8 (s.diagWord (a + 8 * i)).toNat))

/-- DIAG_READ. -/
def execDiagRead (f : FuncId) (s : State) : Out := .next (s.perform f 0x0905 true (s.diagRead f))

end Sys2Proof.Machine
end

