-- ==== Sys2Proof/Machine/MbDebug.lean ====
section
/-! DEFINITION. The debug commands: DBG_ATTACH, detaching, DBG_STOP, DBG_RESUME, DBG_READ (04 R118, R120, R122, 13 R399, R400). -/

namespace Sys2Proof.Machine

/-! ## Attaching -/

/-- DBG_ATTACH with OP 0; an OP above 1 fails. -/
def execDbgAttach (f : FuncId) (s : State) : Out :=
  let x := s.argCtx f 8
  let who := (s.caux x).debugger
  .next (s.perform f 0x0B01 (s.arg f 0x10 1 != 1) (s.ctxTarget f x
    (if who.isSome ∧ who ≠ some f then .bad WRONG_STATE 0x08
     else if s.arg f 0x10 1 ≠ 0 then .bad BAD_ARG 0x10
     else .done (s.updAux x fun a => { a with debugger := some f }))))

/-- DBG_ATTACH with OP 1: every stopped work of the context resumes, and the caller leaves. -/
def execDbgDetach (f : FuncId) (s : State) : Out :=
  let x := s.argCtx f 8
  .next (s.perform f 0x0B01 (s.arg f 0x10 1 == 1) (s.ctxTarget f x
    (if (s.caux x).debugger ≠ some f then .bad WRONG_STATE 0x08 else .done (s.detach x))))

/-- Checks 3 to 5 on the context, and the right of the function attached to it. -/
def State.dbgTarget (s : State) (f : FuncId) (k : CtxId → Reply) : Reply :=
  let x := s.argCtx f 8
  s.ctxTarget f x (if (s.caux x).debugger = some f then k x else .bad DENIED 0xFFFF)

/-! ## Stopping and resuming (04 R120, R122) -/

/-- A thread is asked to stop; it keeps the request until it comes to a word boundary or a wait. -/
def State.dbgStopThread (s : State) (t : Tid) : State :=
  let th := s.thread t
  if th.dbgStopped || th.wait == .faulted then s else (s.updThread t fun th => { th with dbgReq := true }).askStop t

/-- DBG_STOP reaches a task: one that a thread holds stops at a word boundary, any other at once. -/
def State.dbgStopTask (s : State) (c : ClusterId) (d : BitVec 10) : State :=
  let k := (s.cluster c).task d
  if k.state = STOPPEDT ∨ k.state = FAULTED then s
  else
    match s.threadOfTask c d with
    | some t => s.dbgStopThread t
    | none => (s.unready c d).updTask c d fun k => { k with state := STOPPEDT, prev := k.state }

/-- Tasks of a context. -/
def State.tasksIn (s : State) (x : CtxId) : List (ClusterId × BitVec 10) :=
  s.allClusters.flatMap fun c => ((s.cluster c).tasksOf x).map fun d => (c, d)

/-- Has the task stopped, with its registers saved? -/
def State.taskStopped (s : State) (c : ClusterId) (d : BitVec 10) : Bool :=
  ((s.cluster c).task d).state == STOPPEDT && (s.threadOfTask c d).isNone

/-- Is the thread still on its way to a stop? -/
def State.stopping (s : State) (t : Tid) : Bool :=
  let th := s.thread t
  th.dbgReq || (th.after == .stopped && match th.wait with | .saving _ => true | .drain => true | _ => false)

/-- The thread that SEL 2 names, when it holds work of the context. -/
def State.argThread (s : State) (f : FuncId) (x : CtxId) (o : Nat) : Option Tid :=
  let c := s.arg f o 1
  let p := s.arg f (o + 1) 1
  let k := s.arg f (o + 2) 1
  let t := mkTid (BitVec.ofNat 6 c) (BitVec.ofNat 3 p) (BitVec.ofNat 3 k)
  if c < 64 ∧ p < 8 ∧ k < 8 ∧ (s.threadsOf x).contains t then some t else none

/-- The thread that SEL 2 names, whatever it holds. -/
def State.argTid (s : State) (f : FuncId) (o : Nat) : Tid :=
  mkTid (BitVec.ofNat 6 (s.arg f o 1)) (BitVec.ofNat 3 (s.arg f (o + 1) 1)) (BitVec.ofNat 3 (s.arg f (o + 2) 1))

/-- DBG_STOP completes when the selected work has stopped. -/
def State.dbgStop (s : State) (f : FuncId) (x : CtxId) : Reply :=
  match s.arg f 0x10 1 with
  | 0 =>
    (match s.findTask x (BitVec.ofNat 16 (s.arg f 0x12 2)) with
     | none => .bad NO_OBJECT 0x12
     | some (c, d) =>
       if ((s.cluster c).task d).state = FAULTED then .bad WRONG_STATE 0x12
       else
         let s := s.dbgStopTask c d
         if s.taskStopped c d then .done s else .later s)
  | 1 =>
    let s := (s.threadsOf x).foldl (fun s t => if (s.taskOf t).isNone then s.dbgStopThread t else s) s
    let s := (s.tasksIn x).foldl (fun s e => s.dbgStopTask e.1 e.2) s
    let done := ((s.tasksIn x).all fun e => s.taskStopped e.1 e.2 || ((s.cluster e.1).task e.2).state == FAULTED) &&
      (s.threadsOf x).all fun t => (s.taskOf t).isSome || (s.thread t).dbgStopped || (s.thread t).wait == .faulted
    if done then .done s else .later s
  | 2 =>
    if (s.mbox f).begun then (if s.stopping (s.argTid f 0x14) then .later s else .done s)
    else
      (match s.argThread f x 0x14 with
       | none => .bad NO_OBJECT 0x14
       | some t =>
         let faulted : Bool := match s.taskOf t with | some d => ((s.cluster (tCluster t)).task d).state == FAULTED | none => false
         if faulted then .bad WRONG_STATE 0x14
         else
           let s := match s.taskOf t with | some d => s.dbgStopTask (tCluster t) d | none => s.dbgStopThread t
           if s.stopping t then .later s else .done s)
  | _ => .bad BAD_ARG 0x10

/-- Work of a context that has stopped. -/
def State.stoppedWork (s : State) (x : CtxId) : List Sender :=
  ((s.tasksIn x).filter fun e => ((s.cluster e.1).task e.2).state == STOPPEDT).map (fun e => .task e.1 e.2) ++
    ((s.threadsOf x).filter fun t => (s.thread t).dbgStopped).map .thread

/-- DBG_STOP; what had stopped before it is noted as it begins. -/
def execDbgStop (f : FuncId) (s : State) : Out :=
  let note (x : CtxId) : State :=
    if (s.mbox f).begun then s else s.updMbox f fun m => { m with stopped := s.stoppedWork x }
  .next (s.perform f 0x0B02 true (s.dbgTarget f fun x => (note x).dbgStop f x))

/-- DBG_RESUME returns stopped work to its previous state; a task whose registers are still being saved goes on from there when the
save ends. -/
def State.dbgResume (s : State) (f : FuncId) (x : CtxId) : Reply :=
  match s.arg f 0x10 1 with
  | 0 =>
    (match s.findTask x (BitVec.ofNat 16 (s.arg f 0x12 2)) with
     | none => .bad NO_OBJECT 0x12
     | some (c, d) =>
       if ((s.cluster c).task d).state ≠ STOPPEDT then .bad WRONG_STATE 0x12
       else .done (s.resumeTask c d))
  | 1 =>
    let s := (s.threadsOf x).foldl (fun s t => if (s.thread t).dbgStopped then s.resumeThread t else s) s
    .done ((s.tasksIn x).foldl (fun s e => s.resumeTask e.1 e.2) s)
  | 2 =>
    (match s.argThread f x 0x14 with
     | none => .bad NO_OBJECT 0x14
     | some t =>
       match s.taskOf t with
       | some d =>
         if ((s.cluster (tCluster t)).task d).state = STOPPEDT then .done (s.resumeTask (tCluster t) d) else .bad WRONG_STATE 0x14
       | none => if (s.thread t).dbgStopped then .done (s.resumeThread t) else .bad WRONG_STATE 0x14)
  | _ => .bad BAD_ARG 0x10

/-- DBG_RESUME. -/
def execDbgResume (f : FuncId) (s : State) : Out := .next (s.perform f 0x0B03 true (s.dbgTarget f (s.dbgResume f)))

/-! ## Reading (13 R400) -/

/-- BNK_0 to BNK_15. -/
def bnkBytes (m : Map (BitVec 6)) (n : Nat) : List Byte := (List.range 16).flatMap fun i => leBytes n (bnkOf m i).toNat

/-- g1 to g31. -/
def regBytes (m : Map Word) : List Byte := (List.range 31).flatMap fun i => leBytes 4 (m.getD (i + 1) 0).toNat

/-- First word of a descriptor (04 R118). -/
def Task.head (k : Task) : DWord :=
  (0 : BitVec 2) ++ k.prev ++ (bit k.affv : BitVec 1) ++ k.lastpe ++ (bit k.resident : BitVec 1) ++ (bit k.cancelp : BitVec 1) ++ k.wch ++ k.wait ++
    (bit k.exth : BitVec 1) ++ (bit k.super : BitVec 1) ++ k.chmask ++ k.task ++ k.ctx ++ k.prio ++ k.state

/-- The outbox word of a descriptor. -/
def Outbox.head (o : Outbox) : Word :=
  (0 : BitVec 8) ++ (bit o.grant : BitVec 1) ++ o.chan ++ o.task ++ BitVec.ofNat 4 o.words.length

/-- The 256 bytes of a descriptor. -/
def Cluster.descriptor (cl : Cluster) (d : BitVec 10) : List Byte :=
  let k := cl.task d
  leBytes 8 k.head.toNat ++ leBytes 4 k.pc.toNat ++ leBytes 4 k.repc.toNat ++ leBytes 4 (cl.flags d).toNat ++ leBytes 4 k.evmask.toNat ++
    leBytes 8 k.wake.toNat ++ bnkBytes k.bnk 1 ++ leBytes 4 k.fst.toNat ++ leBytes 4 k.dst.toNat ++ leBytes 4 k.tst.toNat ++ leBytes 4 k.penderr.toNat ++
    regBytes k.regs ++ leBytes 4 k.outbox.head.toNat ++ (List.range 8).flatMap fun i => leBytes 8 (k.outbox.words.getD i 0).toNat

/-- The registers of a stopped activation. -/
def Thread.registers (th : Thread) : List Byte :=
  let th := th.landAll
  regBytes th.regs ++ [th.pc, th.repc, th.fst, th.dst, th.tstFull].flatMap (fun v => leBytes 4 v.toNat) ++ bnkBytes th.bnk 4

/-- WHAT 2: checked as a split load with right R, word by word until one fails, with its refusal and error counted (10 R297, R300);
an uncorrected error leaves the data up to the failing word. -/
def State.dbgMemory (s : State) (f : FuncId) (x : CtxId) : Reply :=
  let w := s.readWin x (BitVec.ofNat 6 (s.arg f 0x28 1))
  let off := s.arg f 0x2C 4
  let len := s.arg f 0x30 4
  let lo := (w.base + off) / 8 * 8
  let words := (w.base + off + len + 7) / 8 - lo / 8
  if 63 < s.arg f 0x28 1 then .bad BAD_ARG 0x28
  else if 65536 < len then .bad BAD_ARG 0x30
  else if !w.valid || decide (w.len < off + len) then .fail BAD_ARG 0x28 ADDR_WINDOW.toNat 0 none
  else if !w.r then .fail BAD_ARG 0x28 ADDR_RIGHTS.toNat 0 none
  else
    let (t, bs, c) := State.mrLoad x none words lo [] s
    let data := (bs.drop (w.base + off - lo)).take len
    if c = 0 then .ok t [] (some data)
    else .failIn t BAD_ARG 0x28 c.toNat (if c = ECC_UNCORRECTED then some data else none)

/-- DBG_READ. -/
def State.dbgRead (s : State) (f : FuncId) (x : CtxId) : Reply :=
  match s.arg f 0x20 1 with
  | 0 =>
    (match s.findTask x (BitVec.ofNat 16 (s.arg f 0x22 2)) with
     | none => .bad NO_OBJECT 0x22
     | some (c, d) => if s.taskStopped c d then .ok s [] (some ((s.cluster c).descriptor d)) else .bad WRONG_STATE 0x22)
  | 1 =>
    (match s.argThread f x 0x24 with
     | none => .bad NO_OBJECT 0x24
     | some t => if (s.thread t).dbgStopped then .ok s [] (some (s.thread t).registers) else .bad WRONG_STATE 0x24)
  | 2 => s.dbgMemory f x
  | _ => .bad BAD_ARG 0x20

/-- DBG_READ. -/
def execDbgRead (f : FuncId) (s : State) : Out := .next (s.perform f 0x0B04 true (s.dbgTarget f (s.dbgRead f)))

end Sys2Proof.Machine
end

