-- ==== Sys2Proof/Machine/Bmc.lean ====
section
/-! DEFINITION. The SMBus target toward the board management controller: MCTP control messages and PLDM requests (17 R468, R469). Command
codes, completion codes and layouts are those of DSP0236, DSP0240 and DSP0248 (PRESUMED, log 54). -/

namespace Sys2Proof.Machine

/-- Do the stewards serve the target? -/
def State.stewardsServe (s : State) : Bool := s.fwRuns
/-- Does the keeper serve it, while the stewards are held? -/
def State.keeperServes (s : State) : Bool := !s.fwRuns && s.keeper.running && (s.keeper.keeper || s.fw.paused != 0)

/-- The target sends an answer. -/
def State.smbus (s : State) (b : List Byte) : State := s.emit (.smbus b)

/-! ## MCTP control messages -/

/-- Does the message assign an endpoint ID: Set Endpoint ID with operation 0 or 1 and an ID that may be assigned? -/
def eidSet (req : List Byte) : Bool := (req.getD 2 0).toNat % 4 < 2 && req.getD 3 0 != 0 && req.getD 3 0 != 0xFF

/-- The completion code and data that answer a control command: the commands of an endpoint, and no bus-owner or bridge command. -/
def mctpReply (eid : Byte) (req : List Byte) : List Byte :=
  match (req.getD 1 0).toNat with
  | 1 => if eidSet req then [0, 0, eid, 0] else [2]
  | 2 => [0, eid, 0, 0]
  | 4 => if (req.getD 2 0).toNat ≤ 1 ∨ req.getD 2 0 = 0xFF then 0 :: Config.mctpVersions (req.getD 2 0) else [0x80]
  | 5 => [0, 1, 1]
  | _ => [5]

/-- An MCTP message of a type: a control message is the byte with Rq and instance, the command, its data. Set Endpoint ID assigns the
endpoint ID. A message of a type other than control and PLDM is not answered. -/
def execMctpControlMessage (req : List Byte) (s : State) (type : Byte := 0) : Out :=
  if ¬ (s.stewardsServe || s.keeperServes) ∨ type ≠ 0 then .next s
  else
    let s := if s.stewardsServe then s else s.keeperBack
    let s := if req.getD 1 0 == 1 && eidSet req then s.updMon fun m => { m with endpointId := req.getD 3 0 } else s
    .next (s.smbus ([req.getD 0 0 &&& 0x1F, req.getD 1 0] ++ mctpReply s.mon.endpointId req))

/-! ## The PDR repository -/

/-- Device mode of state sensor 0x0300: 1 normal, 2 steward restart, 3 keeper mode. -/
def State.deviceMode (s : State) : Nat := if s.keeper.keeper then 3 else if s.fw.paused = 3 then 2 else 1

/-- `n` bytes of a sensor's PDR from position `o` that the manual does not state. -/
def pdrFree (id o n : Nat) : List Byte := (List.range n).map fun k => Config.pdrByte id (o + k)

/-- The body of a numeric sensor's PDR: identity, unit and modifier, size of a reading, resolution (binary32, with offset 0), the
thresholds it has, and its range values: nominal, normal high and low, then warning, critical and fatal high and low. -/
def numericPdr (id : Nat) (unit modifier size : Byte) (resolution : Word) (has : Byte) (range : List (BitVec 16)) : List Byte :=
  pdrFree id 0 2 ++ leBytes 2 id ++ pdrFree id 2 8 ++ [unit, modifier] ++ pdrFree id 10 7 ++ [1, size] ++ leBytes 4 resolution.toNat ++
    [0, 0, 0, 0] ++ pdrFree id 17 6 ++ [has] ++ pdrFree id 23 13 ++ [size] ++ pdrFree id 36 1 ++ range.flatMap fun v => leBytes 2 v.toNat

/-- The body of a state sensor's PDR, with the bit field of its states. -/
def statePdr (id : Nat) (states : Byte) : List Byte := pdrFree id 0 2 ++ leBytes 2 id ++ pdrFree id 2 8 ++ [1] ++ pdrFree id 10 2 ++ [1, states]

/-- The bound of a window `w` (in 0.1 %) above or below NOM, in mV rounded toward NOM (log 54). -/
def vwinBound (nom : BitVec 16) (w : Byte) (up : Bool) : BitVec 16 :=
  let d := BitVec.ofNat 16 (nom.toNat * w.toNat / 1000)
  if up then nom + d else nom - d

/-- The type and body of the PDR of a sensor (17 R469): units of 0.125 °C, with thresholds at 110, 125 and 135 °C; mV, with the windows
of MON_VWIN at that time; the device mode and the section states. -/
def State.pdrBody (s : State) (id : Nat) : Byte × List Byte :=
  if id < 0x0200 then
    (2, numericPdr id 2 0 3 0x3E000000 0x07 ([0, 0, 0, 880, 0, 1000, 0, 1080, 0] : List (BitVec 16)))
  else if id < 0x0300 then
    let n := id - 0x0200
    let nom := s.nomOf n
    let w := s.mon.warn.getD n 30
    let c := s.mon.crit.getD n 60
    (2, numericPdr id 5 0xFD 2 0x3F800000 0x1B
      [nom, 0, 0, vwinBound nom w true, vwinBound nom w false, vwinBound nom c true, vwinBound nom c false, 0, 0])
  else if id = 0x0300 then (4, statePdr id 0x0E)
  else (4, statePdr id (Config.pdrByte id 12))

/-- A PDR as GetPDR returns it: the common header and the body. -/
def State.pdr (s : State) (handle id : Nat) : List Byte :=
  let b := s.pdrBody id
  leBytes 4 handle ++ [1, b.1] ++ pdrFree id 13 2 ++ leBytes 2 b.2.length ++ b.2

/-- Is it a sensor of the repository: 38 temperatures, 24 voltages, the device mode and 16 sections? -/
def isSensor (id : Nat) : Bool :=
  (decide (0x0100 ≤ id) && decide (id < 0x0126)) || (decide (0x0200 ≤ id) && decide (id < 0x0218)) || id == 0x0300 ||
    (decide (0x0310 ≤ id) && decide (id < 0x0320))

/-! ## PLDM requests: completion code and data -/

/-- GetSensorReading of a numeric sensor. No event is ever enabled; the sensor's states are not stated: free values. -/
def State.numericSensor (s : State) (id : Nat) : List Byte :=
  let f := leBytes 4 (Config.freeValue s.free).toNat
  let one (size : Byte) (v : BitVec 16) : List Byte := [0, size] ++ f.take 1 ++ [0] ++ f.drop 1 ++ leBytes 2 v.toNat
  if 0x0100 ≤ id ∧ id < 0x0126 then one 3 (s.tempOf (id - 0x0100))
  else if 0x0200 ≤ id ∧ id < 0x0218 then one 2 (s.voltOf (id - 0x0200))
  else [0x80]

/-- GetStateSensorReadings: the device mode, or a section's state, which the keeper does not serve. -/
def State.stateSensor (s : State) (id : Nat) : List Byte :=
  let f := leBytes 3 (Config.freeValue s.free).toNat
  let one (v : Byte) : List Byte := [0, 1] ++ f.take 1 ++ [v] ++ f.drop 1
  if id = 0x0300 then one (BitVec.ofNat 8 s.deviceMode)
  else if 0x0310 ≤ id ∧ id < 0x0320 then
    if s.stewardsServe then one (Config.sectionCode (s.sect (BitVec.ofNat 4 (id - 0x0310))).svc) else [0x04]
  else [0x80]

/-- GetPDR: the record of a handle in one part. -/
def State.getPdr (s : State) (handle : Nat) : List Byte :=
  match (Config.pdrSensor handle).filter isSensor with
  | none => [0x82]
  | some id =>
    let r := s.pdr handle id
    [0] ++ leBytes 4 (Config.pdrNext handle) ++ [0, 0, 0, 0, 5] ++ leBytes 2 r.length ++ r

/-- GetPDRRepositoryInfo: available, 79 records; times and sizes are not stated. -/
def pdrInfo : List Byte := [0, 0] ++ (List.range 26).map Config.pdrInfo ++ leBytes 4 79 ++ (List.range 9).map fun k => Config.pdrInfo (26 + k)

/-- The commands supported of a PLDM type, as the bit field of GetPLDMCommands. -/
def pldmCommands (type : Byte) : List Byte :=
  if type = 0 then 0 :: leBytes 32 (2 ^ 2 + 2 ^ 3 + 2 ^ 4 + 2 ^ 5)
  else if type = 2 then 0 :: leBytes 32 (2 ^ 0x11 + 2 ^ 0x21 + 2 ^ 0x50 + 2 ^ 0x51)
  else [0x83]

/-- A request of type 0. SetTID and every other command are not supported. -/
def pldmBase (req : List Byte) : List Byte :=
  match (req.getD 2 0).toNat with
  | 2 => [0, Config.pldmTid]
  | 3 =>
    let t := req.getD 8 0
    if t = 0 ∨ t = 2 then [0, 0, 0, 0, 0, 5] ++ leBytes 8 (Config.pldmVersion t.toNat).toNat else [0x83]
  | 4 => 0 :: leBytes 8 (2 ^ 0 + 2 ^ 2)
  | 5 => pldmCommands (req.getD 3 0)
  | _ => [5]

/-- A request of type 2. Events, effecters and SetNumericSensorEnable are not supported. -/
def State.pldmMonitoring (s : State) (req : List Byte) : List Byte :=
  match (req.getD 2 0).toNat with
  | 0x11 => s.numericSensor (rdLe req 3 2)
  | 0x21 => s.stateSensor (rdLe req 3 2)
  | 0x50 => pdrInfo
  | 0x51 => s.getPdr (rdLe req 3 4)
  | _ => [5]

/-- The answer to a PLDM request, by its type. -/
def State.pldmReply (s : State) (req : List Byte) : List Byte :=
  let type := req.getD 1 0 &&& 0x3F
  if type = 2 then s.pldmMonitoring req else if type = 0 then pldmBase req else [0x20]

/-- A PLDM request: the byte with Rq and instance, the type, the command, its data. It changes no device state. -/
def execPldmRequest (req : List Byte) (s : State) : Out :=
  if ¬ (s.stewardsServe || s.keeperServes) then .next s
  else
    let s := if s.stewardsServe then s else s.keeperBack
    .next (s.takeFree.smbus ([req.getD 0 0 &&& 0x1F, req.getD 1 0, req.getD 2 0] ++ s.pldmReply req))

end Sys2Proof.Machine
end

