-- ==== Sys2Proof/Machine/Branch.lean ====
section
/-! DEFINITION. Branches and repeat prefixes (07 R217-R222, 08 R244). -/

namespace Sys2Proof.Machine

/-- A branch: its delay slot is next, and then `target` (07 R217). -/
def State.branchTo (s : State) (t : Tid) (target : Word) : Eff :=
  .stay (s.updThread t fun th => { th with pc := th.pc + 4, delay := some target })

/-- BZ and BNZ: rs1 is tested at issue. -/
def branchIf (t : Tid) (rs1 : GReg) (off : BitVec 20) (taken : Word → Bool) (s : State) (i : Iss) : Eff :=
  let th := s.thread t
  s.branchTo t (if taken (th.read i.n rs1) then th.pc + branchOff off else th.pc + 8)

/-- BZ (08 R244). -/
def execBz (t : Tid) (rs1 : GReg) (off : BitVec 20) (s : State) : Out :=
  issue t (wLB 0x28 rs1 off) (branchIf t rs1 off (· == 0)) s

/-- BNZ (08 R244). -/
def execBnz (t : Tid) (rs1 : GReg) (off : BitVec 20) (s : State) : Out :=
  issue t (wLB 0x29 rs1 off) (branchIf t rs1 off (· != 0)) s

/-- J (08 R244). -/
def execJump (t : Tid) (off : BitVec 20) (s : State) : Out :=
  issue t (wLB 0x2A 0 off) (fun s _ => s.branchTo t ((s.thread t).pc + branchOff off)) s

/-- JL (08 R244): the link is PC + 8. -/
def execJl (t : Tid) (rd : GReg) (off : BitVec 20) (s : State) : Out :=
  issue t (wLB 0x2B rd off)
    (fun s i =>
      let pc := (s.thread t).pc
      (s.updThread t fun th => th.write i.n (some (i.k + 2)) rd (pc + 8)).branchTo t (pc + branchOff off)) s

/-- JR (07 R218, 08 R244). -/
def execJr (t : Tid) (rd rs1 : GReg) (s : State) : Out :=
  issue t (wL3 0x2C rd rs1 0 0)
    (fun s i =>
      let th := s.thread t
      let a := th.read i.n rs1
      if bits a 0 2 ≠ (0 : BitVec 2) then .fault s ALIGN
      else (s.updThread t fun th => th.write i.n (some (i.k + 2)) rd (th.pc + 8)).branchTo t a) s

/-- The code word after the thread's PC, where the code store holds one of its context (07 R208). -/
def State.nextWord (s : State) (t : Tid) : Option Word :=
  if isSteward t then none
  else
    match (s.cluster (tCluster t)).code.find (((s.thread t).pc.toNat + 4) / 4) with
    | some w => if w.ctx = s.threadCtx t then some w.word else none
    | none => none

/-- A repeat prefix with a count: the next word is the repeated word (07 R219). -/
def State.repeatNext (s : State) (t : Tid) (count : Word) (inter : Bool) : Eff :=
  .stay (s.updThread t fun th =>
    { th with pc := th.pc + 4, rep := some { interruptible := inter, word := th.cur, old := th.repc, begun := false },
              repc := count })

/-- REP.I (07 R219, R222): a count of 0 skips the repeated word. -/
def execRepI (t : Tid) (rs1 : GReg) (s : State) : Out :=
  issue t (wLI 0x2D 0 rs1 0)
    (fun s i =>
      let gc := (s.thread t).read i.n rs1
      if (s.nextWord t).any repeatIllegal then .fault s REP_ILLEGAL
      else if gc = 0 then .ok (s.updThread t fun th => { th with pc := th.pc + 4 })
      else s.repeatNext t gc true) s

/-- REP.N (07 R219, R220, R222). -/
def execRepN (t : Tid) (n : BitVec 15) (s : State) : Out :=
  issue t (wLI 0x2E 0 0 n)
    (fun s _ =>
      if (s.nextWord t).any repeatIllegal then .fault s REP_ILLEGAL
      else if n = 0 ∨ n.toNat > 64 then .fault s REP_LIMIT
      else s.repeatNext t (zext15 n) false) s

end Sys2Proof.Machine
end

