-- ==== Sys2Proof/Machine/Bte.lean ====
section
/-! DEFINITION. The background test engine: SRAM windows and HBM blocks (10 R310-R313). -/

namespace Sys2Proof.Machine

/-- Does the delay list of a cluster hold an entry due within the next 2 ticks (05 R157)? Where an entry lies in the matching and
task stores is not given, so no window of them is borrowed meanwhile (log 127). -/
def State.dlSoon (s : State) (c : ClusterId) : Bool := (s.cluster c).dl.any fun e => decide (e.tick.toNat ≤ s.tb.tc.toNat + 2)

/-- May the engine borrow the window (10 R310)? -/
def State.mayBorrow (s : State) (w : SramWin) : Bool :=
  let inService (c : ClusterId) : Bool :=
    let x := s.sect (clusterSection c)
    x.svc == 0 && x.pstate == 3 && !s.fw.fencedClusters.contains c
  match w with
  | .bank n _ => !(s.bank n).clring && !s.bankPend n && inService (bankCluster n)
  | .matching c _ => inService c && !s.dlSoon c
  | .taskStore c _ => inService c && !s.dlSoon c
  | .codeStore c _ => inService c
  | .steward _ => true
  | .keeper _ => true

/-- What an uncorrected error of the shadow buffer does to the structure whose window it held: every word of the window reads as an
uncorrected error until it is written (10 R313). That of a steward is met by STEWARD_RESTART with cause 1 and written by the reload of the
image (16 R438); that of the keeper is met by its lockstep pair and written by its restart (16 R458, log 146). -/
def State.shadowUe (s : State) (w : SramWin) : State :=
  match w with
  | .bank n k => (List.range 32).foldl (fun s i => s.setBad (bankBase + n.toNat * 0x40000 + 256 * k.toNat + 8 * i) true) s
  | .matching c k =>
    [2 * k.toNat, 2 * k.toNat + 1].foldl (fun s i => s.updSet c i fun m => { m with bad := (List.range 8).map (BitVec.ofNat 3) }) s
  | .taskStore c d => s.updCluster c fun cl =>
      { cl with tasks := match cl.tasks.find d.toNat with | some k => cl.tasks.set d.toNat { k with ue := true } | none => cl.tasks }
  | .codeStore c k => s.updCluster c fun cl =>
      { cl with code := cl.code.mapV fun i x => if i / 64 = k.toNat then { x with ue := true } else x }
  | .steward k => s.updFw fun f => { f with sramBad := f.sramBad ++ [k] }
  | .keeper k => s.updKeeper fun x => { x with sramBad := x.sramBad ++ [k] }

/-- A thread whose next near access meets the bank's borrowed window is delayed by at most 12 fc (04 R116, 10 R310). -/
def State.lentDelay (s : State) (n : Byte) (k : BitVec 10) : State :=
  let c := bankCluster n
  let ts := ((List.range 64).map fun i => mkTid c (BitVec.ofNat 3 (i / 8)) (BitVec.ofNat 3 (i % 8))).filter fun t =>
    s.ready t && match s.nearPa t ((s.fetch t).getD 0) (s.nextClock t) with
      | some pa => bankOf pa == n && (pa - bankBase) % 0x40000 / 256 == k.toNat
      | none => false
  ts.foldl (fun s t => s.updThread t fun th =>
    { th with notBefore := max th.notBefore (s.fc c + 1 + (bits (Config.freeValue s.free) 0 32).toNat % 12) }) s.takeFree

/-- An access met the borrowed window: the step is aborted and counted (10 R310). -/
def State.bteAborted (s : State) (w : SramWin) : State :=
  let s := s.updFw fun f => { f with bteAbort := satInc f.bteAbort }
  match w with
  | .bank n k => (s.lentDelay n k).updBank n fun b => { b with borrow := satInc b.borrow }
  | .matching c _ => s.msCount c fun k => { k with borrow := satInc k.borrow }
  | _ => s

/-- One SRAM step of the background test engine: the window is borrowed, tested and restored. A rate of 0 stops the engine (13
R395). -/
def execBteSramStep (w : SramWin) (res : BteResult) (s : State) : Out :=
  if ¬ w.wf then .fault .noSuchObject
  else if s.fw.sramRate = 0 ∨ ¬ s.clockRuns .bte ∨ ¬ s.mayBorrow w then .next s
  else
    match res with
    | .pass => .next s
    | .aborted => .next (s.bteAborted w)
    | .marchFail => .next (s.mgmtRecord recTest 0 0)
    | .shadowUe => .next (s.shadowUe w)

/-! ## HBM steps (10 R312) -/

/-- Does the window with this entry map a byte of the 1 KB block? -/
def WinEntry.maps (e : WinEntry) (blk : Nat) : Bool :=
  e.valid && decide (e.base < 1024 * (blk + 1)) && decide (1024 * blk < e.base + e.len)

/-- Does a window or the management region map the block? -/
def State.mapped (s : State) (blk : Nat) : Bool :=
  spillBase ≤ 1024 * blk || s.ctxs.anyV fun x e => e.state != FREE &&
    (List.range 64).any fun w => (s.readWin (BitVec.ofNat 13 x) (BitVec.ofNat 6 w)).maps blk

/-- An uncorrected error at a word of HBM is counted, and its address goes to management. -/
def State.scrubUe (s : State) (w : Nat) : State := (s.countPc (8 * w) true).mgmtRecord recTest ECC_UNCORRECTED (BitVec.ofNat 64 (8 * w))

/-- One HBM step over block `blk`: every word is read, and `ecc` is what the read finds at one word of the block beyond the errors
that are there. In memory that nothing maps the march test runs too. -/
def execBteHbmStep (blk : BitVec 24) (res : BteResult) (ecc : Ecc) (s : State) : Out :=
  if s.fw.hbmRate = 0 ∨ ¬ s.clockRuns .bte ∨ ¬ s.clockRuns .memc then .next s
  else
    let w := 128 * blk.toNat + (bits (Config.freeValue s.free) 0 7).toNat
    let s := s.takeFree
    let s := match ecc with
      | .clean => s
      | .corrected => s.countPc (8 * w) false
      | .uncorrected => s.setBad (8 * w) true
    let s := (s.uecc.filter fun w => w / 128 == blk.toNat).foldl State.scrubUe s
    .next (if res = .marchFail ∧ ¬ s.mapped blk.toNat then s.mgmtRecord recTest 0 (BitVec.ofNat 64 (1024 * blk.toNat)) else s)

/-! ## Rows of the protection tables, and what else 16 R441 lists -/

/-- A row of a protection table refuses every check, or checks again. What else may be found bad: a register of a fabric thread holds
its parity error until it is written, and a record of a queue or of the broke queue is lost and counted (16 R441, log 134). -/
def State.setRefuse (s : State) (row : ProtRow) (b : Bool) : State :=
  match row with
  | .func f => s.updFunc f fun x => { x with refuse := b }
  | .ring f r => s.updRing f r fun x => { x with refuse := b }
  | .lockGroup g => { s with locks := { s.locks with groups := s.locks.groups.upd g.toNat {} fun x => { x with refuse := b } } }
  | .rule n => s.updEth fun e => { e with rules := match e.rules.find n.toNat with
      | some x => e.rules.set n.toNat { x with refuse := b }
      | none => e.rules }
  | .register t r => if b && !isSteward t && (s.thread t).work.isSome && r != 0 then s.updThread t fun th => { th with regBad := some r } else s
  | .record keeper =>
    if b then s.updHub fun h => if keeper then { h with keeper := h.keeper.lose } else { h with steward := h.steward.lose } else s
  | .broke =>
    match s.hub.broke with
    | e :: l =>
      if b then (s.updHub fun h => { h with broke := l }).brokeLost (if (s.ctx e.ctx).state == FREE then s.hub.admin else (s.ctx e.ctx).owner) e.cause
      else s
    | [] => s

/-- An uncorrected error is found in a row of a protection table, which then refuses every check; or the running firmware rewrites the
row from its own copy, and it checks again (16 R441). -/
def execProtectionRowRewrite (row : ProtRow) (s : State) (found : Bool := false) : Out :=
  .next (if found then s.setRefuse row true else if s.fwRuns then s.setRefuse row false else s)

end Sys2Proof.Machine
end

