-- ==== Sys2Proof/Machine/Decimal.lean ====
section
/-! DEFINITION. The decimal unit: packed BCD words and pairs (08 R259-R261, 09 R281-R284). -/

namespace Sys2Proof.Machine

/-- The value of the `n` low BCD digits of `x`; none where a digit is above 9 (08 R259). -/
def bcdValue : Nat → Nat → Option Nat
  | 0, _ => some 0
  | n + 1, x =>
    match bcdValue n (x / 16) with
    | some v => if x % 16 ≤ 9 then some (10 * v + x % 16) else none
    | none => none

/-- The `n` low digits of `v` in BCD. -/
def bcdDigits : Nat → Nat → Nat
  | 0, _ => 0
  | n + 1, v => v % 10 + 16 * bcdDigits n (v / 10)

/-- What a decimal instruction writes: rd, partner(rd) in the word form, and the flags of DST. -/
structure DecResult where
  rd : Nat
  partner : Option Nat := none
  flags : Word := 0

/-- The quotient by 10^k rounded under DRND (08 R261): 0 half-even, 1 half-up, toward zero otherwise. -/
def decRound (drnd : BitVec 2) (v k : Nat) : Nat :=
  let q := v / 10 ^ k
  let r := v % 10 ^ k
  let h := 5 * 10 ^ (k - 1)
  if drnd = 0 then (if h < r || (r == h && q % 2 == 1) then q + 1 else q)
  else if drnd = 1 then (if h ≤ r then q + 1 else q)
  else q

/-- INEXACT where `b` holds. -/
def inexactIf (b : Bool) : Word := if b then D_INEXACT else 0

/-- The ten operations on valid operands of `n` digits: values `a` and `b`, digit `m` and count `k` (08 R260). -/
def decOp (op : BitVec 4) (n a b m k bin : Nat) (drnd : BitVec 2) : DecResult :=
  let top := 10 ^ n
  match op.toNat with
  | 0 => { rd := bcdDigits n (a + b), partner := some ((a + b) / top) }
  | 1 => { rd := bcdDigits n (if a < b then a + top - b else a - b), partner := some (if a < b then 1 else 0) }
  | 2 => { rd := bcdDigits n (top - a) }
  | 3 => { rd := bcdDigits n (a * m), partner := some (a * m / top) }
  | 4 => { rd := bcdDigits n (a * 10 ^ k), partner := some (bcdDigits n (a / 10 ^ (n - k))) }
  | 5 => { rd := bcdDigits n (a / 10 ^ k), flags := inexactIf (a % 10 ^ k != 0) }
  | 6 => { rd := if a < b then 1 else 0 }
  | 7 => { rd := if k = 0 then bcdDigits n a else bcdDigits n (decRound drnd a k), flags := inexactIf (a % 10 ^ k != 0) }
  | 8 =>
    let w := a / 10 ^ k
    { rd := if w < 4294967296 then w else 4294967295,
      flags := inexactIf (a % 10 ^ k != 0) ||| (if w < 4294967296 then 0 else D_RANGE) }
  | _ =>
    if bin < top then { rd := bcdDigits n bin } else { rd := 0x99999999, flags := D_RANGE }

/-- A decimal instruction on its operands read as numbers: the digits it checks (09 R281), its result, or all ones with
INVALID. -/
def decimal (op : BitVec 4) (pair : Bool) (x y : Nat) (drnd : BitVec 2) : DecResult :=
  let n := if pair then 16 else 8
  let bad : DecResult := { rd := 2 ^ 64 - 1, flags := D_INVALID }
  let k := min (y % 32) n
  let o := op.toNat
  if o = 9 then decOp op n 0 0 0 0 x drnd
  else
    match bcdValue n x with
    | none => bad
    | some a =>
      if o ≤ 1 ∨ o = 6 then
        match bcdValue n y with
        | none => bad
        | some b => decOp op n a b 0 0 0 drnd
      else if o = 3 ∧ 9 < y % 16 then bad
      else decOp op n a 0 (y % 16) k 0 drnd

/-- Is rd a pair in the pair form (08 R260)? -/
def decPairRd (op : BitVec 4) : Bool := op != 6 && op != 8
/-- Is rs1 a pair in the pair form? -/
def decPairRs1 (op : BitVec 4) : Bool := op != 9
/-- Is rs2 a pair in the pair form? -/
def decPairRs2 (op : BitVec 4) : Bool := op == 0 || op == 1 || op == 6

/-- An operand: a pair or a word. -/
def Thread.readD (th : Thread) (n : Nat) (pair : Bool) (r : GReg) : Nat :=
  if pair then (th.readPair n r).toNat else (th.read n r).toNat

/-- Write a decimal result at clock `due`: a pair, or a word and, for an even rd, its partner (09 R284). -/
def Thread.writeD (th : Thread) (n due : Nat) (pair : Bool) (rd : GReg) (r : DecResult) : Thread :=
  let th :=
    if pair then th.writePair n (some due) rd (BitVec.ofNat 64 r.rd)
    else
      let th := th.write n (some due) rd (BitVec.ofNat 32 r.rd)
      match r.partner with
      | some v => if rd.getLsbD 0 then th else th.write n (some due) (rd + 1) (BitVec.ofNat 32 v)
      | none => th
  th.dstAccrue n due r.flags

/-- The body of a decimal instruction at distance `dist`. -/
def decBody (t : Tid) (op : BitVec 4) (p : Bool) (rd rs1 rs2 : GReg) (dist : Nat) (s : State) (i : Iss) : Eff :=
  let th := s.thread t
  let r := decimal op p (th.readD i.n (p && decPairRs1 op) rs1) (th.readD i.n (p && decPairRs2 op) rs2) (s.ctx i.x).drnd
  let r := if p then { r with partner := none } else r
  .ok (s.updThread t fun th => th.writeD i.n (i.k + dist) (p && decPairRd op) rd r)

/-- DADD (08 R260). -/
def execDadd (t : Tid) (p : Bool) (rd rs1 rs2 : GReg) (s : State) : Out :=
  issue t (wD p rd rs1 rs2 0) (decBody t 0 p rd rs1 rs2 3) s

/-- DSUB (08 R260). -/
def execDsub (t : Tid) (p : Bool) (rd rs1 rs2 : GReg) (s : State) : Out :=
  issue t (wD p rd rs1 rs2 1) (decBody t 1 p rd rs1 rs2 3) s

/-- DADJ (08 R260). -/
def execDadj (t : Tid) (p : Bool) (rd rs1 : GReg) (s : State) : Out :=
  issue t (wD p rd rs1 0 2) (decBody t 2 p rd rs1 0 3) s

/-- DMULS (08 R260). -/
def execDmuls (t : Tid) (p : Bool) (rd rs1 rs2 : GReg) (s : State) : Out :=
  issue t (wD p rd rs1 rs2 3) (decBody t 3 p rd rs1 rs2 6) s

/-- DSHL (08 R260). -/
def execDshl (t : Tid) (p : Bool) (rd rs1 rs2 : GReg) (s : State) : Out :=
  issue t (wD p rd rs1 rs2 4) (decBody t 4 p rd rs1 rs2 3) s

/-- DSHR (08 R260). -/
def execDshr (t : Tid) (p : Bool) (rd rs1 rs2 : GReg) (s : State) : Out :=
  issue t (wD p rd rs1 rs2 5) (decBody t 5 p rd rs1 rs2 3) s

/-- DCMP (08 R260). -/
def execDcmp (t : Tid) (p : Bool) (rd rs1 rs2 : GReg) (s : State) : Out :=
  issue t (wD p rd rs1 rs2 6) (decBody t 6 p rd rs1 rs2 3) s

/-- DROUND (08 R261). -/
def execDround (t : Tid) (p : Bool) (rd rs1 rs2 : GReg) (s : State) : Out :=
  issue t (wD p rd rs1 rs2 7) (decBody t 7 p rd rs1 rs2 3) s

/-- DTOB (08 R260). -/
def execDtob (t : Tid) (p : Bool) (rd rs1 rs2 : GReg) (s : State) : Out :=
  issue t (wD p rd rs1 rs2 8) (decBody t 8 p rd rs1 rs2 3) s

/-- BTOD (08 R260): the source is a binary word. -/
def execBtod (t : Tid) (p : Bool) (rd rs1 : GReg) (s : State) : Out :=
  issue t (wD p rd rs1 0 9) (decBody t 9 p rd rs1 0 3) s

end Sys2Proof.Machine
end

