-- ==== Sys2Proof/Machine/Dispatcher.lean ====
section
/-! DEFINITION. The dispatcher: placing ready items, prefetch slots, taking and starting work, eviction and the end of a
register save (04 R105-R127, R139, R140, 06 R175). -/

namespace Sys2Proof.Machine

/-! ## Choosing an item (04 R106, R107, 06 R175) -/

/-- Priority of an item. -/
def Cluster.prioOf (cl : Cluster) : Work → Nat
  | .activation _ => cl.actPrio.toNat
  | .task d => (cl.task d).prio.toNat

/-- Does the dispatcher pass over the item (04 R107, 06 R175, 16 R446)? A task whose registers are still being saved is
passed over too. -/
def State.passOver (s : State) (c : ClusterId) (w : Work) : Bool :=
  let cl := s.cluster c
  let x := cl.workCtx w
  let st := (s.ctx x).state
  let ok := match w with
    | .activation _ => st == RUNNING || st == UPDATING || st == QUIESCING
    | .task d => (st == RUNNING || st == UPDATING) && !(cl.task d).resident
  let moving := match (s.caux x).move with | some m => m.source == c | none => false
  !ok || moving || decide (8 ≤ s.stalled c x)

/-- Does item `a` go before item `b`? -/
def Cluster.before (cl : Cluster) (a b : Item) : Bool :=
  cl.prioOf a.work < cl.prioOf b.work || (cl.prioOf a.work == cl.prioOf b.work && decide (a.age < b.age))

/-- The ready item of highest priority and greatest age that is not passed over. -/
def State.pick (s : State) (c : ClusterId) : Option Item :=
  let cl := s.cluster c
  (cl.ready.filter fun i => !s.passOver c i.work).foldl
    (fun (best : Option Item) i => match best with
      | none => some i
      | some b => if cl.before i b then some i else some b) none

/-- Is the slot of a PE offered in fc `k`: empty, and not emptied in that fc (04 R111)? -/
def Cluster.offered (cl : Cluster) (k : Nat) (p : BitVec 3) : Bool := (cl.pe p).slot.isNone && decide ((cl.pe p).emptiedAt < k)

/-- The lowest-numbered PE whose empty slot is offered in fc `k`. -/
def Cluster.emptySlot (cl : Cluster) (k : Nat) : Option (BitVec 3) :=
  (least 8 fun p => cl.offered k (BitVec.ofNat 3 p)).map (BitVec.ofNat 3)

/-- The slot of a PE is emptied. -/
def State.emptySlot1 (s : State) (c : ClusterId) (p : BitVec 3) : State :=
  let k := s.dispNow c
  s.updPe c p fun e => { e with slot := none, emptiedAt := k }

/-- Preload time of an item (04 R112). -/
def Cluster.preload (cl : Cluster) : Work → Nat
  | .activation _ => 2
  | .task d => if (cl.task d).saved then 40 else 2

/-- An item enters a PE's slot in fc `k`. -/
def State.toSlot (s : State) (c : ClusterId) (k : Nat) (p : BitVec 3) (i : Item) : State :=
  let due := k + (s.cluster c).preload i.work
  s.updPe c p fun e => { e with slot := some { item := i, due := due, startable := false } }

/-- An item leaves the ready lists; an activation's place is owed to the matching store. -/
def State.unqueue (s : State) (c : ClusterId) (i : Item) : State :=
  s.updCluster c fun cl =>
    { cl with
      ready := cl.ready.filter (· != i)
      readyCr := match i.work with
        | .activation _ => { cl.readyCr with owed := cl.readyCr.owed + 1 }
        | .task _ => cl.readyCr }

/-- Where a held item may go in fc `k` (04 R110): to the preferred PE's slot, or, from the 64th fc on, to the lowest-numbered PE
whose slot is empty. -/
def Cluster.holdTarget (cl : Cluster) (k : Nat) (h : Hold) : Option (BitVec 3) :=
  if k < h.until_ then (if cl.offered k h.pe then some h.pe else none) else cl.emptySlot k

/-- The first hold register, from `n`, whose item can go to a slot in fc `k` and is not passed over (04 R107, R110, R175). -/
def State.firstHold (s : State) (c : ClusterId) (k : Nat) (n : Nat) : List Hold → Option (Nat × BitVec 3 × Item)
  | [] => none
  | h :: r =>
    match (if s.passOver c h.item.work then none else (s.cluster c).holdTarget k h) with
    | some p => some (n, p, h.item)
    | none => s.firstHold c k (n + 1) r

/-- A hold register is served before the queues (04 R110). -/
def State.serveHold (s : State) (c : ClusterId) (k : Nat) : Option State :=
  (s.firstHold c k 0 (s.cluster c).holds).map fun (n, p, i) =>
    (s.updCluster c fun cl => { cl with holds := dropAt cl.holds n }).toSlot c k p i

/-- One placement in fc `k` (04 R110). -/
def State.placeOne (s : State) (c : ClusterId) (k : Nat) : State :=
  match s.serveHold c k with
  | some s => s
  | none =>
    let cl := s.cluster c
    match s.pick c with
    | none => s
    | some i =>
      let any (s : State) : State := match cl.emptySlot k with
        | some p => (s.unqueue c i).toSlot c k p i
        | none => s
      match cl.prefer i.work with
      | none => any s
      | some p =>
        if cl.offered k p then (s.unqueue c i).toSlot c k p i
        else if cl.holds.length < 4 then
          (s.unqueue c i).updCluster c fun cl => { cl with holds := cl.holds ++ [{ item := i, pe := p, until_ := k + 64 }] }
        else any s

/-- The dispatcher's next fc of placements: the section's, or the one after its last. -/
def State.dispNext (s : State) (c : ClusterId) : Nat := max (s.fc c) ((s.cluster c).dispClock + 1)

/-- One fc of the dispatcher: it places up to 2 items (04 R110, R111). -/
def execDispatchPlace (c : ClusterId) (s : State) : Out :=
  let k := s.dispNext c
  .next (((s.updCluster c fun cl => { cl with dispClock := k }).placeOne c k).placeOne c k)

/-- An item has waited 64 fc in hold register `i` (04 R110): it goes to the lowest-numbered PE whose slot is empty, and else
waits on for one. -/
def execAffinityHoldTimeout (c : ClusterId) (i : BitVec 2) (s : State) : Out :=
  match (s.cluster c).holds[i.toNat]? with
  | none => .next s
  | some h =>
    let s := s.passFc (clusterSection c) h.until_
    let k := max (s.dispNext c) h.until_
    match (if s.passOver c h.item.work then none else (s.cluster c).emptySlot k) with
    | some p => .next ((s.updCluster c fun cl => { cl with holds := dropAt cl.holds i.toNat, dispClock := k }).toSlot c k p h.item)
    | none => .next s

/-! ## The prefetch slot (04 R112-R115) -/

/-- The code-store address at which an item starts or resumes. -/
def Cluster.startPc (cl : Cluster) (m : Option Image) : Work → Word
  | .activation a => match m.bind fun m => m.node a.node with
    | some r => cl.codeAddr a.ctx a.image r.codeOff
    | none => 0
  | .task d => let k := cl.task d; if k.saved then k.pc else k.entry

/-- A task whose descriptor is found to hold an uncorrected error when its registers are read faults (16 R441); with the fault
buffer full its slot keeps it until a place frees (04 R137). It stands on no thread: PE, THREAD and the instruction word of its
record are 0 (DESIGN CHOICE, log 151). -/
def State.taskUe (s : State) (c : ClusterId) (d : BitVec 10) : State :=
  if 64 ≤ (s.cluster c).faults.length then s
  else
    let k := (s.cluster c).task d
    let s := (s.unready c d).tearSaved c d
    let r : FaultRec :=
      { words := recordWords ECC_UNCORRECTED true (mkTid c 0 0) k.ctx 0 k.pc 0 (BitVec.setWidth 20 k.task) k.tst s.tb.now,
        ctx := k.ctx, id := s.free }
    let s := (s.takeFree.countFault k.ctx ECC_UNCORRECTED).updTask c d fun k =>
      { k with state := FAULTED, wait := 0, cancelp := false, ue := false, saved := false, outbox := {} }
    let s := (s.updCluster c fun cl => { cl with faults := cl.faults ++ [r] }).countUe c
    if (s.ctx k.ctx).fof then s.fence k.ctx ECC_UNCORRECTED else s

/-- The item in a slot becomes startable; the first line of its code is in the instruction cache (04 R112). -/
def execPreloadComplete (c : ClusterId) (p : BitVec 3) (s : State) : Out :=
  match ((s.cluster c).pe p).slot with
  | none => .next s
  | some k =>
    let s := s.passFc (clusterSection c) k.due
    let lost : Option (BitVec 10) := match k.item.work with
      | .task d => if ((s.cluster c).task d).ue then some d else none
      | .activation _ => none
    match lost with
    | some d => .next (s.taskUe c d)
    | none =>
    let m := match k.item.work with | .activation a => s.image a.image | .task _ => none
    let line := ((s.cluster c).startPc m k.item.work).toNat / 64
    .next (s.updPe c p fun e => { e.addLine line with slot := some { k with startable := true } })

/-- A thread in its start state with work (04 R113, R114). -/
def startThread (th : Thread) (w : Work) (pc : Word) (regs : Map Word) (now : Nat) : Thread :=
  { trapSeq := th.trapSeq, splitSeq := th.splitSeq, lastIssue := now, work := some w, pc := pc, regs := regs }

/-- Registers g1 to g9 of an activation (04 R113). -/
def Activation.regs (a : Activation) : Map Word :=
  a.ops.foldl (fun (m : Map Word) o =>
    let r := 2 + 2 * o.1.toNat
    (m.set r (bits o.2 0 32)).set (r + 1) (bits o.2 32 32)) [(1, BitVec.setWidth 32 a.inst)]

/-- Rename the holder of a message's reservation, or its place in the queue, when a task changes threads. -/
def State.renameSender (s : State) (x : CtxId) (o : Outbox) (old new : Sender) : State :=
  if o.words.isEmpty then s
  else match s.findTask x o.task with
    | none => s
    | some (c, d) => s.updChan c d o.chan fun h =>
        { h with holder := if h.holder = some old then some new else h.holder,
                 queue := h.queue.map fun q => if q = old then new else q }

/-- Bin of the waiting-time histogram (04 R140). -/
def histBin (w : Nat) : Nat := if w < 2 then 0 else min 15 w.log2

/-- The counters of a start (04 R139, R140). -/
def State.noteStart (s : State) (c : ClusterId) (p : BitVec 3) (i : Item) : State :=
  let w := s.fc c - i.since
  let s := s.updPe c p fun e => { e with starts := satInc e.starts, waitSum := satAdd e.waitSum w }
  match i.work with
  | .activation a =>
    let (k, key) := affinityKey a.ctx a.node
    s.updCluster c fun cl =>
      Cluster.noteDepths { cl with hist := cl.hist.upd (histBin w) 0 satInc, affinity := cl.affinity.set k (key, p) }
  | .task d => (s.updTask c d fun k => { k with lastpe := p, affv := true }).updCluster c Cluster.noteDepths

/-- A thread starts the item taken from the slot: an activation with a poison operand faults instead (02 R43). -/
def State.start (s : State) (c : ClusterId) (p : BitVec 3) (t : Tid) (i : Item) : State :=
  let now := s.fc c
  let s := s.noteStart c p i
  match i.work with
  | .activation a =>
    let pc := (s.cluster c).startPc (s.image a.image) i.work
    let s := ((s.inflightSub a.ctx 1).updThread t fun th => startThread th i.work pc a.regs now).act c a.ctx
    if a.poison then s.takeFault t POISON_CONSUMED else s
  | .task d =>
    let k := (s.cluster c).task d
    let s := s.renameSender k.ctx k.outbox (.task c d) (.thread t)
    let s := s.updThread t fun th =>
      if k.saved then { k.restore d th with lastIssue := now }
      else startThread th i.work k.entry [(1, k.arg)] now
    (s.updTask c d fun k => { k with state := RUNNINGT, wait := 0, resident := true, saved := false, outbox := {} }).act c k.ctx

/-- The lowest-numbered free thread of a PE. -/
def State.freeThreadOf (s : State) (c : ClusterId) (p : BitVec 3) : Option Tid :=
  (least 8 fun k => (s.thread (mkTid c p (BitVec.ofNat 3 k))).work.isNone).map fun k => mkTid c p (BitVec.ofNat 3 k)

/-- An item that may not start leaves its slot for the ready lists, at the place its age gives it; an activation needs a place of
the ready queue, and waits for one with those that have come with a position where there is none (04 R115, 06 R175, log 122). -/
def State.backToList (s : State) (c : ClusterId) (p : BitVec 3) (i : Item) : State :=
  let cl := s.cluster c
  let put (s : State) (f : Credits → Credits) : State :=
    (s.emptySlot1 c p).updCluster c fun cl => Cluster.noteDepths { cl with ready := cl.ready ++ [i], readyCr := f cl.readyCr }
  match i.work with
  | .task _ => put s id
  | .activation a =>
    if 0 < cl.readyCr.owed then put s fun k => { k with owed := k.owed - 1 }
    else if 0 < cl.readyCr.avail then put s fun k => { k with avail := k.avail - 1 }
    else (s.emptySlot1 c p).updCluster c fun cl => { cl with movedIn := cl.movedIn ++ [a] }

/-- A free thread takes the startable item of its PE's slot (04 R115); an item of a context with 8 threads stalled goes back
instead (06 R175). -/
def execSlotTake (c : ClusterId) (p : BitVec 3) (s : State) : Out :=
  match ((s.cluster c).pe p).slot, s.freeThreadOf c p with
  | some k, some t =>
    if ¬ k.startable then .next s
    else
      let x := (s.cluster c).workCtx k.item.work
      let st := (s.ctx x).state
      let start (s : State) : State := (s.emptySlot1 c p).start c p t k.item
      if st ≠ FENCED ∧ 8 ≤ s.stalled c x then .next (s.backToList c p k.item)
      else
        match k.item.work with
        | .activation _ => if st = FENCED then .next ((s.emptySlot1 c p).inflightSub x 1) else .next (start s)
        | .task _ => if st = RUNNING ∨ st = UPDATING then .next (start s) else .next (s.backToList c p k.item)
  | _, _ => .next s

/-! ## Eviction (04 R126, R127) -/

/-- Since when a thread's task has been blocked, where the task may be evicted. -/
def State.evictable (s : State) (t : Tid) : Option Nat :=
  let th := s.thread t
  match s.taskOf t, th.wait with
  | some _, .recv _ => some th.blockedAt
  | some _, .event _ _ => some th.blockedAt
  | _, _ => none

/-- Is the thread in an eviction: its split accesses complete, and its registers are saved (04 R126, 07 R216)? -/
def Thread.evicting (th : Thread) : Bool := (match th.wait with | .saving _ => true | .drain => true | _ => false) && th.after == .evicted

/-- The task blocked longest at a PE, the lowest-numbered thread's of those blocked equally long (DESIGN CHOICE, log 123), is evicted once it has been blocked for EVICT_DLY fc, when startable work waits in
the slot and no other eviction of the PE is in progress. -/
def execEviction (c : ClusterId) (p : BitVec 3) (s : State) : Out :=
  let ts := (List.range 8).map fun k => mkTid c p (BitVec.ofNat 3 k)
  let startable : Bool := match ((s.cluster c).pe p).slot with | some k => k.startable | none => false
  if !startable || (ts.any fun t => (s.thread t).evicting) then .next s
  else
    let best := (ts.filterMap fun t => (s.evictable t).map fun b => (b, t)).foldl
      (fun (o : Option (Nat × Tid)) e => match o with
        | none => some e
        | some b => if e.1 < b.1 then some e else some b) none
    match best with
    | none => .next s
    | some (b, t) =>
      let s := s.passFc (clusterSection c) (b + (s.cluster c).evictDly.toNat)
      .next (s.stopWork t .evicted)

/-- The registers of a thread are saved: the thread is freed and the task goes on as its state says (04 R120, R127, 16
R446). -/
def State.saveDone (s : State) (t : Tid) (d : BitVec 10) : State :=
  let c := tCluster t
  let th := s.thread t
  let s := s.renameSender ((s.cluster c).task d).ctx th.outbox (.thread t) (.task c d)
  let s := (s.updTask c d fun k => { k.saveFrom th with resident := false }).freeThread t
  let again (s : State) : State :=
    if ((s.cluster c).task d).state = BLOCKED ∧ (s.cluster c).waitDone d then s.makeReady c d else s
  match th.after with
  | .evicted => again (s.updPe c (tPe t) fun e => { e with evict := satInc e.evict })
  | .moved => if ((s.cluster c).task d).state = RUNNINGT then s.makeReady c d else again s
  | .stopped => again s
  | .ended => s.toDormant c d
  | _ => s

/-- A register save of 40 fc ends. -/
def execRegisterSaveComplete (t : Tid) (s : State) : Out :=
  if ¬ t.wf then .fault .noSuchObject
  else
    match (s.thread t).wait, s.taskOf t with
    | .saving due, some d => .next ((s.passFc (clusterSection (tCluster t)) due).saveDone t d)
    | _, _ => .next s

end Sys2Proof.Machine
end

