-- ==== Sys2Proof/Machine/FloatOps.lean ====
section
/-! DEFINITION. Floating-point instructions (08 R255-R258). -/

namespace Sys2Proof.Machine

/-- The format of a form: binary64 for .D. -/
def fmtOf (d : Bool) : Fmt := if d then F64 else F32

/-- Read an operand of a format. -/
def Thread.readF (th : Thread) (n : Nat) (d : Bool) (r : GReg) : Nat :=
  if d then (th.readPair n r).toNat else (th.read n r).toNat

/-- Write a result of a format, and its flags, at clock `due`. -/
def Thread.writeF (th : Thread) (n due : Nat) (d : Bool) (rd : GReg) (r : Nat × Word) : Thread :=
  (if d then th.writePair n (some due) rd (BitVec.ofNat 64 r.1)
   else th.write n (some due) rd (BitVec.ofNat 32 r.1)).fstAccrue n due r.2

/-- An operation whose result is of format `d`, from a thread's operands and RM. -/
def floatBody (t : Tid) (d : Bool) (rd : GReg) (dist : Nat) (f : Thread → Nat → BitVec 2 → Nat × Word) (s : State)
    (i : Iss) : Eff :=
  let th := s.thread t
  let r := f th i.n (th.rm i.n)
  .ok (s.updThread t fun th => th.writeF i.n (i.k + dist) d rd r)

/-- An operation whose result is a word. -/
def floatWord (t : Tid) (rd : GReg) (dist : Nat) (f : Thread → Nat → BitVec 2 → Word × Word) (s : State) (i : Iss) : Eff :=
  let th := s.thread t
  let r := f th i.n (th.rm i.n)
  .ok (s.updThread t fun th => (th.write i.n (some (i.k + dist)) rd r.1).fstAccrue i.n (i.k + dist) r.2)

/-- Two operands of the form's format. -/
def float2 (d : Bool) (rs1 rs2 : GReg) (f : Fmt → BitVec 2 → Nat → Nat → Nat × Word) (th : Thread) (n : Nat)
    (rm : BitVec 2) : Nat × Word :=
  f (fmtOf d) rm (th.readF n d rs1) (th.readF n d rs2)

/-- The same for a word result. -/
def floatCmp (d : Bool) (rs1 rs2 : GReg) (f : Fmt → Nat → Nat → Word × Word) (th : Thread) (n : Nat) (_ : BitVec 2) :
    Word × Word :=
  f (fmtOf d) (th.readF n d rs1) (th.readF n d rs2)

/-- FADD (08 R255). -/
def execFadd (t : Tid) (d : Bool) (rd rs1 rs2 : GReg) (s : State) : Out :=
  issue t (wF d rd rs1 rs2 0) (floatBody t d rd (if d then 6 else 4) (float2 d rs1 rs2 Fmt.add)) s

/-- FSUB (08 R255). -/
def execFsub (t : Tid) (d : Bool) (rd rs1 rs2 : GReg) (s : State) : Out :=
  issue t (wF d rd rs1 rs2 1) (floatBody t d rd (if d then 6 else 4) (float2 d rs1 rs2 Fmt.sub)) s

/-- FMUL (08 R255). -/
def execFmul (t : Tid) (d : Bool) (rd rs1 rs2 : GReg) (s : State) : Out :=
  issue t (wF d rd rs1 rs2 2) (floatBody t d rd (if d then 6 else 4) (float2 d rs1 rs2 Fmt.mul)) s

/-- FMA (08 R255): rd is read at issue. -/
def execFma (t : Tid) (d : Bool) (rd rs1 rs2 : GReg) (s : State) : Out :=
  issue t (wF d rd rs1 rs2 3)
    (floatBody t d rd (if d then 6 else 4) fun th n rm =>
      (fmtOf d).fma rm (th.readF n d rs1) (th.readF n d rs2) (th.readF n d rd)) s

/-- FDIV (08 R255). -/
def execFdiv (t : Tid) (d : Bool) (rd rs1 rs2 : GReg) (s : State) : Out :=
  issue t (wF d rd rs1 rs2 4) (floatBody t d rd (if d then 22 else 12) (float2 d rs1 rs2 Fmt.div)) s

/-- FSQRT (08 R255). -/
def execFsqrt (t : Tid) (d : Bool) (rd rs1 : GReg) (s : State) : Out :=
  issue t (wF d rd rs1 0 5)
    (floatBody t d rd (if d then 26 else 14) fun th n rm => (fmtOf d).sqrt rm (th.readF n d rs1)) s

/-- FMIN (08 R256). -/
def execFmin (t : Tid) (d : Bool) (rd rs1 rs2 : GReg) (s : State) : Out :=
  issue t (wF d rd rs1 rs2 6) (floatBody t d rd 2 (float2 d rs1 rs2 fun f _ => f.minmax false)) s

/-- FMAX (08 R256). -/
def execFmax (t : Tid) (d : Bool) (rd rs1 rs2 : GReg) (s : State) : Out :=
  issue t (wF d rd rs1 rs2 7) (floatBody t d rd 2 (float2 d rs1 rs2 fun f _ => f.minmax true)) s

/-- FCMPEQ (08 R256). -/
def execFcmpeq (t : Tid) (d : Bool) (rd rs1 rs2 : GReg) (s : State) : Out :=
  issue t (wF d rd rs1 rs2 8) (floatWord t rd 2 (floatCmp d rs1 rs2 Fmt.cmpEq)) s

/-- FCMPLT (08 R256). -/
def execFcmplt (t : Tid) (d : Bool) (rd rs1 rs2 : GReg) (s : State) : Out :=
  issue t (wF d rd rs1 rs2 9) (floatWord t rd 2 (floatCmp d rs1 rs2 fun f => f.cmpLess false)) s

/-- FCMPLE (08 R256). -/
def execFcmple (t : Tid) (d : Bool) (rd rs1 rs2 : GReg) (s : State) : Out :=
  issue t (wF d rd rs1 rs2 10) (floatWord t rd 2 (floatCmp d rs1 rs2 fun f => f.cmpLess true)) s

/-- FCLASS (08 R257). -/
def execFclass (t : Tid) (d : Bool) (rd rs1 : GReg) (s : State) : Out :=
  issue t (wF d rd rs1 0 11) (floatWord t rd 2 fun th n _ => ((fmtOf d).classOf (th.readF n d rs1), 0)) s

/-- FCVT from a signed word (08 R258). -/
def execFcvtFromSignedWord (t : Tid) (d : Bool) (rd rs1 : GReg) (s : State) : Out :=
  issue t (wF d rd rs1 0 0x10)
    (floatBody t d rd 4 fun th n rm => (fmtOf d).fromInt rm (th.read n rs1).toInt) s

/-- FCVT from an unsigned word (08 R258). -/
def execFcvtFromUnsignedWord (t : Tid) (d : Bool) (rd rs1 : GReg) (s : State) : Out :=
  issue t (wF d rd rs1 0 0x11)
    (floatBody t d rd 4 fun th n rm => (fmtOf d).fromInt rm ((th.read n rs1).toNat : Int)) s

/-- FCVT to a signed word (08 R258). -/
def execFcvtToSignedWord (t : Tid) (d : Bool) (rd rs1 : GReg) (s : State) : Out :=
  issue t (wF d rd rs1 0 0x12) (floatWord t rd 4 fun th n rm => (fmtOf d).toWord rm true (th.readF n d rs1)) s

/-- FCVT to an unsigned word (08 R258). -/
def execFcvtToUnsignedWord (t : Tid) (d : Bool) (rd rs1 : GReg) (s : State) : Out :=
  issue t (wF d rd rs1 0 0x13) (floatWord t rd 4 fun th n rm => (fmtOf d).toWord rm false (th.readF n d rs1)) s

/-- FCVT between formats (08 R258): .S.D for major opcode 0x24, .D.S for 0x25. -/
def execFcvtBetweenFormats (t : Tid) (d : Bool) (rd rs1 : GReg) (s : State) : Out :=
  issue t (wF d rd rs1 0 0x14)
    (floatBody t d rd 4 fun th n rm => convert (fmtOf (!d)) (fmtOf d) rm (th.readF n (!d) rs1)) s

end Sys2Proof.Machine
end

