-- ==== Sys2Proof/Machine/Integer.lean ====
section
/-! DEFINITION. Integer instructions and paired words (08 R237, R238, 07 R200). -/

namespace Sys2Proof.Machine

/-- ADD (08 R237). -/
def execAdd (t : Tid) (rd rs1 rs2 : GReg) (s : State) : Out :=
  issue t (wL3 0x01 rd rs1 rs2 0) (alu t rd rs1 rs2 2 (fun a b => a + b)) s

/-- SUB (08 R237). -/
def execSub (t : Tid) (rd rs1 rs2 : GReg) (s : State) : Out :=
  issue t (wL3 0x01 rd rs1 rs2 1) (alu t rd rs1 rs2 2 (fun a b => a - b)) s

/-- AND (08 R237). -/
def execAndR (t : Tid) (rd rs1 rs2 : GReg) (s : State) : Out :=
  issue t (wL3 0x01 rd rs1 rs2 2) (alu t rd rs1 rs2 2 (fun a b => a &&& b)) s

/-- OR (08 R237). -/
def execOrR (t : Tid) (rd rs1 rs2 : GReg) (s : State) : Out :=
  issue t (wL3 0x01 rd rs1 rs2 3) (alu t rd rs1 rs2 2 (fun a b => a ||| b)) s

/-- XOR (08 R237). -/
def execXorR (t : Tid) (rd rs1 rs2 : GReg) (s : State) : Out :=
  issue t (wL3 0x01 rd rs1 rs2 4) (alu t rd rs1 rs2 2 (fun a b => a ^^^ b)) s

/-- NOR (08 R237). -/
def execNor (t : Tid) (rd rs1 rs2 : GReg) (s : State) : Out :=
  issue t (wL3 0x01 rd rs1 rs2 5) (alu t rd rs1 rs2 2 (fun a b => ~~~(a ||| b))) s

/-- SLL (08 R237). -/
def execSll (t : Tid) (rd rs1 rs2 : GReg) (s : State) : Out :=
  issue t (wL3 0x01 rd rs1 rs2 6) (alu t rd rs1 rs2 2 (fun a b => shl a (amount b))) s

/-- SRL (08 R237). -/
def execSrl (t : Tid) (rd rs1 rs2 : GReg) (s : State) : Out :=
  issue t (wL3 0x01 rd rs1 rs2 7) (alu t rd rs1 rs2 2 (fun a b => shr a (amount b))) s

/-- SRA (08 R237). -/
def execSra (t : Tid) (rd rs1 rs2 : GReg) (s : State) : Out :=
  issue t (wL3 0x01 rd rs1 rs2 8) (alu t rd rs1 rs2 2 (fun a b => sar a (amount b))) s

/-- CMPEQ (08 R237). -/
def execCmpeq (t : Tid) (rd rs1 rs2 : GReg) (s : State) : Out :=
  issue t (wL3 0x01 rd rs1 rs2 9) (alu t rd rs1 rs2 2 (fun a b => truth (a == b))) s

/-- CMPNE (08 R237). -/
def execCmpne (t : Tid) (rd rs1 rs2 : GReg) (s : State) : Out :=
  issue t (wL3 0x01 rd rs1 rs2 10) (alu t rd rs1 rs2 2 (fun a b => truth (a != b))) s

/-- CMPLT (08 R237). -/
def execCmplt (t : Tid) (rd rs1 rs2 : GReg) (s : State) : Out :=
  issue t (wL3 0x01 rd rs1 rs2 11) (alu t rd rs1 rs2 2 (fun a b => truth (a.slt b))) s

/-- CMPLTU (08 R237). -/
def execCmpltu (t : Tid) (rd rs1 rs2 : GReg) (s : State) : Out :=
  issue t (wL3 0x01 rd rs1 rs2 12) (alu t rd rs1 rs2 2 (fun a b => truth (a.ult b))) s

/-- MIN (08 R237). -/
def execMin (t : Tid) (rd rs1 rs2 : GReg) (s : State) : Out :=
  issue t (wL3 0x01 rd rs1 rs2 14) (alu t rd rs1 rs2 2 minS) s

/-- MAX (08 R237). -/
def execMax (t : Tid) (rd rs1 rs2 : GReg) (s : State) : Out :=
  issue t (wL3 0x01 rd rs1 rs2 15) (alu t rd rs1 rs2 2 maxS) s

/-- SEL (08 R237): rd is read at issue. -/
def execSel (t : Tid) (rd rs1 rs2 : GReg) (s : State) : Out :=
  issue t (wL3 0x01 rd rs1 rs2 13)
    (writes t rd 2 fun th n => if th.read n rd ≠ 0 then th.read n rs1 else th.read n rs2) s

/-- NEG (08 R237). -/
def execNeg (t : Tid) (rd rs1 : GReg) (s : State) : Out :=
  issue t (wL3 0x01 rd rs1 0 0x10) (alu1 t rd rs1 2 (fun a => 0 - a)) s

/-- ADD immediate (08 R237). -/
def execAddImmediate (t : Tid) (rd rs1 : GReg) (imm : BitVec 15) (s : State) : Out :=
  issue t (wLI 0x8 rd rs1 imm) (alu1 t rd rs1 2 fun a => a + sext15 imm) s

/-- AND immediate (08 R237). -/
def execAndImmediate (t : Tid) (rd rs1 : GReg) (imm : BitVec 15) (s : State) : Out :=
  issue t (wLI 0x9 rd rs1 imm) (alu1 t rd rs1 2 fun a => a &&& zext15 imm) s

/-- OR immediate (08 R237). -/
def execOrImmediate (t : Tid) (rd rs1 : GReg) (imm : BitVec 15) (s : State) : Out :=
  issue t (wLI 0xa rd rs1 imm) (alu1 t rd rs1 2 fun a => a ||| zext15 imm) s

/-- XOR immediate (08 R237). -/
def execXorImmediate (t : Tid) (rd rs1 : GReg) (imm : BitVec 15) (s : State) : Out :=
  issue t (wLI 0xb rd rs1 imm) (alu1 t rd rs1 2 fun a => a ^^^ zext15 imm) s

/-- SLL immediate (08 R237). -/
def execSllImmediate (t : Tid) (rd rs1 : GReg) (imm : BitVec 15) (s : State) : Out :=
  issue t (wLI 0xc rd rs1 imm) (alu1 t rd rs1 2 fun a => shl a (imm.toNat % 32)) s

/-- SRL immediate (08 R237). -/
def execSrlImmediate (t : Tid) (rd rs1 : GReg) (imm : BitVec 15) (s : State) : Out :=
  issue t (wLI 0xd rd rs1 imm) (alu1 t rd rs1 2 fun a => shr a (imm.toNat % 32)) s

/-- SRA immediate (08 R237). -/
def execSraImmediate (t : Tid) (rd rs1 : GReg) (imm : BitVec 15) (s : State) : Out :=
  issue t (wLI 0xe rd rs1 imm) (alu1 t rd rs1 2 fun a => sar a (imm.toNat % 32)) s

/-- CMPEQ immediate (08 R237). -/
def execCmpeqImmediate (t : Tid) (rd rs1 : GReg) (imm : BitVec 15) (s : State) : Out :=
  issue t (wLI 0xf rd rs1 imm) (alu1 t rd rs1 2 fun a => truth (a == sext15 imm)) s

/-- CMPNE immediate (08 R237). -/
def execCmpneImmediate (t : Tid) (rd rs1 : GReg) (imm : BitVec 15) (s : State) : Out :=
  issue t (wLI 0x10 rd rs1 imm) (alu1 t rd rs1 2 fun a => truth (a != sext15 imm)) s

/-- CMPLT immediate (08 R237). -/
def execCmpltImmediate (t : Tid) (rd rs1 : GReg) (imm : BitVec 15) (s : State) : Out :=
  issue t (wLI 0x11 rd rs1 imm) (alu1 t rd rs1 2 fun a => truth (a.slt (sext15 imm))) s

/-- CMPLTU immediate (08 R237). -/
def execCmpltuImmediate (t : Tid) (rd rs1 : GReg) (imm : BitVec 15) (s : State) : Out :=
  issue t (wLI 0x12 rd rs1 imm) (alu1 t rd rs1 2 fun a => truth (a.ult (sext15 imm))) s

/-- LUI (08 R237). -/
def execLui (t : Tid) (rd : GReg) (off : BitVec 20) (s : State) : Out :=
  issue t (wLB 0x03 rd off) (writes t rd 2 fun _ _ => off ++ (0 : BitVec 12)) s

/-- MUL (08 R237, 07 R212). -/
def execMul (t : Tid) (rd rs1 rs2 : GReg) (s : State) : Out :=
  issue t (wL3 0x02 rd rs1 rs2 0) (alu t rd rs1 rs2 5 (fun a b => a * b)) s

/-- MULH (08 R237, 07 R212). -/
def execMulh (t : Tid) (rd rs1 rs2 : GReg) (s : State) : Out :=
  issue t (wL3 0x02 rd rs1 rs2 1) (alu t rd rs1 rs2 6 mulHigh) s

/-- MULHU (08 R237, 07 R212). -/
def execMulhu (t : Tid) (rd rs1 rs2 : GReg) (s : State) : Out :=
  issue t (wL3 0x02 rd rs1 rs2 2) (alu t rd rs1 rs2 6 mulHighU) s

/-- DIV (08 R238, 09 R270). -/
def execDiv (t : Tid) (rd rs1 rs2 : GReg) (s : State) : Out :=
  issue t (wL3 0x02 rd rs1 rs2 3) (divide t rd rs1 rs2 divS) s

/-- DIVU (08 R238, 09 R270). -/
def execDivu (t : Tid) (rd rs1 rs2 : GReg) (s : State) : Out :=
  issue t (wL3 0x02 rd rs1 rs2 4) (divide t rd rs1 rs2 divU) s

/-- REM (08 R238, 09 R270). -/
def execRem (t : Tid) (rd rs1 rs2 : GReg) (s : State) : Out :=
  issue t (wL3 0x02 rd rs1 rs2 5) (divide t rd rs1 rs2 remS) s

/-- REMU (08 R238, 09 R270). -/
def execRemu (t : Tid) (rd rs1 rs2 : GReg) (s : State) : Out :=
  issue t (wL3 0x02 rd rs1 rs2 6) (divide t rd rs1 rs2 remU) s

/-- A paired word: bit 31 set and bits 30:0 as given (07 R200). -/
def execPairedWord (t : Tid) (x : BitVec 31) (s : State) : Out :=
  let w : Word := (1 : BitVec 1) ++ x
  issue t w (pairedBody t w) s

/-- An undefined encoding, or a fetch from an offset that holds no code of the context, faults with ILLEGAL_OP (07 R206,
R208). The code of the stewards is not held, so a word of theirs with a nonzero reserved field comes by this command too, and faults
with RESERVED_FIELD (log 120). Where the word is otherwise defined, or code is there, that is no undefined encoding, and nothing
happens. -/
def execUndefinedEncoding (t : Tid) (w : Word) (noCode : Bool) (s : State) : Out :=
  if noCode then
    if ¬ t.wf then .fault .noSuchObject
    else if ¬ s.ready t then .next s
    else if ¬ s.lineIn t then .next (s.hold t .icache)
    else if ¬ s.elected t ∨ (¬ isSteward t ∧ (s.fetch t).isSome) then .next s
    else .next (s.noCode t)
  else if wordDefined w && !(isSteward t && wordReserved w) then (if t.wf then .next s else .fault .noSuchObject)
  else issue t w (fun s _ => .ok s) s

end Sys2Proof.Machine
end

