-- ==== Sys2Proof/Machine/Near.lean ====
section
/-! DEFINITION. Near loads and stores (08 R239). -/

namespace Sys2Proof.Machine

/-- LB (08 R239). -/
def execLb (t : Tid) (rd rs1 : GReg) (imm : BitVec 15) (s : State) : Out :=
  issue t (wLI 0x18 rd rs1 imm) (nearLoad t rd rs1 imm 0 true) s

/-- LBU (08 R239). -/
def execLbu (t : Tid) (rd rs1 : GReg) (imm : BitVec 15) (s : State) : Out :=
  issue t (wLI 0x19 rd rs1 imm) (nearLoad t rd rs1 imm 0 false) s

/-- LH (08 R239). -/
def execLh (t : Tid) (rd rs1 : GReg) (imm : BitVec 15) (s : State) : Out :=
  issue t (wLI 0x1a rd rs1 imm) (nearLoad t rd rs1 imm 1 true) s

/-- LHU (08 R239). -/
def execLhu (t : Tid) (rd rs1 : GReg) (imm : BitVec 15) (s : State) : Out :=
  issue t (wLI 0x1b rd rs1 imm) (nearLoad t rd rs1 imm 1 false) s

/-- LW (08 R239). -/
def execLw (t : Tid) (rd rs1 : GReg) (imm : BitVec 15) (s : State) : Out :=
  issue t (wLI 0x1c rd rs1 imm) (nearLoad t rd rs1 imm 2 false) s

/-- LDP (08 R239). -/
def execLdp (t : Tid) (rd rs1 : GReg) (imm : BitVec 15) (s : State) : Out :=
  issue t (wLI 0x1d rd rs1 imm) (nearLoad t rd rs1 imm 3 false) s

/-- SB (08 R239): rd is the data source. -/
def execSb (t : Tid) (rd rs1 : GReg) (imm : BitVec 15) (s : State) : Out :=
  issue t (wLI 0x1e rd rs1 imm) (nearStore t rd rs1 imm 0) s

/-- SH (08 R239): rd is the data source. -/
def execSh (t : Tid) (rd rs1 : GReg) (imm : BitVec 15) (s : State) : Out :=
  issue t (wLI 0x1f rd rs1 imm) (nearStore t rd rs1 imm 1) s

/-- SW (08 R239): rd is the data source. -/
def execSw (t : Tid) (rd rs1 : GReg) (imm : BitVec 15) (s : State) : Out :=
  issue t (wLI 0x20 rd rs1 imm) (nearStore t rd rs1 imm 2) s

/-- SDP (08 R239): rd is the data source. -/
def execSdp (t : Tid) (rd rs1 : GReg) (imm : BitVec 15) (s : State) : Out :=
  issue t (wLI 0x21 rd rs1 imm) (nearStore t rd rs1 imm 3) s

end Sys2Proof.Machine
end

