-- ==== Sys2Proof/Machine/Readiness.lean ====
section
/-! DEFINITION. The firmware reports ready: what waited for it, the commands that were in progress, and the first tables (12 R364, 15
R433, 16 R438, R451, R456). -/

namespace Sys2Proof.Machine

/-! ## The firmware is ready (15 R433, 16 R438, R451, R456) -/

/-- The records that waited reach the firmware, which clears the queue's overflow flag and its first-lost field (01 R25, log
118). -/
def State.takeRecords (s : State) : State :=
  let rs := s.hub.steward.recs
  let s := s.updHub fun h => { h with steward := { h.steward with recs := [], ovf := false, first := 0 } }
  rs.foldl (fun s r =>
    if r.1 = recDrain then s.drainAct (bits r.2.2 0 13) else if r.1 = recKeyError then s.keyCheck (bits r.2.2 0 6) else s) s

/-- FLR sequences that waited for the firmware are taken. -/
def State.finishFlrs (s : State) : State :=
  (s.hub.funcs.filter fun e => e.2.flr).foldl (fun s e => s.flrSteps (BitVec.ofNat 7 e.1)) s

/-- A DBG_STOP that has not completed is taken back: its requests are withdrawn, and what it has stopped goes on, save what stopped
before it or at a BRK. -/
def State.undoStop (s : State) (f : FuncId) : State :=
  let x := s.argCtx f 8
  let kept := (s.mbox f).stopped
  let s := (s.threadsOf x).foldl (fun s t =>
    let s := s.updThread t fun th => { th with dbgReq := false }
    if (s.thread t).dbgStopped && !(s.thread t).brk && !kept.contains (.thread t) then s.resumeThread t else s) s
  (s.tasksIn x).foldl (fun s (c, d) =>
    if ((s.cluster c).task d).brk || kept.contains (.task c d) then s else s.resumeTask c d) s

/-- A SECTION_FENCE that has not completed is taken back: its section is in service again, and what of its plan has not begun to move
stays; what has moved has moved. -/
def State.undoFence (s : State) (f : FuncId) : State :=
  match s.fw.fenceJob with
  | some (n, some g) =>
    if g ≠ f then s
    else
      let s := (s.updSect n fun x => { x with svc := 0 }).updFw fun w =>
        { w with fenceJob := none, reserveSet := w.reserveSet ++ w.fenceKept.filter fun c => !w.reserveSet.contains c
                 plan := w.plan.filter fun (x, k, _) => clusterSection (s.clusterAt x k.toNat) != n }
      s.nextFence s.fw.fenceWait
  | _ => s

/-- Has the command of `f` set something going at the hardware that no journal takes back: a kill, a bank's new owner, or a section's
power (DESIGN CHOICE, log 87)? -/
def State.carriedThrough (s : State) (f : FuncId) : Bool :=
  match s.arg f 0 2 with
  | 0x0204 => s.dying (s.argCtx f 8)
  | 0x0401 => true
  | 0x0802 => true
  | _ => false

/-- Commands in progress are taken back and complete with INTERNAL (16 R438); those carried through complete as they would have. -/
def State.failBegun (s : State) : State :=
  s.hub.order.foldl (fun s f =>
    if ¬ (s.mbox f).begun ∨ s.carriedThrough f then s
    else
      let s := match s.arg f 0 2 with
        | 0x0801 => s.undoFence f
        | 0x0B02 => s.undoStop f
        | _ => s
      s.answer f INTERNAL (failDetail 0xFFFF 0 0) []) s

/-- The budgets of the administrative function at start-up, and the repair reserve. -/
def State.startTables (s : State) : State :=
  let full : Func :=
    { bud0 := BitVec.ofNat 64 (8192 + 65536 * 2 ^ 16 + 1048576 * 2 ^ 34), bud1 := BitVec.ofNat 64 (262144 + 524288 * 2 ^ 20),
      bud2 := BitVec.ofNat 64 (67108864 + 262144 * 2 ^ 32) }
  let up := (List.range 64).filter fun c => (s.sect (clusterSection (BitVec.ofNat 6 c))).svc == 0
  let old := s.func s.hub.admin
  let full := { full with flr := old.flr, flrAt := old.flrAt, aer := old.aer }
  (s.updHub fun h => { h with funcs := h.funcs.set h.admin.toNat full }).updFw fun w =>
    { w with reserveSet := (up.reverse.take w.reserve).map (BitVec.ofNat 6) }

/-- Has start-up come as far as the firmware's report? -/
def State.startedUp (s : State) : Bool :=
  !s.fw.ready && !s.fw.held && s.clk.hbmUp && !s.clk.warmLow && s.awake && allSections.all fun k => (s.sect k).tried

/-- The firmware reports ready: the end of start-up or of a warm reset with keeper mode, of an activation, of a revert or of a
steward restart. -/
def State.firmwareReady (s : State) : State :=
  let rest (s : State) : State := s.takeRecords.finishFlrs
  match s.fw.paused.toNat with
  | 1 =>
    let v := s.fw.running
    let f := s.fw.activating
    let s := (s.updFw fun w => { w with paused := 0, activating := none, staged := none, fusedCounter := Config.fwCounter v }).releaseDomain 2
    let s := match f with | some f => s.answer f OK 0 (leBytes 4 v.toNat) | none => s
    rest (s.adminEvent 0x0107 0 (BitVec.setWidth 64 v))
  | 2 =>
    let s := (s.updFw fun w => { w with paused := 0, activating := none }).releaseDomain 2
    rest (s.failBegun.adminEvent 0x0108 0 (BitVec.setWidth 64 s.fw.running))
  | 3 =>
    let s := (s.updFw fun w => { w with paused := 0 }).releaseDomain 2
    rest (s.failBegun.adminEvent 0x0106 0 (BitVec.setWidth 64 s.fw.restartCause))
  | _ =>
    if s.startedUp then
      let s := (s.updFw fun w => { w with ready := true }).startTables
      rest ((s.updKeeper fun k => { k with keeper := false, cause := 0, keeperAct := false, faultN := false, delayed := 0 }).drive)
    else s

/-- The firmware reports ready. -/
def execFirmwareReady (s : State) : Out := .next s.firmwareReady

end Sys2Proof.Machine
end

