-- ==== Sys2Proof/Machine/RegisterWrite.lean ====
section
/-! DEFINITION. A write to a register that has no row of its own: each field stores, clears or ignores as its access code says (00
R12-R15). -/

namespace Sys2Proof.Machine

/-- A RW1C flag: a 1 clears it, and a hardware update of the same cycle wins (00 R15). -/
def rw1c (old clear set : Bool) : Bool := (old && !clear) || set

/-- P_WM_CFG (03 R100). A change of LIVE by such a write is no crossing. -/
def Wm.setCfg (w : Wm) (v : DWord) : Wm := { w with mark := bits v 0 16, ieUp := v.getLsbD 16, ieDn := v.getLsbD 17 }
/-- P_WM_STAT. -/
def Wm.setStat (w : Wm) (v hw : DWord) : Wm :=
  { w with up := rw1c w.up (v.getLsbD 0) (hw.getLsbD 0), dn := rw1c w.dn (v.getLsbD 1) (hw.getLsbD 1) }

/-- The cluster whose register it is. -/
def regCluster : RegName → Option ClusterId
  | .msRes c _ => some c
  | .dlRes c _ => some c
  | .cdRes c _ => some c
  | .cdCfg c => some c
  | .cdFwd c _ => some c
  | .dlWmCfg c => some c
  | .dlWmStat c => some c
  | _ => none

/-- Registers of the clusters (03 R81, 04 R138, 05 R153, R159, 06 R182, 16 R447). A write wakes the section's clock (15 R422). -/
def State.writeResidency (s : State) (reg : RegName) (v hw : DWord) : State :=
  let s := match regCluster reg with | some c => s.wakeSect (clusterSection c) | none => s
  match reg with
  | .msRes c n => s.updCluster c fun cl => { cl with msRes := cl.msRes.upd n.toNat {} fun r =>
      { r with ctx := bits v 0 13, valid := v.getLsbD 13, limit := bits v 16 15 } }
  | .dlRes c n => s.updCluster c fun cl => { cl with dlRes := cl.dlRes.upd n.toNat {} fun r =>
      { r with ctx := bits v 0 13, valid := v.getLsbD 13, limit := bits v 16 13 } }
  | .cdRes c n => s.updCluster c fun cl => { cl with cdRes := cl.cdRes.upd n.toNat {} fun r =>
      { r with ctx := bits v 0 13, valid := v.getLsbD 13 } }
  | .cdCfg c => s.updCluster c fun cl => { cl with evictDly := bits v 0 8, actPrio := bits v 8 5 }
  | .cdFwd c n => s.updCluster c fun cl => { cl with fwd := cl.fwd.upd n.toNat {} fun r => { r with target := bits v 0 6, valid := v.getLsbD 6 } }
  | .dlWmCfg c => s.updCluster c fun cl => { cl with dlWm := cl.dlWm.setCfg v }
  | .dlWmStat c => s.updCluster c fun cl => { cl with dlWm := cl.dlWm.setStat v hw }
  | _ => s

/-- Registers of the timebase, the reel, the lock unit, the banks and the spine (05 R148, R167, 10 R309, 11 R325, R328, 16 R448). A
write to the bank of CUR is ignored, and one to the other bank waits while a worm of its epoch exists. A value of TB_TK outside
25 to 200,000 is stored as written (DESIGN CHOICE, log 136). -/
def State.writeShared (s : State) (reg : RegName) (v : DWord) : State :=
  match reg with
  | .tbTk => s.setTk (5 * (bits v 0 18 : BitVec 18).toNat)
  | .tbRate => s.updTb fun t => { t with rate := rateHeld (bits v 0 32) }
  | .tbSrc => s.updTb fun t => { t with src := bits v 0 2, port := bits v 2 2 }
  | .rlFlow f => s.updFlow f fun w => { w with ring := bits v 16 6, valid := v.getLsbD 22, quota := bits v 24 9, gapto := bits v 48 16 }
  | .lckGrpF0 g => { s with locks := { s.locks with groups := s.locks.groups.upd g.toNat {} fun r => { r with f0 := v } } }
  | .lckGrpF1 g => { s with locks := { s.locks with groups := s.locks.groups.upd g.toNat {} fun r => { r with f1 := v } } }
  | .lckGrpCl g => { s with locks := { s.locks with groups := s.locks.groups.upd g.toNat {} fun r => { r with cl := bits v 0 3 } } }
  | .spdFwd n => s.updBank n fun b => { b with fwdBank := bits v 0 8, fwdValid := v.getLsbD 8 }
  | .nocRtBank r b => if b = s.spine.cur then s else s.rtWrite [.bank r b (v &&& 0x7777777777777777)]
  | _ => s

/-- Registers of the host hub (12 R341, R347, R358, 13 R369). Those in a BAR answer only where the function does. -/
def State.writeHub (s : State) (reg : RegName) (v hw : DWord) : State :=
  match reg with
  | .hbFuncCfg f => s.updFunc f fun e => { e with en := v.getLsbD 0, dbg := v.getLsbD 2, pio := v.getLsbD 3 }
  | .hbFuncBud f k =>
    s.updFunc f fun e =>
      if k = 0 then { e with bud0 := v &&& 0x007FFFFDFFFF3FFF } else if k = 1 then { e with bud1 := v &&& 0x000000FFFFF7FFFF }
      else if k = 2 then { e with bud2 := v &&& 0x0007FFFF07FFFFFF } else e
  | .hbRstat f r => if s.barsAnswer f then s.updRing f r fun g =>
      { g with lostFlag := rw1c g.lostFlag (v.getLsbD 1) (hw.getLsbD 1), overrun := rw1c g.overrun (v.getLsbD 2) (hw.getLsbD 2) } else s
  | .hbRwmCfg f r => if s.barsAnswer f then s.updRing f r fun g => { g with wm := g.wm.setCfg v } else s
  | .hbRwmStat f r => if s.barsAnswer f then s.updRing f r fun g => { g with wm := g.wm.setStat v hw } else s
  | .mbStatus f => if s.barsAnswer f then s.updMbox f fun m => { m with overlap := rw1c m.overlap (v.getLsbD 5) (hw.getLsbD 5) } else s
  | .msixVectorControl f n => s.msixSet f fun m =>
      { m with unmasked := (m.unmasked.filter (· != n)) ++ if v.getLsbD 0 then [] else [n] }
  | .msixMessageControl f => s.msixSet f fun m => { m with enable := v.getLsbD 15, fmask := v.getLsbD 14 }
  | .msixMessageAddress f n => s.msixSet f fun m => { m with table := m.table.upd n.toNat 0 fun e => bits e 64 32 ++ (bits v 2 62 ++ (0 : BitVec 2)) }
  | .msixMessageData f n => s.msixSet f fun m => { m with table := m.table.upd n.toNat 0 fun e => bits v 0 32 ++ bits e 0 64 }
  | _ => s

/-- MON_VWIN[n] (17 R463, R464): a write with CRIT below WARN is ignored whole, and the window of a rail under AVS runs from the old
NOM to the new. -/
def State.writeVwin (s : State) (n : Nat) (v : DWord) : State :=
  let nom : BitVec 16 := bits v 16 16
  let old := s.nomOf n
  if 23 < n ∨ (bits v 8 8 : Byte).toNat < (bits v 0 8 : Byte).toNat then s
  else
    s.updMon fun m =>
      { m with warn := m.warn.set n (bits v 0 8), crit := m.crit.set n (bits v 8 8), nom := m.nom.set n nom,
               slew := if n ≤ 16 ∧ nom ≠ old then m.slew.set n old else m.slew,
               slewSince := if n ≤ 16 ∧ nom ≠ old then m.slewSince.erase n else m.slewSince }

/-- Registers of clocks, resets and monitors (15 R422, R427, R432, 17 R463). -/
def State.writeClock (s : State) (reg : RegName) (v hw : DWord) : State :=
  match reg with
  | .clkRefStat => s.updClk fun k => { k with refLoss := (k.refLoss &&& ~~~(bits v 0 8)) ||| bits hw 0 8 }
  | .clkXing d => if 21 < d.toNat then s else s.updXing d.toNat fun x =>
      { x with merged := rw1c x.merged (v.getLsbD 0) (hw.getLsbD 0), rsync := rw1c x.rsync (v.getLsbD 1) (hw.getLsbD 1),
               mergeCnt := if hw.getLsbD 0 then satInc x.mergeCnt else x.mergeCnt,
               rsyncCnt := if hw.getLsbD 1 then satInc x.rsyncCnt else x.rsyncCnt }
  | .rstCause => s.updClk fun k => { k with rstCause := (k.rstCause &&& ~~~(bits v 0 5)) ||| bits hw 0 5 }
  | .monVwin n => s.writeVwin n.toNat v
  | _ => s

/-- A write of `v` to a register, while hardware sets the RW1C bits of `hw`. A register of RO and RC fields ignores it. -/
def execRegisterWrite (reg : RegName) (v hw : DWord) (s : State) : Out :=
  match reg with
  | .msRes _ _ => .next (s.writeResidency reg v hw)
  | .dlRes _ _ => .next (s.writeResidency reg v hw)
  | .cdRes _ _ => .next (s.writeResidency reg v hw)
  | .cdCfg _ => .next (s.writeResidency reg v hw)
  | .cdFwd _ _ => .next (s.writeResidency reg v hw)
  | .dlWmCfg _ => .next (s.writeResidency reg v hw)
  | .dlWmStat _ => .next (s.writeResidency reg v hw)
  | .clkRefStat => .next (s.writeClock reg v hw)
  | .clkXing _ => .next (s.writeClock reg v hw)
  | .rstCause => .next (s.writeClock reg v hw)
  | .monVwin _ => .next (s.writeClock reg v hw)
  | .hbFuncCfg _ => .next (s.writeHub reg v hw)
  | .hbFuncBud _ _ => .next (s.writeHub reg v hw)
  | .hbRstat _ _ => .next (s.writeHub reg v hw)
  | .hbRwmCfg _ _ => .next (s.writeHub reg v hw)
  | .hbRwmStat _ _ => .next (s.writeHub reg v hw)
  | .mbStatus _ => .next (s.writeHub reg v hw)
  | .msixVectorControl _ _ => .next (s.writeHub reg v hw)
  | .msixMessageControl _ => .next (s.writeHub reg v hw)
  | .msixMessageAddress _ _ => .next (s.writeHub reg v hw)
  | .msixMessageData _ _ => .next (s.writeHub reg v hw)
  | .readOnly => .next s
  | reg => .next (s.writeShared reg v)

end Sys2Proof.Machine
end

