-- ==== Sys2Proof/Machine/SplitOps.lean ====
section
/-! DEFINITION. Split loads and stores, CAS, WAITLD, FENCE, and the completion of a split access (07 R214, R215, 08
R240-R243). -/

namespace Sys2Proof.Machine

/-- LDX.B (08 R240). -/
def execLdxB (t : Tid) (rd rs1 rs2 : GReg) (s : State) : Out :=
  issue t (wL3 0x22 rd rs1 rs2 0) (splitLoad t rd rs1 rs2 0 true) s

/-- LDX.BU (08 R240). -/
def execLdxBu (t : Tid) (rd rs1 rs2 : GReg) (s : State) : Out :=
  issue t (wL3 0x22 rd rs1 rs2 1) (splitLoad t rd rs1 rs2 0 false) s

/-- LDX.H (08 R240). -/
def execLdxH (t : Tid) (rd rs1 rs2 : GReg) (s : State) : Out :=
  issue t (wL3 0x22 rd rs1 rs2 2) (splitLoad t rd rs1 rs2 1 true) s

/-- LDX.HU (08 R240). -/
def execLdxHu (t : Tid) (rd rs1 rs2 : GReg) (s : State) : Out :=
  issue t (wL3 0x22 rd rs1 rs2 3) (splitLoad t rd rs1 rs2 1 false) s

/-- LDX.W (08 R240). -/
def execLdxW (t : Tid) (rd rs1 rs2 : GReg) (s : State) : Out :=
  issue t (wL3 0x22 rd rs1 rs2 4) (splitLoad t rd rs1 rs2 2 false) s

/-- LDX.P (08 R240). -/
def execLdxP (t : Tid) (rd rs1 rs2 : GReg) (s : State) : Out :=
  issue t (wL3 0x22 rd rs1 rs2 5) (splitLoad t rd rs1 rs2 3 false) s

/-- STX.B (08 R240): rd is the data source. -/
def execStxB (t : Tid) (rd rs1 rs2 : GReg) (s : State) : Out :=
  issue t (wL3 0x22 rd rs1 rs2 8) (splitStore t rd rs1 rs2 0) s

/-- STX.H (08 R240): rd is the data source. -/
def execStxH (t : Tid) (rd rs1 rs2 : GReg) (s : State) : Out :=
  issue t (wL3 0x22 rd rs1 rs2 9) (splitStore t rd rs1 rs2 1) s

/-- STX.W (08 R240): rd is the data source. -/
def execStxW (t : Tid) (rd rs1 rs2 : GReg) (s : State) : Out :=
  issue t (wL3 0x22 rd rs1 rs2 10) (splitStore t rd rs1 rs2 2) s

/-- STX.P (08 R240): rd is the data source. -/
def execStxP (t : Tid) (rd rs1 rs2 : GReg) (s : State) : Out :=
  issue t (wL3 0x22 rd rs1 rs2 11) (splitStore t rd rs1 rs2 3) s

/-- CAS (08 R242): the address is rs1 alone, and both pairs are read at issue. -/
def execCas (t : Tid) (rd rs1 rs2 : GReg) (s : State) : Out :=
  issue t (wL3 0x22 rd rs1 rs2 0x10)
    (accessBody t false .cas rd (fun th n => th.read n rs1) (fun th n => th.readPair n rs2)
      (fun th n => th.readPair n rd)) s

/-- WAITLD (08 R241): a task waits in BLOCKED with WAIT = 4. -/
def execWaitld (t : Tid) (s : State) : Out :=
  issue t (wL3 0x22 0 0 0 0x20)
    (fun s _ => if (s.thread t).splits = [] then s.waitldDone t else .stay (s.block t .waitld 4)) s

/-- FENCE (08 R243): it waits as WAITLD waits, until every earlier access is performed. -/
def execFence (t : Tid) (s : State) : Out :=
  issue t (wL3 0x22 0 0 0 0x30)
    (fun s _ => if (s.thread t).accessesDone then .ok s else .stay (s.block t .fence 4)) s

/-- The response to transaction `txn` among packets. -/
def takeResponse (txn : BitVec 16) : List Packet → Option (Packet × List Packet)
  | [] => none
  | p :: r => if rspTxn p.head = txn then some (p, r) else (takeResponse txn r).map fun (q, l) => (q, p :: l)

/-- A response to a split access of the thread has come (07 R214): the destination is written or the error kept, LDOUT
falls, and a thread that waited goes on. A response to no access of the thread answers a write of its send park (06 R172). -/
def execSplitAccessCompletion (t : Tid) (txn : BitVec 16) (s : State) : Out :=
  if ¬ t.wf then .fault .noSuchObject
  else
    let (r, e) := threadHome t
    let key := bufKey r (4 + e.toNat) 2
    match (s.thread t).splits.find? (fun p => p.txn == txn), takeResponse txn (s.spine.inq.getD key []) with
    | some p, some (q, rest) =>
      let n := s.free
      let s := s.takeFree.updSpine fun m => { m with inq := m.inq.set key rest }
      .next (((s.updThread t fun th => th.complete n p (rspStatus q.head) (rspData q.head)).pump t).retryEp r)
    | none, some (_, rest) =>
      if isSteward t then .next s
      else .next (((s.updSpine fun m => { m with inq := m.inq.set key rest }).updCluster (tCluster t) fun cl =>
        { cl with park := cl.park.map fun k => { k with writes := k.writes.filter (· != txn) } }).retryEp r)
    | _, none => .next s

end Sys2Proof.Machine
end

