-- ==== Sys2Proof/Machine/System.lean ====
section
/-! DEFINITION. System words: NOP, TRAP, BRK, extension traps, MFSR and MTSR (07 R192-R197, R229, 08 R233-R236, R267). -/

namespace Sys2Proof.Machine

/-- NOP (08 R236). -/
def execNop (t : Tid) (s : State) : Out := issue t (wL3 0x32 0 0 0 0) (fun s _ => .ok s) s

/-- TRAP (08 R235): in steward mode it enters the firmware's trap vector, whose address the spec does not give. -/
def execTrap (t : Tid) (rd rs1 rs2 : GReg) (s : State) : Out :=
  let w := wL3 0x32 rd rs1 rs2 1
  issue t w
    (fun s i =>
      if isSteward t then .stay (s.updThread t fun th => { th with pc := bits (Config.freeValue i.n) 0 32 })
      else trapBody t w s i) s

/-- BRK (08 R236). -/
def execBrk (t : Tid) (s : State) : Out := issue t (wL3 0x32 0 0 0 2) (brkBody t) s

/-- An extension trap: major opcode 0x3C + `op` (07 R229, 08 R233). -/
def execExtensionTrap (t : Tid) (op : BitVec 2) (x : BitVec 25) (s : State) : Out :=
  let w : Word := (0 : BitVec 1) ++ (0xF : BitVec 4) ++ op ++ x
  issue t w (trapBody t w) s

/-- WHO (07 R197). -/
def whoValue (t : Tid) (x : CtxId) : Word :=
  if isSteward t then
    (0 : BitVec 19) ++ (1 : BitVec 1) ++ (0 : BitVec 1) ++ bits t 0 2 ++ (0 : BitVec 3) ++ (0 : BitVec 4) ++ bits t 2 2
  else (0 : BitVec 3) ++ x ++ (0 : BitVec 3) ++ (0 : BitVec 1) ++ tTh t ++ tPe t ++ tCluster t

/-- TST as MFSR reads it at issue: an MTSR still on its way may or may not be seen (07 R211). -/
def Thread.earlyTst (th : Thread) (n : Nat) : Word :=
  (th.lands.filter (fun l => l.target == .tst)).zipIdx.foldl
    (fun v l => if Config.freeBit n (50 + 64 * l.2) then tstWrite v l.1.value else v) th.tst

/-- The state that state number `sr` names (07 R192). A steward's system registers are free values. -/
def stateValue (t : Tid) (sr : BitVec 15) (x : CtxId) (th : Thread) (n : Nat) : Word :=
  let k := sr.toNat
  if k < 16 then th.early n (32 + k) (.bnk (BitVec.ofNat 4 k)) (BitVec.setWidth 32 (bnkOf th.bnk k))
  else if k = 0x10 then th.repc
  else if k = 0x11 then th.early n 48 .fst th.fst
  else if k = 0x12 then th.early n 49 .dst th.dst
  else if k = 0x13 then th.earlyTst n ||| (BitVec.ofNat 32 th.splits.length <<< 16)
  else if k = 0x14 then whoValue t x
  else Config.stewardReg k n

/-- MFSR (08 R267). -/
def execMfsr (t : Tid) (rd : GReg) (sr : BitVec 15) (s : State) : Out :=
  issue t (wLI 0x33 rd 0 sr)
    (fun s i =>
      let v := stateValue t sr i.x (s.thread t) i.n
      .ok (s.updThread t fun th => th.write i.n (some (i.k + 2)) rd v)) s

/-- Where an MTSR lands and what it writes there: reserved fields stay 0 (07 R193-R196). None for a steward's system
register. -/
def mtsrTarget (sr : BitVec 15) (v : Word) : Option (Target × Word) :=
  let k := sr.toNat
  if k < 16 then some (.bnk (BitVec.ofNat 4 k), v &&& 0x3F)
  else if k = 0x11 then some (.fst, v &&& 0x1F03)
  else if k = 0x12 then some (.dst, v &&& 7)
  else if k = 0x13 then some (.tst, v)
  else none

/-- MTSR (08 R267). -/
def execMtsr (t : Tid) (rs1 : GReg) (sr : BitVec 15) (s : State) : Out :=
  issue t (wLI 0x34 0 rs1 sr)
    (fun s i =>
      if sr = 0x10 ∨ sr = 0x14 then .fault s ILLEGAL_OP
      else
        match mtsrTarget sr ((s.thread t).read i.n rs1) with
        | some (g, v) => .ok (s.updThread t fun th => th.addLand i.n (some (i.k + 2)) g v)
        | none => .ok s) s

end Sys2Proof.Machine
end

