-- ==== Sys2Proof/Machine/Dispatch.lean ====
section
/-! DEFINITION. One arm per command: its meaning, or its rejection by name. -/

namespace Sys2Proof.Machine

/-- The effect of a command on everything but the queue. -/
def exec (i : Instr) (s : State) : Host.Outcome State Fault Refusal :=
  match i with
  | .add t rd rs1 rs2 => Sys2Proof.Machine.execAdd t rd rs1 rs2 s
  | .sub t rd rs1 rs2 => Sys2Proof.Machine.execSub t rd rs1 rs2 s
  | .andR t rd rs1 rs2 => Sys2Proof.Machine.execAndR t rd rs1 rs2 s
  | .orR t rd rs1 rs2 => Sys2Proof.Machine.execOrR t rd rs1 rs2 s
  | .xorR t rd rs1 rs2 => Sys2Proof.Machine.execXorR t rd rs1 rs2 s
  | .nor t rd rs1 rs2 => Sys2Proof.Machine.execNor t rd rs1 rs2 s
  | .sll t rd rs1 rs2 => Sys2Proof.Machine.execSll t rd rs1 rs2 s
  | .srl t rd rs1 rs2 => Sys2Proof.Machine.execSrl t rd rs1 rs2 s
  | .sra t rd rs1 rs2 => Sys2Proof.Machine.execSra t rd rs1 rs2 s
  | .cmpeq t rd rs1 rs2 => Sys2Proof.Machine.execCmpeq t rd rs1 rs2 s
  | .cmpne t rd rs1 rs2 => Sys2Proof.Machine.execCmpne t rd rs1 rs2 s
  | .cmplt t rd rs1 rs2 => Sys2Proof.Machine.execCmplt t rd rs1 rs2 s
  | .cmpltu t rd rs1 rs2 => Sys2Proof.Machine.execCmpltu t rd rs1 rs2 s
  | .sel t rd rs1 rs2 => Sys2Proof.Machine.execSel t rd rs1 rs2 s
  | .min t rd rs1 rs2 => Sys2Proof.Machine.execMin t rd rs1 rs2 s
  | .max t rd rs1 rs2 => Sys2Proof.Machine.execMax t rd rs1 rs2 s
  | .neg t rd rs1 => Sys2Proof.Machine.execNeg t rd rs1 s
  | .addImmediate t rd rs1 imm => Sys2Proof.Machine.execAddImmediate t rd rs1 imm s
  | .andImmediate t rd rs1 imm => Sys2Proof.Machine.execAndImmediate t rd rs1 imm s
  | .orImmediate t rd rs1 imm => Sys2Proof.Machine.execOrImmediate t rd rs1 imm s
  | .xorImmediate t rd rs1 imm => Sys2Proof.Machine.execXorImmediate t rd rs1 imm s
  | .sllImmediate t rd rs1 imm => Sys2Proof.Machine.execSllImmediate t rd rs1 imm s
  | .srlImmediate t rd rs1 imm => Sys2Proof.Machine.execSrlImmediate t rd rs1 imm s
  | .sraImmediate t rd rs1 imm => Sys2Proof.Machine.execSraImmediate t rd rs1 imm s
  | .cmpeqImmediate t rd rs1 imm => Sys2Proof.Machine.execCmpeqImmediate t rd rs1 imm s
  | .cmpneImmediate t rd rs1 imm => Sys2Proof.Machine.execCmpneImmediate t rd rs1 imm s
  | .cmpltImmediate t rd rs1 imm => Sys2Proof.Machine.execCmpltImmediate t rd rs1 imm s
  | .cmpltuImmediate t rd rs1 imm => Sys2Proof.Machine.execCmpltuImmediate t rd rs1 imm s
  | .lui t rd off => Sys2Proof.Machine.execLui t rd off s
  | .mul t rd rs1 rs2 => Sys2Proof.Machine.execMul t rd rs1 rs2 s
  | .mulh t rd rs1 rs2 => Sys2Proof.Machine.execMulh t rd rs1 rs2 s
  | .mulhu t rd rs1 rs2 => Sys2Proof.Machine.execMulhu t rd rs1 rs2 s
  | .div t rd rs1 rs2 => Sys2Proof.Machine.execDiv t rd rs1 rs2 s
  | .divu t rd rs1 rs2 => Sys2Proof.Machine.execDivu t rd rs1 rs2 s
  | .rem t rd rs1 rs2 => Sys2Proof.Machine.execRem t rd rs1 rs2 s
  | .remu t rd rs1 rs2 => Sys2Proof.Machine.execRemu t rd rs1 rs2 s
  | .lb t rd rs1 imm => Sys2Proof.Machine.execLb t rd rs1 imm s
  | .lbu t rd rs1 imm => Sys2Proof.Machine.execLbu t rd rs1 imm s
  | .lh t rd rs1 imm => Sys2Proof.Machine.execLh t rd rs1 imm s
  | .lhu t rd rs1 imm => Sys2Proof.Machine.execLhu t rd rs1 imm s
  | .lw t rd rs1 imm => Sys2Proof.Machine.execLw t rd rs1 imm s
  | .ldp t rd rs1 imm => Sys2Proof.Machine.execLdp t rd rs1 imm s
  | .sb t rd rs1 imm => Sys2Proof.Machine.execSb t rd rs1 imm s
  | .sh t rd rs1 imm => Sys2Proof.Machine.execSh t rd rs1 imm s
  | .sw t rd rs1 imm => Sys2Proof.Machine.execSw t rd rs1 imm s
  | .sdp t rd rs1 imm => Sys2Proof.Machine.execSdp t rd rs1 imm s
  | .ldxB t rd rs1 rs2 => Sys2Proof.Machine.execLdxB t rd rs1 rs2 s
  | .ldxBu t rd rs1 rs2 => Sys2Proof.Machine.execLdxBu t rd rs1 rs2 s
  | .ldxH t rd rs1 rs2 => Sys2Proof.Machine.execLdxH t rd rs1 rs2 s
  | .ldxHu t rd rs1 rs2 => Sys2Proof.Machine.execLdxHu t rd rs1 rs2 s
  | .ldxW t rd rs1 rs2 => Sys2Proof.Machine.execLdxW t rd rs1 rs2 s
  | .ldxP t rd rs1 rs2 => Sys2Proof.Machine.execLdxP t rd rs1 rs2 s
  | .stxB t rd rs1 rs2 => Sys2Proof.Machine.execStxB t rd rs1 rs2 s
  | .stxH t rd rs1 rs2 => Sys2Proof.Machine.execStxH t rd rs1 rs2 s
  | .stxW t rd rs1 rs2 => Sys2Proof.Machine.execStxW t rd rs1 rs2 s
  | .stxP t rd rs1 rs2 => Sys2Proof.Machine.execStxP t rd rs1 rs2 s
  | .cas t rd rs1 rs2 => Sys2Proof.Machine.execCas t rd rs1 rs2 s
  | .waitld t => Sys2Proof.Machine.execWaitld t s
  | .fence t => Sys2Proof.Machine.execFence t s
  | .fadd t d rd rs1 rs2 => Sys2Proof.Machine.execFadd t d rd rs1 rs2 s
  | .fsub t d rd rs1 rs2 => Sys2Proof.Machine.execFsub t d rd rs1 rs2 s
  | .fmul t d rd rs1 rs2 => Sys2Proof.Machine.execFmul t d rd rs1 rs2 s
  | .fma t d rd rs1 rs2 => Sys2Proof.Machine.execFma t d rd rs1 rs2 s
  | .fdiv t d rd rs1 rs2 => Sys2Proof.Machine.execFdiv t d rd rs1 rs2 s
  | .fsqrt t d rd rs1 => Sys2Proof.Machine.execFsqrt t d rd rs1 s
  | .fmin t d rd rs1 rs2 => Sys2Proof.Machine.execFmin t d rd rs1 rs2 s
  | .fmax t d rd rs1 rs2 => Sys2Proof.Machine.execFmax t d rd rs1 rs2 s
  | .fcmpeq t d rd rs1 rs2 => Sys2Proof.Machine.execFcmpeq t d rd rs1 rs2 s
  | .fcmplt t d rd rs1 rs2 => Sys2Proof.Machine.execFcmplt t d rd rs1 rs2 s
  | .fcmple t d rd rs1 rs2 => Sys2Proof.Machine.execFcmple t d rd rs1 rs2 s
  | .fclass t d rd rs1 => Sys2Proof.Machine.execFclass t d rd rs1 s
  | .fcvtFromSignedWord t d rd rs1 => Sys2Proof.Machine.execFcvtFromSignedWord t d rd rs1 s
  | .fcvtFromUnsignedWord t d rd rs1 => Sys2Proof.Machine.execFcvtFromUnsignedWord t d rd rs1 s
  | .fcvtToSignedWord t d rd rs1 => Sys2Proof.Machine.execFcvtToSignedWord t d rd rs1 s
  | .fcvtToUnsignedWord t d rd rs1 => Sys2Proof.Machine.execFcvtToUnsignedWord t d rd rs1 s
  | .fcvtBetweenFormats t d rd rs1 => Sys2Proof.Machine.execFcvtBetweenFormats t d rd rs1 s
  | .bz t rs1 off => Sys2Proof.Machine.execBz t rs1 off s
  | .bnz t rs1 off => Sys2Proof.Machine.execBnz t rs1 off s
  | .jump t off => Sys2Proof.Machine.execJump t off s
  | .jl t rd off => Sys2Proof.Machine.execJl t rd off s
  | .jr t rd rs1 => Sys2Proof.Machine.execJr t rd rs1 s
  | .repI t rs1 => Sys2Proof.Machine.execRepI t rs1 s
  | .repN t n => Sys2Proof.Machine.execRepN t n s
  | .send t rs1 rs2 dsel => Sys2Proof.Machine.execSend t rs1 rs2 dsel s
  | .sendx t rs1 rs2 => Sys2Proof.Machine.execSendx t rs1 rs2 s
  | .sendt t rd rs1 rs2 dsel => Sys2Proof.Machine.execSendt t rd rs1 rs2 dsel s
  | .sendc t rs1 rs2 dsel => Sys2Proof.Machine.execSendc t rs1 rs2 dsel s
  | .cput t rs1 rs2 dsel => Sys2Proof.Machine.execCput t rs1 rs2 dsel s
  | .cend t rs1 rs2 dsel => Sys2Proof.Machine.execCend t rs1 rs2 dsel s
  | .setev t rs1 dsel => Sys2Proof.Machine.execSetev t rs1 dsel s
  | .clrev t rs1 meet => Sys2Proof.Machine.execClrev t rs1 meet s
  | .recv t rd rt dsel => Sys2Proof.Machine.execRecv t rd rt dsel s
  | .tryrecv t rd rt dsel => Sys2Proof.Machine.execTryrecv t rd rt dsel s
  | .waitevAny t rd rs1 => Sys2Proof.Machine.execWaitevAny t rd rs1 s
  | .waitevAll t rd rs1 => Sys2Proof.Machine.execWaitevAll t rd rs1 s
  | .sleep t rs1 dsel => Sys2Proof.Machine.execSleep t rs1 dsel s
  | .yield t => Sys2Proof.Machine.execYield t s
  | .endWork t => Sys2Proof.Machine.execEndWork t s
  | .nop t => Sys2Proof.Machine.execNop t s
  | .trap t rd rs1 rs2 => Sys2Proof.Machine.execTrap t rd rs1 rs2 s
  | .brk t => Sys2Proof.Machine.execBrk t s
  | .mfsr t rd sr => Sys2Proof.Machine.execMfsr t rd sr s
  | .mtsr t rs1 sr => Sys2Proof.Machine.execMtsr t rs1 sr s
  | .dadd t p rd rs1 rs2 => Sys2Proof.Machine.execDadd t p rd rs1 rs2 s
  | .dsub t p rd rs1 rs2 => Sys2Proof.Machine.execDsub t p rd rs1 rs2 s
  | .dadj t p rd rs1 => Sys2Proof.Machine.execDadj t p rd rs1 s
  | .dmuls t p rd rs1 rs2 => Sys2Proof.Machine.execDmuls t p rd rs1 rs2 s
  | .dshl t p rd rs1 rs2 => Sys2Proof.Machine.execDshl t p rd rs1 rs2 s
  | .dshr t p rd rs1 rs2 => Sys2Proof.Machine.execDshr t p rd rs1 rs2 s
  | .dcmp t p rd rs1 rs2 => Sys2Proof.Machine.execDcmp t p rd rs1 rs2 s
  | .dround t p rd rs1 rs2 => Sys2Proof.Machine.execDround t p rd rs1 rs2 s
  | .dtob t p rd rs1 rs2 => Sys2Proof.Machine.execDtob t p rd rs1 rs2 s
  | .btod t p rd rs1 => Sys2Proof.Machine.execBtod t p rd rs1 s
  | .tli1 t rd rs1 rs2 => Sys2Proof.Machine.execTli1 t rd rs1 rs2 s
  | .tli2 t rd rs1 rs2 => Sys2Proof.Machine.execTli2 t rd rs1 rs2 s
  | .pairedWord t x => Sys2Proof.Machine.execPairedWord t x s
  | .extensionTrap t op x => Sys2Proof.Machine.execExtensionTrap t op x s
  | .injectionWaitTimeout t => Sys2Proof.Machine.execInjectionWaitTimeout t s
  | .parkReinject c ecc => Sys2Proof.Machine.execParkReinject c s ecc
  | .parkFullTimeout c => Sys2Proof.Machine.execParkFullTimeout c s
  | .trapReply t => Sys2Proof.Machine.execTrapReply t s
  | .splitAccessCompletion t txn => Sys2Proof.Machine.execSplitAccessCompletion t txn s
  | .headboxEntry f r e => Sys2Proof.Machine.execHeadboxEntry f r e s
  | .ringDoorbell f r v => Sys2Proof.Machine.execRingDoorbell f r v s
  | .ringReadFailure f r e => Sys2Proof.Machine.execRingReadFailure f r e s
  | .memoryRingTransfer f r e host lostAt ceAt => Sys2Proof.Machine.execMemoryRingTransfer f r e host lostAt s ceAt
  | .reelTokenArrival => Sys2Proof.Machine.execReelTokenArrival s
  | .reelCreditRequest q => Sys2Proof.Machine.execReelCreditRequest q s
  | .orderedRelease flow ecc => Sys2Proof.Machine.execOrderedRelease flow s ecc
  | .gapTimeout flow => Sys2Proof.Machine.execGapTimeout flow s
  | .reelEntryWrite f r => Sys2Proof.Machine.execReelEntryWrite f r s
  | .reelModerationTimeout f r => Sys2Proof.Machine.execReelModerationTimeout f r s
  | .resultWindowRead f off wide => Sys2Proof.Machine.execResultWindowRead f off wide s
  | .templateTokenArrival => Sys2Proof.Machine.execTemplateTokenArrival s
  | .brokeIntake => Sys2Proof.Machine.execBrokeIntake s
  | .brokeEntryWrite f => Sys2Proof.Machine.execBrokeEntryWrite f s
  | .faultRecordSend c k => Sys2Proof.Machine.execFaultRecordSend c k s
  | .msixVectorUnmask f v => Sys2Proof.Machine.execMsixVectorUnmask f v s
  | .msixEnable f => Sys2Proof.Machine.execMsixEnable f s
  | .functionMaskClear f => Sys2Proof.Machine.execFunctionMaskClear f s
  | .bar2Read f off wide => Sys2Proof.Machine.execBar2Read f off wide s
  | .bar2Cas f off expect new op => Sys2Proof.Machine.execBar2Cas f off expect new s op
  | .bar2MemoryWrite f off v => Sys2Proof.Machine.execBar2MemoryWrite f off v s
  | .flr f => Sys2Proof.Machine.execFlr f s
  | .vfEnableClear p => Sys2Proof.Machine.execVfEnableClear p s
  | .perstNAssert p why => Sys2Proof.Machine.execPerstNAssert p s why
  | .perstNRelease p => Sys2Proof.Machine.execPerstNRelease p s
  | .portEnable p => Sys2Proof.Machine.execPortEnable p s
  | .adminOfferLapse => Sys2Proof.Machine.execAdminOfferLapse s
  | .mailboxDoorbell f v => Sys2Proof.Machine.execMailboxDoorbell f v s
  | .mailboxCommandBufferWrite f off wide v => Sys2Proof.Machine.execMailboxCommandBufferWrite f off wide v s
  | .devInfo f => Sys2Proof.Machine.execDevInfo f s
  | .devHealth f => Sys2Proof.Machine.execDevHealth f s
  | .fwStage f dma => Sys2Proof.Machine.execFwStage f dma s
  | .fwActivate f => Sys2Proof.Machine.execFwActivate f s
  | .fwActivateTimeout => Sys2Proof.Machine.execFwActivateTimeout s
  | .graphLoad f dma => Sys2Proof.Machine.execGraphLoad f dma s
  | .graphUnload f => Sys2Proof.Machine.execGraphUnload f s
  | .tableLoad f dma => Sys2Proof.Machine.execTableLoad f dma s
  | .tableRemove f => Sys2Proof.Machine.execTableRemove f s
  | .ctxAdmit f => Sys2Proof.Machine.execCtxAdmit f s
  | .ctxStart f => Sys2Proof.Machine.execCtxStart f s
  | .ctxStop f => Sys2Proof.Machine.execCtxStop f s
  | .ctxKill f => Sys2Proof.Machine.execCtxKill f s
  | .purgeComplete x c => Sys2Proof.Machine.execPurgeComplete x c s
  | .ctxUpdate f => Sys2Proof.Machine.execCtxUpdate f s
  | .ctxUpdatePolicy f => Sys2Proof.Machine.execCtxUpdatePolicy f s
  | .updateTimeout x => Sys2Proof.Machine.execUpdateTimeout x s
  | .drainCondition x => Sys2Proof.Machine.execDrainCondition x s
  | .ctxQuery f => Sys2Proof.Machine.execCtxQuery f s
  | .flowDefine f => Sys2Proof.Machine.execFlowDefine f s
  | .ringCreate f => Sys2Proof.Machine.execRingCreate f s
  | .ringDestroy f => Sys2Proof.Machine.execRingDestroy f s
  | .ringRewind f => Sys2Proof.Machine.execRingRewind f s
  | .bankAssign f => Sys2Proof.Machine.execBankAssign f s
  | .windowSet f => Sys2Proof.Machine.execWindowSet f s
  | .lockgrpRights f => Sys2Proof.Machine.execLockgrpRights f s
  | .funcSet f => Sys2Proof.Machine.execFuncSet f s
  | .funcSetMoveContext f => Sys2Proof.Machine.execFuncSetMoveContext f s
  | .adminMove f => Sys2Proof.Machine.execAdminMove f s
  | .sealKeySet f => Sys2Proof.Machine.execSealKeySet f s
  | .sealKeyClear f => Sys2Proof.Machine.execSealKeyClear f s
  | .timeSet f => Sys2Proof.Machine.execTimeSet f s
  | .timeSource f => Sys2Proof.Machine.execTimeSource f s
  | .tickSet f => Sys2Proof.Machine.execTickSet f s
  | .ioRuleSet f => Sys2Proof.Machine.execIoRuleSet f s
  | .ioRuleClear f => Sys2Proof.Machine.execIoRuleClear f s
  | .ioTemplateSet f => Sys2Proof.Machine.execIoTemplateSet f s
  | .ioTemplateClear f => Sys2Proof.Machine.execIoTemplateClear f s
  | .ioGateSet f dma => Sys2Proof.Machine.execIoGateSet f dma s
  | .sectionFence f => Sys2Proof.Machine.execSectionFence f s
  | .sectionRepair f => Sys2Proof.Machine.execSectionRepair f s
  | .sectionReturn f => Sys2Proof.Machine.execSectionReturn f s
  | .bteConfig f => Sys2Proof.Machine.execBteConfig f s
  | .routeEpoch f => Sys2Proof.Machine.execRouteEpoch f s
  | .monRead f => Sys2Proof.Machine.execMonRead f s
  | .statsRead f => Sys2Proof.Machine.execStatsRead f s
  | .probeSet f => Sys2Proof.Machine.execProbeSet f s
  | .traceRead f => Sys2Proof.Machine.execTraceRead f s
  | .diagRead f => Sys2Proof.Machine.execDiagRead f s
  | .keeperTableSet f dma => Sys2Proof.Machine.execKeeperTableSet f dma s
  | .keeperEnter f => Sys2Proof.Machine.execKeeperEnter f s
  | .dbgAttach f => Sys2Proof.Machine.execDbgAttach f s
  | .dbgDetach f => Sys2Proof.Machine.execDbgDetach f s
  | .dbgStop f => Sys2Proof.Machine.execDbgStop f s
  | .dbgResume f => Sys2Proof.Machine.execDbgResume f s
  | .dbgRead f => Sys2Proof.Machine.execDbgRead f s
  | .keeperStatus p w => Sys2Proof.Machine.execKeeperStatus p w s
  | .keeperWarmReset p w => Sys2Proof.Machine.execKeeperWarmReset p w s
  | .clusterIngress c => Sys2Proof.Machine.execClusterIngress c s
  | .delayListRelease c err err2 => Sys2Proof.Machine.execDelayListRelease c s err err2
  | .matchingLookup c err way => Sys2Proof.Machine.execMatchingLookup c s err way
  | .spillSearchReturn c k err j => Sys2Proof.Machine.execSpillSearchReturn c k s err j
  | .spillStuckTimeout c => Sys2Proof.Machine.execSpillStuckTimeout c s
  | .tombstoneReclaim c bucket => Sys2Proof.Machine.execTombstoneReclaim c bucket s
  | .ledgerReservation c => Sys2Proof.Machine.execLedgerReservation c s
  | .creditReturn b => Sys2Proof.Machine.execCreditReturn b s
  | .channelCreditRequest q => Sys2Proof.Machine.execChannelCreditRequest q s
  | .channelReservationGrant c d ch => Sys2Proof.Machine.execChannelReservationGrant c d ch s
  | .channelWordArrival c ecc => Sys2Proof.Machine.execChannelWordArrival c s ecc
  | .eventMessage c meet => Sys2Proof.Machine.execEventMessage c meet s
  | .dispatchPlace c => Sys2Proof.Machine.execDispatchPlace c s
  | .affinityHoldTimeout c k => Sys2Proof.Machine.execAffinityHoldTimeout c k s
  | .preloadComplete c p => Sys2Proof.Machine.execPreloadComplete c p s
  | .slotTake c p => Sys2Proof.Machine.execSlotTake c p s
  | .eviction c p => Sys2Proof.Machine.execEviction c p s
  | .registerSaveComplete t => Sys2Proof.Machine.execRegisterSaveComplete t s
  | .spinePacketHop r port vc err cap => Sys2Proof.Machine.execSpinePacketHop r port vc err s cap
  | .negativeAcknowledgement r dir => Sys2Proof.Machine.execNegativeAcknowledgement r dir s
  | .linkRetry r dir ok => Sys2Proof.Machine.execLinkRetry r dir ok s
  | .linkFailTimeout r dir => Sys2Proof.Machine.execLinkFailTimeout r dir s
  | .managementEndpointTimeout u => Sys2Proof.Machine.execManagementEndpointTimeout u s
  | .epochFlip => Sys2Proof.Machine.execEpochFlip s
  | .endpointStateWrite r v => Sys2Proof.Machine.execEndpointStateWrite r v s
  | .bankAccess n a b ecc => Sys2Proof.Machine.execBankAccess n a b ecc s
  | .hbmAccess p ecc => Sys2Proof.Machine.execHbmAccess p ecc s
  | .lockUnitAccess ecc => Sys2Proof.Machine.execLockUnitAccess s ecc
  | .lockRelease => Sys2Proof.Machine.execLockRelease s
  | .bankOwnerWrite n v => Sys2Proof.Machine.execBankOwnerWrite n v s
  | .zeroFillComplete n => Sys2Proof.Machine.execZeroFillComplete n s
  | .windowEntryLoad c x w parity ecc => Sys2Proof.Machine.execWindowEntryLoad c x w s parity ecc
  | .windowInvalidate c x w => Sys2Proof.Machine.execWindowInvalidate c x w s
  | .stackTemperatureRead t0 t1 => Sys2Proof.Machine.execStackTemperatureRead t0 t1 s
  | .bteSramStep w res => Sys2Proof.Machine.execBteSramStep w res s
  | .bteHbmStep blk res ecc => Sys2Proof.Machine.execBteHbmStep blk res ecc s
  | .msKeyErrorRecord c set way => Sys2Proof.Machine.execMsKeyErrorRecord c set way s
  | .dlKeyErrorRecord c k => Sys2Proof.Machine.execDlKeyErrorRecord c k s
  | .quiescenceScan x => Sys2Proof.Machine.execQuiescenceScan x s
  | .conditionalFence x => Sys2Proof.Machine.execConditionalFence x s
  | .contextFence x cause => Sys2Proof.Machine.execContextFence x cause s
  | .deckleLower x => Sys2Proof.Machine.execDeckleLower x s
  | .clusterFence c => Sys2Proof.Machine.execClusterFence c s
  | .positionMove x k => Sys2Proof.Machine.execPositionMove x k s
  | .moveTimeout x => Sys2Proof.Machine.execMoveTimeout x s
  | .bankCopy n => Sys2Proof.Machine.execBankCopy n s
  | .forwardQuietTimeout n => Sys2Proof.Machine.execForwardQuietTimeout n s
  | .repairTestDone n code => Sys2Proof.Machine.execRepairTestDone n code s
  | .stewardRestart cause => Sys2Proof.Machine.execStewardRestart cause s
  | .stewardWatchdogTimeout => Sys2Proof.Machine.execStewardWatchdogTimeout s
  | .firmwareReady => Sys2Proof.Machine.execFirmwareReady s
  | .keeperModeEntry cause => Sys2Proof.Machine.execKeeperModeEntry cause s
  | .safeOutputDelay k => Sys2Proof.Machine.execSafeOutputDelay k s
  | .safeInputSample v => Sys2Proof.Machine.execSafeInputSample v s
  | .wdogToggle => Sys2Proof.Machine.execWdogToggle s
  | .keeperHeartbeat => Sys2Proof.Machine.execKeeperHeartbeat s
  | .lockstepMiscompare tableOk => Sys2Proof.Machine.execLockstepMiscompare tableOk s
  | .temperatureSample k v eqOk => Sys2Proof.Machine.execTemperatureSample k v s eqOk
  | .voltageSample n mv => Sys2Proof.Machine.execVoltageSample n mv s
  | .throttleStep n => Sys2Proof.Machine.execThrottleStep n s
  | .throttleRecoveryStep n => Sys2Proof.Machine.execThrottleRecoveryStep n s
  | .thermalTrip => Sys2Proof.Machine.execThermalTrip s
  | .avsUpdate ack want => Sys2Proof.Machine.execAvsUpdate ack s want
  | .regulatorFault => Sys2Proof.Machine.execRegulatorFault s
  | .clkFabWrite n v => Sys2Proof.Machine.execClkFabWrite n v s
  | .clockWake n count => Sys2Proof.Machine.execClockWake n s count
  | .clockGate n => Sys2Proof.Machine.execClockGate n s
  | .referenceCheck lost => Sys2Proof.Machine.execReferenceCheck lost s
  | .sectionPowerOff n => Sys2Proof.Machine.execSectionPowerOff n s
  | .sectionPowerOn n => Sys2Proof.Machine.execSectionPowerOn n s
  | .porstNAssert => Sys2Proof.Machine.execPorstNAssert s
  | .porstNRelease pcieBif adminSel smbSel flash => Sys2Proof.Machine.execPorstNRelease pcieBif adminSel smbSel s flash
  | .keeperImageVerify ok0 ok1 => Sys2Proof.Machine.execKeeperImageVerify ok0 ok1 s
  | .stewardImageLoad ok0 ok1 => Sys2Proof.Machine.execStewardImageLoad ok0 ok1 s
  | .hbmInitialisation => Sys2Proof.Machine.execHbmInitialisation s
  | .sectionStartup n ok => Sys2Proof.Machine.execSectionStartup n ok s
  | .warmReset => Sys2Proof.Machine.execWarmReset s
  | .warmResetRelease => Sys2Proof.Machine.execWarmResetRelease s
  | .tbStep v => Sys2Proof.Machine.execTbStep v s
  | .timeSample off => Sys2Proof.Machine.execTimeSample off s
  | .holdoverTimeout => Sys2Proof.Machine.execHoldoverTimeout s
  | .ptmExchange off => Sys2Proof.Machine.execPtmExchange off s
  | .gptpFrame p off own => Sys2Proof.Machine.execGptpFrame p off s own
  | .frameReceive p fr => Sys2Proof.Machine.execFrameReceive p fr s
  | .heldFrameInject n => Sys2Proof.Machine.execHeldFrameInject n s
  | .eliminationResetTimeout n => Sys2Proof.Machine.execEliminationResetTimeout n s
  | .timedLaunch tpl => Sys2Proof.Machine.execTimedLaunch tpl s
  | .frameTransmit p => Sys2Proof.Machine.execFrameTransmit p s
  | .gateIntervalEnd p => Sys2Proof.Machine.execGateIntervalEnd p s
  | .gateListStart p => Sys2Proof.Machine.execGateListStart p s
  | .linkNegotiation p w => Sys2Proof.Machine.execLinkNegotiation p w s
  | .mctpControlMessage req type => Sys2Proof.Machine.execMctpControlMessage req s type
  | .pldmRequest req => Sys2Proof.Machine.execPldmRequest req s
  | .tracePortRecord => Sys2Proof.Machine.execTracePortRecord s
  | .registerWrite reg v hw => Sys2Proof.Machine.execRegisterWrite reg v hw s
  | .undefinedEncoding t w noCode => Sys2Proof.Machine.execUndefinedEncoding t w noCode s
  | .vddAonPowerUp => Sys2Proof.Machine.execVddAonPowerUp s
  | .pllLock pll => Sys2Proof.Machine.execPllLock pll s
  | .pcieLinkUp p gen5 => Sys2Proof.Machine.execPcieLinkUp p s gen5
  | .pcieUncorrectableError p => Sys2Proof.Machine.execPcieUncorrectableError p s
  | .vfEnableSet p numVfs => Sys2Proof.Machine.execVfEnableSet p numVfs s
  | .instructionCacheFill t ecc parity => Sys2Proof.Machine.execInstructionCacheFill t ecc s parity
  | .protectionRowRewrite row found => Sys2Proof.Machine.execProtectionRowRewrite row s found
  | .codeWordRewrite c off => Sys2Proof.Machine.execCodeWordRewrite c off s
  | .stewardRestartTimeout => Sys2Proof.Machine.execStewardRestartTimeout s
  | .avsbusRetry ack => Sys2Proof.Machine.execAvsbusRetry ack s
  | .ethLinkLoss p => Sys2Proof.Machine.execEthLinkLoss p s
  | .tracePortEnable => Sys2Proof.Machine.execTracePortEnable s

end Sys2Proof.Machine
end

