-- ==== Sys2Proof/Safety.lean ====
section
/-! DEFINITION. What a safe run is, and the terms in which the statements speak: the invariant of memory, when a thread's
word runs undisturbed, what a word sees, and what of the state an issued word leaves alone. -/

namespace Sys2Proof.Machine

/-! ## Invariants -/

/-- The memory keeps its canonical form: addresses rising, no default byte listed. -/
def State.memWf (s : State) : Bool := Memory.wf s.mem

/-! ## A word that runs (04 R115, R116, 07 R207, R222) -/

/-- The thread as word `w` sees it at its issue: every result due by that clock has landed (07 R209). -/
def State.seen (s : State) (t : Tid) (w : Word) : Thread :=
  let k := s.issueClock t w
  { (s.thread t).landTo k with cur := w, lastIssue := k }

/-- Thread `t` may issue word `w` now and nothing diverts it: the thread exists and is ready, its line is in the
instruction cache, it is the next to issue at its PE (04 R117), the code store holds the word at its PC (07 R208), a near access
does not lose its bank (10 R296), none of the checks of 07 R207 fails, the word reads no register with a parity error (16 R441), it
may be repeated where it is, and neither a debug stop nor a position move has been asked for. -/
def State.runs (s : State) (t : Tid) (w : Word) : Bool :=
  t.wf && s.ready t && s.lineIn t && s.elected t && s.fetched t w == .word w &&
    (s.bankLost t w (s.issueClock t w)).isNone && (s.wordFault t w).isNone && !(s.seen t w).badRead w &&
    ((s.thread t).rep.filter fun r => !r.begun && repeatIllegal w).isNone &&
    !(s.thread t).dbgReq && !(s.thread t).moveReq

/-- A thread after a word that completes: an iteration counts (07 R219), a delay slot leads to its target (07 R217), and
otherwise the next word follows. -/
def Thread.advance (th : Thread) : Thread :=
  match th.rep with
  | some r =>
    if th.repc ≤ 1 then { th with repc := 0, rep := none, pc := th.pc + 4 }
    else { th with repc := th.repc - 1, rep := some { r with begun := true } }
  | none =>
    match th.delay with
    | some a => { th with pc := a, delay := none }
    | none => { th with pc := th.pc + 4 }

/-- `s'` is `s` but for thread `t`, which is `th`, and for what every issue changes: the count of free values, and in the
thread's cluster the clock, the last thread, the busy count and the iterative units of its PE. -/
structure OnlyThread (s s' : State) (t : Tid) (th : Thread) : Prop where
  thread : s'.thread t = th
  others : ∀ u, u ≠ t → s'.thread u = s.thread u
  rest : { s' with threads := s.threads, clusters := s.clusters, free := s.free } = s
  away : ∀ c, isSteward t = true ∨ c ≠ tCluster t → s'.cluster c = s.cluster c
  cluster : { s'.cluster (tCluster t) with
      pes := (s.cluster (tCluster t)).pes, decBusy := (s.cluster (tCluster t)).decBusy,
      interpBusy := (s.cluster (tCluster t)).interpBusy } = s.cluster (tCluster t)
  pes : ∀ p, p ≠ tPe t → (s'.cluster (tCluster t)).pe p = (s.cluster (tCluster t)).pe p
  pe : let q := (s.cluster (tCluster t)).pe (tPe t)
    { (s'.cluster (tCluster t)).pe (tPe t) with
        clock := q.clock, lastThread := q.lastThread, busy := q.busy, mulBusy := q.mulBusy, divBusy := q.divBusy,
        fdivBusy := q.fdivBusy } = q

/-- The command answers a next state with `P`. -/
def Answers (i : Instr) (s : State) (P : State → Prop) : Prop := ∃ s', exec i s = .next s' ∧ P s'

/-- What a word of an instruction does to its thread. -/
structure WordForm where
  t : Tid
  w : Word
  /-- The thread afterwards, from the state before, the thread as the word sees it, the number of the free choice and the
  clock of the issue. -/
  effect : State → Thread → Nat → Nat → Thread

/-- The instruction runs its form: wherever its word runs, it completes with the form's thread and nothing else. -/
def RunsAs (i : Instr) (f : WordForm) : Prop :=
  ∀ s : State, s.runs f.t f.w = true →
    ∃ s', exec i s = .next s' ∧ OnlyThread s s' f.t (f.effect s (s.seen f.t f.w) s.free (s.issueClock f.t f.w))

/-! ## Accesses that are answered (07 R224, R225, 10 R296-R300) -/

/-- The physical address that an access of a word reaches without a fault or a wait for its window: the address is
aligned, and for a fabric thread the window entry (in its cluster's cache, for a near access) is valid, long enough and grants
the right, and a near access falls in a bank of the thread's own cluster. -/
def State.reaches (s : State) (t : Tid) (w : Word) (near : Bool) (kind : SplitKind) (ea : Word) : Option Nat :=
  if ea.toNat % kind.size ≠ 0 then none
  else if isSteward t then some (stewardPa s.free ea)
  else
    match s.accessEntry (tCluster t) (s.threadCtx t) ((s.seen t w).window s.free ea) near with
    | none => none
    | some e =>
      let off := (bits ea 0 28).toNat
      let pa := e.base + off
      if e.valid && decide (off < e.len) && kind.allowed e &&
          (!near || (inBanks pa && bankCluster (bankOf pa) == tCluster t)) then some pa
      else none

/-- A near access at a bank is answered at once: the context owns the bank, no zero fill runs, and the word holds no
uncorrected error but where a store of 8 bytes replaces it. -/
def State.bankAnswers (s : State) (t : Tid) (pa : Nat) (whole : Bool) : Bool :=
  inBanks pa && (isSteward t || (s.bank (bankOf pa)).grants (s.threadCtx t)) && !(s.bank (bankOf pa)).clring &&
    (!s.bad pa || whole)

/-! ## Mailbox commands that are performed (13 R378-R381) -/

/-- The firmware performs the waiting command of function `f` now, and it is `op`: its turn has come, and checks 1 and 2 pass or
were passed when it began. -/
def State.accepts (s : State) (f : FuncId) (op : Nat) : Bool :=
  let m := s.mbox f
  m.pend && s.fwRuns && s.arg f 0 2 == op && s.eligible f &&
    match cmdOf op with
    | none => false
    | some c => m.begun || ((c.check1 m).isNone && s.hasRight f c)

/-- The context of TARGET passes checks 3 to 5: it exists, the caller owns it or is the administrator, and no deckle encloses
it. -/
def State.serves (s : State) (f : FuncId) : Bool :=
  let x := s.argCtx f 8
  (s.ctx x).state != FREE && ((s.ctx x).owner == f || f == s.hub.admin) && !(s.caux x).deckle

/-- The command of function `f` completes OK in state `t`: with a payload, and with DMA-out data where it has some. -/
def State.completes (t : State) (f : FuncId) (payload : List Byte) (out : Option (List Byte)) : State :=
  t.settle f (.ok t payload out)

/-- The command of function `f` has begun and goes on (13 R370). -/
def State.goesOn (t : State) (f : FuncId) : State := t.updMbox f fun m => { m with begun := true }

end Sys2Proof.Machine
end

