-- ==== Sys2Proof/Forms.lean ====
section
/-! DEFINITION. The forms of the words that change only their own thread, instruction by instruction: the word, and the
thread after it, as 07 R209-R211 and the tables of 08 give them. The statements say that every such word runs as its
form. -/

namespace Sys2Proof.Machine

/-- A word that writes register rd at distance `d` and completes. -/
def regForm (t : Tid) (w : Word) (rd : GReg) (d : Nat) (v : Thread → Nat → Word) : WordForm :=
  { t := t, w := w, effect := fun _ th n k => (th.write n (some (k + d)) rd (v th n)).advance }

/-- A word of the register form of 08 R237: rd from rs1 and rs2 at distance `d`. -/
def aluForm (t : Tid) (maj : BitVec 6) (fn : BitVec 10) (rd rs1 rs2 : GReg) (d : Nat) (f : Word → Word → Word) : WordForm :=
  regForm t (wL3 maj rd rs1 rs2 fn) rd d fun th n => f (th.read n rs1) (th.read n rs2)

/-- A word of the immediate form of 08 R237. -/
def immForm (t : Tid) (maj : BitVec 6) (rd rs1 : GReg) (imm : BitVec 15) (f : Word → Word) : WordForm :=
  regForm t (wLI maj rd rs1 imm) rd 2 fun th n => f (th.read n rs1)

/-- The integer words with a register operand (08 R237). -/
def integerRegForms (t : Tid) (rd rs1 rs2 : GReg) : List (Instr × WordForm) :=
  [(.add t rd rs1 rs2, aluForm t 0x01 0 rd rs1 rs2 2 fun a b => a + b),
   (.sub t rd rs1 rs2, aluForm t 0x01 1 rd rs1 rs2 2 fun a b => a - b),
   (.andR t rd rs1 rs2, aluForm t 0x01 2 rd rs1 rs2 2 fun a b => a &&& b),
   (.orR t rd rs1 rs2, aluForm t 0x01 3 rd rs1 rs2 2 fun a b => a ||| b),
   (.xorR t rd rs1 rs2, aluForm t 0x01 4 rd rs1 rs2 2 fun a b => a ^^^ b),
   (.nor t rd rs1 rs2, aluForm t 0x01 5 rd rs1 rs2 2 fun a b => ~~~(a ||| b)),
   (.sll t rd rs1 rs2, aluForm t 0x01 6 rd rs1 rs2 2 fun a b => if b.toNat % 64 ≥ 32 then 0 else a <<< (b.toNat % 64)),
   (.srl t rd rs1 rs2, aluForm t 0x01 7 rd rs1 rs2 2 fun a b => if b.toNat % 64 ≥ 32 then 0 else a >>> (b.toNat % 64)),
   (.sra t rd rs1 rs2, aluForm t 0x01 8 rd rs1 rs2 2 fun a b => a.sshiftRight (min (b.toNat % 64) 31)),
   (.cmpeq t rd rs1 rs2, aluForm t 0x01 9 rd rs1 rs2 2 fun a b => if a = b then 1 else 0),
   (.cmpne t rd rs1 rs2, aluForm t 0x01 10 rd rs1 rs2 2 fun a b => if a = b then 0 else 1),
   (.cmplt t rd rs1 rs2, aluForm t 0x01 11 rd rs1 rs2 2 fun a b => if a.toInt < b.toInt then 1 else 0),
   (.cmpltu t rd rs1 rs2, aluForm t 0x01 12 rd rs1 rs2 2 fun a b => if a.toNat < b.toNat then 1 else 0),
   (.sel t rd rs1 rs2, regForm t (wL3 0x01 rd rs1 rs2 13) rd 2 fun th n =>
     if th.read n rd = 0 then th.read n rs2 else th.read n rs1),
   (.min t rd rs1 rs2, aluForm t 0x01 14 rd rs1 rs2 2 fun a b => if a.toInt < b.toInt then a else b),
   (.max t rd rs1 rs2, aluForm t 0x01 15 rd rs1 rs2 2 fun a b => if a.toInt < b.toInt then b else a),
   (.neg t rd rs1, regForm t (wL3 0x01 rd rs1 0 0x10) rd 2 fun th n => -(th.read n rs1)),
   (.mul t rd rs1 rs2, aluForm t 0x02 0 rd rs1 rs2 5 fun a b => BitVec.ofNat 32 (a.toNat * b.toNat)),
   (.mulh t rd rs1 rs2, aluForm t 0x02 1 rd rs1 rs2 6 fun a b => BitVec.ofInt 32 (a.toInt * b.toInt / 2 ^ 32)),
   (.mulhu t rd rs1 rs2, aluForm t 0x02 2 rd rs1 rs2 6 fun a b => BitVec.ofNat 32 (a.toNat * b.toNat / 2 ^ 32))]

/-- The integer words with an immediate (08 R237). -/
def integerImmForms (t : Tid) (rd rs1 : GReg) (imm : BitVec 15) (off : BitVec 20) : List (Instr × WordForm) :=
  [(.addImmediate t rd rs1 imm, immForm t 0x08 rd rs1 imm fun a => a + imm.signExtend 32),
   (.andImmediate t rd rs1 imm, immForm t 0x09 rd rs1 imm fun a => a &&& imm.setWidth 32),
   (.orImmediate t rd rs1 imm, immForm t 0x0A rd rs1 imm fun a => a ||| imm.setWidth 32),
   (.xorImmediate t rd rs1 imm, immForm t 0x0B rd rs1 imm fun a => a ^^^ imm.setWidth 32),
   (.sllImmediate t rd rs1 imm, immForm t 0x0C rd rs1 imm fun a => a <<< (imm.toNat % 32)),
   (.srlImmediate t rd rs1 imm, immForm t 0x0D rd rs1 imm fun a => a >>> (imm.toNat % 32)),
   (.sraImmediate t rd rs1 imm, immForm t 0x0E rd rs1 imm fun a => a.sshiftRight (imm.toNat % 32)),
   (.cmpeqImmediate t rd rs1 imm, immForm t 0x0F rd rs1 imm fun a => if a = imm.signExtend 32 then 1 else 0),
   (.cmpneImmediate t rd rs1 imm, immForm t 0x10 rd rs1 imm fun a => if a = imm.signExtend 32 then 0 else 1),
   (.cmpltImmediate t rd rs1 imm, immForm t 0x11 rd rs1 imm fun a => if a.toInt < imm.toInt then 1 else 0),
   (.cmpltuImmediate t rd rs1 imm, immForm t 0x12 rd rs1 imm fun a =>
     if a.toNat < (imm.signExtend 32).toNat then 1 else 0),
   (.lui t rd off, regForm t (wLB 0x03 rd off) rd 2 fun _ _ => off.setWidth 32 <<< 12)]

/-- The divisions (08 R238, 09 R270). -/
def divisionForms (t : Tid) (rd rs1 rs2 : GReg) : List (Instr × WordForm) :=
  [(.div t rd rs1 rs2, aluForm t 0x02 3 rd rs1 rs2 18 fun a b =>
     if b = 0 then 0xFFFFFFFF else BitVec.ofInt 32 (a.toInt.tdiv b.toInt)),
   (.divu t rd rs1 rs2, aluForm t 0x02 4 rd rs1 rs2 18 fun a b =>
     if b = 0 then 0xFFFFFFFF else BitVec.ofNat 32 (a.toNat / b.toNat)),
   (.rem t rd rs1 rs2, aluForm t 0x02 5 rd rs1 rs2 18 fun a b =>
     if b = 0 then a else BitVec.ofInt 32 (a.toInt.tmod b.toInt)),
   (.remu t rd rs1 rs2, aluForm t 0x02 6 rd rs1 rs2 18 fun a b =>
     if b = 0 then a else BitVec.ofNat 32 (a.toNat % b.toNat))]

/-- A floating-point word whose result has format `d`, with the flags that land beside it (07 R194, 08 R255-R258). -/
def fpForm (t : Tid) (d : Bool) (fn : BitVec 10) (rd rs1 rs2 : GReg) (dist : Nat)
    (f : Thread → Nat → BitVec 2 → Nat × Word) : WordForm :=
  { t := t, w := wF d rd rs1 rs2 fn
    effect := fun _ th n k => (th.writeF n (k + dist) d rd (f th n (th.rm n))).advance }

/-- A floating-point word whose result is a word. -/
def fpWordForm (t : Tid) (d : Bool) (fn : BitVec 10) (rd rs1 rs2 : GReg) (dist : Nat)
    (f : Thread → Nat → BitVec 2 → Word × Word) : WordForm :=
  { t := t, w := wF d rd rs1 rs2 fn
    effect := fun _ th n k =>
      let r := f th n (th.rm n)
      ((th.write n (some (k + dist)) rd r.1).fstAccrue n (k + dist) r.2).advance }

/-- The floating-point words (08 R255-R258); `d` is the format bit: .S or .D. -/
def floatForms (t : Tid) (d : Bool) (rd rs1 rs2 : GReg) : List (Instr × WordForm) :=
  let F := fmtOf d
  [(.fadd t d rd rs1 rs2, fpForm t d 0 rd rs1 rs2 (if d then 6 else 4) fun th n rm =>
     F.add rm (th.readF n d rs1) (th.readF n d rs2)),
   (.fsub t d rd rs1 rs2, fpForm t d 1 rd rs1 rs2 (if d then 6 else 4) fun th n rm =>
     F.sub rm (th.readF n d rs1) (th.readF n d rs2)),
   (.fmul t d rd rs1 rs2, fpForm t d 2 rd rs1 rs2 (if d then 6 else 4) fun th n rm =>
     F.mul rm (th.readF n d rs1) (th.readF n d rs2)),
   (.fma t d rd rs1 rs2, fpForm t d 3 rd rs1 rs2 (if d then 6 else 4) fun th n rm =>
     F.fma rm (th.readF n d rs1) (th.readF n d rs2) (th.readF n d rd)),
   (.fdiv t d rd rs1 rs2, fpForm t d 4 rd rs1 rs2 (if d then 22 else 12) fun th n rm =>
     F.div rm (th.readF n d rs1) (th.readF n d rs2)),
   (.fsqrt t d rd rs1, fpForm t d 5 rd rs1 0 (if d then 26 else 14) fun th n rm => F.sqrt rm (th.readF n d rs1)),
   (.fmin t d rd rs1 rs2, fpForm t d 6 rd rs1 rs2 2 fun th n _ => F.minmax false (th.readF n d rs1) (th.readF n d rs2)),
   (.fmax t d rd rs1 rs2, fpForm t d 7 rd rs1 rs2 2 fun th n _ => F.minmax true (th.readF n d rs1) (th.readF n d rs2)),
   (.fcmpeq t d rd rs1 rs2, fpWordForm t d 8 rd rs1 rs2 2 fun th n _ => F.cmpEq (th.readF n d rs1) (th.readF n d rs2)),
   (.fcmplt t d rd rs1 rs2, fpWordForm t d 9 rd rs1 rs2 2 fun th n _ =>
     F.cmpLess false (th.readF n d rs1) (th.readF n d rs2)),
   (.fcmple t d rd rs1 rs2, fpWordForm t d 10 rd rs1 rs2 2 fun th n _ =>
     F.cmpLess true (th.readF n d rs1) (th.readF n d rs2)),
   (.fclass t d rd rs1, fpWordForm t d 11 rd rs1 0 2 fun th n _ => (F.classOf (th.readF n d rs1), 0)),
   (.fcvtFromSignedWord t d rd rs1, fpForm t d 0x10 rd rs1 0 4 fun th n rm => F.fromInt rm (th.read n rs1).toInt),
   (.fcvtFromUnsignedWord t d rd rs1, fpForm t d 0x11 rd rs1 0 4 fun th n rm => F.fromInt rm (th.read n rs1).toNat),
   (.fcvtToSignedWord t d rd rs1, fpWordForm t d 0x12 rd rs1 0 4 fun th n rm => F.toWord rm true (th.readF n d rs1)),
   (.fcvtToUnsignedWord t d rd rs1, fpWordForm t d 0x13 rd rs1 0 4 fun th n rm => F.toWord rm false (th.readF n d rs1)),
   (.fcvtBetweenFormats t d rd rs1, fpForm t d 0x14 rd rs1 0 4 fun th n rm =>
     convert (fmtOf (!d)) F rm (th.readF n (!d) rs1))]

/-- A decimal word (08 R259-R261): its digits, its partner in the word form, and its flags of DST, at distance `dist`. -/
def decForm (t : Tid) (op : BitVec 4) (p : Bool) (rd rs1 rs2 : GReg) (dist : Nat) : WordForm :=
  { t := t, w := wD p rd rs1 rs2 op
    effect := fun s th n k =>
      let r := decimal op p (th.readD n (p && op != 9) rs1) (th.readD n (p && (op == 0 || op == 1 || op == 6)) rs2)
        (s.ctx (s.threadCtx t)).drnd
      (th.writeD n (k + dist) (p && op != 6 && op != 8) rd
        { rd := r.rd, partner := if p then none else r.partner, flags := r.flags }).advance }

/-- The decimal words (08 R260); `p` is the pair form. -/
def decimalForms (t : Tid) (p : Bool) (rd rs1 rs2 : GReg) : List (Instr × WordForm) :=
  [(.dadd t p rd rs1 rs2, decForm t 0 p rd rs1 rs2 3), (.dsub t p rd rs1 rs2, decForm t 1 p rd rs1 rs2 3),
   (.dadj t p rd rs1, decForm t 2 p rd rs1 0 3), (.dmuls t p rd rs1 rs2, decForm t 3 p rd rs1 rs2 6),
   (.dshl t p rd rs1 rs2, decForm t 4 p rd rs1 rs2 3), (.dshr t p rd rs1 rs2, decForm t 5 p rd rs1 rs2 3),
   (.dcmp t p rd rs1 rs2, decForm t 6 p rd rs1 rs2 3), (.dround t p rd rs1 rs2, decForm t 7 p rd rs1 rs2 3),
   (.dtob t p rd rs1 rs2, decForm t 8 p rd rs1 rs2 3), (.btod t p rd rs1, decForm t 9 p rd rs1 0 3)]

/-- A branch (07 R217): its delay slot is next, and `target` after it; `link` writes PC + 8 to rd at distance 2. -/
def branchForm (t : Tid) (w : Word) (link : Option GReg) (target : Thread → Nat → Word) : WordForm :=
  { t := t, w := w
    effect := fun _ th n k =>
      let a := match link with
        | some rd => th.write n (some (k + 2)) rd (th.pc + 8)
        | none => th
      { a with pc := th.pc + 4, delay := some (target th n) } }

/-- The branches with an offset (08 R244): 4 times off20 sign-extended, from the branch's own address. -/
def branchForms (t : Tid) (rd rs1 : GReg) (off : BitVec 20) : List (Instr × WordForm) :=
  [(.bz t rs1 off, branchForm t (wLB 0x28 rs1 off) none fun th n =>
     if th.read n rs1 = 0 then th.pc + 4 * off.signExtend 32 else th.pc + 8),
   (.bnz t rs1 off, branchForm t (wLB 0x29 rs1 off) none fun th n =>
     if th.read n rs1 = 0 then th.pc + 8 else th.pc + 4 * off.signExtend 32),
   (.jump t off, branchForm t (wLB 0x2A 0 off) none fun th _ => th.pc + 4 * off.signExtend 32),
   (.jl t rd off, branchForm t (wLB 0x2B rd off) (some rd) fun th _ => th.pc + 4 * off.signExtend 32)]

/-- A paired word (07 R200): both slots read before either writes, at distance 2; slot B's value stands where both write
one register. -/
def pairedForm (t : Tid) (x : BitVec 31) : WordForm :=
  let w : Word := (1 : BitVec 1) ++ x
  { t := t, w := w
    effect := fun _ th n k =>
      let a := slotResult th n (slotA w)
      let b := slotResult th n (slotB w)
      let first := match a, b with
        | some u, some v => if u.1 = v.1 then none else some u
        | u, _ => u
      (writeSlot n (k + 2) (writeSlot n (k + 2) th first) b).advance }

/-- The near loads (08 R239): major opcode, log2 of the bytes, sign extension. -/
def nearLoadForms (t : Tid) (rd rs1 : GReg) (imm : BitVec 15) : List (Instr × BitVec 6 × BitVec 2 × Bool) :=
  [(.lb t rd rs1 imm, 0x18, 0, true), (.lbu t rd rs1 imm, 0x19, 0, false), (.lh t rd rs1 imm, 0x1A, 1, true),
   (.lhu t rd rs1 imm, 0x1B, 1, false), (.lw t rd rs1 imm, 0x1C, 2, false), (.ldp t rd rs1 imm, 0x1D, 3, false)]

/-- The near stores (08 R239): major opcode, log2 of the bytes. -/
def nearStoreForms (t : Tid) (rd rs1 : GReg) (imm : BitVec 15) : List (Instr × BitVec 6 × BitVec 2) :=
  [(.sb t rd rs1 imm, 0x1E, 0), (.sh t rd rs1 imm, 0x1F, 1), (.sw t rd rs1 imm, 0x20, 2), (.sdp t rd rs1 imm, 0x21, 3)]

/-- The form of a split access (08 R240, R242): function code, kind, and the access from the registers at issue. -/
structure SplitForm where
  fn : BitVec 10
  kind : SplitKind
  access : Thread → Nat → Access

/-- The split accesses: LDX and STX at rs1 plus rs2, CAS at rs1 with the pair rs2 to store and the pair rd expected. -/
def splitForms (t : Tid) (rd rs1 rs2 : GReg) : List (Instr × SplitForm) :=
  let at2 (k : SplitKind) (data : Thread → Nat → DWord) : Thread → Nat → Access := fun th n =>
    let ea := th.read n rs1 + th.read n rs2
    { near := false, ea := ea, win := th.window n ea, kind := k, rd := rd, data := data th n, expect := 0 }
  let load (k : SplitKind) := at2 k fun _ _ => 0
  let store (z : BitVec 2) := at2 (.store z) (storeData rd z)
  [(.ldxB t rd rs1 rs2, ⟨0, .load 0 true, load (.load 0 true)⟩), (.ldxBu t rd rs1 rs2, ⟨1, .load 0 false, load (.load 0 false)⟩),
   (.ldxH t rd rs1 rs2, ⟨2, .load 1 true, load (.load 1 true)⟩), (.ldxHu t rd rs1 rs2, ⟨3, .load 1 false, load (.load 1 false)⟩),
   (.ldxW t rd rs1 rs2, ⟨4, .load 2 false, load (.load 2 false)⟩), (.ldxP t rd rs1 rs2, ⟨5, .load 3 false, load (.load 3 false)⟩),
   (.stxB t rd rs1 rs2, ⟨8, .store 0, store 0⟩), (.stxH t rd rs1 rs2, ⟨9, .store 1, store 1⟩),
   (.stxW t rd rs1 rs2, ⟨10, .store 2, store 2⟩), (.stxP t rd rs1 rs2, ⟨11, .store 3, store 3⟩),
   (.cas t rd rs1 rs2, ⟨0x10, .cas, fun th n =>
     let ea := th.read n rs1
     { near := false, ea := ea, win := th.window n ea, kind := .cas, rd := rd, data := th.readPair n rs2,
       expect := th.readPair n rd }⟩)]

/-- The form of a word that sends a token (08 R245-R250): the word, whether it is an event message, and the token that
passes the checks of the outbox; none where a check fails or the word does otherwise. -/
structure SendForm where
  w : Word
  ev : Bool
  token : State → Thread → Nat → Option Token

/-- SEND and SENDT to a node, SENDX, and SETEV of a software flag. -/
def sendForms (t : Tid) (rd rs1 rs2 : GReg) (dsel : BitVec 7) : List (Instr × SendForm) :=
  let dest (s : State) : Option (Image × DestRec) :=
    match (s.thread t).work with
    | some (.activation a) => (s.image a.image).bind fun m => (m.dest a.node dsel.toNat).map fun r => (m, r)
    | _ => none
  [(.send t rs1 rs2 dsel, ⟨wLT 0x30 0 rs1 rs2 dsel 0, false, fun s th n =>
     (dest s).bind fun (m, r) =>
       let tag := m.destTag (s.threadCtx t) r (bits (th.read n rs1) 0 16)
       if r.kind ≠ 2 ∧ r.kind ≠ 3 ∧ s.entryFields tag = true then some ⟨tag, th.readPair n rs2, none⟩ else none⟩),
   (.sendx t rs1 rs2, ⟨wLT 0x30 0 rs1 rs2 0 1, false, fun s th n =>
     let tag := th.readPair n rs1
     if s.outboxTag (s.threadCtx t) tag then some ⟨tag, th.readPair n rs2, none⟩ else none⟩),
   (.sendt t rd rs1 rs2 dsel, ⟨wLT 0x30 rd rs1 rs2 dsel 2, false, fun s th n =>
     (dest s).bind fun (m, r) =>
       let k := th.readPair n rd
       let inst : BitVec 16 := bits (th.read n rs1) 0 16
       if r.kind ≠ 2 ∧ r.kind ≠ 3 ∧ isReel r.node = false ∧ (k - s.tb.tc).toInt ≤ 16777216 then
         some ⟨mkTag (s.threadCtx t) r.node inst (if r.kind = 4 then 3 else r.port) 1
           (match m.group r.node with | some g => g.place inst | none => 0), th.readPair n rs2, some k⟩
       else none⟩),
   (.setev t rs1 dsel, ⟨wLT 0x30 0 rs1 0 dsel 6, true, fun s th n =>
     let task : BitVec 16 := bits (th.read n rs1) 0 16
     let f : BitVec 5 := bits dsel 0 5
     if 8 ≤ f.toNat ∧ task.toNat < (s.ctx (s.threadCtx t)).taskcnt.toNat ∧
         (f.toNat < 30 ∨ s.isSupervisor t (s.threadCtx t) = true) then
       some ⟨mkTag (s.threadCtx t) (BitVec.setWidth 20 task) 0 0 2 (s.placeOfTask (s.threadCtx t) task),
         eventPayload (s.threadCtx t) task f, none⟩
     else none⟩)]

end Sys2Proof.Machine
end

