-- ==== Sys2Proof/Certificates/Slice0/Obligations.lean ====
section
/-! DEFINITION. The statements for the provers. -/

open Sys2Proof Sys2Proof.Machine

/-! ## Words of a thread (07, 08) -/

/-- Every integer word with a register operand computes the result of its row of the table of R237 from the registers as it
sees them, at its distance of R210, and changes nothing else. The same for the integer words with an immediate. A division
writes its quotient or remainder; a zero divisor in a context with DZT set faults with DIV_ZERO, its result written. A paired
word reads both slots before either writes, and writes both results at distance 2.
Completes: rem, remu, pairedWord, add, sub, andR, orR, xorR, nor, sll, srl, sra, cmpeq, cmpne, cmplt, cmpltu, sel, min, max,
neg, mul, mulh, mulhu, addImmediate, andImmediate, orImmediate, xorImmediate, sllImmediate, srlImmediate, sraImmediate,
cmpeqImmediate, cmpneImmediate, cmpltImmediate, cmpltuImmediate, lui, div, divu. -/
def Obligations.IntegerWordsCompute : Prop :=
  (∀ (t : Tid) (rd rs1 rs2 : GReg), ∀ p ∈ integerRegForms t rd rs1 rs2, RunsAs p.1 p.2) ∧
  (∀ (t : Tid) (rd rs1 : GReg) (imm : BitVec 15) (off : BitVec 20), ∀ p ∈ integerImmForms t rd rs1 imm off, RunsAs p.1 p.2) ∧
  (∀ (t : Tid) (rd rs1 rs2 : GReg), ∀ p ∈ divisionForms t rd rs1 rs2, ∀ s : State, s.runs t p.2.w = true →
    let th := s.seen t p.2.w
    let k := s.issueClock t p.2.w
    let traps := th.read s.free rs2 = 0 ∧ isSteward t = false ∧ (s.ctx (s.threadCtx t)).dzt = true
    (¬ traps → ∃ s', exec p.1 s = .next s' ∧ OnlyThread s s' t (p.2.effect s th s.free k)) ∧
    (traps → ∃ a, exec p.1 s = .next (a.takeFault t DIV_ZERO) ∧ OnlyThread s a t
      { (th.write s.free (some (k + 18)) rd (match p.1 with
          | .rem .. => th.read s.free rs1
          | .remu .. => th.read s.free rs1
          | _ => 0xFFFFFFFF)).landTo (k + 18) with lastIssue := k })) ∧
  (∀ (t : Tid) (x : BitVec 31), RunsAs (.pairedWord t x) (pairedForm t x))

/-- Every floating-point word writes the result of its operation under RM at its distance, and its flags accrue in FST at the
same clock.
Completes: fadd, fsub, fmul, fma, fdiv, fsqrt, fmin, fmax, fcmpeq, fcmplt, fcmple, fclass, fcvtFromSignedWord,
fcvtFromUnsignedWord, fcvtToSignedWord, fcvtToUnsignedWord, fcvtBetweenFormats. -/
def Obligations.FloatWordsCompute : Prop :=
  ∀ (t : Tid) (d : Bool) (rd rs1 rs2 : GReg), ∀ p ∈ floatForms t d rd rs1 rs2, RunsAs p.1 p.2

/-- Every decimal word writes its digits, its partner in the word form, and its flags in DST. TLI1 and TLI2 write the value of
the context's table at their arguments; a handle that names no table of the dimensions faults with TABLE_INVALID.
Completes: tli1, tli2, dadd, dsub, dadj, dmuls, dshl, dshr, dcmp, dround, dtob, btod. -/
def Obligations.DecimalAndInterpolationWordsCompute : Prop :=
  (∀ (t : Tid) (p : Bool) (rd rs1 rs2 : GReg), ∀ q ∈ decimalForms t p rd rs1 rs2, RunsAs q.1 q.2) ∧
  (∀ (t : Tid) (rd rs1 rs2 : GReg) (s : State) (two : Bool),
    let w := wL3 0x39 rd rs1 rs2 (if two then 1 else 0)
    let i : Instr := if two then .tli2 t rd rs1 rs2 else .tli1 t rd rs1 rs2
    s.runs t w = true →
    let th := s.seen t w
    let k := s.issueClock t w
    let found := ((s.caux (s.threadCtx t)).table (bits (th.read s.free rs1) 0 16)).filter
      fun tb => tb.dims == (if two then 2 else 1)
    (∀ tb, found = some tb → ∃ s', exec i s = .next s' ∧ OnlyThread s s' t
      (th.write s.free (some (k + (if two then 16 else 12))) rd
        (if two then tb.tli2 (bits (th.readPair s.free rs2) 0 32) (bits (th.readPair s.free rs2) 32 32)
         else tb.tli1 (th.read s.free rs2))).advance) ∧
    (found = none → ∃ a, exec i s = .next (a.takeFault t TABLE_INVALID) ∧ OnlyThread s a t th))

/-- BZ, BNZ, J and JL: the delay slot is next and the target follows it; JL links PC + 8. JR branches to its register, and
faults with ALIGN where bits 1:0 are not zero.
Completes: jr, bz, bnz, jump, jl. -/
def Obligations.BranchesDelayTheirTarget : Prop :=
  (∀ (t : Tid) (rd rs1 : GReg) (off : BitVec 20), ∀ p ∈ branchForms t rd rs1 off, RunsAs p.1 p.2) ∧
  (∀ (t : Tid) (rd rs1 : GReg) (s : State),
    let w := wL3 0x2C rd rs1 0 0
    s.runs t w = true →
    let th := s.seen t w
    let a := th.read s.free rs1
    (bits a 0 2 = (0 : BitVec 2) → ∃ s', exec (.jr t rd rs1) s = .next s' ∧ OnlyThread s s' t
      { th.write s.free (some (s.issueClock t w + 2)) rd (th.pc + 8) with pc := th.pc + 4, delay := some a }) ∧
    (bits a 0 2 ≠ (0 : BitVec 2) → ∃ b, exec (.jr t rd rs1) s = .next (b.takeFault t ALIGN) ∧ OnlyThread s b t th))

/-- REP.I and REP.N: the next word is repeated by the count; REP.I with a count of 0 skips it; a count outside 1 to 64 faults
REP.N with REP_LIMIT; a word that must not be repeated faults with REP_ILLEGAL.
Completes: repI, repN. -/
def Obligations.RepeatPrefixesSetTheCount : Prop :=
  ∀ (t : Tid) (rs1 : GReg) (n : BitVec 15) (s : State) (inter : Bool),
    let w := if inter then wLI 0x2D 0 rs1 0 else wLI 0x2E 0 0 n
    let i : Instr := if inter then .repI t rs1 else .repN t n
    s.runs t w = true →
    let th := s.seen t w
    let count : Word := if inter then th.read s.free rs1 else n.setWidth 32
    let illegal := (s.nextWord t).any repeatIllegal
    (illegal = false → inter = true → count = 0 →
      ∃ s', exec i s = .next s' ∧ OnlyThread s s' t ({ th with pc := th.pc + 4 } : Thread).advance) ∧
    (illegal = false → (inter = true ∧ count ≠ 0 ∨ inter = false ∧ 1 ≤ n.toNat ∧ n.toNat ≤ 64) →
      ∃ s', exec i s = .next s' ∧ OnlyThread s s' t
        { th with
          pc := th.pc + 4, repc := count
          rep := some { interruptible := inter, word := w, old := th.repc, begun := false } }) ∧
    (illegal = false → inter = false → (n = 0 ∨ 64 < n.toNat) →
      ∃ a, exec i s = .next (a.takeFault t REP_LIMIT) ∧ OnlyThread s a t th) ∧
    (illegal = true → ∃ a, exec i s = .next (a.takeFault t REP_ILLEGAL) ∧ OnlyThread s a t th)

/-- MFSR writes the state its number names; MTSR writes BNK, FST, DST or TST at distance 2, with reserved fields 0, and faults
with ILLEGAL_OP for REPC and WHO.
Completes: mfsr, mtsr. -/
def Obligations.StateRegisterMovesReadAndWrite : Prop :=
  ∀ (t : Tid) (r : GReg) (sr : BitVec 15) (s : State),
    (s.runs t (wLI 0x33 r 0 sr) = true →
      let w := wLI 0x33 r 0 sr
      let th := s.seen t w
      ∃ s', exec (.mfsr t r sr) s = .next s' ∧ OnlyThread s s' t
        (th.write s.free (some (s.issueClock t w + 2)) r (stateValue t sr (s.threadCtx t) th s.free)).advance) ∧
    (s.runs t (wLI 0x34 0 r sr) = true →
      let w := wLI 0x34 0 r sr
      let th := s.seen t w
      let v := th.read s.free r
      let n := sr.toNat
      (n = 0x10 ∨ n = 0x14 → ∃ a, exec (.mtsr t r sr) s = .next (a.takeFault t ILLEGAL_OP) ∧ OnlyThread s a t th) ∧
      (n ≠ 0x10 → n ≠ 0x14 → ∃ s', exec (.mtsr t r sr) s = .next s' ∧ OnlyThread s s' t
        (let due := some (s.issueClock t w + 2)
         if n < 16 then th.addLand s.free due (.bnk (BitVec.ofNat 4 n)) (v &&& 0x3F)
         else if n = 0x11 then th.addLand s.free due .fst (v &&& 0x1F03)
         else if n = 0x12 then th.addLand s.free due .dst (v &&& 7)
         else if n = 0x13 then th.addLand s.free due .tst v
         else th).advance))

/-- NOP changes nothing but the PC. FENCE completes once every earlier access is performed, and WAITLD once every split access
is complete, and then every split result is readable; an error kept faults at the WAITLD and is cleared.
Completes: waitld, fence, nop. -/
def Obligations.NopFenceAndWaitldComplete : Prop :=
  ∀ (t : Tid) (s : State),
    (let w := wL3 0x32 0 0 0 0
     s.runs t w = true → ∃ s', exec (.nop t) s = .next s' ∧ OnlyThread s s' t (s.seen t w).advance) ∧
    (let w := wL3 0x22 0 0 0 0x30
     s.runs t w = true → (s.thread t).splits.all (·.performed) = true →
       ∃ s', exec (.fence t) s = .next s' ∧ OnlyThread s s' t (s.seen t w).advance) ∧
    (let w := wL3 0x22 0 0 0 0x20
     s.runs t w = true → (s.thread t).splits = [] →
       let th := s.seen t w
       let landed := (th.lands.filter (fun l => l.due.isNone)).foldl Thread.land
         { th with lands := th.lands.filter (fun l => l.due.isSome) }
       (landed.err = none → ∃ s', exec (.waitld t) s = .next s' ∧ OnlyThread s s' t landed.advance) ∧
       (∀ q c, landed.err = some (q, c) → ∃ a, exec (.waitld t) s = .next (a.takeFault t c) ∧
         OnlyThread s a t { landed with err := none }))

/-! ## Memory words (07 R214, R224-R226, 08 R239-R243) -/

/-- A near load whose access is answered at its bank writes what the bytes at its physical address hold, sign- or zero-extended, at
distance 4, and changes no memory. A near store that is answered writes its bytes at its physical address, and every other byte
of memory and every register is as before; a fabric thread takes port A of its bank. A steward's near access outside the banks
loads what is there, or stores there, and completes.
Completes: lb, lbu, lh, lhu, lw, ldp, sb, sh, sw, sdp. -/
def Obligations.NearAccessesReadAndWrite : Prop :=
  (∀ (t : Tid) (rd rs1 : GReg) (imm : BitVec 15), ∀ p ∈ nearLoadForms t rd rs1 imm, ∀ (s : State) (pa : Nat),
    let w := wLI p.2.1 rd rs1 imm
    s.runs t w = true →
    let th := s.seen t w
    let size := p.2.2.1
    s.reaches t w true (.load size p.2.2.2) (th.read s.free rs1 + imm.signExtend 32) = some pa →
    (s.bankAnswers t pa false = true →
      ∃ s', exec p.1 s = .next s' ∧ OnlyThread (s.takePortA t (s.issueClock t w) pa) s' t
        (th.writeLoad s.free (some (s.issueClock t w + 4)) rd size p.2.2.2 (BitVec.ofNat 64 (s.rd pa (2 ^ size.toNat)))).advance) ∧
    (isSteward t = true → inBanks pa = false → ∀ (q : State) (v : DWord),
      s.takeFree.stewardAt pa (2 ^ size.toNat) false 0 = .done q v →
      ∃ s', exec p.1 s = .next s' ∧ OnlyThread q s' t
        (th.writeLoad s.free (some (s.issueClock t w + 4)) rd size p.2.2.2 v).advance)) ∧
  (∀ (t : Tid) (rd rs1 : GReg) (imm : BitVec 15), ∀ p ∈ nearStoreForms t rd rs1 imm, ∀ (s : State) (pa : Nat),
    let w := wLI p.2.1 rd rs1 imm
    s.runs t w = true → s.memWf = true →
    let th := s.seen t w
    let size := p.2.2
    let n := 2 ^ size.toNat
    let data := (storeData rd size th s.free).toNat
    s.reaches t w true (.store size) (th.read s.free rs1 + imm.signExtend 32) = some pa →
    (s.bankAnswers t pa (size == 3) = true →
      ∃ s', exec p.1 s = .next s' ∧
        OnlyThread (((s.takePortA t (s.issueClock t w) pa).wr pa n data).setBad pa false) s' t th.advance ∧
        s'.rd pa n = data % 256 ^ n ∧ ∀ a, a < pa ∨ pa + n ≤ a → Memory.get s'.mem a = Memory.get s.mem a) ∧
    (isSteward t = true → inBanks pa = false → ∀ (q : State) (v : DWord),
      s.takeFree.stewardAt pa n true (storeData rd size th s.free) = .done q v →
      ∃ s', exec p.1 s = .next s' ∧ OnlyThread q s' t th.advance))

/-- A split load, split store or CAS that reaches its address with fewer than 8 accesses outstanding counts in LDOUT, and its
request leaves on VC1 for the home of the address, or waits for its window entry where that is not cached; nothing of memory
changes yet. An access where no memory is completes at once; a steward's is that of the register there, if one is. The response to a split access takes effect
at its thread, which waits for nothing: the transaction is outstanding no more, its value or its error is with the thread, and
no other thread and no memory changes.
Completes: splitAccessCompletion, ldxB, ldxBu, ldxH, ldxHu, ldxW, ldxP, stxB, stxH, stxW, stxP, cas. -/
def Obligations.SplitAccessesAskAndComplete : Prop :=
  (∀ (t : Tid) (rd rs1 rs2 : GReg), ∀ p ∈ splitForms t rd rs1 rs2, ∀ (s : State) (pa : Nat),
    let w := wL3 0x22 rd rs1 rs2 p.2.fn
    s.runs t w = true → (s.thread t).splits.length < 8 →
    let th := s.seen t w
    let a := p.2.access th s.free
    s.reaches t w false p.2.kind a.ea = some pa →
    let e : Split := { txn := splitTxn t th.splitSeq, seq := th.splitSeq, kind := p.2.kind, rd := rd, dirty := false, performed := false }
    let issued : Thread := { th with splitSeq := th.splitSeq + 1, splits := th.splits ++ [e] }
    ((homeOf (BitVec.ofNat 40 pa)).isSome = true →
      ∃ s' h, exec p.1 s = .next s' ∧ (h = none ↔ s.windowIn t a = true) ∧
        OnlyThread (s.issueSplit t a (BitVec.ofNat 40 pa)) s' t
          ({ issued with splits := th.splits ++ [{ e with held := h }] } : Thread).advance ∧
        s'.mem = s.mem ∧ (s'.thread t).splits.length = (s.thread t).splits.length + 1) ∧
    (homeOf (BitVec.ofNat 40 pa) = none →
      ∃ s' v, exec p.1 s = .next s' ∧ s'.thread t = (issued.complete s.takeFree.free e 0 v).advance ∧
        (isSteward t = true →
          let r := s.takeFree.nowhere (BitVec.ofNat 40 pa).toNat (match p.2.kind with | .load _ _ => false | _ => true)
          v = r.2 ∧ OnlyThread r.1 s' t (issued.complete s.takeFree.free e 0 v).advance) ∧
        (∀ u, u ≠ t → s'.thread u = s.thread u) ∧ s'.mem = s.mem)) ∧
  (∀ (t : Tid) (txn : BitVec 16) (s : State) (p : Split) (q : Packet) (rest : List Packet),
    t.wf = true → (s.thread t).wait = .none → (s.thread t).splits.find? (fun e => e.txn == txn) = some p →
    takeResponse txn (s.spine.inq.getD (bufKey (threadHome t).1 (4 + (threadHome t).2.toNat) 2) []) = some (q, rest) →
    ∃ s', exec (.splitAccessCompletion t txn) s = .next s' ∧
      s'.thread t = (s.thread t).complete s.free p (rspStatus q.head) (rspData q.head) ∧
      (s'.thread t).splits.map (·.txn) = ((s.thread t).splits.map (·.txn)).filter (· != txn) ∧
      (rspStatus q.head ≠ 0 → rspStatus q.head ≠ LOST_TO_A → (s'.thread t).regs = (s.thread t).regs ∧
        (s'.thread t).lands = (s.thread t).lands ∧ (s'.thread t).err.isSome = true) ∧
      (∀ u, u ≠ t → s'.thread u = s.thread u) ∧ s'.mem = s.mem ∧ s'.ctxs = s.ctxs ∧ s'.clusters = s.clusters)

/-! ## Traps and faults (04 R134-R137, 08 R233-R236) -/

/-- TRAP and an extension trap of a fabric thread block their thread with a trap request for the context's handler, its three
words and a new sequence number, and ask for the handler's channel 6; a context without a handler faults with EXT_NO_HANDLER.
BRK in a context that a debugger is attached to stops its activation where it is, or leaves its task STOPPED with the state it
had, its registers to be saved; without a debugger it faults with BREAK. A reply to a trap ends the wait: every result still on
its way is there, the register that the trapping word names receives RESULT and the thread goes on after the word, or faults with
ILLEGAL_OP where bit 63 is set.
Completes: trap, brk, extensionTrap, trapReply. -/
def Obligations.TrapsAndBreaksStopTheirThread : Prop :=
  (∀ (t : Tid) (rd rs1 rs2 : GReg) (op : BitVec 2) (x : BitVec 25) (s : State) (sys : Bool),
    let w : Word := if sys then wL3 0x32 rd rs1 rs2 1 else (0 : BitVec 1) ++ (0xF : BitVec 4) ++ op ++ x
    let i : Instr := if sys then .trap t rd rs1 rs2 else .extensionTrap t op x
    s.runs t w = true → isSteward t = false → s.cancelPending t = false →
    let th := s.seen t w
    let h := (s.ctx (s.threadCtx t)).exth
    let handler := if h = 0xFFFF then none else s.declared (s.threadCtx t) h 6
    (∀ c d, handler = some (c, d) →
      let q := th.trapSeq + 1
      let handle : Word := (1 : BitVec 1) ++ (0 : BitVec 3) ++ tCluster t ++ tPe t ++ tTh t ++ q
      ∃ s', exec i s = .next s' ∧
        (∃ third : DWord, bits third 0 32 = th.pc ∧ (s'.thread t).wait = .trap [handle ++ w,
          th.read s.free (wRs2 w) ++ th.read s.free (wRs1 w), third]) ∧
        (s'.thread t).trapSeq = q ∧ (s'.thread t).handle = handle ∧ (s'.thread t).reply = none ∧ (s'.thread t).pc = th.pc ∧
        (s'.thread t).lands = [] ∧
        ((s'.cluster c).chan d 6).queue = ((s.cluster c).chan d 6).queue ++ [.trap t] ∧
        (∀ u, u ≠ t → s'.thread u = s.thread u) ∧ s'.mem = s.mem ∧ s'.ctxs = s.ctxs) ∧
    (handler = none → ∃ a, exec i s = .next (a.takeFault t EXT_NO_HANDLER) ∧ OnlyThread s a t th)) ∧
  (∀ (t : Tid) (s : State),
    let w := wL3 0x32 0 0 0 2
    s.runs t w = true →
    let th := s.seen t w
    let attached := isSteward t = false ∧ (s.caux (s.threadCtx t)).debugger.isSome = true
    (attached → s.taskOf t = none →
      ∃ s', exec (.brk t) s = .next s' ∧ OnlyThread s s' t { th with brk := true, dbgStopped := true }) ∧
    (attached → ∀ d, s.taskOf t = some d → th.splits = [] →
      ∃ s', exec (.brk t) s = .next s' ∧ ((s'.cluster (tCluster t)).task d).state = STOPPEDT ∧
        ((s'.cluster (tCluster t)).task d).prev = RUNNINGT ∧ (s'.thread t).after = .stopped ∧
        (s'.thread t).wait = .saving (s.issueClock t w + 40) ∧ (s'.thread t).pc = th.pc ∧ (s'.thread t).brk = true ∧
        (∀ u, u ≠ t → s'.thread u = s.thread u) ∧ s'.mem = s.mem) ∧
    (¬ attached → ∃ a, exec (.brk t) s = .next (a.takeFault t BREAK) ∧ OnlyThread s a t th)) ∧
  (∀ (t : Tid) (s : State) (ws : List DWord) (v : DWord),
    t.wf = true → (s.thread t).wait = .trap ws → (s.thread t).reply = some v →
    (s.thread t).dbgReq = false → (s.thread t).moveReq = false →
    let th : Thread := { (s.thread t).landAll with wait := .none, reply := none, handle := 0 }
    (v.getLsbD 63 = false → ∃ s', exec (.trapReply t) s = .next s' ∧ OnlyThread (s.wake t) s' t
      ((th.land { due := none, target := .gpr (wRd th.cur), value := bits v 0 32, clash := none }).advance) ∧
      ∀ d, s.taskOf t = some d → ((s'.cluster (tCluster t)).task d).state = RUNNINGT) ∧
    (v.getLsbD 63 = true → ∃ a, exec (.trapReply t) s = .next (a.takeFault t ILLEGAL_OP) ∧ OnlyThread (s.wake t) a t th))

/-- An undefined encoding that is fetched, and a fetch from an offset that holds no code, faults with ILLEGAL_OP at the thread that
issues it. A word of a steward with a nonzero reserved field faults with RESERVED_FIELD (by this command: the model's choice, log 120).
What taking a fault does to a fabric thread with no message open, in a context with FOF clear and room in the fault buffer:
the cause and the count of the context, the record of R135 behind the others, and a task FAULTED.
Completes: undefinedEncoding. -/
def Obligations.FaultsAreTakenAndRecorded : Prop :=
  (∀ (t : Tid) (w : Word) (noCode : Bool) (s : State),
    t.wf = true → s.ready t = true → s.lineIn t = true → s.elected t = true → (s.thread t).rep = none →
    (noCode = true → isSteward t = true ∨ s.fetch t = none) →
    (noCode = false → wordDefined w = false ∧ s.fetched t w = .word w) →
    ∃ (a : State) (inB : Bool) (th : Thread), exec (.undefinedEncoding t w noCode) s = .next (a.takeFault t ILLEGAL_OP inB) ∧
      OnlyThread s a t th ∧ th.pc = (s.thread t).pc ∧ (noCode = false → th.cur = w ∧ inB = undefinedInB w)) ∧
  (∀ (t : Tid) (w : Word) (s : State),
    t.wf = true → isSteward t = true → s.ready t = true → s.elected t = true → (s.thread t).rep = none →
    wordDefined w = true → wordReserved w = true →
    ∃ (a : State) (th : Thread), exec (.undefinedEncoding t w false) s = .next (a.takeFault t RESERVED_FIELD (reservedInB w)) ∧
      OnlyThread s a t th ∧ th.pc = (s.thread t).pc ∧ th.cur = w) ∧
  (∀ (t : Tid) (c : Byte) (inB : Bool) (s : State),
    isSteward t = false → (s.thread t).outbox.words = [] → (s.thread t).work.isSome = true → (s.thread t).splits = [] →
    let x := s.threadCtx t
    (s.ctx x).fof = false → (s.cluster (tCluster t)).faults.length < 64 →
    let s' := s.takeFault t c inB
    (s'.ctx x).lastfault = c ∧ (s'.ctx x).faultcnt = satInc (s.ctx x).faultcnt ∧
    (∃ r : FaultRec, (s'.cluster (tCluster t)).faults = (s.cluster (tCluster t)).faults ++ [r] ∧ r.ctx = x ∧
      ∃ h : DWord, ∃ rest, r.words = h :: ((s.thread t).cur ++ (s.thread t).pc) :: rest ∧ bits h 0 8 = c) ∧
    (∀ d, s.taskOf t = some d → ((s'.cluster (tCluster t)).task d).state = FAULTED) ∧
    s'.mem = s.mem ∧ (∀ u, u ≠ t → s'.thread u = s.thread u))

/-! ## Sending, receiving, waiting and ending (04 R119-R133, 08 R245-R254) -/

/-- SEND, SENDX, SENDT and SETEV whose token passes the checks of the outbox, is for no ring, finds every earlier store
performed, nothing of its thread parked and the VC0 credits it needs, inject it: it takes the credits of the couch, counts in
INFLIGHT and leaves for its destination. A token for a ring waits for the staging credit of the reel, and a send that fails a
check of the outbox waits for the stores before it, and completes with its token on its way to the broke queue.
Completes: sendx, send, sendt, setev. -/
def Obligations.SendsInjectWaitOrBreak : Prop :=
  (∀ (t : Tid) (rd rs1 rs2 : GReg) (dsel : BitVec 7), ∀ p ∈ sendForms t rd rs1 rs2 dsel,
    ∀ (s : State) (tok : Token),
    s.runs t p.2.w = true →
    p.2.token s (s.seen t p.2.w) s.free = some tok →
    (p.2.ev = false → isReel (tagNode tok.tag) = false) → (s.seen t p.2.w).storesDone = true →
    (p.2.ev = false → s.hasParked t = false) → tok.flits ≤ (s.cluster (tCluster t)).couchOut.avail →
    ∃ s', exec p.1 s = .next s' ∧
      OnlyThread (s.injectFrom (tCluster t) tok p.2.ev false) s' t (s.seen t p.2.w).advance ∧
      (s'.cluster (tCluster t)).couchOut.avail = (s.cluster (tCluster t)).couchOut.avail - tok.flits ∧
      (s'.ctx (tagCtx tok.tag)).inflight = (s.ctx (tagCtx tok.tag)).inflight + 1 ∧ s'.mem = s.mem) ∧
  (∀ (t : Tid) (rs1 rs2 : GReg) (s : State),
    let w := wLT 0x30 0 rs1 rs2 0 1
    s.runs t w = true →
    let th := s.seen t w
    let tok : Token := { tag := th.readPair s.free rs1, value := th.readPair s.free rs2, tick := none }
    (s.outboxTag (s.threadCtx t) tok.tag = true → isReel (tagNode tok.tag) = true → th.storesDone = true →
      ∃ s', exec (.sendx t rs1 rs2) s = .next s' ∧ OnlyThread s s' t { th with wait := .reel tok }) ∧
    (s.outboxTag (s.threadCtx t) tok.tag = false →
      (th.storesDone = true → ∃ s', exec (.sendx t rs1 rs2) s = .next s' ∧
        OnlyThread (s.toBroke tok RESERVED_FIELD (s.threadCtx t) false) s' t th.advance) ∧
      (th.storesDone = false → ∃ s', exec (.sendx t rs1 rs2) s = .next s' ∧ OnlyThread s s' t { th with wait := .broke tok })))

/-- SENDC and CEND hand their word to the channel and wait for its credits; CPUT puts its word into the message of the outbox,
whose first word asks for the reservation of the channel. An end word for an outbox that holds 8 words faults with
CREDIT_VIOLATION (the model's choice, log 119).
Completes: sendc, cput, cend. -/
def Obligations.ChannelWordsWaitForTheirCredits : Prop :=
  ∀ (t : Tid) (rs1 rs2 : GReg) (dsel : BitVec 7) (s : State),
    let ch : BitVec 3 := bits dsel 0 3
    ch ≠ 7 →
    (let w := wLT 0x30 0 rs1 rs2 dsel 3
     let th := s.seen t w
     let a := th.read s.free rs1
     s.runs t w = true → a.getLsbD 31 = false → th.otherTarget (bits a 0 16) ch = false →
     ∃ s', exec (.sendc t rs1 rs2 dsel) s = .next s' ∧ OnlyThread s s' t
       { th with wait := .chan (bits a 0 16) ch (th.readPair s.free rs2) false }) ∧
    (let w := wLT 0x30 0 rs1 rs2 dsel 5
     let th := s.seen t w
     let a := th.read s.free rs1
     s.runs t w = true → th.otherTarget (bits a 0 16) ch = false →
     (th.outbox.words.length < 8 → ∃ s', exec (.cend t rs1 rs2 dsel) s = .next s' ∧ OnlyThread s s' t
       (if th.outbox.words.isEmpty then { th with wait := .chan (bits a 0 16) ch (th.readPair s.free rs2) true }
        else { th with outbox := { th.outbox with words := th.outbox.words ++ [th.readPair s.free rs2] }, wait := .cend })) ∧
     (8 ≤ th.outbox.words.length → ∃ b, exec (.cend t rs1 rs2 dsel) s = .next (b.takeFault t CREDIT_VIOLATION) ∧
       OnlyThread s b t th)) ∧
    (let w := wLT 0x30 0 rs1 rs2 dsel 4
     let th := s.seen t w
     let task : BitVec 16 := bits (th.read s.free rs1) 0 16
     s.runs t w = true → th.otherTarget task ch = false → th.outbox.words.length < 8 →
     ∀ c d, s.declared (s.threadCtx t) task ch = some (c, d) →
     ∃ s', exec (.cput t rs1 rs2 dsel) s = .next s' ∧
       OnlyThread (if th.outbox.words.isEmpty then s.requestChan c d ch (.thread t) else s) s' t
         ({ th with outbox := { th.outbox with words := th.outbox.words ++ [th.readPair s.free rs2], task := task,
                                               chan := ch } } : Thread).advance)

/-- CLREV clears the software flags its register names but those a SETEV meets, and a mask with bit 30 or 31 set faults with
RESERVED_FIELD. RECV and TRYRECV take the head visible word of a declared channel into the pair rd and its status into rt; on
an empty channel TRYRECV writes a status of 0, and RECV blocks its task. WAITEV.ANY and WAITEV.ALL, where the flags satisfy
the mask, return the flags of the mask and clear the software flags they return; otherwise they block their task.
Completes: clrev, recv, tryrecv, waitevAny, waitevAll. -/
def Obligations.EventsAndChannelsAreReceived : Prop :=
  (∀ (t : Tid) (rs1 : GReg) (meet : Word) (s : State),
    let w := wLT 0x30 0 rs1 0 0 7
    s.runs t w = true →
    let th := s.seen t w
    let m := th.read s.free rs1
    (m.toNat < 2 ^ 30 → ∃ s', exec (.clrev t rs1 meet) s = .next s' ∧
      OnlyThread (s.updTaskOf t fun d => { d with evflags := d.evflags &&& ~~~(m &&& 0x3FFFFF00 &&& ~~~meet) }) s' t
        th.advance) ∧
    (2 ^ 30 ≤ m.toNat → ∃ a, exec (.clrev t rs1 meet) s = .next (a.takeFault t RESERVED_FIELD) ∧ OnlyThread s a t th)) ∧
  (∀ (t : Tid) (rd rt : GReg) (dsel : BitVec 7) (s : State) (try_ : Bool) (d : BitVec 10),
    let w := wLT 0x31 rd rt 0 dsel (if try_ then 1 else 0)
    let i : Instr := if try_ then .tryrecv t rd rt dsel else .recv t rd rt dsel
    let ch : BitVec 3 := bits dsel 0 3
    s.runs t w = true → s.taskOf t = some d → ((s.cluster (tCluster t)).task d).chmask.getLsbD ch.toNat = true →
    let th := s.seen t w
    let q := (s.cluster (tCluster t)).chan d ch
    let due := some (s.issueClock t w + 2)
    (∀ h r, q.words = h :: r → 0 < q.visible →
      ∃ s', exec i s = .next s' ∧
        OnlyThread (s.updChan (tCluster t) d ch fun c => { c with words := r, visible := q.visible - 1 }) s' t
          (let a := if rt = rd then th else th.write s.free due rd (bits h.value 0 32)
           let b := if rt = rd + 1 then a else a.write s.free due (rd + 1) (bits h.value 32 32)
           (b.write s.free due rt (recvStatus ch h (q.visible - 1))).advance)) ∧
    (q.visible = 0 → try_ = true →
      ∃ s', exec i s = .next s' ∧ OnlyThread s s' t (th.write s.free due rt 0).advance) ∧
    (q.visible = 0 → try_ = false → s.cancelPending t = false →
      ∃ s', exec i s = .next s' ∧ (s'.thread t).wait = .recv ch ∧
        ((s'.cluster (tCluster t)).task d).state = BLOCKED ∧ ((s'.cluster (tCluster t)).task d).wait = 1 ∧
        s'.mem = s.mem ∧ ∀ u, u ≠ t → s'.thread u = s.thread u)) ∧
  (∀ (t : Tid) (rd rs1 : GReg) (s : State) (all : Bool) (d : BitVec 10),
    let w := wLT 0x31 rd rs1 0 0 (if all then 3 else 2)
    let i : Instr := if all then .waitevAll t rd rs1 else .waitevAny t rd rs1
    s.runs t w = true → s.taskOf t = some d →
    let th := s.seen t w
    let m := th.read s.free rs1
    let v := (s.cluster (tCluster t)).flags d &&& m
    m.toNat < 2 ^ 30 →
    let satisfied := m ≠ 0 ∧ (if all then v = m else v ≠ 0)
    (satisfied → ∃ s', exec i s = .next s' ∧
      OnlyThread (s.updTask (tCluster t) d fun k => { k with evflags := k.evflags &&& ~~~v }) s' t
        (th.write s.free (some (s.issueClock t w + 2)) rd v).advance) ∧
    (¬ satisfied → s.cancelPending t = false → ∃ s', exec i s = .next s' ∧ (s'.thread t).wait = .event all m ∧
      ((s'.cluster (tCluster t)).task d).state = BLOCKED ∧
      ((s'.cluster (tCluster t)).task d).wait = (if all then 3 else 2) ∧ s'.mem = s.mem ∧
      ∀ u, u ≠ t → s'.thread u = s.thread u))

/-- YIELD makes its task READY at the tail of its ready list, and SLEEP makes it DELAYED with its wake tick in the delay list;
the thread saves its registers for 40 fc. A sleep above the horizon faults with HORIZON. END with no message open, no access
outstanding and no error kept frees its thread; a task with no word in its channels becomes DORMANT.
Completes: sleep, yield, endWork. -/
def Obligations.ThreadsAreGivenUp : Prop :=
  (∀ (t : Tid) (rs1 : GReg) (dsel : BitVec 7) (s : State) (d : BitVec 10),
    s.taskOf t = some d → s.cancelPending t = false → (s.thread t).splits = [] →
    (let w := wLT 0x31 0 0 0 0 5
     s.runs t w = true →
     ∃ s', exec (.yield t) s = .next s' ∧ ((s'.cluster (tCluster t)).task d).state = READY ∧
       (∃ e, (s'.cluster (tCluster t)).ready = (s.cluster (tCluster t)).ready ++ [e] ∧ e.work = .task d) ∧
       (s'.thread t).after = .ready ∧ (s'.thread t).wait = .saving (s.issueClock t w + 40) ∧ s'.mem = s.mem ∧
       ∀ u, u ≠ t → s'.thread u = s.thread u) ∧
    (let w := wLT 0x31 0 rs1 0 dsel 4
     s.runs t w = true →
     let th := s.seen t w
     let abs := dsel.getLsbD 0
     let wake : DWord := if abs then th.readPair s.free rs1 else s.tb.tc + BitVec.setWidth 64 (th.read s.free rs1)
     let far := if abs then s.tb.tc.toNat + 16777216 < wake.toNat else (th.read s.free rs1).toNat > 16777216
     (far → ∃ a, exec (.sleep t rs1 dsel) s = .next (a.takeFault t HORIZON) ∧ OnlyThread s a t th) ∧
     (¬ far → (abs = true ∨ th.read s.free rs1 ≠ 0) →
       ∀ n, (s.cluster (tCluster t)).slotOf (s.threadCtx t) = some n →
       ((s.cluster (tCluster t)).dlRes.getD n {}).held.toNat < ((s.cluster (tCluster t)).dlRes.getD n {}).limit.toNat →
       ∃ s', exec (.sleep t rs1 dsel) s = .next s' ∧ ((s'.cluster (tCluster t)).task d).state = DELAYED ∧
         ((s'.cluster (tCluster t)).task d).wake = wake ∧
         (∃ e, (s'.cluster (tCluster t)).dl = insertDl e (s.cluster (tCluster t)).dl ∧ e.tick = wake ∧ e.item = .inr d) ∧
         (s'.thread t).after = .delayed ∧ (s'.thread t).wait = .saving (s.issueClock t w + 40) ∧ s'.mem = s.mem ∧
         ∀ u, u ≠ t → s'.thread u = s.thread u))) ∧
  (∀ (t : Tid) (s : State),
    let w := wLT 0x31 0 0 0 0 6
    s.runs t w = true → (s.thread t).outbox.words = [] → (s.thread t).splits = [] → (s.thread t).err = none →
    ∃ s', exec (.endWork t) s = .next s' ∧ (s'.thread t).work = none ∧ (s'.thread t).wait = .none ∧
      (∀ d, s.taskOf t = some d → (s.cluster (tCluster t)).liveFlags d = 0 →
        ((s'.cluster (tCluster t)).task d).state = DORMANT) ∧
      s'.mem = s.mem ∧ (∀ u, u ≠ t → s'.thread u = s.thread u))

/-! ## The rows of a cluster: sends, channels, intake (04 R120-R132, 05 R154, 06 R172, R173) -/

/-- A wait for injection that has lasted 256 fc parks its token, whose place is written by two requests, and its send completes; the
park reinjects its oldest token once its place is written, where no thread of the device waits for a place or a credit, and a
token that is read with an uncorrected error is poison; a park full for 10 ms fences the context with the most parked
tokens, where the firmware runs.
Completes: injectionWaitTimeout, parkReinject, parkFullTimeout. -/
def Obligations.TheSendParkTakesAndReturnsTokens : Prop :=
  (∀ (t : Tid) (s : State) (tok : Token) (since : Nat),
    t.wf = true → (s.thread t).wait = .inject tok false since → tok.neverParks = false →
    (s.cluster (tCluster t)).park.length < parkPlaces → (s.thread t).dbgReq = false → (s.thread t).moveReq = false →
    Answers (.injectionWaitTimeout t) s fun s' =>
      (∃ k : Parked, (s'.cluster (tCluster t)).park = (s.cluster (tCluster t)).park ++ [k] ∧ k.token = tok ∧ k.thread = t ∧
        k.writes.length = 2) ∧
      s'.thread t = ({ s.thread t with wait := .none, splitSeq := (s.thread t).splitSeq + 2 } : Thread).advance ∧
      (s'.ctx (tagCtx tok.tag)).inflight = (s.ctx (tagCtx tok.tag)).inflight + 1 ∧ s'.mem = s.mem) ∧
  (∀ (c : ClusterId) (ecc : Ecc) (s : State) (k : Parked) (r : List Parked),
    (s.cluster c).park = k :: r → k.writes = [] → k.token.flits ≤ (s.cluster c).couchOut.avail →
    (∀ e ∈ s.threads, (∀ a b n, e.2.wait ≠ .inject a b n) ∧ ∀ a, e.2.wait ≠ .park a) →
    Answers (.parkReinject c ecc) s fun s' =>
      (∃ a p, (s'.buf (clusterRouter c) (4 + (clusterEp c).toNat) 0) =
          s.buf (clusterRouter c) (4 + (clusterEp c).toNat) 0 ++ [p] ∧ packetToken p = { k.token with tag := a, value := (packetToken p).value } ∧
        (ecc = .uncorrected → tagKind a = 6) ∧ (ecc = .clean → s.uecc = [] → packetToken p = k.token)) ∧
      (s'.cluster c).park = r ∧ (s'.cluster c).couchOut.avail = (s.cluster c).couchOut.avail - k.token.flits ∧
      s'.ctxs = s.ctxs ∧ s'.threads = s.threads ∧ s'.mem = s.mem) ∧
  (∀ (c : ClusterId) (s : State) (since : Nat) (x : CtxId),
    (s.cluster c).parkFullSince = some since → parkPlaces ≤ (s.cluster c).park.length → mostParked (s.cluster c).park = some x →
    (s.fwRuns = false → exec (.parkFullTimeout c) s = .next s) ∧ (s.fwRuns = true → Answers (.parkFullTimeout c) s fun s' =>
      s' = (((s.passTo (since + scMs 10)).fence x UNDELIVERABLE).updCluster c fun cl =>
        { cl with parkFullSince := none }).pumpSends c))

/-- A channel word of SENDC leaves when its channel has a stage free and its cluster a VC0 credit; the reservation of a
channel goes to its first requester; and a word that arrives joins the channel and wakes its task: as poison where a read of its
stage meets an uncorrected error.
Completes: channelCreditRequest, channelReservationGrant, channelWordArrival. -/
def Obligations.ChannelWordsMove : Prop :=
  (∀ (t : Tid) (s : State) (task : BitVec 16) (ch : BitVec 3) (v : DWord) (last : Bool) (dc : ClusterId) (d : BitVec 10),
    t.wf = true → (s.thread t).wait = .chan task ch v last → s.declared (s.threadCtx t) task ch = some (dc, d) →
    s.epShut dc = false →
    ((s.cluster dc).chan d ch).openTo ((s.thread t).outbox.grant && !(s.thread t).outbox.words.isEmpty) = true →
    1 ≤ ((s.cluster dc).chan d ch).free →
    1 ≤ (s.cluster (tCluster t)).couchOut.avail → (s.thread t).dbgReq = false → (s.thread t).moveReq = false →
    Answers (.channelCreditRequest (.thread t)) s fun s' =>
      ((s'.cluster dc).chan d ch).coming = ((s.cluster dc).chan d ch).coming + 1 ∧
      (s'.cluster (tCluster t)).couchOut.avail = (s.cluster (tCluster t)).couchOut.avail - 1 ∧
      s'.thread t = ({ s.thread t with wait := .none } : Thread).advance ∧
      (s'.ctx (s.threadCtx t)).inflight = (s.ctx (s.threadCtx t)).inflight + 1) ∧
  (∀ (c : ClusterId) (d : BitVec 10) (ch : BitVec 3) (s : State) (who : Sender) (r : List Sender),
    ((s.cluster c).chan d ch).holder = none → ((s.cluster c).chan d ch).queue = who :: r →
    Answers (.channelReservationGrant c d ch) s fun s' =>
      ((s'.cluster c).chan d ch).holder = some who ∧ ((s'.cluster c).chan d ch).queue = r ∧
      ((s'.cluster c).chan d ch).words = ((s.cluster c).chan d ch).words ∧ s'.mem = s.mem) ∧
  (∀ (c : ClusterId) (ecc : Ecc) (s : State) (tok : Token) (src : Byte) (r : List (Token × Byte)) (d : BitVec 10),
    (s.cluster c).chanIn = (tok, src) :: r → (s.cluster c).forward (tagCtx tok.tag) = none → s.shut c (tagCtx tok.tag) = false →
    (s.cluster c).findTask (tagCtx tok.tag) (bits (tagNode tok.tag) 0 16) = some d →
    Answers (.channelWordArrival c ecc) s fun s' =>
      ∃ b : State, s' = b.wakeTask c d ∧ (b.cluster c).chanIn = r ∧
        (b.cluster c).chan d (bits (tagInst tok.tag) 0 3) =
          ((s.cluster c).chan d (bits (tagInst tok.tag) 0 3)).put
            (if ecc = .uncorrected then
               { value := poisonValue ECC_UNCORRECTED c, last := tagKind tok.tag == 3, poison := true }
             else { value := tok.value, last := tagKind tok.tag == 3, poison := false }) src ∧
        b.threads = s.threads ∧ b.mem = s.mem)

/-- A token read from the inbound couch of its cluster goes to the lookups, to its channel, or, where its node is not placed
there, to the broke queue with RESERVED_FIELD; its places of the couch are owed to the router. An event message with a
software flag reaches its task, which is neither DORMANT nor BLOCKED: the flag is set and the message leaves INFLIGHT.
Completes: clusterIngress, eventMessage. -/
def Obligations.ClustersTakeTokensAndEvents : Prop :=
  (∀ (c : ClusterId) (s : State) (p : Packet) (r : List Packet),
    s.inbox c 0 = p :: r → p.type ≠ 2 →
    let tok := packetToken p
    let x := tagCtx tok.tag
    (s.cluster c).forward x = none → s.shut c x = false →
    let owed := (s.cluster c).couchIn.owed
    (tagKind tok.tag ≠ 2 → tagKind tok.tag ≠ 3 → s.ingressNode c tok.tag = true → tok.tick = none →
      (∀ q, s.requiredOf x (tagNode tok.tag) ≠ some [q]) →
      Answers (.clusterIngress c) s fun s' =>
        (s'.cluster c).ingress = (s.cluster c).ingress ++ [tok] ∧ (s'.cluster c).couchIn.owed = owed ∧
        s'.ctxs = s.ctxs ∧ s'.threads = s.threads ∧ s'.mem = s.mem) ∧
    (tagKind tok.tag ≠ 2 → tagKind tok.tag ≠ 3 → s.ingressNode c tok.tag = false →
      Answers (.clusterIngress c) s fun s' =>
        s'.hub.brokeIn = s.hub.brokeIn ++ [{ token := tok, cause := RESERVED_FIELD, ctx := x, counted := true, poison := tagKind tok.tag == 6 }] ∧
        (s'.cluster c).couchIn.owed = owed + tok.flits ∧ s'.ctxs = s.ctxs ∧ s'.threads = s.threads ∧ s'.mem = s.mem) ∧
    (tagKind tok.tag = 2 ∨ tagKind tok.tag = 3 → ∀ d, (s.cluster c).findTask x (bits (tagNode tok.tag) 0 16) = some d →
      ((s.cluster c).task d).chmask.getLsbD (bits (tagInst tok.tag) 0 3).toNat = true →
      Answers (.clusterIngress c) s fun s' =>
        (s'.cluster c).chanIn = (s.cluster c).chanIn ++ [(tok, p.sr ++ p.se)] ∧
        (s'.cluster c).couchIn.owed = owed + 1 ∧ s'.ctxs = s.ctxs ∧ s'.threads = s.threads ∧ s'.mem = s.mem)) ∧
  (∀ (c : ClusterId) (meet : Bool) (s : State) (p : Packet) (r : List Packet) (d : BitVec 10),
    s.inbox c 0 = p :: r → p.type = 2 → (s.cluster c).forward p.ctx = none → s.shut c p.ctx = false →
    (s.cluster c).findTask p.ctx (bits p.head 13 16) = some d →
    let f : BitVec 5 := bits p.head 29 5
    8 ≤ f.toNat → f.toNat < 30 → ((s.cluster c).task d).state ≠ DORMANT → ((s.cluster c).task d).state ≠ BLOCKED →
    Answers (.eventMessage c meet) s fun s' =>
      ((s'.cluster c).task d).evflags = ((s.cluster c).task d).evflags ||| (1 : Word) <<< f.toNat ∧
      ((s'.cluster c).task d).state = ((s.cluster c).task d).state ∧
      (s'.ctx p.ctx).inflight = BitVec.ofNat 32 ((s.ctx p.ctx).inflight.toNat - 1) ∧
      s'.threads = s.threads ∧ s'.mem = s.mem)

/-- A credit that a consumer owes comes back to its producer, which holds fewer than the places of the consumer: one more free place,
one less owed.
Completes: creditReturn. -/
def Obligations.CreditsComeBack : Prop :=
  ∀ (s : State) (c : ClusterId),
    (0 < s.hub.linkA.owed → s.hub.linkA.avail < 16 → Answers (.creditReturn (.headbox false)) s fun s' =>
      s'.hub.linkA = ⟨s.hub.linkA.avail + 1, s.hub.linkA.owed - 1⟩ ∧ { s' with hub := s.hub } = s) ∧
    (0 < s.hub.linkB.owed → s.hub.linkB.avail < 16 → Answers (.creditReturn (.headbox true)) s fun s' =>
      s'.hub.linkB = ⟨s.hub.linkB.avail + 1, s.hub.linkB.owed - 1⟩ ∧ { s' with hub := s.hub } = s) ∧
    (0 < (s.cluster c).couchIn.owed → (s.cluster c).couchIn.avail < 16 → Answers (.creditReturn (.couchIn c)) s fun s' =>
      (s'.cluster c).couchIn = ⟨(s.cluster c).couchIn.avail + 1, (s.cluster c).couchIn.owed - 1⟩ ∧
      { s' with clusters := s.clusters } = s) ∧
    (0 < s.eth.credits.owed → s.eth.credits.avail < 16 → Answers (.creditReturn .processIo) s fun s' =>
      s'.eth.credits = ⟨s.eth.credits.avail + 1, s.eth.credits.owed - 1⟩ ∧ { s' with eth := s.eth } = s) ∧
    (Answers (.creditReturn (.dispatch c)) s fun s' =>
      s' = (s.updCluster c fun cl => { cl with readyCr := cl.readyCr.back 255 }).outputRun c) ∧
    (Answers (.creditReturn (.couchOut c)) s fun s' =>
      s' = (s.updCluster c fun cl => { cl with couchOut := cl.couchOut.back 16 }).pumpSends c)

/-- The first releasable entry of the delay list, when it is the only one: a sleep entry whose task is DELAYED makes it READY,
and the entry, its reservation and its count in TIMERS are gone.
Completes: delayListRelease. -/
def Obligations.DelayListReleasesASleeper : Prop :=
  ∀ (c : ClusterId) (s : State) (i : Nat) (e : DlEntry) (d : BitVec 10) (n : Nat),
    (∀ q ∈ (s.cluster c).dl, s.dlDue q = true → q.elig ≤ s.fc c) →
    s.dlNext c = some (i, e) → e.item = .inr d → ((s.cluster c).task d).state = DELAYED →
    (s.releaseEntry c i e).dlNext c = none → (s.cluster c).slotOf e.ctx = some n →
    Answers (.delayListRelease c .clean) s fun s' =>
      (s'.cluster c).dl = dropAt (s.cluster c).dl i ∧ ((s'.cluster c).task d).state = READY ∧
      ((s'.cluster c).dlRes.getD n {}).held = ((s.cluster c).dlRes.getD n {}).held - 1 ∧
      (s'.ctx e.ctx).timers = BitVec.ofNat 32 ((s.ctx e.ctx).timers.toNat - 1) ∧ s'.threads = s.threads ∧ s'.mem = s.mem

/-! ## Matching (03 R72-R96) -/

/-- The lookup of a token at the head of the ingress, with nothing pending: where every required port has an operand the
activation forms from the operands of lowest rank in port order, those of the set and those of the spill write buffer (log
115); where one is missing, and the set has a free way and no
displaced operand, the operand is stored under the reservation of its context. The result of a spill search goes to the spill
return; where it is alone there and that source is next, it completes the operands of its token and forms the activation at once.
A ledger request gives a place back, or writes the waiting operand as an allowance of its context; a tombstone that no later
operand of its run needs becomes EMPTY, and no slot outside its bucket changes. A key error in the matching store invalidates its
way, and one in the delay list its entry; each is counted, and the running firmware then compares the counts of the resident
contexts.
Completes: matchingLookup, spillSearchReturn, tombstoneReclaim, ledgerReservation, msKeyErrorRecord, dlKeyErrorRecord. -/
def Obligations.OperandsMeetInTheStore : Prop :=
  (∀ (c : ClusterId) (way : BitVec 3) (s : State) (tok : Token) (r : List Token) (n : Nat) (req : List (BitVec 2)),
    let cl := s.cluster c
    let x := tagCtx tok.tag
    let m := cl.set (setOf tok.key)
    cl.output = none → cl.pendBuf = [] → cl.searching = [] → cl.writeBuf < 16 → cl.refused = [] → cl.rotation = 0 → cl.ingress = tok :: r →
    m.bad = [] → cl.forward x = none → s.shut c x = false → cl.slotOf x = some n → s.requiredOf x (tagNode tok.tag) = some req →
    (∀ es, choosePorts req (m.matching tok.key ++ cl.waiting tok.key n ++ [tok.entry n s.free]) = some es → es.contains (tok.entry n s.free) = true →
      0 < cl.readyCr.avail → Answers (.matchingLookup c .clean way) s fun s' =>
        (∃ (item : Item) (a : Activation), (s'.cluster c).ready = cl.ready ++ [item] ∧ item.work = .activation a ∧
          a.ctx = x ∧ a.node = tagNode tok.tag ∧ a.inst = tagInst tok.tag ∧
          a.ops = es.map (fun e => (e.port, e.value)) ∧ a.poison = es.any (·.poison)) ∧
        (s'.cluster c).ingress = r ∧ (s'.cluster c).msCnt.matched = satInc cl.msCnt.matched ∧
        (s'.cluster c).msCnt.lookup = satInc cl.msCnt.lookup ∧ s'.mem = s.mem) ∧
    (choosePorts req (m.matching tok.key ++ cl.waiting tok.key n ++ [tok.entry n s.free]) = none → m.spc = 0 → m.ways.length < 8 →
      (cl.msRes.getD n {}).held.toNat < (cl.msRes.getD n {}).limit.toNat →
      Answers (.matchingLookup c .clean way) s fun s' =>
        (s'.cluster c).set (setOf tok.key) = m.put (tok.entry n s.free) ∧ (s'.cluster c).ingress = r ∧
        ((s'.cluster c).msRes.getD n {}).held = (cl.msRes.getD n {}).held + 1 ∧
        (s'.ctx x).inflight = BitVec.ofNat 32 ((s.ctx x).inflight.toNat - 1) ∧ s'.mem = s.mem)) ∧
  ((∀ (c : ClusterId) (i : BitVec 2) (j : BitVec 6) (s : State) (p : Pending),
    (s.cluster c).searching[i.toNat]? = some p → s.uecc = [] → (s.cluster c).spillRet ≠ [] →
    (s.cluster c).spillRet.contains (.search p.set) = false →
    Answers (.spillSearchReturn c i .clean j) s fun s' =>
      s' = s.updCluster c fun cl => { cl with spillRet := cl.spillRet ++ [.search p.set] }) ∧
  (∀ (c : ClusterId) (j : BitVec 6) (s : State) (p : Pending) (n : Nat) (req : List (BitVec 2)) (es : List MEntry),
    let cl := s.cluster c
    let x := p.arr.ctx
    let found := cl.spillFind p.arr.key
    let ws := (cl.set (setOf p.arr.key)).matching p.arr.key
    cl.searching = [p] → p.set.toNat = setOf p.arr.key → s.uecc = [] → cl.spillRet = [] → cl.pendBuf = [] → cl.refused = [] →
    cl.writeBuf < 16 → cl.rotation = 2 → cl.output = none → 0 < cl.readyCr.avail → (cl.set p.set.toNat).bad = [] →
    cl.forward x = none → s.shut c x = false → cl.slotOf x = some n → s.requiredOf x p.arr.node = some req →
    choosePorts req (ws ++ cl.waiting p.arr.key n ++ found.map (·.2.1) ++ [p.arr.entry n s.free]) = some es → es.contains (p.arr.entry n s.free) = true →
    Answers (.spillSearchReturn c 0 .clean j) s fun s' =>
      (∃ (item : Item) (a : Activation), (s'.cluster c).ready = cl.ready ++ [item] ∧ item.work = .activation a ∧
        a.ctx = x ∧ a.node = p.arr.node ∧ a.inst = p.arr.inst ∧
        a.ops = es.map (fun e => (e.port, e.value)) ∧ a.poison = es.any (·.poison)) ∧
      (s'.cluster c).searching = [] ∧ (s'.cluster c).spillRet = [] ∧
      (s'.cluster c).msCnt.matched = satInc cl.msCnt.matched ∧ s'.mem = s.mem) ∧
  (∀ (c : ClusterId) (s : State) (x : CtxId) (r : List LedgerReq),
    (s.cluster c).ledger = .give x :: r →
    Answers (.ledgerReservation c) s fun s' =>
      (s'.cluster c).ledger = r ∧
      (s'.hub.spledger.getD x.toNat 0).toNat = (s.hub.spledger.getD x.toNat 0).toNat - 1 ∧ s'.mem = s.mem) ∧
  (∀ (c : ClusterId) (s : State) (tok : Token) (rank : Nat) (r : List LedgerReq) (n i : Nat),
    let cl := s.cluster c
    let x := tagCtx tok.tag
    cl.ledger = .take tok rank :: r → cl.refused = [] → cl.forward x = none → s.shut c x = false → cl.slotOf x = some n →
    (s.hub.spledger.getD x.toNat 0).toNat < (s.ctx x).spillres.toNat →
    (least 64 fun j => (cl.spillAt (probeSlot (homeBucket tok.key) j)).free) = some i →
    (∀ j, j < 64 → s.bad (slotAddr c (probeSlot (homeBucket tok.key) j)) = false ∧
      s.bad (slotAddr c (probeSlot (homeBucket tok.key) j) + 8) = false) →
    Answers (.ledgerReservation c) s fun s' =>
      (s'.cluster c).spillAt (probeSlot (homeBucket tok.key) i) = .full (tok.entry n rank) true ∧
      (s'.cluster c).ledger = r ∧ s'.hub.spledger.getD x.toNat 0 = s.hub.spledger.getD x.toNat 0 + 1 ∧
      (s'.ctx x).inflight = BitVec.ofNat 32 ((s.ctx x).inflight.toNat - 1)) ∧
  (∀ (c : ClusterId) (b : BitVec 18) (s : State),
    Answers (.tombstoneReclaim c b) s fun s' =>
      (∀ k, (∀ j, j < 4 → k ≠ probeSlot b.toNat j) → (s'.cluster c).spillAt k = (s.cluster c).spillAt k) ∧
      ((s.cluster c).spillAt (probeSlot b.toNat 3) = .tomb → (s.cluster c).tombNeeded b.toNat 3 = false →
        (s'.cluster c).spillAt (probeSlot b.toNat 3) = .empty) ∧
      (∀ j, j < 4 → (s.cluster c).spillAt (probeSlot b.toNat j) ≠ .tomb →
        (s'.cluster c).spillAt (probeSlot b.toNat j) = (s.cluster c).spillAt (probeSlot b.toNat j)))) ∧
  ((∀ (c : ClusterId) (set : BitVec 11) (way : BitVec 3) (s : State),
    ∃ b : State, exec (.msKeyErrorRecord c set way) s = .next (if s.fwRuns then b.keyCheck c else b) ∧
      ((b.cluster c).set set.toNat).ways = ((s.cluster c).set set.toNat).ways.filter (fun w => w.1 != way) ∧
      (b.cluster c).msCnt.ueKey = satInc (s.cluster c).msCnt.ueKey ∧ b.ctxs = s.ctxs ∧ b.mem = s.mem) ∧
  (∀ (c : ClusterId) (i : BitVec 12) (s : State),
    i.toNat < (s.cluster c).dl.length →
    ∃ b : State, exec (.dlKeyErrorRecord c i) s = .next (if s.fwRuns then b.keyCheck c else b) ∧
      (b.cluster c).dl = dropAt (s.cluster c).dl i.toNat ∧
      (b.cluster c).dlCnt.ue = satInc (s.cluster c).dlCnt.ue ∧ b.ctxs = s.ctxs ∧ b.mem = s.mem))

/-! ## The dispatcher (04 R105-R127) -/

/-- The dispatcher places at most two items: the one that goes first enters a slot at once where it prefers no PE and one is
offered; an item whose hold has lasted 64 fc enters the lowest-numbered slot that is offered; and a preload makes its slot startable with
the first line of its code in the instruction cache. A free thread takes the startable activation of its PE's slot: it holds
the work, g1 holds the instance, and its operands stand in port order in g2 to g9; a poison operand faults it with
POISON_CONSUMED. The only task of a PE that may be evicted, with startable work in the slot, gives its thread up, its
registers to be saved; a save that ends frees the thread, and the descriptor holds the registers.
Completes: dispatchPlace, affinityHoldTimeout, preloadComplete, slotTake, eviction, registerSaveComplete. -/
def Obligations.TheDispatcherStartsAndEvicts : Prop :=
  ((∀ (c : ClusterId) (s : State) (i : Item) (p : BitVec 3),
    let k := s.dispNext c
    (s.cluster c).holds = [] → s.pick c = some i → (s.cluster c).prefer i.work = none → (s.cluster c).emptySlot k = some p →
    Answers (.dispatchPlace c) s fun s' => ∃ b : State, s' = b.placeOne c k ∧
      ((b.cluster c).pe p).slot = some { item := i, due := k + (s.cluster c).preload i.work, startable := false } ∧
      (b.cluster c).ready = (s.cluster c).ready.filter (· != i) ∧ b.threads = s.threads ∧ b.mem = s.mem) ∧
  (∀ (c : ClusterId) (i : BitVec 2) (s : State) (h : Hold) (p : BitVec 3),
    let b := s.passFc (clusterSection c) h.until_
    (s.cluster c).holds[i.toNat]? = some h → b.passOver c h.item.work = false →
    (b.cluster c).emptySlot (max (b.dispNext c) h.until_) = some p →
    Answers (.affinityHoldTimeout c i) s fun s' =>
      (∃ due, ((s'.cluster c).pe p).slot = some { item := h.item, due := due, startable := false }) ∧
      (s'.cluster c).holds = dropAt (s.cluster c).holds i.toNat ∧ s'.threads = s.threads ∧ s'.mem = s.mem) ∧
  (∀ (c : ClusterId) (p : BitVec 3) (s : State) (k : Slot),
    ((s.cluster c).pe p).slot = some k → (∀ d, k.item.work = .task d → ((s.cluster c).task d).ue = false) →
    Answers (.preloadComplete c p) s fun s' =>
      ((s'.cluster c).pe p).slot = some { k with startable := true } ∧
      ((s'.cluster c).pe p).icache.head? = some (((s.cluster c).startPc
        (match k.item.work with | .activation a => s.image a.image | .task _ => none) k.item.work).toNat / 64) ∧
      s'.threads = s.threads ∧ s'.mem = s.mem)) ∧
  (∀ (c : ClusterId) (p : BitVec 3) (s : State) (k : Slot) (t : Tid) (a : Activation),
    ((s.cluster c).pe p).slot = some k → k.startable = true → k.item.work = .activation a → s.freeThreadOf c p = some t →
    (s.ctx a.ctx).state ≠ FENCED → s.stalled c a.ctx < 8 →
    ∃ b : State, exec (.slotTake c p) s = .next (if a.poison then b.takeFault t POISON_CONSUMED else b) ∧
      (b.thread t).work = some (.activation a) ∧ (b.thread t).wait = .none ∧ (b.thread t).lands = [] ∧
      (b.thread t).reg 1 = BitVec.setWidth 32 a.inst ∧
      (∀ (q : BitVec 2) (v : DWord), a.ops = [(q, v)] →
        (b.thread t).reg (2 + 2 * BitVec.setWidth 5 q) = bits v 0 32 ∧
        (b.thread t).reg (3 + 2 * BitVec.setWidth 5 q) = bits v 32 32) ∧
      ((b.cluster c).pe p).slot = none ∧
      (b.ctx a.ctx).inflight = BitVec.ofNat 32 ((s.ctx a.ctx).inflight.toNat - 1) ∧ b.mem = s.mem) ∧
  ((∀ (c : ClusterId) (p k : BitVec 3) (s : State) (q : Slot) (b : Nat),
    ((s.cluster c).pe p).slot = some q → q.startable = true →
    (∀ j : BitVec 3, (s.thread (mkTid c p j)).evicting = false) → s.evictable (mkTid c p k) = some b →
    (∀ j : BitVec 3, j ≠ k → s.evictable (mkTid c p j) = none) → (s.thread (mkTid c p k)).splits = [] →
    Answers (.eviction c p) s fun s' =>
      (s'.thread (mkTid c p k)).after = .evicted ∧ (∃ due, (s'.thread (mkTid c p k)).wait = .saving due) ∧
      (s'.thread (mkTid c p k)).lands = [] ∧ (∀ u, u ≠ mkTid c p k → s'.thread u = s.thread u) ∧ s'.mem = s.mem) ∧
  (∀ (t : Tid) (s : State) (due : Nat) (d : BitVec 10),
    t.wf = true → isSteward t = false → (s.thread t).wait = .saving due → s.taskOf t = some d →
    (s.thread t).after ≠ .ended → (s.thread t).lands = [] →
    Answers (.registerSaveComplete t) s fun s' =>
      (s'.thread t).work = none ∧ ((s'.cluster (tCluster t)).task d).saved = true ∧
      ((s'.cluster (tCluster t)).task d).resident = false ∧
      ((s'.cluster (tCluster t)).task d).regs = (s.thread t).regs ∧
      ((s'.cluster (tCluster t)).task d).pc = (s.thread t).pc ∧ (∀ u, u ≠ t → s'.thread u = s.thread u) ∧ s'.mem = s.mem))

/-- An instruction-cache line that comes without an error lets its thread go on; an uncorrected code word faults it; a
parity error in the line of a ready thread removes the line, and the thread waits for it again; and the running firmware rewrites a code word that had an error.
Completes: instructionCacheFill, codeWordRewrite. -/
def Obligations.CodeIsFetchedAndRepaired : Prop :=
  (∀ (t : Tid) (ecc : Ecc) (s : State),
    t.wf = true → (s.thread t).wait = .icache →
    let w := (s.thread t).pc.toNat / 4
    (ecc ≠ .uncorrected → (∀ x, (s.cluster (tCluster t)).code.find w = some x → x.ue = false) →
      Answers (.instructionCacheFill t ecc) s fun s' =>
        s'.thread t = { s.thread t with wait := .none } ∧
        ((s'.cluster (tCluster t)).pe (tPe t)).icache.head? = some ((s.thread t).pc.toNat / 64) ∧
        (∀ u, u ≠ t → s'.thread u = s.thread u) ∧ s'.ctxs = s.ctxs ∧ s'.mem = s.mem) ∧
    (ecc = .uncorrected → ∃ a : State, exec (.instructionCacheFill t ecc) s = .next (a.takeFault t ECC_UNCORRECTED) ∧
      a.thread t = { s.thread t with wait := .none } ∧ a.ctxs = s.ctxs)) ∧
  (∀ (t : Tid) (ecc : Ecc) (s : State), t.wf = true → s.lineParity t = true →
    Answers (.instructionCacheFill t ecc true) s fun s' =>
      s'.thread t = { s.thread t with wait := .icache } ∧
      ((s'.cluster (tCluster t)).pe (tPe t)).icache =
        ((s.cluster (tCluster t)).pe (tPe t)).icache.filter (· != (s.thread t).pc.toNat / 64) ∧
      (∀ u, u ≠ t → s'.thread u = s.thread u) ∧ s'.ctxs = s.ctxs ∧ s'.mem = s.mem) ∧
  (∀ (c : ClusterId) (off : BitVec 18) (s : State) (x : CodeWord),
    s.fwRuns = true → (s.cluster c).code.find (off.toNat / 4) = some x →
    Answers (.codeWordRewrite c off) s fun s' =>
      (s'.cluster c).code.find (off.toNat / 4) = some { x with ue := false } ∧
      (∀ w, w ≠ off.toNat / 4 → (s'.cluster c).code.find w = (s.cluster c).code.find w) ∧
      { s' with clusters := s.clusters } = s)

/-! ## The spine (11) -/

/-- A packet of one flit at the head of an input whose route leads to a neighbour crosses when the arbiters of its router serve it: it
stands last at the neighbour's input, stamped with the epoch where it enters the spine, and has left its own. A packet whose route
ends here comes to its endpoint, one whose endpoint is not open is turned back, one that has no route is turned back and counted,
and one with an error that its router cannot correct is lost.
Completes: spinePacketHop. -/
def Obligations.PacketsHopBeDeliveredOrTurnBack : Prop :=
  ∀ (r port : BitVec 4) (vc : BitVec 2) (cap : Capture) (s : State) (p0 : Packet) (rest : List Packet),
    let key := bufKey r port.toNat vc
    port.toNat ≤ 12 → (4 ≤ port.toNat ∨ meshPort r (port.setWidth 2) = true) →
    s.buf r port.toNat vc = p0 :: rest → p0.vc = vc → p0.flits.length = 1 → p0.type.toNat < 14 →
    s.spine.sent.getD key 0 = 0 → s.spine.short.getD key 0 = 0 → s.spine.route.find key = none →
    s.clockRuns .spine = true → s.spine.waits.getD key [] = [] → (port.toNat < 12 ∨ vc ≠ 1) →
    let p := if 4 ≤ port.toNat then { p0 with epoch := s.spine.cur } else p0
    let hop := (s.router r).route r p
    (∀ d q, hop = .dir d → neighbour r.toNat d = some q → ((s.router r).link d).dead = false →
      s.goes r port.toNat vc (.out d) = true →
      Answers (.spinePacketHop r port vc .none cap) s fun s' =>
        s'.buf (BitVec.ofNat 4 q) (arrivesAt d) vc = s.buf (BitVec.ofNat 4 q) (arrivesAt d) vc ++ [p] ∧
        s'.buf r port.toNat vc = rest ∧ s'.mem = s.mem ∧ s'.threads = s.threads) ∧
    (hop = .local_ → s.closed r p = none → s.goes r port.toNat vc (.out (4 + p.de.toNat)) = true →
      Answers (.spinePacketHop r port vc .none cap) s fun s' => ∃ b : State,
        s' = (b.arrive r p).settleSpine r ∧ b.buf r port.toNat vc = rest ∧ b.spine.inq = s.spine.inq ∧ b.mem = s.mem ∧
        b.threads = s.threads) ∧
    (∀ off, hop = .local_ → s.closed r p = some off →
      Answers (.spinePacketHop r port vc .none cap) s fun s' => ∃ b : State,
        s' = (b.turnBack r p off).settleSpine r ∧ b.buf r port.toNat vc = rest ∧ b.spine.inq = s.spine.inq ∧ b.mem = s.mem ∧
        b.threads = s.threads) ∧
    (hop = .unroutable →
      Answers (.spinePacketHop r port vc .none cap) s fun s' => ∃ b : State,
        s' = (b.turnBack r p true).settleSpine r ∧ b.buf r port.toNat vc = rest ∧
        (b.router r).unroute = satInc (s.router r).unroute) ∧
    (port.toNat < 12 → vc ≠ 1 → Answers (.spinePacketHop r port vc .stored cap) s fun s' =>
      s'.buf r port.toNat vc = rest ∧ (s'.router r).ue = satInc (s.router r).ue ∧ s'.mem = s.mem)

/-- A negative acknowledgement counts a replay and, at the fourth that fails in a row, fails the link; a failed link whose
retry succeeds carries packets again; a link failed for 1 ms is routed around where the firmware runs and tables without it
exist; FLIP inverts CUR where no worm of the inactive epoch is left, and waits until then where one is; new tables are written to
the inactive banks and then flipped to; and endpoint states are written as their fields say, a write behind one
that waits for its cluster to drain waiting too. The trace port, once enabled outside a cold reset, sends the oldest record of the buffer, and after every 256 records, or where
the buffer is empty, a sync record whose byte 12 is 0xFF.
Completes: negativeAcknowledgement, linkRetry, linkFailTimeout, epochFlip, endpointStateWrite, tracePortRecord, tracePortEnable. -/
def Obligations.LinksEpochsAndEndpointsChange : Prop :=
  ((∀ (r : BitVec 4) (dir : BitVec 2) (s : State),
    meshPort r dir = true → s.clockRuns .spine = true →
    let l := (s.router r).link dir.toNat
    (l.failed = false → Answers (.negativeAcknowledgement r dir) s fun s' =>
      (s'.router r).replay = satInc (s.router r).replay ∧
      (((s'.router r).link dir.toNat).failed = true ↔ 3 ≤ l.fails) ∧
      ((s'.router r).link dir.toNat).fails = min 4 (l.fails + 1) ∧ s'.spine.bufs = s.spine.bufs ∧ s'.mem = s.mem) ∧
    (l.failed = true → Answers (.linkRetry r dir true) s fun s' =>
      ((s'.router r).link dir.toNat).failed = false ∧ ((s'.router r).link dir.toNat).fails = 0 ∧
      (s'.router r).replay = satInc (s.router r).replay ∧ s'.spine.bufs = s.spine.bufs ∧ s'.mem = s.mem) ∧
    (l.failed = true →
      let b := ((s.passTo (l.failedSince + scMs 1)).dropWaiting r dir.toNat).updLink r dir.toNat fun k => { k with dead := true }
      let a := (s.passTo (l.failedSince + scMs 1)).dropWaiting r dir.toNat
      a.fwRuns = true → tablesOk (fun q => avoidBank b.deadLink q) = true →
      Answers (.linkFailTimeout r dir) s fun s' =>
        s' = b.newTables (fun q => avoidBank b.deadLink q) [.rerouted r dir])) ∧
  (∀ s : State,
    (s.stale = false → s.spine.regWait = [] → Answers .epochFlip s fun s' =>
      s'.spine = { s.spine with cur := !s.spine.cur } ∧ { s' with spine := s.spine } = s) ∧
    (s.stale = true → Answers .epochFlip s fun s' =>
      s'.spine = { s.spine with regWait := s.spine.regWait ++ [.flip] } ∧ { s' with spine := s.spine } = s) ∧
    (s.stale = false → s.spine.regWait = [] → ∀ (tab : Nat → DWord) (r : BitVec 4),
      (s.newTables tab).spine.cur = !s.spine.cur ∧ ((s.newTables tab).router r).bankOf (!s.spine.cur) = tab r.toNat ∧
      ((s.newTables tab).router r).bankOf s.spine.cur = (s.router r).bankOf s.spine.cur) ∧
    (s.stale = true ∨ s.spine.regWait ≠ [] → ∀ (tab : Nat → DWord) (l : List RtWrite),
      (s.newTables tab l).spine.regWait = s.spine.regWait ++
        (List.range 16).map (fun r => .bank (BitVec.ofNat 4 r) s.spine.nextBank (tab r)) ++ .flip :: l)) ∧
  (∀ (r : BitVec 4) (v : Word) (s : State),
    (s.router r).epWait = [] →
    (∀ e, e < 4 → epField v e = 2 → s.clusterDrained (r ++ BitVec.ofNat 2 e) = true) →
    Answers (.endpointStateWrite r v) s fun s' =>
      (∀ e, e < 4 → (s'.router r).ep.getD e 2 = if epField v e = 3 then (s.router r).ep.getD e 2 else epField v e) ∧
      (s'.router r).busy = false ∧ (∀ q, q ≠ r → s'.router q = s.router q) ∧ s'.spine.bufs = s.spine.bufs) ∧
  (∀ (r : BitVec 4) (v : Word) (s : State), (s.router r).epWait ≠ [] →
    (∃ e, e < 4 ∧ epField ((s.router r).epWait.headD 0) e = 2 ∧ s.clusterDrained (r ++ BitVec.ofNat 2 e) = false) →
    Answers (.endpointStateWrite r v) s fun s' =>
      (s'.router r).epWait = (s.router r).epWait ++ [v] ∧ (s'.router r).busy = true ∧ (s'.router r).ep = (s.router r).ep)) ∧
  ((∀ s : State, s.clk.porstLow = false → Answers .tracePortEnable s fun s' =>
    s'.mon.traceOn = true ∧ s'.mon.traceSince = 0 ∧ { s' with mon := s.mon } = s) ∧
  (∀ (s : State) (v : BitVec 256) (rest : List (BitVec 256)),
    s.clockRuns .trace = true → s.mon.traceSince < 256 → s.spine.trace = v :: rest → Answers .tracePortRecord s fun s' =>
      s'.out = .trace v :: s.out ∧ s'.spine.trace = rest ∧ s'.mon.traceSince = s.mon.traceSince + 1 ∧ s'.mem = s.mem) ∧
  (∀ s : State, s.clockRuns .trace = true → (256 ≤ s.mon.traceSince ∨ s.spine.trace = []) → Answers .tracePortRecord s fun s' =>
    ∃ v : BitVec 256, s'.out = .trace v :: s.out ∧ fld v 12 1 = (0xFF : Byte) ∧ s'.spine = s.spine ∧ s'.mon.traceSince = 0))

/-! ## Memory (10) -/

/-- A pseudo-channel or a bank's port B that answers a request takes it from its queue and returns what the request asks: for
a read the bytes at its address, with no byte of memory changed.
Completes: bankAccess, hbmAccess. -/
def Obligations.MemoryHomesAnswerRequests : Prop :=
  (∀ (p : BitVec 4) (s : State) (q : Packet) (rest : List Packet),
    let r := (pcHome p).1
    let e := (pcHome p).2
    let a := (reqPa q.head).toNat
    let n := reqBytes q.head
    s.clockRuns .memc = true → s.inq r e 1 = q :: rest → reqMaster q.head = 1 →
    (q.type = 3 → s.badRange a n = false → Answers (.hbmAccess p .clean) s fun s' =>
      s' = (s.setInq r e 1 rest).respond r e q 0 (BitVec.ofNat 64 (if n ≤ 8 then s.load a n else 0)) (s.readFlits a n) ∧
      s'.mem = s.mem) ∧
    (q.type = 4 → s.badPart a n = false → Answers (.hbmAccess p .clean) s fun s' =>
      s'.mem = (s.writeRequest q).mem ∧ s'.threads = s.threads ∧
      (n ≤ 16 → ∀ b, b < a ∨ a + n ≤ b → s.memWf = true → Memory.get s'.mem b = Memory.get s.mem b)) ∧
    (q.type = 5 → s.badRange a 8 = false → Answers (.hbmAccess p .clean) s fun s' =>
      let old : DWord := BitVec.ofNat 64 (s.load a 8)
      s'.mem = (if old = bits q.flit1 0 64 then s.store a 8 (bits q.flit1 64 64 : DWord).toNat else s).mem ∧
      s'.threads = s.threads)) ∧
  (∀ (k : BitVec 8) (s : State) (q : Packet) (rest : List Packet),
    let c := bankCluster k
    let r := clusterRouter c
    let e := clusterEp c
    let a := (reqPa q.head).toNat
    let n := reqBytes q.head
    s.portBNext k = some (q, rest) → (s.bank k).fwdValid = false → (s.bank k).allows q.head = true → reqMaster q.head ≠ 0 → reqMaster q.head ≠ 2 →
    q.type = 3 → s.badRange a n = false → Answers (.bankAccess k none true .clean) s fun s' =>
      s' = ((s.setInq r e 1 rest).updBank k fun b => { b with takenB := some (s.fc c) }).respond r e q 0
        (BitVec.ofNat 64 (if n ≤ 8 then s.load a n else 0)) (s.readFlits a n) ∧
      s'.mem = s.mem)

/-- A CAS at the lock unit by a master with the rights of the group, with the value it expects: a word that is not held and is
to be held is held by it, and a held word it holds is freed, and the old word is returned; the oldest word of a reset master
is released and marked ABANDONED. A word that its check finds lost is rewritten as HELD 0, ABANDONED 1, PAYLOAD 0, and so it is
read.
Completes: lockUnitAccess, lockRelease. -/
def Obligations.LocksAreTakenAndReleased : Prop :=
  (∀ (s : State) (ecc : Ecc) (p : Packet) (rest : List Packet),
    let n := lockOf (reqPa p.head).toNat
    let m := (s.lockMaster n p).1
    let old := s.lockWord n
    let new : DWord := bits p.flit1 64 64
    s.inq 4 7 1 = p :: rest → ecc ≠ .uncorrected → p.type = 5 → (s.lockMaster n p).2 = true → bits p.flit1 0 64 = old →
    (old.getLsbD 63 = false → new.getLsbD 63 = true → ∃ b : State,
      exec (.lockUnitAccess ecc) s = .next ((b.performed p).respond 4 7 p 0 old []) ∧
      (b.lockWord n).getLsbD 63 = true ∧ bits (b.lockWord n) 0 48 = (bits new 0 48 : BitVec 48) ∧
      b.locks.holders.find n.toNat = some { m with valid := true } ∧
      (∀ k, k ≠ n → b.lockWord k = s.lockWord k) ∧ b.mem = s.mem ∧ b.threads = s.threads) ∧
    (old.getLsbD 63 = true → new.getLsbD 63 = false → (s.locks.holders.getD n.toNat {}).matches_ m = true → ∃ b : State,
      exec (.lockUnitAccess ecc) s = .next ((b.performed p).respond 4 7 p 0 old []) ∧
      (b.lockWord n).getLsbD 63 = false ∧ b.locks.holders.find n.toNat = none ∧
      (∀ k, k ≠ n → b.lockWord k = s.lockWord k) ∧ b.mem = s.mem ∧ b.threads = s.threads)) ∧
  (∀ (s : State) (p : Packet) (rest : List Packet),
    let a := (reqPa p.head).toNat
    let n := lockOf a
    s.inq 4 7 1 = p :: rest → p.type = 3 → a % 8 = 0 → reqBytes p.head = 8 → (s.lockMaster n p).2 = true → ∃ b : State,
      exec (.lockUnitAccess .uncorrected) s = .next ((b.performed p).respond 4 7 p 0 (b.lockWord n) []) ∧
      b.lockWord n = (1 : BitVec 2) ++ (0 : BitVec 62) ∧ b.locks.holders.find n.toNat = none ∧
      (∀ k, k ≠ n → b.lockWord k = s.lockWord k)) ∧
  (∀ (s : State) (n : BitVec 12) (r : List (BitVec 12)),
    s.locks.relQ = n :: r → (s.locks.holders.getD n.toNat {}).reset = true → Answers .lockRelease s fun s' =>
      bits (s'.lockWord n) 62 2 = (1 : BitVec 2) ∧ bits (s'.lockWord n) 0 48 = (bits (s.lockWord n) 0 48 : BitVec 48) ∧
      s'.locks.relQ = r ∧ (∀ k, k ≠ n → s'.lockWord k = s.lockWord k) ∧ { s' with locks := s.locks } = s)

/-- A window miss load, or a reload after a parity error, caches the entry as memory holds it, and an invalidation removes it, at one
cluster alone; with no miss outstanding nothing is loaded. A write of
BANK_OWNER sets the owner, and with CLR starts a zero-fill, after which every byte of the bank reads 0; a write of KIND 3
changes nothing.
Completes: bankOwnerWrite, zeroFillComplete, windowEntryLoad, windowInvalidate. -/
def Obligations.BanksAndWindowsChange : Prop :=
  (∀ (c : ClusterId) (x : CtxId) (w : BitVec 6) (s : State),
    (∀ (parity : Bool) (ecc : Ecc), (s.missed c x w = true ∨ parity = true ∧ (s.winEntry c x w).isSome = true) →
      (∀ e ∈ s.threads, e.2.wait.isWindow w = false) → Answers (.windowEntryLoad c x w parity ecc) s fun s' =>
        s'.winEntry c x w = some ((s.winEcc ((s.ctx x).wtp.toNat + 16 * w.toNat) ecc).readWin x w) ∧
        (ecc = .uncorrected → ∃ e, s'.winEntry c x w = some e ∧ e.ok = false) ∧
        (∀ d, d ≠ c → s'.cluster d = s.cluster d) ∧ s'.mem = s.mem ∧ s'.ctxs = s.ctxs ∧ s'.banks = s.banks) ∧
    (s.missed c x w = false → exec (.windowEntryLoad c x w false) s = .next s) ∧
    (Answers (.windowInvalidate c x w) s fun s' =>
      s'.winEntry c x w = none ∧
      (∀ y v, winKey y v ≠ winKey x w → s'.winEntry c y v = s.winEntry c y v) ∧
      (∀ d, d ≠ c → s'.cluster d = s.cluster d) ∧ { s' with clusters := s.clusters } = s)) ∧
  ((∀ (n : BitVec 8) (v : Word) (s : State),
    (bits v 0 2 = (3 : BitVec 2) → exec (.bankOwnerWrite n v) s = .next s) ∧
    (bits v 0 2 ≠ (3 : BitVec 2) → Answers (.bankOwnerWrite n v) s fun s' =>
      (s'.bank n).kind = bits v 0 2 ∧ (s'.bank n).ctx = bits v 4 13 ∧
      (s'.bank n).clring = ((s.bank n).clring || v.getLsbD 2) ∧ (∀ m, m ≠ n → s'.bank m = s.bank m) ∧
      { s' with banks := s.banks } = s)) ∧
  (∀ (n : BitVec 8) (s : State),
    (s.bank n).clring = true → (∀ e ∈ s.threads, ∀ a pa, e.2.wait ≠ .bank a pa) →
    Answers (.zeroFillComplete n) s fun s' =>
      (s'.bank n).clring = false ∧
      (∀ i, i < 0x40000 → Memory.get s'.mem (bankBase + n.toNat * 0x40000 + i) = 0) ∧
      (∀ a, a < bankBase + n.toNat * 0x40000 ∨ bankBase + (n.toNat + 1) * 0x40000 ≤ a →
        Memory.get s'.mem a = Memory.get s.mem a) ∧ s'.threads = s.threads))

/-- With a rate above 0, a test step that passes leaves the state as it is, one that an access meets is aborted and counted, one whose
march fails sends a record to management; with a rate of 0 no step is made. A scrub counts an error at the pseudo-channel of its
word, and marks a word that it finds lost; a reading of the stack's
temperature sets the refresh rate and stands in TEMP[36] and TEMP[37], at 125 °C or more enters keeper mode and at 135 °C trips; and a
protection row in which an uncorrected error is found refuses every check, until the running
firmware lets it check again.
Completes: stackTemperatureRead, bteSramStep, bteHbmStep, protectionRowRewrite. -/
def Obligations.MemoryIsTestedScrubbedAndRepaired : Prop :=
  (∀ (w : SramWin) (s : State), w.wf = true →
    (s.fw.sramRate = 0 ∨ s.clockRuns .bte = false → ∀ res, exec (.bteSramStep w res) s = .next s) ∧
    (s.fw.sramRate ≠ 0 → s.clockRuns .bte = true → s.mayBorrow w = true →
    exec (.bteSramStep w .pass) s = .next s ∧
    (Answers (.bteSramStep w .aborted) s fun s' => s'.fw.bteAbort = satInc s.fw.bteAbort ∧ s'.mem = s.mem) ∧
    (exec (.bteSramStep w .marchFail) s = .next (s.mgmtRecord recTest 0 0)) ∧
    (∀ n k, w = .bank n k → Answers (.bteSramStep w .shadowUe) s fun s' =>
      (∀ i, i < 256 → s'.bad (bankBase + n.toNat * 0x40000 + 256 * k.toNat + i) = true) ∧ s'.mem = s.mem) ∧
    (∀ k, w = .steward k → Answers (.bteSramStep w .shadowUe) s fun s' =>
      s'.fw.sramBad = s.fw.sramBad ++ [k] ∧ { s' with fw := s.fw } = s) ∧
    (∀ k, w = .keeper k → Answers (.bteSramStep w .shadowUe) s fun s' =>
      s'.keeper.sramBad = s.keeper.sramBad ++ [k] ∧ { s' with keeper := s.keeper } = s))) ∧
  (∀ (blk : BitVec 24) (s : State),
    let pc (i : Nat) : BitVec 4 := pcOf (BitVec.ofNat 40 (1024 * blk.toNat + 8 * i))
    (s.fw.hbmRate = 0 ∨ s.clockRuns .bte = false ∨ s.clockRuns .memc = false →
      ∀ res ecc, exec (.bteHbmStep blk res ecc) s = .next s) ∧
    (s.fw.hbmRate ≠ 0 → s.clockRuns .bte = true → s.clockRuns .memc = true → (∀ w ∈ s.uecc, w / 128 ≠ blk.toNat) →
      exec (.bteHbmStep blk .pass .clean) s = .next s.takeFree ∧
      (Answers (.bteHbmStep blk .pass .corrected) s fun s' => ∃ i, i < 128 ∧
        (s'.pch (pc i)).ce = satInc (s.pch (pc i)).ce ∧ (∀ q, q ≠ pc i → s'.pch q = s.pch q) ∧
        { s' with pcs := s.pcs, free := s.free } = s) ∧
      (Answers (.bteHbmStep blk .pass .uncorrected) s fun s' => ∃ i, i < 128 ∧
        s'.bad (1024 * blk.toNat + 8 * i) = true ∧ (s'.pch (pc i)).ue = satInc (s.pch (pc i)).ue ∧ s'.mem = s.mem))) ∧
  (∀ (t0 t1 : BitVec 16) (s : State),
    let v := max (t0 &&& 0xFFF8).toInt (t1 &&& 0xFFF8).toInt
    (s.clockRuns .memc = false → exec (.stackTemperatureRead t0 t1) s = .next s) ∧
    (s.clockRuns .memc = true → v < 1000 → Answers (.stackTemperatureRead t0 t1) s fun s' =>
      (v > 840 → s'.fw.hbmRefresh = 4) ∧ (680 < v → v ≤ 816 → s'.fw.hbmRefresh = 2) ∧
      (656 < v → v ≤ 680 → s'.fw.hbmRefresh = if 2 ≤ s.fw.hbmRefresh.toNat then 2 else 1) ∧
      (v ≤ 656 → s'.fw.hbmRefresh = 1) ∧ (816 < v → v ≤ 840 → s'.fw.hbmRefresh = if s.fw.hbmRefresh = 4 then 4 else 2) ∧
      s'.tempOf 36 = t0 &&& 0xFFF8 ∧ s'.tempOf 37 = t1 &&& 0xFFF8 ∧
      s'.mem = s.mem ∧ s'.ctxs = s.ctxs ∧ s'.threads = s.threads) ∧
    (s.clockRuns .memc = true → 1000 ≤ v → v < 1080 → s.keeper.running = true → s.keeper.keeper = false → s.clk.dead = false →
      Answers (.stackTemperatureRead t0 t1) s fun s' => s'.keeper.keeper = true ∧ s'.keeper.cause = 3) ∧
    (s.clockRuns .memc = true → 1080 ≤ v →
      Answers (.stackTemperatureRead t0 t1) s fun s' => s'.clk.thermLatch = true)) ∧
  (∀ (s : State) (found : Bool), (found = true ∨ s.fwRuns = true) →
    (∀ f : FuncId, Answers (.protectionRowRewrite (.func f) found) s fun s' =>
      s'.func f = { s.func f with refuse := found } ∧ { s' with hub := s.hub } = s) ∧
    (∀ (f : FuncId) (r : RingId) (g : Ring), s.ring f r = some g → Answers (.protectionRowRewrite (.ring f r) found) s fun s' =>
      s'.ring f r = some { g with refuse := found } ∧ { s' with hub := s.hub } = s) ∧
    (∀ g : BitVec 6, Answers (.protectionRowRewrite (.lockGroup g) found) s fun s' =>
      (s'.locks.groups.getD g.toNat {}).refuse = found ∧ s'.locks.words = s.locks.words ∧ { s' with locks := s.locks } = s) ∧
    (∀ (n : BitVec 12) (x : Rule), s.eth.rules.find n.toNat = some x → Answers (.protectionRowRewrite (.rule n) found) s fun s' =>
      s'.eth.rules.find n.toNat = some { x with refuse := found } ∧ { s' with eth := s.eth } = s)) ∧
  (∀ s : State,
    (∀ (t : Tid) (r : GReg), isSteward t = false → (s.thread t).work.isSome = true → r ≠ 0 →
      Answers (.protectionRowRewrite (.register t r) true) s fun s' =>
        s'.thread t = { s.thread t with regBad := some r } ∧ (∀ u, u ≠ t → s'.thread u = s.thread u) ∧
        { s' with threads := s.threads } = s) ∧
    (∀ keeper : Bool, Answers (.protectionRowRewrite (.record keeper) true) s fun s' =>
      s'.hub.keeper = (if keeper then s.hub.keeper.lose else s.hub.keeper) ∧
      s'.hub.steward = (if keeper then s.hub.steward else s.hub.steward.lose) ∧ { s' with hub := s.hub } = s) ∧
    (∀ e r, s.hub.broke = e :: r → Answers (.protectionRowRewrite .broke true) s fun s' => s'.hub.broke = r ∧ s'.mem = s.mem))

/-! ## The keeper and the board (16, 17) -/

/-- The keeper running and not in keeper mode, each cause of 16 R453 that is an event enters keeper mode with its cause: the
stewards are held, every context is gone, and the cause stands with the instant of entry, which comes after a restart of the keeper
that is under way (the model's choice, log 160).
Completes: managementEndpointTimeout, stewardRestart, stewardWatchdogTimeout, keeperModeEntry, stewardRestartTimeout. -/
def Obligations.CausesEnterKeeperMode : Prop :=
  ∀ (s : State), s.keeper.running = true → s.keeper.keeper = false → s.clk.dead = false →
    let entered (b : State) (cause : Byte) (s' : State) : Prop :=
      s'.keeper.keeper = true ∧ s'.keeper.cause = cause ∧ s'.keeper.faultN = true ∧ s'.keeper.entrySc = b.keeperBack.scnt ∧
      s'.keeper.entryTb = b.keeperBack.tb.now ∧ s'.fw.held = true ∧ s'.fw.ready = false ∧ s'.ctxs = []
    (∀ c : Byte, 1 ≤ c.toNat → c.toNat ≤ 6 → Answers (.keeperModeEntry c) s (entered s c)) ∧
    (∀ u, Answers (.managementEndpointTimeout u) s (entered s 4)) ∧
    (s.fw.held = false → s.fw.paused.toNat < 2 → s.clk.warmLow = false → Answers .stewardWatchdogTimeout s (entered s 1)) ∧
    (2 ≤ s.fw.paused.toNat → Answers .stewardRestartTimeout s fun s' =>
      entered (s.passTo (s.fw.restartAt + scMs 250)) 1 s') ∧
    (∀ c : Byte, s.fwRuns = true → 1 ≤ c.toNat → c.toNat ≤ 3 → s.restartedLately = true →
      Answers (.stewardRestart c) s (entered s 1))

/-- A steward restart that is not the second within 10 minutes pauses the mailboxes and holds the stewards, whose threads are
gone; an FW_ACTIVATE not reported ready within 100 ms reverts to the other bank in the same way. In keeper mode three equal
samples of a safe input make its level, and an output whose DELAY is over follows its MODE; the watchdog output toggles in
every mode; the heartbeat frame leaves with its sequence number; a miscompare of the lockstep pair asserts FAULT_N, keeps
the mode and releases the outputs until the keeper is back after 5 ms; and the board is answered: the endpoint ID as it was assigned,
and ERROR_UNSUPPORTED for what the device does not support. The keeper mailbox answers STATUS and refuses what it does not know, and
resets the part for the port that may ask for it.
Completes: fwActivateTimeout, keeperStatus, keeperWarmReset, stewardRestart, safeOutputDelay, safeInputSample, wdogToggle,
keeperHeartbeat, lockstepMiscompare, mctpControlMessage, pldmRequest. -/
def Obligations.TheKeeperServesTheBoard : Prop :=
  ((∀ (s : State) (c : Byte), s.fwRuns = true → 1 ≤ c.toNat → c.toNat ≤ 3 → s.restartedLately = false →
    Answers (.stewardRestart c) s fun s' =>
      s'.fw.paused = 3 ∧ s'.fw.restartCause = c ∧ s'.fw.restartAt = s.scnt ∧ s'.fw.lastRestart = some s.scnt ∧
      (∀ e ∈ s'.threads, isSteward (BitVec.ofNat 13 e.1) = false) ∧ s'.mem = s.mem ∧ s'.ctxs = s.ctxs) ∧
  (∀ s : State, s.fw.paused = 1 → (s.passTo (s.fw.activateAt + scMs 100)).restartedLately = false →
    Answers .fwActivateTimeout s fun s' =>
      s'.fw.paused = 2 ∧ s'.fw.bank = (!s.fw.bank) ∧ (∀ e ∈ s'.threads, isSteward (BitVec.ofNat 13 e.1) = false) ∧
      s'.mem = s.mem ∧ s'.ctxs = s.ctxs)) ∧
  ((∀ (s : State) (v : BitVec 16), s.keeper.keeper = true → s.keeper.running = true → s.keeper.samples = [v, v] →
    Answers (.safeInputSample v) s fun s' => s'.keeper.safeIn = v ∧ s'.mem = s.mem ∧ s'.ctxs = s.ctxs) ∧
  (∀ (s : State) (i : BitVec 5) (t : BitVec 2688), s.keeper.table = some t →
    bits (kprOut t i.toNat) 32 16 ≠ (0 : BitVec 16) → s.keeper.keeper = true → s.keeper.delayed.getLsbD i.toNat = false →
    Answers (.safeOutputDelay i) s fun s' => s'.keeper.delayed.getLsbD i.toNat = true ∧ s'.mem = s.mem ∧ s'.ctxs = s.ctxs) ∧
  (∀ s : State, s.keeper.running = true → Answers .wdogToggle s fun s' =>
    s'.keeper = { s.keeperBack.keeper with wdogOut := !s.keeper.wdogOut } ∧
    (∀ t, s.mon.last.find 163 = some t → t + scUs s.keeper.wdogp ≤ s'.scnt) ∧ s'.mem = s.mem ∧ s'.ctxs = s.ctxs) ∧
  (∀ (s : State) (t : BitVec 2688), s.keeper.table = some t → s.keeper.keeper = true → s.keeper.running = true →
    s.keeper.hbp ≠ 0 → (s.ethPort 0).link = true → s.keeperBack.hostUp = true → s.hostRails = true →
    s.keeperBack.domUp 4 = true → Answers .keeperHeartbeat s fun s' =>
      s'.out = .frame 0 (s.keeperBack.keeper.heartbeat t) :: s.out ∧ s'.keeper.hbSeq = s.keeper.hbSeq + 1 ∧
      (s'.ethPort 0).tx = satInc (s.ethPort 0).tx ∧ s'.mem = s.mem ∧ s'.ctxs = s.ctxs) ∧
  (∀ (s : State) (ok : Bool), s.keeper.running = true → Answers (.lockstepMiscompare ok) s fun s' =>
    s'.keeper.faultN = true ∧ s'.keeper.keeper = s.keeper.keeper ∧
    s'.keeper.table = (if ok then s.keeper.table else none) ∧ s'.keeper.driven = 0 ∧ s'.keeper.wdogOut = s.keeper.wdogOut ∧
    s'.keeper.restartAt = some s.scnt ∧ { s' with keeper := s.keeper } = s) ∧
  (∀ (s : State) (t : Nat), s.keeper.restartAt = some t →
    s.keeperBack.keeper.restartAt = none ∧ t + scMs 5 ≤ s.keeperBack.scnt ∧ s.keeperBack.keeper.keeper = s.keeper.keeper) ∧
  (∀ (s : State) (req : List Byte), (s.stewardsServe || s.keeperServes) = true →
    let eid := if req.getD 1 0 = 1 ∧ (req.getD 2 0).toNat % 4 < 2 ∧ req.getD 3 0 ≠ 0 ∧ req.getD 3 0 ≠ 0xFF then req.getD 3 0 else s.mon.endpointId
    let head := [req.getD 0 0 &&& 0x1F, req.getD 1 0]
    (Answers (.mctpControlMessage req) s fun s' =>
      s'.mon.endpointId = eid ∧ s'.mem = s.mem ∧ s'.ctxs = s.ctxs ∧ ∃ b, s'.out = .smbus (head ++ b) :: s.out ∧
        (req.getD 1 0 = 1 → b = if (req.getD 2 0).toNat % 4 < 2 ∧ req.getD 3 0 ≠ 0 ∧ req.getD 3 0 ≠ 0xFF then [0, 0, eid, 0] else [2]) ∧
        (req.getD 1 0 = 2 → b = [0, eid, 0, 0])) ∧
    (∀ type : Byte, type ≠ 0 → exec (.mctpControlMessage req type) s = .next s) ∧
    (Answers (.pldmRequest req) s fun s' =>
      s'.mem = s.mem ∧ s'.mon = s.mon ∧ s'.ctxs = s.ctxs ∧ ∃ b, s'.out = .smbus (head ++ [req.getD 2 0] ++ b) :: s.out ∧
        (req.getD 1 0 &&& 0x3F ≠ 0 → req.getD 1 0 &&& 0x3F ≠ 2 → b = [0x20]) ∧
        (req.getD 1 0 &&& 0x3F = 0 → (req.getD 2 0).toNat < 2 ∨ 5 < (req.getD 2 0).toNat → b = [5]) ∧
        (req.getD 1 0 &&& 0x3F = 2 → req.getD 2 0 ∉ ([0x11, 0x21, 0x50, 0x51] : List Byte) → b = [5])))) ∧
  (∀ (p : BitVec 2) (w : DWord) (s : State), s.kprServed p = true →
    (kprOp w = 1 → exec (.keeperStatus p w) s = .next (s.keeperBack.kprAnswer p w OK)) ∧
    (kprOp w ≠ 1 → kprOp w ≠ 2 → exec (.keeperStatus p w) s = .next (s.keeperBack.kprAnswer p w BAD_ARG)) ∧
    (kprOp w = 2 →
      let q := if s.keeper.keeper then s.keeper.adminPort else funcPort s.hub.admin
      (p ≠ q → exec (.keeperWarmReset p w) s = .next (s.keeperBack.kprAnswer p w DENIED)) ∧
      (p = q → bits w 32 32 ≠ (0x5741524D : Word) → exec (.keeperWarmReset p w) s = .next (s.keeperBack.kprAnswer p w BAD_ARG)) ∧
      (p = q → bits w 32 32 = (0x5741524D : Word) → Answers (.keeperWarmReset p w) s fun s' =>
        s'.clk.rstCause = s.clk.rstCause ||| 8 ∧ s'.clk.warmLow = true ∧ s'.keeper.warmReq = true ∧ s'.ctxs = [] ∧ s'.threads = [] ∧
        s'.keeper.rsp = (s.kprAnswer p w OK).keeper.rsp)) ∧
    (∀ st, (s.kprAnswer p w st).keeper.rsp.find p.toNat = some (st, bits w 16 16, true) ∧ { s.kprAnswer p w st with keeper := s.keeper } = s))

/-! ## Rings (12, 03 R101-R104, 05) -/

/-- A doorbell moves its index where the entries are there, and otherwise the ring enters RING_FAULT with cause 1. An entry
with a reserved field goes to the broke queue and the ring goes on; a good data entry enters the spine, counts in INFLIGHT and
sets INSTB; a ring whose turn in the rotation has not come is not read; a failed read faults the ring and injects nothing.
Completes: headboxEntry, ringDoorbell, ringReadFailure. -/
def Obligations.HeadboxRingsTakeEntries : Prop :=
  (∀ (f : FuncId) (r : RingId) (v : Word) (s : State) (g : Ring), s.barsAnswer f = true → s.ring f r = some g →
    let p : BitVec 16 := bits v 0 16
    let moved (s' : State) : Prop := (∃ g', s'.ring f r = some g' ∧ g'.h = p ∧ g'.d = g.d ∧ g'.mark = g.mark ∧ g'.rfault = g.rfault) ∧
      { s' with hub := s.hub, out := s.out } = s
    let faulted (s' : State) : Prop := (∃ g', s'.ring f r = some g' ∧ g'.h = g.h ∧ g'.d = g.d ∧ g'.rfault = true ∧ g'.fcause = 1) ∧
      { s' with hub := s.hub, out := s.out } = s
    (g.kind = 1 → (p - g.h).toNat ≤ (g.d - g.h).toNat → Answers (.ringDoorbell f r v) s moved) ∧
    (g.kind = 1 → g.rfault = false → (g.d - g.h).toNat < (p - g.h).toNat → Answers (.ringDoorbell f r v) s faulted) ∧
    (g.kind ≠ 1 → g.markv = false → (p - g.h).toNat ≤ g.size - (g.h - g.d).toNat → Answers (.ringDoorbell f r v) s moved) ∧
    (g.kind ≠ 1 → g.rfault = false → g.size - (g.h - g.d).toNat < (p - g.h).toNat → Answers (.ringDoorbell f r v) s faulted)) ∧
  (∀ (f : FuncId) (r : RingId) (s : State) (g : Ring), s.ring f r = some g → s.ringReads f g = true →
    (g.kind = 0 → g.waiting = none → s.hbServes f r = false → ∀ e, exec (.headboxEntry f r e) s = .next s) ∧
    let next (s' : State) : Prop := ∃ g', s'.ring f r = some g' ∧ g'.d = g.d + 1 ∧ g'.h = g.h ∧ g'.waiting = none ∧ g'.rfault = false
    (∀ e : BitVec 256, g.kind = 0 → g.waiting = none → hbMark e = false → s.hbServes f r = true →
      (hbStage1 g.ctx e = false → Answers (.headboxEntry f r e) s fun s' =>
        next s' ∧ s'.hub.brokeIn = s.hub.brokeIn ++ [⟨hbToken e, RESERVED_FIELD, g.ctx, false, tagKind (hbTag e) == 6⟩] ∧
        { s' with hub := s.hub, out := s.out } = s) ∧
      (hbStage1 g.ctx e = true → s.entryAccepts g.ctx = true → (s.ctx g.ctx).owner = f → g.refuse = false →
        (s.func f).refuse = false → s.hbStage3 (hbTag e) = true → tagKind (hbTag e) = 0 ∨ tagKind (hbTag e) = 4 → hbTick e = 0 →
        s.entryHeld (hbTag e) = false → 1 ≤ (s.linkOf f).avail → Answers (.headboxEntry f r e) s fun s' =>
          next s' ∧ s'.hub.brokeIn = s.hub.brokeIn ∧ (s'.ctx g.ctx).inflight = (s.ctx g.ctx).inflight + 1 ∧
          (s'.ctx g.ctx).instb = tagInst (hbTag e) ∧ (∀ x, x ≠ g.ctx → s'.ctx x = s.ctx x) ∧
          (let (hr, he) := hubLink f
           ∃ p, s'.buf hr (4 + he.toNat) 0 = s.buf hr (4 + he.toNat) 0 ++ [p] ∧ p.vc = 0 ∧ packetToken p = hbToken e) ∧
          { s' with hub := s.hub, out := s.out, ctxs := s.ctxs, spine := s.spine } = s)) ∧
    (∀ k : BitVec 4, g.kind ≠ 1 →
      (let bad (s' : State) : Prop := (∃ g', s'.ring f r = some g' ∧ g'.rfault = true ∧ g'.fcause = k ∧ g'.d = g.d ∧ g'.h = g.h) ∧
        { s' with hub := s.hub, out := s.out } = s
       (k = 2 → Answers (.ringReadFailure f r .timeout) s bad) ∧ (k = 3 → Answers (.ringReadFailure f r .poisoned) s bad) ∧
       (k = 4 → Answers (.ringReadFailure f r .urca) s bad))))

/-- A memory ring's entry completes (memoryRingTransfer): a transfer from the host writes its words at the window's addresses and no
other byte, one to the host sends the bytes read there and writes nothing, and a word that is refused ends the transfer with its
cause, as does one of a FENCED context (TARGET_FENCED) or of a row that refuses every check (ADDR_RIGHTS, the model's choice, log
154). Each moves the ring on and stages its MEMDONE entry with the count of bytes and the COOKIE.
Completes: memoryRingTransfer. -/
def Obligations.MemoryRingsTransferWords : Prop :=
  ∀ (f : FuncId) (r : RingId) (e : BitVec 256) (host : List DWord) (s : State) (g q : Ring),
    s.memWf = true → s.ring f r = some g → g.kind = 2 → s.ringReads f g = true → s.mrWaits g.ctx e = false → g.cring ≠ r →
    s.ring f g.cring = some q → mrOk e = true →
    let w := s.readWin g.ctx (BitVec.ofNat 6 (fldN e 12 1))
    let a := w.base + fldN e 8 4
    let len := mrLength e
    let done (n : Nat) (c : Byte) (s' : State) : Prop :=
      (∃ g', s'.ring f r = some g' ∧ g'.d = g.d + 1) ∧
      (∃ q', s'.ring f g.cring = some q' ∧
        q'.items = q.items ++ [⟨BitVec.ofNat 64 n, BitVec.ofNat 64 (fldN e 24 8), 6, false, c, false, none⟩])
    let row := g.refuse || (s.func f).refuse
    (row = true → (mrIn e = true → len / 8 ≤ host.length) → Answers (.memoryRingTransfer f r e host none none) s fun s' => s'.mem = s.mem ∧ done 0 ADDR_RIGHTS s' ∧ s'.ctxs = s.ctxs) ∧
    (row = false → (s.ctx g.ctx).state = FENCED → (mrIn e = true → len / 8 ≤ host.length) → Answers (.memoryRingTransfer f r e host none none) s fun s' =>
      s'.mem = s.mem ∧ done 0 TARGET_FENCED s' ∧ s'.ctxs = s.ctxs) ∧
    (row = false → (s.ctx g.ctx).state ≠ FREE → (s.ctx g.ctx).state ≠ FENCED → w.valid = true → fldN e 8 4 + len ≤ w.len →
    (∀ ceAt : Option Nat, mrIn e = true → host.length = len / 8 → w.w = true →
      ((∀ k, k < len / 8 → s.mrFault g.ctx (a + 8 * k) true = none) → Answers (.memoryRingTransfer f r e host none ceAt) s fun s' =>
        (∀ i, i < len → Memory.get s'.mem (a + i) = (bits (host.getD (i / 8) 0) (8 * (i % 8)) 8 : Byte)) ∧
        (∀ b, b < a ∨ a + len ≤ b → Memory.get s'.mem b = Memory.get s.mem b) ∧ done len 0 s' ∧
        { s' with mem := s.mem, uecc := s.uecc, hub := s.hub, out := s.out } = s) ∧
      (∀ c, s.mrFault g.ctx a true = some c → Answers (.memoryRingTransfer f r e host none ceAt) s fun s' =>
        s'.mem = s.mem ∧ done 0 c s' ∧ s'.ctxs = s.ctxs ∧ s'.threads = s.threads)) ∧
    (mrIn e = false → w.r = true →
      ((∀ k, k < len / 8 → s.mrFault g.ctx (a + 8 * k) false = none) → Answers (.memoryRingTransfer f r e host none none) s fun s' =>
        .hostWrite f (mrHaddr e) ((List.range (len / 8)).flatMap fun k =>
          leBytes 8 (if inLocks (a + 8 * k) then (s.lockWord (lockOf (a + 8 * k))).toNat else s.rd (a + 8 * k) 8)) ∈ s'.out ∧
        done len 0 s' ∧ { s' with hub := s.hub, out := s.out } = s) ∧
      (∀ c, s.mrFault g.ctx a false = some c → Answers (.memoryRingTransfer f r e host none none) s fun s' =>
        s'.mem = s.mem ∧ done 0 c s' ∧ s'.ctxs = s.ctxs ∧ s'.threads = s.threads)))

/-- The reel: a thread's reel credit lets its token go; an arrived token joins its ring or its flow; an entry is written at W
and counted; the item at NEXT is released and a skip marker passes it; a gap moves NEXT to the lowest number held; TIME ends
the moderation: a message covers the entries, and a masked vector pends.
Completes: reelTokenArrival, reelCreditRequest, orderedRelease, gapTimeout, reelEntryWrite, reelModerationTimeout. -/
def Obligations.TheReelStagesOrdersAndWrites : Prop :=
  (∀ (t : Tid) (s q : State) (tok : Token), t.wf = true → (s.thread t).wait = .reel tok → s.reelGrant tok = .granted q →
    tok.flits ≤ (s.cluster (tCluster t)).couchOut.avail →
    exec (.reelCreditRequest (.thread t)) s = .next ((q.injectFrom (tCluster t) tok false false).finish t)) ∧
  (∀ (s : State) (p : Packet) (rest : List Packet),
    let tok := packetToken p
    let x := tagCtx tok.tag
    let f := (s.ctx x).owner
    let r : RingId := bits (tagNode tok.tag) 0 6
    let b := s.updHub fun h => { h with reelIn := rest }
    s.hub.reelIn = p :: rest → s.reelAccepts x = true → s.claimed f r = false → ∀ g, s.ring f r = some g → g.kind = 1 → g.rfault = false →
      (s.flowOf f r = none → exec .reelTokenArrival s = .next (b.setRing f r { g with items := g.items ++ [tok.item] })) ∧
      (∀ n, s.flowOf f r = some n → exec .reelTokenArrival s = .next (b.flowArrive n tok))) ∧
  (∀ (f : FuncId) (r : RingId) (s : State) (g : Ring) (i : ReelItem) (rest : List ReelItem),
    s.ring f r = some g → g.kind = 1 → g.rfault = false → g.win = false → g.items = i :: rest → g.room ≠ 0 →
    (s.func f).flr = false → Answers (.reelEntryWrite f r) s fun s' =>
      (∃ g', s'.ring f r = some g' ∧ g'.d = g.d + 1 ∧ g'.h = g.h ∧ g'.items = rest) ∧
      .hostWrite f (g.base + BitVec.ofNat 64 (32 * (g.d.toNat % g.size))) (leBytes 32 (i.entry s.tb.now ((g.d.toNat / g.size) % 2 == 0)).toNat) ∈ s'.out ∧
      (∀ x, i.ctx = some x → (s'.ctx x).inflight.toNat = (s.ctx x).inflight.toNat - 1) ∧
      { s' with hub := s.hub, out := s.out, ctxs := s.ctxs } = s) ∧
  (∀ (n : BitVec 14) (s : State) (i : ReelItem) (g : Ring),
    let w := s.flow n
    w.valid = true → w.head = some i → s.ring w.func w.ring = some g → g.rfault = false →
      (tagKind i.tag ≠ 5 → g.room ≠ 0 → Answers (.orderedRelease n .clean) s fun s' =>
        (s'.flow n).next = w.next + 1 ∧ (s'.flow n).skip = w.skip ∧ (∃ g', s'.ring w.func w.ring = some g' ∧ g'.d = g.d + 1) ∧
        s'.mem = s.mem ∧ s'.threads = s.threads) ∧
      (tagKind i.tag = 5 → g.room ≠ 0 → Answers (.orderedRelease n .clean) s fun s' =>
        (s'.flow n).next = w.next + 1 ∧ (s'.flow n).skip = satInc w.skip ∧ s'.hub.rings = s.hub.rings ∧ s'.out = s.out ∧
        { s' with hub := s.hub, ctxs := s.ctxs } = s) ∧
      (g.room = 0 → exec (.orderedRelease n .clean) s = .next s)) ∧
  (∀ (n : BitVec 14) (s : State) (i : ReelItem),
    let w := s.flow n
    w.valid = true → w.head = some i → Answers (.orderedRelease n .key) s fun s' =>
      (s'.flow n).items = w.items.erase w.next.toNat ∧ (s'.flow n).next = w.next ∧ s'.hub.rings = s.hub.rings ∧ s'.out = s.out ∧
      { s' with hub := s.hub, ctxs := s.ctxs } = s) ∧
  (∀ (n : BitVec 14) (s : State) (g : Ring),
    let w := s.flow n
    s.ring w.func w.ring = some g → w.valid = true → w.trun = true → g.rfault = false → g.room ≠ 0 →
    Answers (.gapTimeout n) s fun s' =>
      (s'.flow n).next = w.lowest ∧ (s'.flow n).gaps = satInc w.gaps ∧ (∃ g', s'.ring w.func w.ring = some g' ∧ g'.d = g.d + 1) ∧
      s'.mem = s.mem ∧ s'.threads = s.threads ∧ s'.ctxs = s.ctxs) ∧
  (∀ (f : FuncId) (r : RingId) (s : State) (g : Ring),
    s.ring f r = some g → g.kind = 1 → g.uncovered ≠ 0 → g.time ≠ 0 → Answers (.reelModerationTimeout f r) s fun s' =>
      let sent := (s.msix f).enable = true ∧ (s.msix f).fmask = false ∧ g.vec ∈ (s.msix f).unmasked
      (sent → s'.ring f r = some { g with uncovered := 0 }) ∧ (¬ sent → s'.ring f r = some g ∧ g.vec ∈ (s'.msix f).pending) ∧ s'.mem = s.mem ∧ s'.threads = s.threads ∧ s'.ctxs = s.ctxs)

/-- The broke queue takes what comes and writes it to the fault ring of its function, a fault record takes two entries there,
and the result window gives a slot back at the read that includes its last byte.
Completes: resultWindowRead, brokeIntake, brokeEntryWrite, faultRecordSend. -/
def Obligations.BrokeTokensAndFaultRecordsReachTheHost : Prop :=
  (∀ (s : State) (b : Broke) (rest : List Broke),
    s.hub.brokeIn = b :: rest → (s.ctx b.ctx).state ≠ FREE → s.hub.broke.length < 4096 → Answers .brokeIntake s fun s' =>
      s'.hub.broke = s.hub.broke ++ [b] ∧ s'.hub.brokeIn = rest ∧ (s'.ctx b.ctx).brokecnt = satInc (s.ctx b.ctx).brokecnt ∧
      (s'.ctx b.ctx).inflight.toNat = (s.ctx b.ctx).inflight.toNat - (if b.counted then 1 else 0) ∧
      (∀ x, x ≠ b.ctx → s'.ctx x = s.ctx x) ∧ { s' with hub := s.hub, ctxs := s.ctxs } = s) ∧
  (∀ (f : FuncId) (r : RingId) (s : State) (b : Broke) (rest : List Broke) (g : Ring),
    s.takeBroke f s.hub.broke = some (b, rest) → s.faultRing f = some r → s.ring f r = some g → g.rfault = false → g.room ≠ 0 →
    Answers (.brokeEntryWrite f) s fun s' =>
      s'.hub.broke = rest ∧ (∃ g', s'.ring f r = some g' ∧ g'.d = g.d + 1) ∧ { s' with hub := s.hub, out := s.out } = s) ∧
  (∀ (c : ClusterId) (i : BitVec 6) (s : State) (q : FaultRec) (n : RingId) (g : Ring),
    (s.cluster c).faults[i.toNat]? = some q → s.recordSup q = none → s.faultRing (s.faultDest q.ctx).1 = some n →
    s.ring (s.faultDest q.ctx).1 n = some g → g.rfault = false → 2 ≤ g.room → (∀ e ∈ s.threads, e.2.heldRec = none) →
    Answers (.faultRecordSend c i) s fun s' =>
      (s'.cluster c).faults = dropAt (s.cluster c).faults i.toNat ∧
      (∃ g', s'.ring (s.faultDest q.ctx).1 n = some g' ∧ g'.d = g.d + 2) ∧
      { s' with hub := s.hub, out := s.out, clusters := s.clusters } = s) ∧
  (∀ (f : FuncId) (off : BitVec 16) (s : State), s.funcExists f = true → s.hostRails = true →
    let o := off.toNat
    let n := 64 * f.toNat + (o - 0x4000) / 256
    let w := s.hub.slots.getD n {}
    (0x4000 ≤ o → o < 0x8000 → o % 256 ≠ 0x20 → exec (.resultWindowRead f off true) s =
      .next (s.emit (.completion f (some (readPart true o (w.word (o % 256 / 8))))))) ∧
    (0x4000 ≤ o → o < 0x8000 → o % 256 = 0x20 → w.ready = true → Answers (.resultWindowRead f off true) s fun s' =>
      s'.hub.slots.getD n {} = { w with ready := false, taken := true } ∧ .completion f (some (bits w.entry 192 64)) ∈ s'.out ∧
      (∀ g, s.ring f w.ring = some g → g.win = true → g.kind = 1 → ∃ g', s'.ring f w.ring = some g' ∧ g'.h = g.h + 1) ∧
      { s' with hub := s.hub, out := s.out } = s) ∧
    (o = 0x200 → exec (.resultWindowRead f off true) s = .next (s.emit (.completion f (some 0)))) ∧
    (o = 0x208 → exec (.resultWindowRead f off true) s = .next (s.emit (.completion f (some (s.mbStatus f))))))

/-! ## The host (12 R340-R344, R358, 13 R369-R374) -/

/-- MSI-X: unmasking a vector, enabling and unmasking the function release the vectors that were pending. BAR2 answers reads
with the lock word where the function has the right and with zero otherwise, performs an aligned CAS in the lock unit, and
discards writes; a misaligned read returns a value the spec does not state (a free value).
Completes: msixVectorUnmask, msixEnable, functionMaskClear, bar2Read, bar2Cas, bar2MemoryWrite. -/
def Obligations.HostsUseMsixAndLockWords : Prop :=
  (∀ (f : FuncId) (v : BitVec 6) (s : State), s.barsAnswer f = true →
    let keeps (s' : State) : Prop := (∀ g, g ≠ f → s'.msix g = s.msix g) ∧ { s' with hub := s.hub, out := s.out } = s
    (Answers (.msixVectorUnmask f v) s fun s' => v ∈ (s'.msix f).unmasked ∧ (s'.msix f).enable = (s.msix f).enable ∧
      ((s.msix f).enable = true → (s.msix f).fmask = false → v ∉ (s'.msix f).pending ∧ (v ∈ (s.msix f).pending → (s.msix f).message f v ∈ s'.out)) ∧
      keeps s') ∧
    (Answers (.msixEnable f) s fun s' => (s'.msix f).enable = true ∧ (s'.msix f).fmask = (s.msix f).fmask ∧ (s'.msix f).unmasked = (s.msix f).unmasked ∧
      ((s.msix f).fmask = false → v ∈ (s.msix f).pending → v ∈ (s.msix f).unmasked → (s.msix f).message f v ∈ s'.out) ∧ keeps s') ∧
    (Answers (.functionMaskClear f) s fun s' => (s'.msix f).fmask = false ∧ (s'.msix f).enable = (s.msix f).enable ∧ (s'.msix f).unmasked = (s.msix f).unmasked ∧
      ((s.msix f).enable = true → v ∈ (s.msix f).pending → v ∈ (s.msix f).unmasked → (s.msix f).message f v ∈ s'.out) ∧ keeps s')) ∧
  (∀ (f : FuncId) (off : BitVec 15) (s : State), s.barsAnswer f = true →
    let n := bar2Word off
    (∀ wide : Bool, off.toNat % (if wide then 8 else 4) = 0 → exec (.bar2Read f off wide) s =
      .next (s.emit (.completion f (some (readPart wide off.toNat (if s.lockFunc n f then s.lockWord n else 0)))))) ∧
    (∀ wide : Bool, off.toNat % (if wide then 8 else 4) ≠ 0 → Answers (.bar2Read f off wide) s fun s' =>
      (∃ d, s'.out = .completion f (some d) :: s.out) ∧ { s' with out := s.out, free := s.free } = s) ∧
    (∀ expect new : DWord, off.toNat % 8 = 0 →
      let (t, st, old) := s.lockCas n expect new { kind := 2, valid := true, who := BitVec.setWidth 13 f } (s.lockFunc n f)
      exec (.bar2Cas f off expect new .cas64) s = .next (t.emit (.completion f (if st = 0 then some old else none)))) ∧
    (∀ expect new : DWord, off.toNat % 8 ≠ 0 → exec (.bar2Cas f off expect new .cas64) s = .next (s.aerReport f .malformed)) ∧
    (∀ (op : AtomicOp) (expect new : DWord), op ≠ .cas64 → exec (.bar2Cas f off expect new op) s = .next (s.emit (.unsupported f))) ∧
    (∀ v : DWord, Answers (.bar2MemoryWrite f off v) s fun s' =>
      s'.locks.barRefused = satInc s.locks.barRefused ∧ s'.locks.words = s.locks.words ∧ { s' with locks := s.locks } = s))

/-- A register write stores, clears or ignores each field as its access code says, and a write to a register of a section wakes its
clock.
Completes: registerWrite. -/
def Obligations.RegisterWritesFollowTheirAccessCodes : Prop :=
  ∀ (v hw : DWord) (s : State),
    (exec (.registerWrite .readOnly v hw) s = .next s) ∧
    (∀ c : ClusterId, Answers (.registerWrite (.cdCfg c) v hw) s fun s' =>
      (s'.cluster c).evictDly = bits v 0 8 ∧ (s'.cluster c).actPrio = bits v 8 5 ∧ (∀ d, d ≠ c → s'.cluster d = s.cluster d) ∧
      s'.sect (clusterSection c) = { s.sect (clusterSection c) with gated := false } ∧
      { s' with clusters := s.clusters, clk := s.clk } = s) ∧
    (Answers (.registerWrite .rstCause v hw) s fun s' =>
      (∀ i, i < 5 → s'.clk.rstCause.getLsbD i = ((s.clk.rstCause.getLsbD i && !v.getLsbD i) || hw.getLsbD i)) ∧
      s'.clk = { s.clk with rstCause := s'.clk.rstCause } ∧ { s' with clk := s.clk } = s) ∧
    (∀ f : FuncId, Answers (.registerWrite (.hbFuncCfg f) v hw) s fun s' =>
      s'.func f = { s.func f with en := v.getLsbD 0, dbg := v.getLsbD 2, pio := v.getLsbD 3 } ∧ (∀ g, g ≠ f → s'.func g = s.func g) ∧
      { s' with hub := s.hub } = s) ∧
    (∀ n : BitVec 5, n.toNat ≤ 23 → (bits v 8 8 : Byte).toNat < (bits v 0 8 : Byte).toNat → exec (.registerWrite (.monVwin n) v hw) s = .next s) ∧
    (∀ g : BitVec 6, Answers (.registerWrite (.lckGrpF0 g) v hw) s fun s' =>
      (s'.locks.groups.getD g.toNat {}).f0 = v ∧ s'.locks.words = s.locks.words ∧ { s' with locks := s.locks } = s) ∧
    (∀ (r : BitVec 4) (b : Bool), b = s.spine.cur → exec (.registerWrite (.nocRtBank r b) v hw) s = .next s)

/-- The mailbox: a write of the command buffer, a doorbell that is accepted, refused as not ready or in keeper mode, and the
OVERLAP of both while a command is pending. A command that completes leaves a response: STATUS, SEQ, DETAIL and payload, DONE
set, PEND clear, and the command out of the order; a vector 0 is raised where NOTIFY asks for it.
Completes: mailboxDoorbell, mailboxCommandBufferWrite. -/
def Obligations.MailboxesAcceptAndAnswer : Prop :=
  (∀ (f : FuncId) (s : State), s.barsAnswer f = true →
    let m := s.mbox f
    (∀ (off : BitVec 8) (wide : Bool) (v : DWord), off.toNat % (if wide then 8 else 4) = 0 →
      (m.pend = false → exec (.mailboxCommandBufferWrite f off wide v) s =
        .next (s.updMbox f fun q => { q.retire with cmd := putFld q.cmd off.toNat (if wide then 8 else 4) v.toNat })) ∧
      (m.pend = true → exec (.mailboxCommandBufferWrite f off wide v) s = .next (s.updMbox f fun q => { q with overlap := true }))) ∧
    (∀ v : DWord, v.getLsbD 0 = true →
      (m.pend = true → exec (.mailboxDoorbell f v) s = .next (s.updMbox f fun q => { q with overlap := true })) ∧
      (m.pend = false → s.keeper.keeper = false → m.notrdy = false → Answers (.mailboxDoorbell f v) s fun s' =>
        (s'.mbox f).pend = true ∧ (s'.mbox f).done = false ∧ (s'.mbox f).latched = m.cmd ∧ (s'.mbox f).seq = fld m.cmd 2 2 ∧
        s'.hub.order = s.hub.order ++ [f] ∧ (∀ g, g ≠ f → s'.mbox g = s.mbox g) ∧ { s' with hub := s.hub } = s) ∧
      (m.pend = false → s.keeper.keeper = true ∨ m.notrdy = true → Answers (.mailboxDoorbell f v) s fun s' =>
        (s'.mbox f).pend = false ∧ (s'.mbox f).done = true ∧ (s'.mbox f).status = (if s.keeper.keeper then KEEPER_MODE else BUSY) ∧
        (s'.mbox f).rsp = responseOf (s'.mbox f).status (fld m.cmd 2 2) 0 [] ∧ (∀ g, g ≠ f → s'.mbox g = s.mbox g) ∧
        { s' with hub := s.hub, out := s.out } = s))) ∧
  (∀ (s : State) (f : FuncId) (status : BitVec 16) (detail : DWord) (payload : List Byte), (s.mbox f).pend = true →
    let s' := s.answer f status detail payload
    let m := s.mbox f
    s'.mbox f = { m with rsp := responseOf status (fld m.latched 2 2) detail payload, done := true, pend := false, begun := false, status := status } ∧
    (∀ g, g ≠ f → s'.mbox g = s.mbox g) ∧ s'.hub.order = s.hub.order.erase f ∧ { s' with hub := s.hub, out := s.out } = s ∧
    (m.latched.getLsbD 49 = true → (s.func f).flr = false → (s.msix f).enable = true → (s.msix f).fmask = false → 0 ∈ (s.msix f).unmasked → s.hostRails = true → s'.out = (s.msix f).message f 0 :: s.out))

/-! ## Process I/O (14) -/

/-- Frames: one with a bad FCS, PAUSE or a bad size is counted and discarded; one that no rule matches is counted; one that a
rule takes makes a token or waits, and counts for the rule; a held frame's token enters once it can; the gPTP engine's
frames, in answer and of its own, join queue 7 where there is room, and the port takes its role; and links come up and go down, the
firmware looking at the PHYs over MDIO.
Completes: gptpFrame, frameReceive, heldFrameInject, eliminationResetTimeout, linkNegotiation, ethLinkLoss. -/
def Obligations.FramesAreReceivedAndClassified : Prop :=
  (∀ (p : BitVec 2) (fr : Frame) (s : State), s.ethUp = true → (s.ethPort p).link = true →
    let size := fr.bytes.length + 4
    let v := stripTags fr.bytes
    ((!fr.fcsOk || fr.pause || decide (size < 64) || decide (2048 < size)) = true → Answers (.frameReceive p fr) s fun s' =>
      s'.ethPort p = { s.ethPort p with bad := satInc (s.ethPort p).bad } ∧ (∀ q, q ≠ p → s'.ethPort q = s.ethPort q) ∧
      { s' with eth := s.eth } = s) ∧
    (fr.fcsOk = true → fr.pause = false → 64 ≤ size → size ≤ 2048 → s.keeper.keeper = false → rdBe v.bytes 12 2 ≠ 0x88F7 →
      s.heldBytes p + size ≤ 131072 →
      (s.ruleFor p v = none → Answers (.frameReceive p fr) s fun s' =>
        s'.ethPort p = { s.ethPort p with rx := satInc (s.ethPort p).rx, noRule := satInc (s.ethPort p).noRule } ∧
        s'.eth.rules = s.eth.rules ∧ { s' with eth := s.eth } = s) ∧
      (∀ (n : Nat) (r : Rule), s.ruleFor p v = some (n, r) → r.elim = false →
        (r.fits v.bytes = true → (s.eth.waiting.getD n []).length < 8 → Answers (.frameReceive p fr) s fun s' =>
          (∃ r', s'.eth.rules.find n = some r' ∧ r'.arrivals = r.arrivals + 1 ∧ r'.raw = r.raw ∧ r'.owner = r.owner) ∧
          (s'.eth.ruleCnt.getD n {}).hits = satInc (s.eth.ruleCnt.getD n {}).hits ∧
          (s'.ethPort p).rx = satInc (s.ethPort p).rx ∧ s'.mem = s.mem ∧ s'.threads = s.threads) ∧
        (r.fits v.bytes = false → Answers (.frameReceive p fr) s fun s' =>
          (s'.eth.ruleCnt.getD n {}).short = satInc (s.eth.ruleCnt.getD n {}).short ∧ (s'.ethPort p).rx = satInc (s.ethPort p).rx ∧
          { s' with eth := s.eth } = s)))) ∧
  (∀ (n : BitVec 12) (s t : State) (h : HeldFrame) (rest : List HeldFrame),
    let refuse := (s.eth.rules.find n.toNat).any (·.refuse)
    s.ethRuns = true → s.eth.waiting.getD n.toNat [] = h :: rest → s.ethEnter refuse h.token = some t →
    (rest = [] → exec (.heldFrameInject n) s = .next (t.updEth fun e => { e with waiting := e.waiting.erase n.toNat })) ∧
    (rest ≠ [] → exec (.heldFrameInject n) s = .next (t.updEth fun e => { e with waiting := e.waiting.set n.toNat rest }))) ∧
  (∀ (n : BitVec 12) (s : State) (r : Rule), s.eth.rules.find n.toNat = some r → r.elim = true → r.hist ≠ [] →
    Answers (.eliminationResetTimeout n) s fun s' =>
      s'.eth.rules.find n.toNat = some { r with hist := [] } ∧ s'.eth.ports = s.eth.ports ∧ s'.mem = s.mem ∧ s'.threads = s.threads ∧
      s'.ctxs = s.ctxs) ∧
  (∀ (p : BitVec 2) (own : Bool) (s : State), s.ethRuns = true → (s.ethPort p).link = true → s.fwRuns = true →
    let role := s.asRole p
    let l := if own then Config.gptpPdelay (s.free + 1) ++ (if role = 1 then Config.gptpSync (s.free + 2) else [])
      else Config.gptpAnswer (s.free + 1)
    Answers (.gptpFrame p none own) s fun s' =>
      (s'.ethPort p).asRole = role ∧ (s.tb.src = 1 → role = if s.tb.port = p then 2 else 3) ∧
      ((s.ethPort p).queued 7 + (l.map fun b => b.length + 6).sum ≤ 32768 →
        (s'.ethPort p).queues.getD 7 [] = (s.ethPort p).queues.getD 7 [] ++ l.map fun b => b.take 12 ++ [0x88, 0xF7] ++ b.drop 12) ∧
      ((s.ethPort p).queued 7 ≤ 32768 → (s'.ethPort p).queued 7 ≤ 32768) ∧ s'.tb = s.tb ∧ { s' with eth := s.eth, free := s.free } = s) ∧
  (∀ (p : BitVec 2) (s : State),
    let only (s' : State) : Prop := (∀ q, q ≠ p → s'.ethPort q = s.ethPort q) ∧ (∃ l, s'.out = l ++ s.out ∧ ∀ o ∈ l, ∃ v, o = .mdio v) ∧
      (s.fwRuns = false → s'.out = s.out) ∧ { s' with eth := s.eth, out := s.out, free := s.free } = s
    (∀ w : BitVec 16, s.ethUp = true →
      (w.getLsbD 15 = false → Answers (.linkNegotiation p w) s fun s' => s'.ethPort p = { s.ethPort p with link := false } ∧ only s') ∧
      (w.getLsbD 15 = true → w.getLsbD 12 = false → Answers (.linkNegotiation p w) s fun s' =>
        s'.ethPort p = { s.ethPort p with link := false, hdx := true } ∧ only s') ∧
      (∀ v, w.getLsbD 15 = true → w.getLsbD 12 = true → speedOf w = some v → Answers (.linkNegotiation p w) s fun s' =>
        s'.ethPort p = { s.ethPort p with link := true, hdx := false, speed := v } ∧ only s')) ∧
    (Answers (.ethLinkLoss p) s fun s' => s'.ethPort p = { s.ethPort p with link := false } ∧ only s'))

/-- Egress: a value reaches the staging place of its template, a TIMED frame is queued at its launch instant, the highest
queue whose gate admits its first frame sends it, and gate control lists start and go from entry to entry.
Completes: templateTokenArrival, timedLaunch, frameTransmit, gateIntervalEnd, gateListStart. -/
def Obligations.FramesLeaveByTheirGates : Prop :=
  (∀ (s : State) (p : Packet) (rest : List Packet) (n : Nat) (t : Template),
    let tok := packetToken p
    s.eth.inq = p :: rest → s.ethRuns = true → s.reelAccepts (tagCtx tok.tag) = true →
    s.templateFor (tagCtx tok.tag) (bits (tagNode tok.tag) 0 6) (tagInst tok.tag) = some (n, t) →
    exec .templateTokenArrival s = .next ((s.updEth fun e => { e with inq := rest }).stage n t tok)) ∧
  (∀ (tpl : BitVec 11) (s : State) (t : Template) (p : BitVec 2) (i v : DWord) (inst : Byte),
    s.ethRuns = true → s.eth.templates.find tpl.toNat = some t → t.timed = true → t.staged = some (v, inst) → t.toGo = [p] →
    s.launchOn t p = some i → (s.ethPort p).queued t.queue + (t.frame v inst).length + 4 ≤ 32768 →
    Answers (.timedLaunch tpl) s fun s' =>
      (s'.ethPort p).queues.getD t.queue [] = (s.ethPort p).queues.getD t.queue [] ++ [t.frame v inst] ∧
      (∃ t', s'.eth.templates.find tpl.toNat = some t' ∧ t'.staged = none ∧ t'.toGo = []) ∧
      (s'.eth.tplCnt.getD tpl.toNat {}).sent = satInc (s.eth.tplCnt.getD tpl.toNat {}).sent ∧ s'.mem = s.mem ∧ s'.threads = s.threads) ∧
  (∀ (p : BitVec 2) (s : State) (q : Nat) (b : List Byte),
    s.ethRuns = true → (s.ethPort p).link = true → ((s.ethPort p).busyUntil - s.tb.now).toInt ≤ 0 →
    (s.ethPort p).pick s.tb.now = some (q, b) → Answers (.frameTransmit p) s fun s' =>
      s'.out = .frame p b :: s.out ∧ (s'.ethPort p).tx = satInc (s.ethPort p).tx ∧
      (s'.ethPort p).busyUntil = s.tb.now + BitVec.ofNat 64 ((s.ethPort p).duration b) ∧ { s' with eth := s.eth, out := s.out } = s) ∧
  (∀ (p : BitVec 2) (s : State) (l : GateList), (s.ethPort p).list = some l → Answers (.gateIntervalEnd p) s fun s' =>
    (s'.ethPort p).entry = ((s.ethPort p).entry + 1) % l.entries.length ∧
    (s'.ethPort p).entryEnd = (s.ethPort p).entryEnd + BitVec.setWidth 64 (l.entries.getD (s'.ethPort p).entry (0, 0)).2 ∧
    (s'.ethPort p).list = some l ∧ (s'.ethPort p).queues = (s.ethPort p).queues ∧ s'.mem = s.mem ∧ s'.threads = s.threads) ∧
  (∀ (p : BitVec 2) (s : State) (l : GateList) (t : DWord), (s.ethPort p).pendingList = some (l, t) →
    Answers (.gateListStart p) s fun s' =>
      (s'.ethPort p).list = some l ∧ (s'.ethPort p).pendingList = none ∧ (s'.ethPort p).entry = 0 ∧
      (s'.ethPort p).entryEnd = t + BitVec.setWidth 64 (l.entries.getD 0 (0, 0)).2 ∧ s'.mem = s.mem ∧ s'.threads = s.threads)

/-! ## Resets, power and clocks (12 R364-R366, 15) -/

/-- A function-level reset of a function (`flrOne`) leaves no ring, image, slot, vector or command of it; while the firmware does
not run, the function waits for it. Complete: flr (of a VF that function, of a PF every function of its port), vfEnableSet,
vfEnableClear, perstNAssert, perstNRelease, pcieLinkUp, pcieUncorrectableError and portEnable, each with what it writes.
Completes: flr, vfEnableClear, perstNAssert, perstNRelease, portEnable, pcieLinkUp, pcieUncorrectableError, vfEnableSet. -/
def Obligations.FunctionsAreReset : Prop :=
  (∀ (f : FuncId) (s : State), s.funcExists f = true →
    (s.fwRuns = true →
      let s' := s.flrOne f
      (∀ r, s'.ring f r = none) ∧ (s'.func f).flr = false ∧ s'.mbox f = { notrdy := !(s'.port (funcPort f)).enabled } ∧
      s'.msix f = {} ∧ (∀ i, i < 64 → s'.hub.slots.getD (64 * f.toNat + i) {} = {}) ∧ (∀ e ∈ s'.fw.images, e.2.owner ≠ f)) ∧
    (s.fwRuns = false →
      let s' := s.flrOne f
      (s'.func f).flr = true ∧ (s'.func f).flrAt = some s.scnt ∧ s'.mbox f = {} ∧ s'.hub.rings = s.hub.rings ∧ { s' with hub := s.hub } = s) ∧
    (funcIdx f ≠ 0 → exec (.flr f) s = .next (s.flrOne f)) ∧
    (funcIdx f = 0 → exec (.flr f) s = .next ((portFuncs (funcPort f) true).foldl State.flrOne s))) ∧
  (∀ (p : BitVec 2) (s : State),
    let q := s.port p
    (∀ k : BitVec 5, q.present = true → q.enabled = true → q.vfEnable = false → Answers (.vfEnableSet p k) s fun s' =>
      s'.port p = { q with vfEnable := true, numVfs := k } ∧ { s' with hub := s.hub } = s) ∧
    (q.vfEnable = true → exec (.vfEnableClear p) s =
      .next (((portFuncs p false).foldl State.flrOne s).updPort p fun q => { q with vfEnable := false })) ∧
    (let down (t : State) : Prop := (t.port p).linkUp = false ∧ (t.port p).enabled = false ∧ (t.port p).crs = true ∧
        (t.port p).vfEnable = false ∧ (t.port p).numVfs = 0 ∧ (t.port p).deckle = true ∧ (∀ f ∈ portFuncs p true, t.mbox f = {})
     (q.present = true → Answers (.perstNAssert p .pin) s fun t => t = s.portDown p (some .pin) ∧ down t ∧ (t.port p).perst = true) ∧
     (∀ why : PortReset, why ≠ .pin → q.present = true → Answers (.perstNAssert p why) s fun t =>
        t = s.portDown p (some why) ∧ down t ∧ (t.port p).retrain = true) ∧
     (q.present = true → q.linkUp = true → Answers (.pcieUncorrectableError p) s fun t =>
        t = (s.aerReport (pfOf p) .link).portDown p none ∧ down t)) ∧
    (q.present = true → q.perst = true → Answers (.perstNRelease p) s fun s' =>
      let up := s.hostUp && s.clk.pciLock.getLsbD p.toNat
      s'.port p = { q with perst := false, released := q.released || up } ∧
      ((q.released && up) = false → { s' with hub := s.hub } = s) ∧ s'.mem = s.mem ∧ s'.ctxs = s.ctxs ∧ s'.threads = s.threads) ∧
    (∀ gen5 : Bool, q.present = true → q.perst = false → s.hostUp = true → s.hostRails = true → s.clk.pciLock.getLsbD p.toNat = true →
      q.linkUp = false → Answers (.pcieLinkUp p gen5) s fun s' =>
      s'.port p = { q with linkUp := true, gen5 := gen5 && !q.gen4, deckle := false, retrain := false, released := true } ∧
      ((q.retrain && q.released) = false → { s' with hub := s.hub } = s) ∧ s'.mem = s.mem ∧ s'.ctxs = s.ctxs ∧ s'.threads = s.threads) ∧
    (q.present = true → q.linkUp = true → q.enabled = false → (s.fw.ready || s.keeper.keeper) = true → Answers (.portEnable p) s fun s' =>
      s'.port p = { q with crs := false, enabled := true } ∧ (s'.mbox (pfOf p)).notrdy = (s.func (pfOf p)).flr ∧ { s' with hub := s.hub } = s))

/-- Cold and warm resets and a thermal trip hold every domain of their scope, set their bit of RST_CAUSE, and lose what lies
in those domains; what flash and fuses hold stays, but for what an external programmer writes while PORST_N is low.
Completes: thermalTrip, porstNAssert, porstNRelease, warmReset, warmResetRelease, vddAonPowerUp. -/
def Obligations.ResetsHoldTheirDomains : Prop :=
  (∀ s : State, Answers .vddAonPowerUp s fun s' =>
    s'.clk.rstCause = 0b10001 ∧ s'.clk.porstLow = true ∧ (∀ d, d < 22 → (s'.xing d).inReset = true) ∧ s'.ctxs = [] ∧ s'.threads = [] ∧
    s'.fw.fusedCounter = s.fw.fusedCounter ∧ s'.fw.versions = s.fw.versions) ∧
  (∀ s : State, Answers .porstNAssert s fun s' =>
    s'.clk.rstCause = s.clk.rstCause ||| 1 ∧ s'.clk.thermLatch = false ∧ s'.clk.porstLow = true ∧
    (∀ d, d < 22 → (s'.xing d).inReset = true) ∧ s'.ctxs = [] ∧ s'.threads = []) ∧
  (∀ (a b c : BitVec 2) (flash : List (Bool × Word)) (s : State), s.clk.porstLow = true → Answers (.porstNRelease a b c flash) s fun s' =>
    s'.hub.straps = c ++ b ++ a ∧ s'.hub.admin = strapAdmin (c ++ b ++ a) (bifPorts a) ∧ s'.scnt = 0 ∧ s'.clk.porstLow = false ∧
    s'.clk.thermLatch = s.clk.thermLatch ∧ (s'.xing 0).inReset = false ∧ s'.mem = s.mem ∧ (flash = [] → s'.fw = s.fw) ∧
    (∀ bank v, flash = [(bank, v)] → s'.fw.versions.find bank.toNat = some v ∧ s'.fw.staged = none)) ∧
  (∀ s : State, s.clk.porstLow = false → Answers .thermalTrip s fun s' =>
    s'.clk.rstCause = s.clk.rstCause ||| 2 ∧ s'.clk.thermLatch = true ∧ (∀ d, 1 ≤ d → d < 22 → (s'.xing d).inReset = true) ∧
    s'.ctxs = [] ∧ s'.threads = [] ∧ s'.keeper.running = false ∧ s'.scnt = s.scnt ∧ s'.hub.straps = s.hub.straps) ∧
  (∀ s : State, s.clk.porstLow = true → Answers .thermalTrip s fun s' =>
    s'.clk = { s.clk with thermLatch := true, rstCause := s.clk.rstCause ||| 2 } ∧ { s' with clk := s.clk } = s) ∧
  (∀ s : State, s.awake = true → s.clk.warmLow = false → Answers .warmReset s fun s' =>
    s'.clk.rstCause = s.clk.rstCause ||| 4 ∧ s'.clk.warmLow = true ∧ (∀ d, 2 ≤ d → d < 22 → (s'.xing d).inReset = true) ∧
    s'.ctxs = [] ∧ s'.threads = [] ∧ s'.keeper = { s.keeper with warmed := true } ∧ s'.clk.dead = s.clk.dead ∧ s'.scnt = s.scnt ∧ s'.hub.straps = s.hub.straps) ∧
  (∀ s : State, s.clk.warmLow = true → Answers .warmResetRelease s fun s' =>
    s'.clk.warmLow = false ∧ s'.keeper = { s.keeper with warmReq := false } ∧ (s.keeper.warmReq = true → s.keeper.warmAt + scUs 10 ≤ s'.scnt) ∧
    s'.mem = s.mem ∧ s'.ctxs = s.ctxs)

/-- Start-up goes its steps: PLLs lock, the keeper's and the stewards' images are verified, the stack is trained, the sections
come up or stay off, and the firmware reports ready.
Completes: firmwareReady, keeperImageVerify, stewardImageLoad, hbmInitialisation, sectionStartup, pllLock. -/
def Obligations.StartupGoesItsSteps : Prop :=
  (∀ s : State, s.awake = true → s.clk.safeLock = false → Answers (.pllLock .safe) s fun s' =>
    s'.clk.safeLock = true ∧ s'.keeper.running = true ∧ (s'.xing 1).inReset = false ∧ s'.mem = s.mem ∧ s'.ctxs = s.ctxs) ∧
  (∀ (s : State) (n : BitVec 4), s.awake = true → (s.sect n).pstate ≠ 0 → Answers (.pllLock (.sect n)) s fun s' =>
    s'.sect n = (if (s.sect n).pstate = 1 then
      { s.sect n with pstate := 2, lock := true, gated := false, mcur := (s.sect n).m, thr := false, phase := 0, was := none }
      else { s.sect n with lock := true }) ∧ (∀ m, m ≠ n → s'.sect m = s.sect m) ∧ { s' with clk := s.clk } = s) ∧
  (∀ (s : State) (ok0 ok1 : Bool), s.keeper.running = true → s.clk.keeperOk = false → s.clk.dead = false →
    Answers (.keeperImageVerify ok0 ok1) s fun s' =>
      s'.clk.keeperOk = (ok0 || ok1) ∧ s'.clk.dead = !(ok0 || ok1) ∧ s'.keeper.faultN = (s.keeper.faultN || !(ok0 || ok1)) ∧
      ((ok0 || ok1) = true → s'.fw = { s.fw with keeperRuns := some (s.fw.keeperOf (if ok0 then s.fw.bank else !s.fw.bank)) }) ∧
      { s' with clk := s.clk, keeper := s.keeper, fw := s.fw } = s) ∧
  (∀ (s : State) (ok0 ok1 : Bool), s.fw.held = true → s.fw.ready = false → s.clk.keeperOk = true → s.awake = true →
    s.clk.warmLow = false → s.hostUp = true → s.keeper.running = true → s.clk.dead = false → s.keeper.restartAt = none →
    (s.keeper.keeper = true → s.keeper.warmed = false → exec (.stewardImageLoad ok0 ok1) s = .next s) ∧
    (s.keeper.keeper = false ∨ s.keeper.warmed = true → Answers (.stewardImageLoad ok0 ok1) s fun s' =>
      ((ok0 || ok1) = true → s'.fw.held = false ∧ s'.fw.bank = (if ok0 then s.fw.bank else !s.fw.bank) ∧ (s'.xing 2).inReset = false ∧
        (s'.xing 5).inReset = false ∧ s'.keeper.keeper = s.keeper.keeper) ∧
      ((ok0 || ok1) = false → s'.keeper.keeper = true ∧ s'.keeper.cause = 6))) ∧
  (∀ s : State, s.fw.held = false → s.fw.ready = false → s.clk.hbmUp = false → Answers .hbmInitialisation s fun s' =>
    s'.clk.hbmUp = true ∧ (∀ c, (s'.cluster c).spill = []) ∧ { s' with clk := s.clk, clusters := s.clusters } = s) ∧
  (∀ (s : State) (n : BitVec 4) (ok : Bool), s.clk.hbmUp = true → s.fw.held = false → s.fw.ready = false → (s.sect n).tried = false →
    Answers (.sectionStartup n ok) s fun s' =>
      (s'.sect n).tried = true ∧ (s'.sect n).svc = (if ok then 0 else 4) ∧ (ok = true → (s'.sect n).pstate = 3 ∧ (s'.router n).ep = [0, 0, 0, 0]) ∧
      (∀ m, m ≠ n → s'.sect m = s.sect m) ∧ s'.mem = s.mem ∧ s'.ctxs = s.ctxs) ∧
  (∀ s : State, s.fw.paused = 0 → s.startedUp = true → s.hub.steward.recs = [] → (∀ e ∈ s.hub.funcs, e.2.flr = false) →
    Answers .firmwareReady s fun s' =>
      s'.fw.ready = true ∧ s'.keeper.keeper = false ∧ s'.keeper.cause = 0 ∧ s'.keeper.faultN = false ∧ s'.mem = s.mem ∧ s'.ctxs = s.ctxs)

/-- Section power, fabric clocks and the references: a section ramps, its PLL locks, its clock wakes it out of reset, and it drains
and goes off; M takes effect at once but under a throttle; wake pulses beyond 16 merge; and a lost reference sets its flag.
Completes: clkFabWrite, clockWake, clockGate, referenceCheck, sectionPowerOff, sectionPowerOn. -/
def Obligations.SectionsArePoweredAndClocked : Prop :=
  (∀ (n : BitVec 4) (s : State),
    let x := s.sect n
    (∀ v : Word,
      let k : BitVec 5 := bits v 0 5
      let m : BitVec 5 := if s.mon.avsFault = true ∧ 16 < k.toNat then 16 else k
      (k.toNat < 4 ∨ 20 < k.toNat → exec (.clkFabWrite n v) s = .next s) ∧
      (4 ≤ k.toNat → k.toNat ≤ 20 → Answers (.clkFabWrite n v) s fun s' =>
        (s.throttled n = false → s'.sect n = { x.setCur m with m := m, thr := false, gated := false }) ∧
        (s.throttled n = true → (s'.sect n).m = m ∧ (s'.sect n).gated = false ∧
          (s'.sect n).mcur = if x.mcur.toNat < m.toNat then x.mcur else if m = 4 then 4 else m - 1) ∧
        (∀ q, q ≠ n → s'.sect q = s.sect q) ∧ s'.mon = { s.mon with mReq := s.mon.mReq.erase n.toNat } ∧
        { s' with clk := s.clk, mon := s.mon } = s)) ∧
    (∀ k : Nat, (s.sect n).pstate ≠ 2 → Answers (.clockWake n k) s fun s' =>
      s'.sect n = { x with gated := false } ∧ (∀ m, m ≠ n → s'.sect m = s.sect m) ∧
      (let d := s.xing (sectDomain n)
       let e := s'.xing (sectDomain n)
       (d.inReset = false → e.pending = 0 ∧ e.merged = (d.merged || decide (16 < k)) ∧ e.mergeCnt = satAdd d.mergeCnt (k - 16)) ∧
       (d.inReset = true → e.pending = BitVec.ofNat 4 (min 15 (d.pending.toNat + k)))) ∧ { s' with clk := s.clk } = s) ∧
    (x.pstate = 2 → x.lock = true → x.heldReq = none → s.fw.held = false → Answers (.clockWake n) s fun s' =>
      (s'.sect n).pstate = 3 ∧ (s'.sect n).iso = false ∧ (s'.xing (sectDomain n)).inReset = false ∧ s'.mem = s.mem ∧ s'.ctxs = s.ctxs) ∧
    (x.pstate = 3 → x.lock = true → s.sectionIdle n = true → Answers (.clockGate n) s fun s' =>
      s'.sect n = { x with gated := true } ∧ (∀ m, m ≠ n → s'.sect m = s.sect m) ∧ { s' with clk := s.clk } = s) ∧
    (x.pstate = 3 → x.heldReq = none → (s.router n).ep.all (· == 2) = true → Answers (.sectionPowerOff n) s fun s' =>
      (s'.sect n).pstate = 0 ∧ (s'.sect n).req = false ∧ (s'.sect n).iso = true ∧ (s'.xing (sectDomain n)).inReset = true ∧
      (∀ c ∈ sectClusters n, s'.cluster c = { spill := (s.cluster c).spill } ∧ ∀ t, isSteward t = false → tCluster t = c → s'.thread t = {}) ∧
      (∀ i, i < 0x400000 → Memory.get s'.mem (bankBase + n.toNat * 0x400000 + i) = memDefault) ∧ s'.ctxs = s.ctxs) ∧
    (x.pstate = 3 → (s.router n).ep.all (· == 2) = false → Answers (.sectionPowerOff n) s fun s' =>
      s'.sect n = { x with req := false, pstate := 4 } ∧ (∀ m, m ≠ n → s'.sect m = s.sect m) ∧ { s' with clk := s.clk } = s) ∧
    (x.pstate = 1 ∨ x.pstate = 2 → Answers (.sectionPowerOff n) s fun s' =>
      s'.sect n = { x with req := false, heldReq := some false } ∧ { s' with clk := s.clk } = s) ∧
    (x.pstate = 0 → s.fw.held = false → Answers (.sectionPowerOn n) s fun s' =>
      s'.sect n = { x with req := true, pstate := 1, iso := true, lock := false } ∧ (∀ m, m ≠ n → s'.sect m = s.sect m) ∧
      { s' with clk := s.clk } = s) ∧
    (x.pstate = 4 → Answers (.sectionPowerOn n) s fun s' =>
      s'.sect n = { x with req := true, heldReq := some true } ∧ { s' with clk := s.clk } = s)) ∧
  (∀ (lost : Byte) (s : State), (s.xing 1).inReset = false → Answers (.referenceCheck lost) s fun s' =>
    s'.clk = { s.clk with refLoss := s.clk.refLoss ||| (lost &&& s.refWatched), refDead := lost &&& s.refWatched } ∧ { s' with clk := s.clk, hub := s.hub } = s)

/-! ## Monitors (16 R452, 17) -/

/-- Readings, thresholds and windows: a temperature is stored and warns, throttles and trips at its thresholds; the throttle
steps MCUR down and up again; a voltage is stored; and AVS sets the target that it computes, once the multiples to be lowered are, and waits
for the answer, for want of which after 1 ms M is held at 16 or below until a retry is answered.
Completes: temperatureSample, voltageSample, throttleStep, throttleRecoveryStep, avsUpdate, regulatorFault, avsbusRetry. -/
def Obligations.MonitorsWarnThrottleAndTrip : Prop :=
  (∀ (i : BitVec 6) (v : BitVec 16) (ok : Bool) (s : State), i.toNat < 36 → s.clk.porstLow = false →
    (i.toNat < 32 → s.sectOff (i.toNat / 2) = false) →
    (1080 ≤ v.toInt → Answers (.temperatureSample i v ok) s fun s' => s'.clk.thermLatch = true ∧ s'.clk.rstCause = s.clk.rstCause ||| 2) ∧
    (v.toInt < 856 → Answers (.temperatureSample i v ok) s fun s' =>
      s'.mon.temp.getD i.toNat 0 = v ∧ i.toNat ∉ s'.mon.warm ∧ i.toNat ∉ s'.mon.hot ∧ (s'.mon.alertN = (!s'.mon.warm.isEmpty || !s'.mon.vout.isEmpty)) ∧
      s'.mem = s.mem ∧ s'.ctxs = s.ctxs) ∧
    (960 ≤ v.toInt → v.toInt < 1000 → i.toNat < 32 → Answers (.temperatureSample i v ok) s fun s' =>
      s'.mon.temp.getD i.toNat 0 = v ∧ i.toNat ∈ s'.mon.warm ∧ i.toNat ∈ s'.mon.hot ∧ s'.mon.alertN = true ∧ s'.mem = s.mem ∧ s'.ctxs = s.ctxs)) ∧
  (∀ (i : BitVec 6) (v : BitVec 16) (ok : Bool) (s : State), 36 ≤ i.toNat → i.toNat ≤ 37 → s.clk.porstLow = false → (v &&& 0xFFF8).toInt < 1000 →
    Answers (.temperatureSample i v ok) s fun s' => s'.mon.temp.getD i.toNat 0 = v &&& 0xFFF8 ∧ s'.mem = s.mem ∧ s'.ctxs = s.ctxs) ∧
  (∀ (n : BitVec 4) (s : State),
    let x := s.sect n
    ((s.mon.hot.contains (2 * n.toNat) || s.mon.hot.contains (2 * n.toNat + 1)) = true → Answers (.throttleStep n) s fun s' =>
      (s'.sect n).mcur = (if 4 < x.mcur.toNat then x.mcur - 1 else x.mcur) ∧ (s'.sect n).m = x.m ∧ s'.mem = s.mem ∧ s'.ctxs = s.ctxs) ∧
    ((s.mon.hot.contains (2 * n.toNat) || s.mon.hot.contains (2 * n.toNat + 1)) = false → x.mcur.toNat < x.m.toNat →
      Answers (.throttleRecoveryStep n) s fun s' =>
        (s'.sect n).mcur = x.mcur + 1 ∧ (s'.sect n).thr = decide (x.mcur.toNat + 1 < x.m.toNat) ∧ s'.mem = s.mem ∧ s'.ctxs = s.ctxs)) ∧
  (∀ (n : BitVec 5) (mv : BitVec 16) (s : State), n.toNat ≤ 23 → s.clk.porstLow = false → s.sectOff n.toNat = false →
    s.outside n.toNat (s.mon.warn.getD n.toNat 30).toNat mv.toNat = false → s.outside n.toNat (s.mon.crit.getD n.toNat 60).toNat mv.toNat = false →
    (16 ≤ n.toNat → s.outside n.toNat (railTolerance n.toNat) mv.toNat = false) →
    s.mon.slew.find n.toNat = none → Answers (.voltageSample n mv) s fun s' =>
      s'.mon.volt.getD n.toNat 0 = mv ∧ (n.toNat ∉ s.mon.vout → n.toNat ∉ s'.mon.vout) ∧ s'.mon.vcrit.find n.toNat = none ∧
      s'.hub.rings = s.hub.rings ∧ s'.mem = s.mem ∧ s'.ctxs = s.ctxs) ∧
  (∀ (ack : Bool) (want : Option (BitVec 4 × BitVec 5)) (s : State), s.fwRuns = true →
    (s.mon.avsFault = true ∨ s.mon.avsSent.isSome = true → exec (.avsUpdate ack want) s = .next s) ∧
    (s.mon.avsFault = false → s.mon.avsSent = none →
      let b := (match want with
        | some (n, m) => if 4 ≤ m.toNat ∧ m.toNat ≤ 20 then (s.every 160 (scMs 10)).updMon fun x => { x with mReq := x.mReq.set n.toNat m }
          else s.every 160 (scMs 10)
        | none => s.every 160 (scMs 10)).convertProc
      let t : BitVec 16 := BitVec.ofNat 16 (b.avsCompute 300 b.avsSections).1
      Answers (.avsUpdate ack want) s fun s' =>
        (s.mon.avsTarget.toNat ≤ t.toNat ∨ (∀ e ∈ (b.avsCompute 300 b.avsSections).2, (b.sect (BitVec.ofNat 4 e.1)).m.toNat ≤ e.2.toNat) →
          s'.mon.avsTarget = t ∧ .avs t ∈ s'.out ∧ (∀ k, k < 17 → s'.nomOf k = t) ∧ s'.mon.avsSent.isNone = ack ∧ s'.mon.avsFault = false) ∧
        (s'.mon.avsTarget = t ∨ s'.mon.avsTarget = s.mon.avsTarget ∧ s'.mon.nom = s.mon.nom ∧ s'.out = s.out) ∧
        s'.mem = s.mem ∧ s'.ctxs = s.ctxs)) ∧
  (∀ s : State, s.fwRuns = true →
    (s.mon.avsSent = none → exec .regulatorFault s = .next s) ∧
    (∀ t, s.mon.avsSent = some t → Answers .regulatorFault s fun s' =>
      s'.mon.avsFault = true ∧ s'.mon.avsSent = none ∧ t + scMs 1 ≤ s'.scnt ∧ (∀ n, (s'.sect n).m.toNat ≤ 16) ∧ s'.mon.nom = s.mon.nom ∧
      s'.mem = s.mem ∧ s'.ctxs = s.ctxs) ∧
    (s.mon.avsFault = true → s.mon.mReq = [] → (∀ n, (s.sect n).m.toNat ≤ 16) → Answers (.avsbusRetry true) s fun s' =>
      s'.mon.avsFault = false ∧ s'.mon.avsSent = none ∧ s'.mem = s.mem ∧ s'.ctxs = s.ctxs))

/-! ## Mailbox commands (13 R382-R400) -/

/-- DEV_INFO, DEV_HEALTH and the commands of firmware, time, keeper and routes complete as their rows say.
Completes: devInfo, devHealth, fwStage, fwActivate, timeSet, timeSource, tickSet, routeEpoch, keeperTableSet, keeperEnter. -/
def Obligations.DeviceCommandsComplete : Prop :=
  ∀ (f : FuncId) (s : State),
    (s.accepts f 0x0001 = true → exec (.devInfo f) s = .next (s.completes f (s.devInfo f) none) ∧ (s.devInfo f).length = 48 ∧
      (s.devInfo f).take 3 = [0x64, 0x0C, 0xB0] ∧ (s.devInfo f).getD 8 0 = BitVec.setWidth 8 f ∧ (s.devInfo f).getD 9 0 = BitVec.setWidth 8 s.hub.admin) ∧
    (s.accepts f 0x0002 = true → exec (.devHealth f) s = .next (s.completes f (s.devHealth f) none)) ∧
    (∀ b : List Byte, s.accepts f 0x0003 = true → b.length = s.arg f 0x18 4 → b.length ≤ 0x400000 →
      let verdict := Config.fwVerdict b s.fw.fusedCounter s.fw.fusedKeeper
      exec (.fwStage f (.data b)) s = .next (if verdict = 0 then (s.updFw fun w =>
        { w with versions := w.versions.set (!w.bank).toNat (Config.fwVersion b),
                 keeperParts := w.keeperParts.set (!w.bank).toNat (Config.keeperPart (Config.fwVersion b)),
                 staged := some (Config.fwVersion b) }).completes f
          (leBytes 4 (Config.fwVersion b).toNat) none
        else s.settle f (.fail BAD_ARG 0xFFFF verdict 0 none))) ∧
    (s.accepts f 0x0004 = true → s.fw.staged.isSome = true → Answers (.fwActivate f) s fun s' =>
      s'.fw.paused = 1 ∧ s'.fw.bank = (!s.fw.bank) ∧ s'.fw.activateAt = s.scnt ∧ (s'.mbox f).pend = true ∧ (s'.mbox f).begun = true ∧
      (∀ e ∈ s'.threads, isSteward (BitVec.ofNat 13 e.1) = false) ∧ s'.mem = s.mem ∧ s'.ctxs = s.ctxs) ∧
    (s.accepts f 0x0601 = true →
      (s.tb.src = 0 → exec (.timeSet f) s = .next ((s.stepTb (BitVec.ofNat 64 (s.arg f 0x10 8) - s.tb.now)).completes f [] none)) ∧
      (s.tb.src ≠ 0 → exec (.timeSet f) s = .next (s.settle f (.bad WRONG_STATE 0x08)))) ∧
    (s.accepts f 0x0602 = true → s.arg f 0x10 1 = 0 → s.arg f 0x11 1 ≤ 3 → s.arg f 0x14 4 = 0 → Answers (.timeSource f) s fun s' =>
      s'.tb.src = 0 ∧ s'.tb.port = BitVec.ofNat 2 (s.arg f 0x11 1) ∧ s'.tb.holdover = false ∧ s'.tb.stepth = 100000 ∧
      s'.tb.rate = rateHeld (BitVec.ofNat 32 (s.arg f 0x18 4)) ∧ s'.tb.now = s.tb.now ∧ s'.mem = s.mem ∧ s'.ctxs = s.ctxs) ∧
    (s.accepts f 0x0603 = true → (∀ e ∈ s.ctxs, e.2.state = FREE) → s.arg f 0x10 4 % 5 = 0 → 125 ≤ s.arg f 0x10 4 → s.arg f 0x10 4 ≤ 1000000 →
      Answers (.tickSet f) s fun s' =>
        s'.tkNs = s.arg f 0x10 4 ∧ s'.tb.tc = BitVec.ofNat 64 (s.tb.now.toNat / s.arg f 0x10 4) ∧ s'.tb.now = s.tb.now ∧ s'.mem = s.mem) ∧
    (∀ b : List Byte, s.accepts f 0x0A01 = true → s.arg f 0x18 4 = 336 → b.length = 336 → kprBad (BitVec.ofNat 2688 (leNat b)) = none →
      exec (.keeperTableSet f (.data b)) s =
        .next (((s.keeperBack.updKeeper fun k => { k with table := some (BitVec.ofNat 2688 (leNat b)) }).drive).completes f [] none)) ∧
    (s.accepts f 0x0A02 = true → s.arg f 0x10 4 = 0x4B454550 → s.keeper.running = true → s.clk.dead = false → Answers (.keeperEnter f) s fun s' =>
      (s'.mbox f).done = true ∧ (s'.mbox f).status = OK ∧ s'.keeper.keeper = true ∧ s'.keeper.cause = 5) ∧
    (s.accepts f 0x0805 = true → s.stale = false →
      let tab (r : Nat) : DWord := BitVec.ofNat 64 (s.arg f (0x10 + 8 * r) 8)
      ((List.range 16).all fun r => (List.range 16).all fun d => !(tab r).getLsbD (4 * d + 3)) = true → tablesOk tab = true →
      exec (.routeEpoch f) s = .next ((s.newTables tab).completes f (leBytes 1 (if (s.newTables tab).spine.cur then 1 else 0)) none))

/-- Images, tables and contexts: the commands of the graph family complete as their rows say.
Completes: graphLoad, graphUnload, tableLoad, tableRemove, ctxAdmit, ctxStart, ctxStop, ctxKill, ctxUpdate, ctxUpdatePolicy,
ctxQuery. -/
def Obligations.GraphCommandsComplete : Prop :=
  ∀ (f : FuncId) (s : State),
    let x := s.argCtx f 8
    let h : BitVec 16 := BitVec.ofNat 16 (s.arg f 8 2)
    let us := s.arg f 0x10 4
    (∀ (b : List Byte) (m : Image) (k : Nat), s.accepts f 0x0101 = true → b.length = s.arg f 0x18 4 → parseImage f b = .inl m →
      s.imageRoom b.length = true → (least 65534 fun k => (s.fw.images.find (k + 1)).isNone) = some k →
      exec (.graphLoad f (.data b)) s = .next ((s.updFw fun w => { w with images := w.images.set (k + 1) m }).completes f
        (leBytes 2 (k + 1) ++ leBytes 1 m.cls.toNat ++ [0] ++ leBytes 4 m.nodecnt) none)) ∧
    (∀ m : Image, s.accepts f 0x0102 = true → s.image h = some m → m.owner = f ∨ f = s.hub.admin →
      (s.imageUsed h = false → exec (.graphUnload f) s = .next ((s.updFw fun w => { w with images := w.images.erase h.toNat }).completes f [] none)) ∧
      (s.imageUsed h = true → exec (.graphUnload f) s = .next (s.settle f (.bad WRONG_STATE 0x08)))) ∧
    (s.accepts f 0x0103 = true → s.serves f = true → (s.ctx x).cls = 0 →
      (∀ (b : List Byte) (t : Table), s.arg f 0x20 1 = 0 → s.argDma f = true → b.length = s.arg f 0x18 4 → parseTable b = some (t, b.length) →
        s.imageRoom (b.length - (((s.caux x).tables.find? (·.handle == t.handle)).map (·.size)).getD 0) = true →
        exec (.tableLoad f (.data b)) s = .next ((s.updAux x fun a => { a with tables := putTable a.tables { t with size := b.length } }).completes f [] none)) ∧
      (s.arg f 0x20 1 = 1 → ((s.caux x).tables.any (·.handle == BitVec.ofNat 16 (s.arg f 0x22 2))) = true →
        exec (.tableRemove f) s = .next ((s.updAux x fun a =>
          { a with tables := a.tables.filter (·.handle != BitVec.ofNat 16 (s.arg f 0x22 2)) }).completes f [] none))) ∧
    (∀ (m : Image) (cs : List ClusterId) (y : CtxId) (base : Nat), s.accepts f 0x0201 = true → s.image h = some m →
      m.owner = f ∨ f = s.hub.admin → (s.faultRing m.owner).isSome = true → us = 0 ∨ 10 ≤ us ∧ us ≤ 1000000 →
      (m.cls = 1 → m.sealOk s.fw.seals = true) → s.budgetFor m.owner m.use = true → s.choose m = some cs → s.freeNumber = some y →
      s.flowRun m.flowcnt = some base →
      exec (.ctxAdmit f) s = .next ((s.admitAt y h m cs base (if us = 0 then 100000 else 1000 * us) (s.arg f 0x14 1 % 2 == 1) (s.arg f 0x14 1 / 2 % 2 == 1)).completes f
        (leBytes 2 y.toNat ++ leBytes 1 m.csize ++ leBytes 5 0 ++ (List.range 64).map fun k => BitVec.setWidth 8 (cs.getD k 0)) none)) ∧
    (s.accepts f 0x0202 = true → s.serves f = true →
      ((s.ctx x).state = ADMITTED → exec (.ctxStart f) s = .next (((s.updCtx x fun e => { e with state := RUNNING }).startTasks x).completes f [] none)) ∧
      ((s.ctx x).state = STOPPED → exec (.ctxStart f) s = .next (((s.updCtx x fun e => { e with state := RUNNING }).lateFrozen x).completes f [] none)) ∧
      ((s.ctx x).state ≠ ADMITTED → (s.ctx x).state ≠ STOPPED → exec (.ctxStart f) s = .next (s.settle f (.bad WRONG_STATE 0x08)))) ∧
    (s.accepts f 0x0203 = true → s.serves f = true →
      ((s.ctx x).state = RUNNING → exec (.ctxStop f) s = .next ((s.updCtx x fun e => { e with state := QUIESCING }).completes f [] none)) ∧
      ((s.ctx x).state ≠ RUNNING → exec (.ctxStop f) s = .next (s.settle f (.bad WRONG_STATE 0x08)))) ∧
    (s.accepts f 0x0204 = true → s.serves f = true → s.dying x = false → (s.caux x).move = none →
      exec (.ctxKill f) s = .next ((s.killBegin x (some f)).goesOn f)) ∧
    (∀ m old : Image, ∀ t : State, s.accepts f 0x0205 = true → s.serves f = true → s.arg f 0x10 2 ≠ 0 → (s.ctx x).state = RUNNING →
      s.arg f 0x14 4 ≤ 60000 → (s.arg f 0x18 1 % 2 = 1 → f = s.hub.admin) → s.image (BitVec.ofNat 16 (s.arg f 0x10 2)) = some m →
      s.imageOf x = some old → m.owner = (s.ctx x).owner → m.cls = (s.ctx x).cls → m.csize = (s.ctx x).csize.toNat → m.taskBytes = old.taskBytes →
      m.taskcnt = old.taskcnt → m.flowcnt ≤ (s.ctx x).flowcnt.toNat → (m.cls = 1 → m.sealOk s.fw.seals = true) → s.withinReserved x m = true →
      s.loadNodes x (BitVec.ofNat 16 (s.arg f 0x10 2)) m = some t →
      exec (.ctxUpdate f) s = .next ((((t.setPolicy x (s.arg f 0x18 1)).updCtx x fun e => { e with state := UPDATING, updb := BitVec.ofNat 16 (s.arg f 0x12 2) }).updAux x fun a =>
        { a with update := some { image := BitVec.ofNat 16 (s.arg f 0x10 2), dueSc := s.scnt + scMs (if s.arg f 0x14 4 = 0 then 1000 else s.arg f 0x14 4) } }).completes
          f [] none)) ∧
    (s.accepts f 0x0205 = true → s.serves f = true → s.arg f 0x10 2 = 0 → s.arg f 0x14 4 ≤ 60000 →
      (s.arg f 0x18 1 % 2 = 1 → f = s.hub.admin) → exec (.ctxUpdatePolicy f) s = .next ((s.setPolicy x (s.arg f 0x18 1)).completes f [] none)) ∧
    (s.accepts f 0x0206 = true → s.serves f = true → s.argDma f = false → ∃ p : List Byte,
      exec (.ctxQuery f) s = .next (s.completes f p none) ∧ p.length = 144 ∧ (p.drop 16).take 64 = (s.ctx x).pack)

/-- Flows, rings, banks, windows, lock groups, functions, the role and seal keys: the commands of the host family complete as
their rows say.
Completes: flowDefine, ringCreate, ringDestroy, ringRewind, bankAssign, windowSet, lockgrpRights, funcSet, funcSetMoveContext,
adminMove, sealKeySet, sealKeyClear. -/
def Obligations.HostCommandsComplete : Prop :=
  ∀ (f : FuncId) (s : State),
    let a := s.arg f
    let x := s.argCtx f 8
    let r := s.argRing f
    (s.accepts f 0x0301 = true → s.serves f = true →
      let e := s.ctx x
      let n : BitVec 14 := e.flowbase + BitVec.ofNat 14 (a 0x10 2)
      let r : RingId := BitVec.ofNat 6 (a 0x12 1)
      let k := if a 0x14 2 = 0 then 16 else a 0x14 2
      let w := ((s.imageOf x).bind fun m => m.flows[a 0x10 2]?).getD ⟨0, 0⟩
      e.state = ADMITTED ∨ e.state = RUNNING ∨ e.state = STOPPED → a 0x10 2 < e.flowcnt.toNat → (s.flow n).valid = false → a 0x12 1 < 64 →
      s.flowOf e.owner r = none → (∃ g, s.ring e.owner r = some g ∧ g.kind = 1 ∧ g.fault = false) → k ≤ 256 → s.quotas + k ≤ 262144 →
      s.budgetFor e.owner { reorder := k } = true →
      exec (.flowDefine f) s = .next ((s.updFlow n fun v =>
        { v with func := e.owner, ctx := x, next := w.first, ring := r, valid := true, quota := BitVec.ofNat 9 k, gapto := w.gapto,
                 items := [], granted := [], timer := 0, trun := false }).completes f (leBytes 2 n.toNat) none)) ∧
    (s.accepts f 0x0302 = true → s.ring f r = none → s.claimed f r = false → firstBad (s.ringChecks f (a 0x10 1)) = none →
      (a 0x10 1 = 1 → (a 0x13 1 / 2 % 2 = 1 → s.faultRing f = none) → s.stagingUsed + (if a 0x17 1 = 0 then 8 else a 0x17 1) ≤ 16384 →
        Answers (.ringCreate f) s fun s' => ∃ g, s'.ring f r = some g ∧ g.kind = 1 ∧ g.h = 0 ∧ g.d = 0 ∧ g.rfault = false ∧
          g.lsize = BitVec.ofNat 4 (a 0x11 1) ∧ g.base = BitVec.ofNat 64 (a 0x18 8) ∧ (s'.mbox f).status = OK ∧ s'.mem = s.mem) ∧
      (a 0x10 1 = 0 → a 0x14 2 < 8192 → (s.ctx (s.argCtx f 0x14)).state ≠ FREE → (s.ctx (s.argCtx f 0x14)).owner = f →
        Answers (.ringCreate f) s fun s' => ∃ g, s'.ring f r = some g ∧ g.kind = 0 ∧ g.h = 0 ∧ g.d = 0 ∧ g.ctx = s.argCtx f 0x14 ∧
          (s'.mbox f).status = OK ∧ s'.mem = s.mem)) ∧
    (∀ g, s.accepts f 0x0303 = true → s.ring f r = some g → (g.fault = true → s.ctxsOf f = []) → g.kind ≠ 1 →
      exec (.ringDestroy f) s = .next ((s.destroyRing f r).completes f [] none) ∧ (s.destroyRing f r).ring f r = none) ∧
    (∀ g, s.accepts f 0x0304 = true → s.ring f r = some g → g.kind = 0 → g.rfault = false → g.markSet = true →
      (g.markv = true → g.waiting = none → exec (.ringRewind f) s = .next ((s.rewind f r g).completes f [] none)) ∧
      (g.markv = false → exec (.ringRewind f) s = .next (s.settle f (.bad MARK_LOST 0x08)))) ∧
    (s.accepts f 0x0401 = true → (s.mbox f).begun = false → s.bankShut (BitVec.ofNat 8 (a 0x10 1)) = false →
      let n : Byte := BitVec.ofNat 8 (a 0x10 1)
      let y := s.argCtx f 0x12
      (a 0x11 1 ≤ 1 ∧ a 0x12 2 = 0) ∨ (a 0x11 1 = 2 ∧ a 0x12 2 < 8192 ∧ (s.ctx y).state ≠ FREE) →
      ((s.bank n).kind ≠ 2 → (s.bank n).assigned = true → (s.bank n).clring = false →
        (∀ q, (s.bank n).taken = some q ∨ (s.bank n).takenB = some q → q + 6 ≤ s.fc (bankCluster n)) → Answers (.bankAssign f) s fun s' =>
          (s'.bank n).kind = BitVec.ofNat 2 (a 0x11 1) ∧ (s'.bank n).ctx = y ∧ (s'.bank n).clring = false ∧ (s'.mbox f).status = OK ∧
          (∀ m, m ≠ n → s'.bank m = s.bank m) ∧ s'.mem = s.mem) ∧
      ((s.bank n).kind = 2 ∨ (s.bank n).assigned = false → Answers (.bankAssign f) s fun s' =>
        (s'.bank n).kind = BitVec.ofNat 2 (a 0x11 1) ∧ (s'.bank n).ctx = y ∧ (s'.bank n).clring = true ∧
        (s'.bank n).clrDue = s.fc (bankCluster n) + 4096 ∧ (s'.mbox f).begun = true ∧ (∀ m, m ≠ n → s'.bank m = s.bank m) ∧
        { s' with banks := s.banks, hub := s.hub } = s)) ∧
    (s.accepts f 0x0402 = true → s.serves f = true → a 0x10 1 ≤ 63 →
      ((BitVec.ofNat 128 (a 0x18 16)).getLsbD 48 = true → winWellFormed (BitVec.ofNat 128 (a 0x18 16)) = true ∧
        (f = s.hub.admin ∨ s.inOwnBanks x (BitVec.ofNat 128 (a 0x18 16)) = true)) →
      exec (.windowSet f) s = .next ((s.setWindow x (BitVec.ofNat 6 (a 0x10 1)) (BitVec.ofNat 128 (a 0x18 16))).completes f [] none)) ∧
    (s.accepts f 0x0403 = true → a 0x10 1 ≤ 63 → a 0x11 1 ≤ 7 →
      let row : LckGrp := { f0 := BitVec.ofNat 64 (a 0x18 8), f1 := BitVec.ofNat 64 (a 0x20 8), cl := BitVec.ofNat 3 (a 0x11 1) }
      let t : State := { s with locks := { s.locks with groups := s.locks.groups.set (a 0x10 1) row } }
      exec (.lockgrpRights f) s = .next (t.completes f [] none)) ∧
    (s.accepts f 0x0501 = true →
      (a 0x10 1 = 0 → a 0x11 1 % 2 = 1 ∨ BitVec.ofNat 7 (a 8 1) ≠ s.hub.admin →
        firstBad (budgetOk (BitVec.ofNat 64 (a 0x18 8)) (BitVec.ofNat 64 (a 0x20 8)) (BitVec.ofNat 64 (a 0x28 8))) = none →
        exec (.funcSet f) s = .next ((s.updFunc (BitVec.ofNat 7 (a 8 1)) fun e =>
          { e with en := a 0x11 1 % 2 == 1, dbg := a 0x11 1 / 4 % 2 == 1, pio := a 0x11 1 / 8 % 2 == 1, bud0 := BitVec.ofNat 64 (a 0x18 8),
                   bud1 := BitVec.ofNat 64 (a 0x20 8), bud2 := BitVec.ofNat 64 (a 0x28 8), refuse := false }).completes f [] none)) ∧
      (a 0x10 1 = 1 → a 0x12 2 < 8192 →
        let y := s.argCtx f 0x12
        let e := s.ctx y
        let g : FuncId := BitVec.ofNat 7 (a 8 1)
        e.state ≠ FREE → (s.caux y).deckle = false → (s.faultRing g).isSome = true → (s.hub.flows.anyV fun _ w => w.valid && w.ctx == y) = false →
        (s.ctxs.anyV fun n c => n != y.toNat && c.state != FREE && c.owner == e.owner && c.image == e.image) = false →
        g = e.owner ∨ s.budgetFor g e.use = true → Answers (.funcSetMoveContext f) s fun s' =>
          s'.ctx y = { e with owner := g } ∧ (∀ z, z ≠ y → s'.ctx z = s.ctx z) ∧
          (∀ m, s.image e.image = some m → s'.image e.image = some { m with owner := g }) ∧ (s'.mbox f).status = OK ∧ s'.mem = s.mem)) ∧
    (s.accepts f 0x0502 = true → a 8 8 ≤ 127 →
      let g : FuncId := BitVec.ofNat 7 (a 8 8)
      (f = s.hub.admin → g ≠ f → exec (.adminMove f) s = .next ((s.updHub fun h => { h with offer := some (g, s.scnt + scMs 10000) }).completes f [] none)) ∧
      (∀ due, f ≠ s.hub.admin → g = f → s.hub.offer = some (f, due) → s.scnt ≤ due → Answers (.adminMove f) s fun s' =>
        s'.hub.admin = f ∧ s'.hub.offer = none ∧ (s'.mbox f).status = OK ∧ s'.mem = s.mem ∧ s'.ctxs = s.ctxs)) ∧
    (s.accepts f 0x0503 = true → a 0x10 1 ≤ 7 →
      (a 0x11 1 = 0 → onCurve (s.argKey f).1 (s.argKey f).2 = true → exec (.sealKeySet f) s = .next ((s.updFw fun w =>
        { w with seals := w.seals.set (a 0x10 1) (BitVec.ofNat 768 ((s.argKey f).1 * 2 ^ 384 + (s.argKey f).2)) }).completes f [] none)) ∧
      (a 0x11 1 = 1 → s.argKey f = (0, 0) → exec (.sealKeyClear f) s = .next ((s.updFw fun w =>
        { w with seals := w.seals.erase (a 0x10 1) }).completes f [] none)))

/-- Rules, templates and gate lists: the commands of process I/O complete as their rows say.
Completes: ioRuleSet, ioRuleClear, ioTemplateSet, ioTemplateClear, ioGateSet. -/
def Obligations.EthernetCommandsComplete : Prop :=
  ∀ (f : FuncId) (s : State),
    let a := s.arg f
    let x := s.argCtx f 0x12
    let mine : Bool := decide (a 0x12 2 < 8192) && (s.ctx x).state != FREE && ((s.ctx x).owner == f || f == s.hub.admin)
    let slotOk (o : Option CtxId) : Prop := ∀ y, o = some y → (s.caux y).deckle = false ∧ (y = x ∨ f = s.hub.admin)
    (mine = true → slotOk ((s.argRule f).map (·.owner)) → s.accepts f 0x0701 = true →
      (a 0x10 1 = 0 →
        let raw : BitVec 512 := BitVec.ofNat 512 (a 0x18 64)
        firstBad (s.ruleChecks x { raw := raw, owner := x, lastSc := s.scnt }) = none →
        Answers (.ioRuleSet f) s fun s' => (∃ r, s'.eth.rules.find (a 8 2) = some r ∧ r.raw = raw ∧ r.owner = x) ∧ (s'.mbox f).status = OK ∧
          { s' with eth := s.eth, hub := s.hub, out := s.out } = s) ∧
      (a 0x10 1 = 1 → Answers (.ioRuleClear f) s fun s' => s'.eth.rules.find (a 8 2) = none ∧ (s'.mbox f).status = OK ∧
        { s' with eth := s.eth, hub := s.hub, out := s.out } = s)) ∧
    (mine = true → slotOk ((s.argTemplate f).map (·.owner)) → s.accepts f 0x0702 = true →
      (a 0x10 1 = 0 →
        let raw : BitVec 1024 := BitVec.ofNat 1024 (a 0x18 128)
        firstBad (s.templateChecks (a 8 2) { raw := raw, owner := x }) = none →
        Answers (.ioTemplateSet f) s fun s' => (∃ t, s'.eth.templates.find (a 8 2) = some t ∧ t.raw = raw ∧ t.owner = x ∧ t.staged = none) ∧
          (s'.mbox f).status = OK ∧ { s' with eth := s.eth, hub := s.hub, out := s.out } = s) ∧
      (a 0x10 1 = 1 → Answers (.ioTemplateClear f) s fun s' => s'.eth.templates.find (a 8 2) = none ∧ (s'.mbox f).status = OK ∧
        { s' with eth := s.eth, hub := s.hub, out := s.out } = s)) ∧
    (∀ b : List Byte, s.accepts f 0x0703 = true → b.length = a 0x18 4 → 1000 ≤ a 0x28 4 → a 0x28 4 ≤ 1000000000 → 1 ≤ a 0x2C 2 → a 0x2C 2 ≤ 256 →
      b.length = 8 * a 0x2C 2 → (∀ k, k < a 0x2C 2 → gateEntryOk b k = true) →
      (((List.range (a 0x2C 2)).map (gateEntry b)).map fun e => e.2.toNat).sum = a 0x28 4 →
      Answers (.ioGateSet f (.data b)) s fun s' =>
        (∃ l t, (s'.ethPort (BitVec.ofNat 2 (a 8 1))).pendingList = some (l, t) ∧ l.entries = (List.range (a 0x2C 2)).map (gateEntry b) ∧
          l.cycle = BitVec.ofNat 32 (a 0x28 4) ∧ l.base = BitVec.ofNat 64 (a 0x20 8)) ∧ (s'.mbox f).status = OK ∧
        { s' with eth := s.eth, hub := s.hub, out := s.out } = s)

/-- Monitors, statistics, probes, trace and memory are read, sections are fenced, repaired and returned, and tests are paced.
Completes: sectionFence, sectionRepair, sectionReturn, bteConfig, monRead, statsRead, probeSet, traceRead, diagRead. -/
def Obligations.ObservationAndRepairCommandsComplete : Prop :=
  ∀ (f : FuncId) (s : State),
    let a := s.arg f
    let n : BitVec 4 := BitVec.ofNat 4 (a 8 1)
    (s.accepts f 0x0901 = true → ∃ p : List Byte, exec (.monRead f) s = .next (s.convertProc.completes f p none) ∧ p.length = 168 ∧
      (∀ i, i < 38 → rdLe p (2 * i) 2 = (s.tempOf i).toNat) ∧ (∀ i, i < 24 → rdLe p (76 + 2 * i) 2 = (s.voltOf i).toNat) ∧
      (∀ i, i < 20 → rdLe p (124 + 2 * i) 2 = (s.convertProc.procOf i).toNat)) ∧
    (s.accepts f 0x0902 = true → a 0x20 1 = 2 → a 8 2 = 0 → a 0x22 2 ≤ 63 →
      exec (.statsRead f) s = .next (s.settle f (s.statReply f (s.ringRegs f (BitVec.ofNat 6 (a 0x22 2)))))) ∧
    (s.accepts f 0x0903 = true → a 0x10 4 < 2 ^ 14 → a 0x10 4 / 2 % 4 ≠ 3 →
      let v (o : Nat) : DWord := BitVec.ofNat 64 (a o 8)
      let pr : Probe := { cfg := BitVec.ofNat 14 (a 0x10 4), hdr := v 0x18, tag := v 0x20, tagm := v 0x28 }
      Answers (.probeSet f) s fun s' => s'.spine.probes.find (a 8 1) = some pr ∧ (s'.mbox f).status = OK ∧ { s' with spine := s.spine, hub := s.hub, out := s.out } = s) ∧
    (s.accepts f 0x0904 = true → a 0x20 1 = 0 → a 0x21 1 ≤ 31 → s.mon.traceOn = false →
      let k := min (a 0x24 4) (a 0x18 4 / 32)
      Answers (.traceRead f) s fun s' => s'.spine.trace = s.spine.trace.drop k ∧ s'.spine.wrap = false ∧ (s'.mbox f).status = OK ∧ s'.mem = s.mem) ∧
    (∀ e, s.accepts f 0x0905 = true → rangeEnd (a 0x20 8) = some e → a 0x20 8 % 8 = 0 → 1 ≤ a 0x28 4 → a 0x28 4 ≤ 8192 → a 0x20 8 + 8 * a 0x28 4 ≤ e →
      exec (.diagRead f) s = .next (s.takeFree.completes f [] (some ((List.range (a 0x28 4)).flatMap fun i =>
        leBytes 8 (s.diagWord (a 0x20 8 + 8 * i)).toNat)))) ∧
    (s.accepts f 0x0801 = true → (s.sect n).svc = 0 → s.fw.fenceJob = none → ((s.leaveAdmission n).planMoves (sectClusters n)).failed = [] →
      Answers (.sectionFence f) s fun s' => (s'.sect n).svc = 1 ∧ s'.fw.fenceJob = some (n, some f) ∧ (s'.mbox f).pend = true) ∧
    (s.accepts f 0x0802 = true → (s.mbox f).begun = false → (s.sect n).svc = 1 → s.fw.fenceJob = none → (s.sect n).pstate = 0 →
      Answers (.sectionRepair f) s fun s' => (s'.sect n).svc = 2 ∧ (s'.sect n).pstate = 3 ∧ (s'.router n).ep = [2, 2, 2, 2] ∧
        (s'.mbox f).status = OK ∧ s'.mem = s.mem) ∧
    (s.accepts f 0x0803 = true → (s.sect n).svc = 3 → Answers (.sectionReturn f) s fun s' =>
      (s'.sect n).svc = 0 ∧ (s'.sect n).gated = false ∧ (s'.router n).ep = [0, 0, 0, 0] ∧
      (∀ c ∈ s'.fw.fencedClusters, clusterSection c ≠ n) ∧ (s'.mbox f).status = OK ∧ s'.mem = s.mem ∧ s'.ctxs = s.ctxs) ∧
    (s.accepts f 0x0804 = true → a 0x10 4 ≤ 65536 → a 0x14 4 ≤ 1000000 → a 0x18 1 = 0xFF → exec (.bteConfig f) s = .next ((s.updFw fun w =>
      { w with sramRate := BitVec.ofNat 32 (a 0x10 4), hbmRate := BitVec.ofNat 32 (a 0x14 4) }).completes f [] none))

/-- A debugger attaches, stops, reads, resumes and detaches.
Completes: dbgAttach, dbgDetach, dbgStop, dbgResume, dbgRead. -/
def Obligations.DebuggersAttachStopReadAndResume : Prop :=
  ∀ (f : FuncId) (s : State), s.serves f = true →
    let a := s.arg f
    let x := s.argCtx f 8
    let task : BitVec 16 := BitVec.ofNat 16 (a 0x12 2)
    (s.accepts f 0x0B01 = true →
      (a 0x10 1 = 0 → (s.caux x).debugger = none ∨ (s.caux x).debugger = some f →
        exec (.dbgAttach f) s = .next ((s.updAux x fun u => { u with debugger := some f }).completes f [] none)) ∧
      (a 0x10 1 = 1 → (s.caux x).debugger = some f → exec (.dbgDetach f) s = .next ((s.detach x).completes f [] none))) ∧
    ((s.caux x).debugger = some f →
      (∀ (c : ClusterId) (d : BitVec 10), s.accepts f 0x0B02 = true → a 0x10 1 = 0 → s.findTask x task = some (c, d) → s.threadOfTask c d = none →
        ((s.cluster c).task d).state ≠ STOPPEDT → ((s.cluster c).task d).state ≠ FAULTED → Answers (.dbgStop f) s fun s' =>
          ((s'.cluster c).task d).state = STOPPEDT ∧ ((s'.cluster c).task d).prev = ((s.cluster c).task d).state ∧ (s'.mbox f).status = OK ∧
          s'.mem = s.mem ∧ s'.ctxs = s.ctxs) ∧
      (∀ (c : ClusterId) (d : BitVec 10), s.accepts f 0x0B03 = true → a 0x10 1 = 0 → s.findTask x task = some (c, d) → s.threadOfTask c d = none →
        ((s.cluster c).task d).state = STOPPEDT → exec (.dbgResume f) s = .next ((s.resumeTask c d).completes f [] none)) ∧
      (∀ (c : ClusterId) (d : BitVec 10), s.accepts f 0x0B04 = true → a 0x20 1 = 0 → s.findTask x (BitVec.ofNat 16 (a 0x22 2)) = some (c, d) →
        s.taskStopped c d = true → exec (.dbgRead f) s = .next (s.completes f [] (some ((s.cluster c).descriptor d))) ∧
          ((s.cluster c).descriptor d).length = 256))

/-! ## Timers and containment of contexts (02, 06, 16) -/

/-- The timeouts and conditions of a context: an update that times out goes on with the old image, a drained context stops,
purges end a kill, the scan finds a candidate twice before it asks for a fence, and the fence happens only where nothing has
moved.
Completes: adminOfferLapse, purgeComplete, updateTimeout, drainCondition, quiescenceScan, conditionalFence, contextFence,
deckleLower. -/
def Obligations.ContextsDrainUpdateDieAndAreFenced : Prop :=
  ∀ (x : CtxId) (s : State),
    (∀ u, (s.caux x).update = some u → (s.ctx x).state = UPDATING → s.fwRuns = true → Answers (.updateTimeout x) s fun s' =>
      (s'.ctx x).state = RUNNING ∧ (s'.ctx x).image = (s.ctx x).image ∧ (s'.caux x).update = none ∧ s'.mem = s.mem) ∧
    (s.drained x = true → (∀ g ∈ s.hub.order, s.ctxWaits x g = false) →
      ((s.ctx x).state = QUIESCING → s.fwRuns = true → exec (.drainCondition x) s =
        .next ((s.updCtx x fun e => { e with state := STOPPED }).event (s.ctx x).owner 0x0001 x.toNat 0)) ∧
      (∀ u, (s.ctx x).state = UPDATING → s.fwRuns = true → (s.caux x).update = some u → exec (.drainCondition x) s = .next (s.switchImage x u)) ∧
      ((s.ctx x).state = QUIESCING ∨ (s.ctx x).state = UPDATING → s.fwRuns = false → exec (.drainCondition x) s =
        .next (s.mgmtRecord recDrain 0 (BitVec.setWidth 64 x)))) ∧
    (∀ (c : ClusterId) (k : Kill), s.fwRuns = true → (s.caux x).kill = some k → c ∈ k.clusters →
      (k.clusters.filter (· != c) ≠ [] → exec (.purgeComplete x c) s =
        .next ((s.purge x c).updAux x fun a => { a with kill := some { k with clusters := k.clusters.filter (· != c) } })) ∧
      (k.clusters.filter (· != c) = [] → k.by_ = none → k.fenced = false → Answers (.purgeComplete x c) s fun s' =>
        s' = (s.purge x c).killEnd x ∧ s'.ctx x = {} ∧ s'.caux x = {} ∧ (∀ e ∈ s'.eth.rules, e.2.owner ≠ x))) ∧
    (s.fwRuns = true → (s.ctx x).state = RUNNING → s.dying x = false → (s.caux x).move = none →
      let b := s.passTo ((s.caux x).lastScan + scNs (s.caux x).scanp)
      Answers (.quiescenceScan x) s fun s' =>
        (s'.caux x).prevCand = b.candidate x ∧ (s'.caux x).prevAct = b.sumAct x ∧ (s'.caux x).lastScan = b.scnt ∧
        ((s'.caux x).fenceReq.isSome = (b.candidate x && (s.caux x).prevCand && b.sumAct x == (s.caux x).prevAct && !b.outstanding x)) ∧
        s'.ctxs = s.ctxs ∧ s'.mem = s.mem ∧ s'.threads = s.threads) ∧
    (∀ act, (s.caux x).fenceReq = some act → (s.ctx x).state = RUNNING →
      ((s.ctx x).inflight = 0 → s.sumAct x = act → s.dying x = false → Answers (.conditionalFence x) s fun s' =>
        (s'.ctx x).state = FENCED ∧ (s'.ctx x).lastfault = GRAPH_DEADLOCK ∧ (s'.caux x).deckle = true ∧ s'.mem = s.mem) ∧
      ((s.ctx x).inflight ≠ 0 → exec (.conditionalFence x) s = .next (s.updAux x fun a => { a with fenceReq := none }))) ∧
    (∀ cause, (s.ctx x).state ≠ FREE → (s.ctx x).state ≠ FENCED → s.dying x = false → Answers (.contextFence x cause) s fun s' =>
      (s'.ctx x).state = FENCED ∧ (s'.caux x).deckle = true ∧ (s'.caux x).update = none ∧ (s'.caux x).move = none ∧ s'.mem = s.mem) ∧
    (s.fwRuns = true → (s.caux x).deckle = true → s.fenceDone x = true → exec (.deckleLower x) s =
      .next (s.updAux x fun a => { a with deckle := false })) ∧
    (∀ o, s.hub.offer = some o → Answers .adminOfferLapse s fun s' =>
      s'.hub.offer = none ∧ s'.hub.admin = s.hub.admin ∧ s'.ctxs = s.ctxs ∧ s'.mem = s.mem)

/-- Containment: a cluster with 16 uncorrected errors within 24 h is fenced, a refusal that lasts is reported or moved,
planned moves begin and end or are abandoned, banks follow, the end of forwarding closes the endpoints, and a repair test
passes or fails.
Completes: spillStuckTimeout, clusterFence, positionMove, moveTimeout, bankCopy, forwardQuietTimeout, repairTestDone. -/
def Obligations.ClustersAreFencedMovedAndRepaired : Prop :=
  ∀ s : State, s.fwRuns = true →
    (∀ c : ClusterId, s.fw.fencedClusters.contains c = false → (s.sect (clusterSection c)).svc = 0 →
      (16 ≤ s.recent s.fw.ueLog c scDay → Answers (.clusterFence c) s fun s' =>
        c ∈ s'.fw.fencedClusters ∧ (c, s.scnt) ∈ s'.fw.clusterFences ∧ s'.mem = s.mem) ∧
      (∀ t, (s.cluster c).refusedSince = some t →
        let b := s.passTo (t + scMs 10)
        (s.fw.reserveSet = [] → exec (.spillStuckTimeout c) s = .next (b.adminEvent 0x0030 c.toNat 0)) ∧
        (s.fw.reserveSet ≠ [] → exec (.spillStuckTimeout c) s = .next (b.fenceCluster c)))) ∧
    (∀ (x : CtxId) (k : BitVec 6),
      (∀ b, (s.caux x).move = none → (s.fw.plan.find? fun e => e.1 == x && e.2.1 == k) = some (x, k, b) → (s.ctx x).state ≠ FREE →
        (s.ctx x).state ≠ FENCED → s.dying x = false → s.moves.length < 4 → (∀ m ∈ s.moves, m.source ≠ s.clusterAt x k.toNat) →
        let a := s.clusterAt x k.toNat
        (∀ d, (d = b ∧ s.canTake x k a b = true) ∨ (s.canTake x k a b = false ∧ s.target x k a = some d) →
          Answers (.positionMove x k) s fun s' =>
            (s'.caux x).move = some { position := k, source := a, target := d, startSc := s.scnt } ∧ s'.mem = s.mem) ∧
        (s.canTake x k a b = false → s.target x k a = none → exec (.positionMove x k) s = .next (s.fence x TARGET_FENCED))) ∧
      (∀ m, (s.caux x).move = some m →
        (m.position = k → s.threadsAt m.source x = [] →
          (∀ t, s.followCode x k m.source m.target = some t → exec (.positionMove x k) s = .next (t.moveWork x m)) ∧
          (s.followCode x k m.source m.target = none → exec (.positionMove x k) s = .next (s.fence x TARGET_FENCED))) ∧
        (s.threadsAt m.source x ≠ [] → exec (.moveTimeout x) s = .next ((s.passTo (m.startSc + scMs 1)).fence x TARGET_FENCED)))) ∧
    (∀ (n : BitVec 8) (q : Nat) (fw : Fwd), s.bankWaits n = true → (s.cluster (bankCluster n)).forward (s.bank n).ctx = some (q, fw) →
      (∀ d, s.freeBank fw.target n = some d → Answers (.bankCopy n) s fun s' =>
        (s'.bank d).kind = 2 ∧ (s'.bank d).ctx = (s.bank n).ctx ∧ (s'.bank n).fwdBank = d ∧ (s'.bank n).fwdValid = true ∧
        s'.ctxs = s.ctxs) ∧
      (s.freeBank fw.target n = none → exec (.bankCopy n) s = .next (s.fence (s.bank n).ctx TARGET_FENCED))) ∧
    (∀ (c : ClusterId) (n d : Byte), s.freeBank c n = some d → (s.bank d).kind = 0 ∧ bankCluster d = c) ∧
    (∀ n d : Byte, s.memWf = true → ∀ j, j < 0x40000 →
      Memory.get (s.copyBank n d).mem (bankBase + d.toNat * 0x40000 + j) = Memory.get s.mem (bankBase + n.toNat * 0x40000 + j)) ∧
    (∀ n : BitVec 4,
      (s.leaving n ≠ [] → s.evacuated (s.leaving n) = true → exec (.forwardQuietTimeout n) s =
        .next (((s.leaving n).foldl State.endForwarding (s.passTo ((s.sect n).lastFwd + scUs 10))).endFence n)) ∧
      ((s.sect n).svc = 2 →
        (Answers (.repairTestDone n 0) s fun s' => (s'.sect n).svc = 3 ∧ (s'.sect n).gated = true ∧ s'.mem = s.mem ∧ s'.ctxs = s.ctxs) ∧
        (∀ code : Byte, code ≠ 0 → code.toNat ≤ 7 → Answers (.repairTestDone n code) s fun s' => (s'.sect n).svc = 4 ∧ s'.ctxs = s.ctxs)))

/-! ## Time (05 R141-R148) -/

/-- The timebase: a step moves TB by its signed amount and TC never goes back, a sample beyond the threshold steps TB and
another changes the rate alone, a second without samples is holdover, and a PTM exchange yields a sample.
Completes: tbStep, timeSample, holdoverTimeout, ptmExchange. -/
def Obligations.TimeStepsSlewsAndHolds : Prop :=
  ∀ s : State,
    (∀ v : DWord, Answers (.tbStep v) s fun s' =>
      s'.tb.now = s.tb.now + v ∧ s.tb.tc.toNat ≤ s'.tb.tc.toNat ∧
      ((s.tb.now + v).toNat / s.tkNs ≤ s.tb.tc.toNat → s'.tb.tc = s.tb.tc) ∧ s'.tb.rate = s.tb.rate ∧
      s'.hub.flows = s.gapPass (s'.tb.tc.toNat - s.tb.tc.toNat) ∧ s'.hub.rings = s.hub.rings ∧ { s' with tb := s.tb, hub := s.hub } = s) ∧
    (∀ off : DWord, s.fwRuns = true → s.tb.src ≠ 0 →
      (s.tb.stepth.toNat < off.toInt.natAbs → Answers (.timeSample off) s fun s' =>
        s'.tb.now = s.tb.now + off ∧ s'.tb.rate = s.tb.rate ∧ s'.tb.holdover = false ∧ s'.tb.lastSample = s.scnt ∧
        { s' with tb := s.tb, hub := s.hub } = s) ∧
      (off.toInt.natAbs ≤ s.tb.stepth.toNat → Answers (.timeSample off) s fun s' =>
        s'.tb.now = s.tb.now ∧ s'.tb.tc = s.tb.tc ∧ s'.tb.rate = rateHeld (Config.servoRate off s.tb.rate) ∧ s'.tb.holdover = false ∧
        { s' with tb := s.tb, hub := s.hub } = s)) ∧
    (s.fwRuns = true → s.tb.src ≠ 0 → s.tb.holdover = false → Answers .holdoverTimeout s fun s' =>
      s'.tb.holdover = true ∧ s'.tb.rate = s.tb.rate ∧ s'.mem = s.mem ∧ s'.ctxs = s.ctxs ∧ s'.threads = s.threads) ∧
    (∀ off : DWord, s.fwRuns = true → s.tb.src = 2 → (s.port s.tb.port).linkUp = true → Answers (.ptmExchange off) s fun s' =>
      s'.out = .ptm s.tb.port :: s.out ∧ s'.tb.holdover = false ∧ s'.mem = s.mem ∧ s'.ctxs = s.ctxs ∧ s'.threads = s.threads)

/-! ## The whole machine -/

/-- A step takes the command at the front of the queue and is exec of it on the state with the queue's rest; with an empty
queue one TICK cycle passes and nothing else happens (the model's choice, log 1). -/
def Obligations.AStepTakesTheFrontCommand : Prop :=
  (∀ (c : Instr) (rest : List Instr) (s : State), s.pending = c :: rest → step s = exec c { s with pending := rest }) ∧
  (∀ s : State, s.pending = [] → step s = .next (s.pass 1))

/-- The state at reset: every domain in reset, PORST_N low, nothing pending, no context and no thread with work, the stewards
held, memory in its canonical form. -/
def Obligations.ResetHoldsEverything : Prop :=
  State.reset.memWf = true ∧ State.reset.pending = [] ∧ State.reset.clk.porstLow = true ∧
  (∀ d, d < 22 → (State.reset.xing d).inReset = true) ∧ (∀ x, State.reset.ctx x = {}) ∧ (∀ t, (State.reset.thread t).work = none) ∧
  State.reset.fw.held = true ∧ State.reset.fw.ready = false ∧ State.reset.keeper.keeper = false ∧ (∀ f, (State.reset.mbox f).notrdy = true)

/-- Every step keeps the canonical form of memory: addresses rise and no listed byte equals the default. -/
def Obligations.EveryStepKeepsMemoryCanonical : Prop :=
  ∀ s s' : State, s.memWf = true → step s = .next s' → s'.memWf = true

/-! ## Two rules word by word -/

/-- A second item for a sequence number that its flow holds goes to the broke queue with UNDELIVERABLE, charged to the context
that sent it, DUP increments, and the first item stands. -/
def Obligations.DuplicatesLeaveTheFirstItem : Prop :=
  ∀ (s : State) (p : Packet) (rest : List Packet) (g : Ring) (n : BitVec 14),
    let tok := packetToken p
    let x := tagCtx tok.tag
    let f := (s.ctx x).owner
    let r : RingId := bits (tagNode tok.tag) 0 6
    s.hub.reelIn = p :: rest → s.reelAccepts x = true → s.claimed f r = false → s.ring f r = some g → g.kind = 1 → g.rfault = false →
    s.flowOf f r = some n → (s.flow n).ahead (tagInst tok.tag) < 32768 → ((s.flow n).items.find (tagInst tok.tag).toNat).isSome = true →
    Answers .reelTokenArrival s fun s' =>
      (s'.flow n).items = (s.flow n).items ∧ (s'.flow n).dup = satInc (s.flow n).dup ∧ (s'.flow n).next = (s.flow n).next ∧
      s'.hub.brokeIn = s.hub.brokeIn ++ [⟨tok, UNDELIVERABLE, x, true, tagKind tok.tag == 6⟩] ∧ s'.hub.reelIn = rest ∧ { s' with hub := s.hub } = s

/-- TIME_SOURCE, TIME_SET and TICK_SET are for the administrator alone; TIME_SET steps TB to the value given while the source
is FREE, and completes with WRONG_STATE under any other. -/
def Obligations.TimeCommandsAreAdministrative : Prop :=
  ∀ (f : FuncId) (s : State),
    (s.accepts f 0x0601 = true →
      (s.tb.src = 0 → Answers (.timeSet f) s fun s' => s'.tb.now = BitVec.ofNat 64 (s.arg f 0x10 8) ∧ (s'.mbox f).status = OK ∧
        (s'.mbox f).done = true) ∧
      (s.tb.src ≠ 0 → Answers (.timeSet f) s fun s' => s'.tb = s.tb ∧ (s'.mbox f).status = WRONG_STATE ∧ (s'.mbox f).done = true)) ∧
    (∀ i ∈ [(0x0601, Instr.timeSet f), (0x0602, .timeSource f), (0x0603, .tickSet f)], ∀ c, cmdOf i.1 = some c →
      (s.mbox f).pend = true → s.fwRuns = true → s.arg f 0 2 = i.1 → s.eligible f = true → (s.mbox f).begun = false →
      c.check1 (s.mbox f) = none → f ≠ s.hub.admin → Answers i.2 s fun s' =>
        s'.tb = s.tb ∧ (s'.mbox f).status = DENIED ∧ (s'.mbox f).done = true)
end

