-- ==== Sys2Proof/Laws/State.lean ====
section
/-! SUPPORT. Each field of the state after each update: one lemma per field per update, so that no proof unfolds a record
update. -/

namespace Sys2Proof.Machine

section Fields
variable (s : State)

/-! ### updCtx -/

@[simp] theorem State.updCtx_pending (x : CtxId) (f : Ctx → Ctx) : (s.updCtx x f).pending = s.pending := rfl
@[simp] theorem State.updCtx_free (x : CtxId) (f : Ctx → Ctx) : (s.updCtx x f).free = s.free := rfl
@[simp] theorem State.updCtx_out (x : CtxId) (f : Ctx → Ctx) : (s.updCtx x f).out = s.out := rfl
@[simp] theorem State.updCtx_tb (x : CtxId) (f : Ctx → Ctx) : (s.updCtx x f).tb = s.tb := rfl
@[simp] theorem State.updCtx_scnt (x : CtxId) (f : Ctx → Ctx) : (s.updCtx x f).scnt = s.scnt := rfl
@[simp] theorem State.updCtx_ctxs (x : CtxId) (f : Ctx → Ctx) : (s.updCtx x f).ctxs = s.ctxs.upd x.toNat {} f := rfl
@[simp] theorem State.updCtx_aux (x : CtxId) (f : Ctx → Ctx) : (s.updCtx x f).aux = s.aux := rfl
@[simp] theorem State.updCtx_clusters (x : CtxId) (f : Ctx → Ctx) : (s.updCtx x f).clusters = s.clusters := rfl
@[simp] theorem State.updCtx_threads (x : CtxId) (f : Ctx → Ctx) : (s.updCtx x f).threads = s.threads := rfl
@[simp] theorem State.updCtx_mem (x : CtxId) (f : Ctx → Ctx) : (s.updCtx x f).mem = s.mem := rfl
@[simp] theorem State.updCtx_uecc (x : CtxId) (f : Ctx → Ctx) : (s.updCtx x f).uecc = s.uecc := rfl
@[simp] theorem State.updCtx_banks (x : CtxId) (f : Ctx → Ctx) : (s.updCtx x f).banks = s.banks := rfl
@[simp] theorem State.updCtx_locks (x : CtxId) (f : Ctx → Ctx) : (s.updCtx x f).locks = s.locks := rfl
@[simp] theorem State.updCtx_pcs (x : CtxId) (f : Ctx → Ctx) : (s.updCtx x f).pcs = s.pcs := rfl
@[simp] theorem State.updCtx_spine (x : CtxId) (f : Ctx → Ctx) : (s.updCtx x f).spine = s.spine := rfl
@[simp] theorem State.updCtx_hub (x : CtxId) (f : Ctx → Ctx) : (s.updCtx x f).hub = s.hub := rfl
@[simp] theorem State.updCtx_eth (x : CtxId) (f : Ctx → Ctx) : (s.updCtx x f).eth = s.eth := rfl
@[simp] theorem State.updCtx_clk (x : CtxId) (f : Ctx → Ctx) : (s.updCtx x f).clk = s.clk := rfl
@[simp] theorem State.updCtx_fw (x : CtxId) (f : Ctx → Ctx) : (s.updCtx x f).fw = s.fw := rfl
@[simp] theorem State.updCtx_keeper (x : CtxId) (f : Ctx → Ctx) : (s.updCtx x f).keeper = s.keeper := rfl
@[simp] theorem State.updCtx_mon (x : CtxId) (f : Ctx → Ctx) : (s.updCtx x f).mon = s.mon := rfl

/-! ### updAux -/

@[simp] theorem State.updAux_pending (x : CtxId) (f : CtxAux → CtxAux) : (s.updAux x f).pending = s.pending := rfl
@[simp] theorem State.updAux_free (x : CtxId) (f : CtxAux → CtxAux) : (s.updAux x f).free = s.free := rfl
@[simp] theorem State.updAux_out (x : CtxId) (f : CtxAux → CtxAux) : (s.updAux x f).out = s.out := rfl
@[simp] theorem State.updAux_tb (x : CtxId) (f : CtxAux → CtxAux) : (s.updAux x f).tb = s.tb := rfl
@[simp] theorem State.updAux_scnt (x : CtxId) (f : CtxAux → CtxAux) : (s.updAux x f).scnt = s.scnt := rfl
@[simp] theorem State.updAux_ctxs (x : CtxId) (f : CtxAux → CtxAux) : (s.updAux x f).ctxs = s.ctxs := rfl
@[simp] theorem State.updAux_aux (x : CtxId) (f : CtxAux → CtxAux) : (s.updAux x f).aux = s.aux.upd x.toNat {} f := rfl
@[simp] theorem State.updAux_clusters (x : CtxId) (f : CtxAux → CtxAux) : (s.updAux x f).clusters = s.clusters := rfl
@[simp] theorem State.updAux_threads (x : CtxId) (f : CtxAux → CtxAux) : (s.updAux x f).threads = s.threads := rfl
@[simp] theorem State.updAux_mem (x : CtxId) (f : CtxAux → CtxAux) : (s.updAux x f).mem = s.mem := rfl
@[simp] theorem State.updAux_uecc (x : CtxId) (f : CtxAux → CtxAux) : (s.updAux x f).uecc = s.uecc := rfl
@[simp] theorem State.updAux_banks (x : CtxId) (f : CtxAux → CtxAux) : (s.updAux x f).banks = s.banks := rfl
@[simp] theorem State.updAux_locks (x : CtxId) (f : CtxAux → CtxAux) : (s.updAux x f).locks = s.locks := rfl
@[simp] theorem State.updAux_pcs (x : CtxId) (f : CtxAux → CtxAux) : (s.updAux x f).pcs = s.pcs := rfl
@[simp] theorem State.updAux_spine (x : CtxId) (f : CtxAux → CtxAux) : (s.updAux x f).spine = s.spine := rfl
@[simp] theorem State.updAux_hub (x : CtxId) (f : CtxAux → CtxAux) : (s.updAux x f).hub = s.hub := rfl
@[simp] theorem State.updAux_eth (x : CtxId) (f : CtxAux → CtxAux) : (s.updAux x f).eth = s.eth := rfl
@[simp] theorem State.updAux_clk (x : CtxId) (f : CtxAux → CtxAux) : (s.updAux x f).clk = s.clk := rfl
@[simp] theorem State.updAux_fw (x : CtxId) (f : CtxAux → CtxAux) : (s.updAux x f).fw = s.fw := rfl
@[simp] theorem State.updAux_keeper (x : CtxId) (f : CtxAux → CtxAux) : (s.updAux x f).keeper = s.keeper := rfl
@[simp] theorem State.updAux_mon (x : CtxId) (f : CtxAux → CtxAux) : (s.updAux x f).mon = s.mon := rfl

/-! ### updCluster -/

@[simp] theorem State.updCluster_pending (c : ClusterId) (f : Cluster → Cluster) : (s.updCluster c f).pending = s.pending := rfl
@[simp] theorem State.updCluster_free (c : ClusterId) (f : Cluster → Cluster) : (s.updCluster c f).free = s.free := rfl
@[simp] theorem State.updCluster_out (c : ClusterId) (f : Cluster → Cluster) : (s.updCluster c f).out = s.out := rfl
@[simp] theorem State.updCluster_tb (c : ClusterId) (f : Cluster → Cluster) : (s.updCluster c f).tb = s.tb := rfl
@[simp] theorem State.updCluster_scnt (c : ClusterId) (f : Cluster → Cluster) : (s.updCluster c f).scnt = s.scnt := rfl
@[simp] theorem State.updCluster_ctxs (c : ClusterId) (f : Cluster → Cluster) : (s.updCluster c f).ctxs = s.ctxs := rfl
@[simp] theorem State.updCluster_aux (c : ClusterId) (f : Cluster → Cluster) : (s.updCluster c f).aux = s.aux := rfl
@[simp] theorem State.updCluster_clusters (c : ClusterId) (f : Cluster → Cluster) : (s.updCluster c f).clusters = s.clusters.upd c.toNat {} f := rfl
@[simp] theorem State.updCluster_threads (c : ClusterId) (f : Cluster → Cluster) : (s.updCluster c f).threads = s.threads := rfl
@[simp] theorem State.updCluster_mem (c : ClusterId) (f : Cluster → Cluster) : (s.updCluster c f).mem = s.mem := rfl
@[simp] theorem State.updCluster_uecc (c : ClusterId) (f : Cluster → Cluster) : (s.updCluster c f).uecc = s.uecc := rfl
@[simp] theorem State.updCluster_banks (c : ClusterId) (f : Cluster → Cluster) : (s.updCluster c f).banks = s.banks := rfl
@[simp] theorem State.updCluster_locks (c : ClusterId) (f : Cluster → Cluster) : (s.updCluster c f).locks = s.locks := rfl
@[simp] theorem State.updCluster_pcs (c : ClusterId) (f : Cluster → Cluster) : (s.updCluster c f).pcs = s.pcs := rfl
@[simp] theorem State.updCluster_spine (c : ClusterId) (f : Cluster → Cluster) : (s.updCluster c f).spine = s.spine := rfl
@[simp] theorem State.updCluster_hub (c : ClusterId) (f : Cluster → Cluster) : (s.updCluster c f).hub = s.hub := rfl
@[simp] theorem State.updCluster_eth (c : ClusterId) (f : Cluster → Cluster) : (s.updCluster c f).eth = s.eth := rfl
@[simp] theorem State.updCluster_clk (c : ClusterId) (f : Cluster → Cluster) : (s.updCluster c f).clk = s.clk := rfl
@[simp] theorem State.updCluster_fw (c : ClusterId) (f : Cluster → Cluster) : (s.updCluster c f).fw = s.fw := rfl
@[simp] theorem State.updCluster_keeper (c : ClusterId) (f : Cluster → Cluster) : (s.updCluster c f).keeper = s.keeper := rfl
@[simp] theorem State.updCluster_mon (c : ClusterId) (f : Cluster → Cluster) : (s.updCluster c f).mon = s.mon := rfl

/-! ### updThread -/

@[simp] theorem State.updThread_pending (t : Tid) (f : Thread → Thread) : (s.updThread t f).pending = s.pending := rfl
@[simp] theorem State.updThread_free (t : Tid) (f : Thread → Thread) : (s.updThread t f).free = s.free := rfl
@[simp] theorem State.updThread_out (t : Tid) (f : Thread → Thread) : (s.updThread t f).out = s.out := rfl
@[simp] theorem State.updThread_tb (t : Tid) (f : Thread → Thread) : (s.updThread t f).tb = s.tb := rfl
@[simp] theorem State.updThread_scnt (t : Tid) (f : Thread → Thread) : (s.updThread t f).scnt = s.scnt := rfl
@[simp] theorem State.updThread_ctxs (t : Tid) (f : Thread → Thread) : (s.updThread t f).ctxs = s.ctxs := rfl
@[simp] theorem State.updThread_aux (t : Tid) (f : Thread → Thread) : (s.updThread t f).aux = s.aux := rfl
@[simp] theorem State.updThread_clusters (t : Tid) (f : Thread → Thread) : (s.updThread t f).clusters = s.clusters := rfl
@[simp] theorem State.updThread_threads (t : Tid) (f : Thread → Thread) : (s.updThread t f).threads = s.threads.upd t.toNat {} f := rfl
@[simp] theorem State.updThread_mem (t : Tid) (f : Thread → Thread) : (s.updThread t f).mem = s.mem := rfl
@[simp] theorem State.updThread_uecc (t : Tid) (f : Thread → Thread) : (s.updThread t f).uecc = s.uecc := rfl
@[simp] theorem State.updThread_banks (t : Tid) (f : Thread → Thread) : (s.updThread t f).banks = s.banks := rfl
@[simp] theorem State.updThread_locks (t : Tid) (f : Thread → Thread) : (s.updThread t f).locks = s.locks := rfl
@[simp] theorem State.updThread_pcs (t : Tid) (f : Thread → Thread) : (s.updThread t f).pcs = s.pcs := rfl
@[simp] theorem State.updThread_spine (t : Tid) (f : Thread → Thread) : (s.updThread t f).spine = s.spine := rfl
@[simp] theorem State.updThread_hub (t : Tid) (f : Thread → Thread) : (s.updThread t f).hub = s.hub := rfl
@[simp] theorem State.updThread_eth (t : Tid) (f : Thread → Thread) : (s.updThread t f).eth = s.eth := rfl
@[simp] theorem State.updThread_clk (t : Tid) (f : Thread → Thread) : (s.updThread t f).clk = s.clk := rfl
@[simp] theorem State.updThread_fw (t : Tid) (f : Thread → Thread) : (s.updThread t f).fw = s.fw := rfl
@[simp] theorem State.updThread_keeper (t : Tid) (f : Thread → Thread) : (s.updThread t f).keeper = s.keeper := rfl
@[simp] theorem State.updThread_mon (t : Tid) (f : Thread → Thread) : (s.updThread t f).mon = s.mon := rfl

/-! ### updBank -/

@[simp] theorem State.updBank_pending (n : Byte) (f : Bank → Bank) : (s.updBank n f).pending = s.pending := rfl
@[simp] theorem State.updBank_free (n : Byte) (f : Bank → Bank) : (s.updBank n f).free = s.free := rfl
@[simp] theorem State.updBank_out (n : Byte) (f : Bank → Bank) : (s.updBank n f).out = s.out := rfl
@[simp] theorem State.updBank_tb (n : Byte) (f : Bank → Bank) : (s.updBank n f).tb = s.tb := rfl
@[simp] theorem State.updBank_scnt (n : Byte) (f : Bank → Bank) : (s.updBank n f).scnt = s.scnt := rfl
@[simp] theorem State.updBank_ctxs (n : Byte) (f : Bank → Bank) : (s.updBank n f).ctxs = s.ctxs := rfl
@[simp] theorem State.updBank_aux (n : Byte) (f : Bank → Bank) : (s.updBank n f).aux = s.aux := rfl
@[simp] theorem State.updBank_clusters (n : Byte) (f : Bank → Bank) : (s.updBank n f).clusters = s.clusters := rfl
@[simp] theorem State.updBank_threads (n : Byte) (f : Bank → Bank) : (s.updBank n f).threads = s.threads := rfl
@[simp] theorem State.updBank_mem (n : Byte) (f : Bank → Bank) : (s.updBank n f).mem = s.mem := rfl
@[simp] theorem State.updBank_uecc (n : Byte) (f : Bank → Bank) : (s.updBank n f).uecc = s.uecc := rfl
@[simp] theorem State.updBank_banks (n : Byte) (f : Bank → Bank) : (s.updBank n f).banks = s.banks.upd n.toNat {} f := rfl
@[simp] theorem State.updBank_locks (n : Byte) (f : Bank → Bank) : (s.updBank n f).locks = s.locks := rfl
@[simp] theorem State.updBank_pcs (n : Byte) (f : Bank → Bank) : (s.updBank n f).pcs = s.pcs := rfl
@[simp] theorem State.updBank_spine (n : Byte) (f : Bank → Bank) : (s.updBank n f).spine = s.spine := rfl
@[simp] theorem State.updBank_hub (n : Byte) (f : Bank → Bank) : (s.updBank n f).hub = s.hub := rfl
@[simp] theorem State.updBank_eth (n : Byte) (f : Bank → Bank) : (s.updBank n f).eth = s.eth := rfl
@[simp] theorem State.updBank_clk (n : Byte) (f : Bank → Bank) : (s.updBank n f).clk = s.clk := rfl
@[simp] theorem State.updBank_fw (n : Byte) (f : Bank → Bank) : (s.updBank n f).fw = s.fw := rfl
@[simp] theorem State.updBank_keeper (n : Byte) (f : Bank → Bank) : (s.updBank n f).keeper = s.keeper := rfl
@[simp] theorem State.updBank_mon (n : Byte) (f : Bank → Bank) : (s.updBank n f).mon = s.mon := rfl

/-! ### updPch -/

@[simp] theorem State.updPch_pending (p : BitVec 4) (f : PseudoCh → PseudoCh) : (s.updPch p f).pending = s.pending := rfl
@[simp] theorem State.updPch_free (p : BitVec 4) (f : PseudoCh → PseudoCh) : (s.updPch p f).free = s.free := rfl
@[simp] theorem State.updPch_out (p : BitVec 4) (f : PseudoCh → PseudoCh) : (s.updPch p f).out = s.out := rfl
@[simp] theorem State.updPch_tb (p : BitVec 4) (f : PseudoCh → PseudoCh) : (s.updPch p f).tb = s.tb := rfl
@[simp] theorem State.updPch_scnt (p : BitVec 4) (f : PseudoCh → PseudoCh) : (s.updPch p f).scnt = s.scnt := rfl
@[simp] theorem State.updPch_ctxs (p : BitVec 4) (f : PseudoCh → PseudoCh) : (s.updPch p f).ctxs = s.ctxs := rfl
@[simp] theorem State.updPch_aux (p : BitVec 4) (f : PseudoCh → PseudoCh) : (s.updPch p f).aux = s.aux := rfl
@[simp] theorem State.updPch_clusters (p : BitVec 4) (f : PseudoCh → PseudoCh) : (s.updPch p f).clusters = s.clusters := rfl
@[simp] theorem State.updPch_threads (p : BitVec 4) (f : PseudoCh → PseudoCh) : (s.updPch p f).threads = s.threads := rfl
@[simp] theorem State.updPch_mem (p : BitVec 4) (f : PseudoCh → PseudoCh) : (s.updPch p f).mem = s.mem := rfl
@[simp] theorem State.updPch_uecc (p : BitVec 4) (f : PseudoCh → PseudoCh) : (s.updPch p f).uecc = s.uecc := rfl
@[simp] theorem State.updPch_banks (p : BitVec 4) (f : PseudoCh → PseudoCh) : (s.updPch p f).banks = s.banks := rfl
@[simp] theorem State.updPch_locks (p : BitVec 4) (f : PseudoCh → PseudoCh) : (s.updPch p f).locks = s.locks := rfl
@[simp] theorem State.updPch_pcs (p : BitVec 4) (f : PseudoCh → PseudoCh) : (s.updPch p f).pcs = s.pcs.upd p.toNat {} f := rfl
@[simp] theorem State.updPch_spine (p : BitVec 4) (f : PseudoCh → PseudoCh) : (s.updPch p f).spine = s.spine := rfl
@[simp] theorem State.updPch_hub (p : BitVec 4) (f : PseudoCh → PseudoCh) : (s.updPch p f).hub = s.hub := rfl
@[simp] theorem State.updPch_eth (p : BitVec 4) (f : PseudoCh → PseudoCh) : (s.updPch p f).eth = s.eth := rfl
@[simp] theorem State.updPch_clk (p : BitVec 4) (f : PseudoCh → PseudoCh) : (s.updPch p f).clk = s.clk := rfl
@[simp] theorem State.updPch_fw (p : BitVec 4) (f : PseudoCh → PseudoCh) : (s.updPch p f).fw = s.fw := rfl
@[simp] theorem State.updPch_keeper (p : BitVec 4) (f : PseudoCh → PseudoCh) : (s.updPch p f).keeper = s.keeper := rfl
@[simp] theorem State.updPch_mon (p : BitVec 4) (f : PseudoCh → PseudoCh) : (s.updPch p f).mon = s.mon := rfl

/-! ### updSpine -/

@[simp] theorem State.updSpine_pending (f : Spine → Spine) : (s.updSpine f).pending = s.pending := rfl
@[simp] theorem State.updSpine_free (f : Spine → Spine) : (s.updSpine f).free = s.free := rfl
@[simp] theorem State.updSpine_out (f : Spine → Spine) : (s.updSpine f).out = s.out := rfl
@[simp] theorem State.updSpine_tb (f : Spine → Spine) : (s.updSpine f).tb = s.tb := rfl
@[simp] theorem State.updSpine_scnt (f : Spine → Spine) : (s.updSpine f).scnt = s.scnt := rfl
@[simp] theorem State.updSpine_ctxs (f : Spine → Spine) : (s.updSpine f).ctxs = s.ctxs := rfl
@[simp] theorem State.updSpine_aux (f : Spine → Spine) : (s.updSpine f).aux = s.aux := rfl
@[simp] theorem State.updSpine_clusters (f : Spine → Spine) : (s.updSpine f).clusters = s.clusters := rfl
@[simp] theorem State.updSpine_threads (f : Spine → Spine) : (s.updSpine f).threads = s.threads := rfl
@[simp] theorem State.updSpine_mem (f : Spine → Spine) : (s.updSpine f).mem = s.mem := rfl
@[simp] theorem State.updSpine_uecc (f : Spine → Spine) : (s.updSpine f).uecc = s.uecc := rfl
@[simp] theorem State.updSpine_banks (f : Spine → Spine) : (s.updSpine f).banks = s.banks := rfl
@[simp] theorem State.updSpine_locks (f : Spine → Spine) : (s.updSpine f).locks = s.locks := rfl
@[simp] theorem State.updSpine_pcs (f : Spine → Spine) : (s.updSpine f).pcs = s.pcs := rfl
@[simp] theorem State.updSpine_spine (f : Spine → Spine) : (s.updSpine f).spine = f s.spine := rfl
@[simp] theorem State.updSpine_hub (f : Spine → Spine) : (s.updSpine f).hub = s.hub := rfl
@[simp] theorem State.updSpine_eth (f : Spine → Spine) : (s.updSpine f).eth = s.eth := rfl
@[simp] theorem State.updSpine_clk (f : Spine → Spine) : (s.updSpine f).clk = s.clk := rfl
@[simp] theorem State.updSpine_fw (f : Spine → Spine) : (s.updSpine f).fw = s.fw := rfl
@[simp] theorem State.updSpine_keeper (f : Spine → Spine) : (s.updSpine f).keeper = s.keeper := rfl
@[simp] theorem State.updSpine_mon (f : Spine → Spine) : (s.updSpine f).mon = s.mon := rfl

/-! ### updHub -/

@[simp] theorem State.updHub_pending (f : Hub → Hub) : (s.updHub f).pending = s.pending := rfl
@[simp] theorem State.updHub_free (f : Hub → Hub) : (s.updHub f).free = s.free := rfl
@[simp] theorem State.updHub_out (f : Hub → Hub) : (s.updHub f).out = s.out := rfl
@[simp] theorem State.updHub_tb (f : Hub → Hub) : (s.updHub f).tb = s.tb := rfl
@[simp] theorem State.updHub_scnt (f : Hub → Hub) : (s.updHub f).scnt = s.scnt := rfl
@[simp] theorem State.updHub_ctxs (f : Hub → Hub) : (s.updHub f).ctxs = s.ctxs := rfl
@[simp] theorem State.updHub_aux (f : Hub → Hub) : (s.updHub f).aux = s.aux := rfl
@[simp] theorem State.updHub_clusters (f : Hub → Hub) : (s.updHub f).clusters = s.clusters := rfl
@[simp] theorem State.updHub_threads (f : Hub → Hub) : (s.updHub f).threads = s.threads := rfl
@[simp] theorem State.updHub_mem (f : Hub → Hub) : (s.updHub f).mem = s.mem := rfl
@[simp] theorem State.updHub_uecc (f : Hub → Hub) : (s.updHub f).uecc = s.uecc := rfl
@[simp] theorem State.updHub_banks (f : Hub → Hub) : (s.updHub f).banks = s.banks := rfl
@[simp] theorem State.updHub_locks (f : Hub → Hub) : (s.updHub f).locks = s.locks := rfl
@[simp] theorem State.updHub_pcs (f : Hub → Hub) : (s.updHub f).pcs = s.pcs := rfl
@[simp] theorem State.updHub_spine (f : Hub → Hub) : (s.updHub f).spine = s.spine := rfl
@[simp] theorem State.updHub_hub (f : Hub → Hub) : (s.updHub f).hub = f s.hub := rfl
@[simp] theorem State.updHub_eth (f : Hub → Hub) : (s.updHub f).eth = s.eth := rfl
@[simp] theorem State.updHub_clk (f : Hub → Hub) : (s.updHub f).clk = s.clk := rfl
@[simp] theorem State.updHub_fw (f : Hub → Hub) : (s.updHub f).fw = s.fw := rfl
@[simp] theorem State.updHub_keeper (f : Hub → Hub) : (s.updHub f).keeper = s.keeper := rfl
@[simp] theorem State.updHub_mon (f : Hub → Hub) : (s.updHub f).mon = s.mon := rfl

/-! ### updClk -/

@[simp] theorem State.updClk_pending (f : Clk → Clk) : (s.updClk f).pending = s.pending := rfl
@[simp] theorem State.updClk_free (f : Clk → Clk) : (s.updClk f).free = s.free := rfl
@[simp] theorem State.updClk_out (f : Clk → Clk) : (s.updClk f).out = s.out := rfl
@[simp] theorem State.updClk_tb (f : Clk → Clk) : (s.updClk f).tb = s.tb := rfl
@[simp] theorem State.updClk_scnt (f : Clk → Clk) : (s.updClk f).scnt = s.scnt := rfl
@[simp] theorem State.updClk_ctxs (f : Clk → Clk) : (s.updClk f).ctxs = s.ctxs := rfl
@[simp] theorem State.updClk_aux (f : Clk → Clk) : (s.updClk f).aux = s.aux := rfl
@[simp] theorem State.updClk_clusters (f : Clk → Clk) : (s.updClk f).clusters = s.clusters := rfl
@[simp] theorem State.updClk_threads (f : Clk → Clk) : (s.updClk f).threads = s.threads := rfl
@[simp] theorem State.updClk_mem (f : Clk → Clk) : (s.updClk f).mem = s.mem := rfl
@[simp] theorem State.updClk_uecc (f : Clk → Clk) : (s.updClk f).uecc = s.uecc := rfl
@[simp] theorem State.updClk_banks (f : Clk → Clk) : (s.updClk f).banks = s.banks := rfl
@[simp] theorem State.updClk_locks (f : Clk → Clk) : (s.updClk f).locks = s.locks := rfl
@[simp] theorem State.updClk_pcs (f : Clk → Clk) : (s.updClk f).pcs = s.pcs := rfl
@[simp] theorem State.updClk_spine (f : Clk → Clk) : (s.updClk f).spine = s.spine := rfl
@[simp] theorem State.updClk_hub (f : Clk → Clk) : (s.updClk f).hub = s.hub := rfl
@[simp] theorem State.updClk_eth (f : Clk → Clk) : (s.updClk f).eth = s.eth := rfl
@[simp] theorem State.updClk_clk (f : Clk → Clk) : (s.updClk f).clk = f s.clk := rfl
@[simp] theorem State.updClk_fw (f : Clk → Clk) : (s.updClk f).fw = s.fw := rfl
@[simp] theorem State.updClk_keeper (f : Clk → Clk) : (s.updClk f).keeper = s.keeper := rfl
@[simp] theorem State.updClk_mon (f : Clk → Clk) : (s.updClk f).mon = s.mon := rfl

/-! ### updFw -/

@[simp] theorem State.updFw_pending (f : Fw → Fw) : (s.updFw f).pending = s.pending := rfl
@[simp] theorem State.updFw_free (f : Fw → Fw) : (s.updFw f).free = s.free := rfl
@[simp] theorem State.updFw_out (f : Fw → Fw) : (s.updFw f).out = s.out := rfl
@[simp] theorem State.updFw_tb (f : Fw → Fw) : (s.updFw f).tb = s.tb := rfl
@[simp] theorem State.updFw_scnt (f : Fw → Fw) : (s.updFw f).scnt = s.scnt := rfl
@[simp] theorem State.updFw_ctxs (f : Fw → Fw) : (s.updFw f).ctxs = s.ctxs := rfl
@[simp] theorem State.updFw_aux (f : Fw → Fw) : (s.updFw f).aux = s.aux := rfl
@[simp] theorem State.updFw_clusters (f : Fw → Fw) : (s.updFw f).clusters = s.clusters := rfl
@[simp] theorem State.updFw_threads (f : Fw → Fw) : (s.updFw f).threads = s.threads := rfl
@[simp] theorem State.updFw_mem (f : Fw → Fw) : (s.updFw f).mem = s.mem := rfl
@[simp] theorem State.updFw_uecc (f : Fw → Fw) : (s.updFw f).uecc = s.uecc := rfl
@[simp] theorem State.updFw_banks (f : Fw → Fw) : (s.updFw f).banks = s.banks := rfl
@[simp] theorem State.updFw_locks (f : Fw → Fw) : (s.updFw f).locks = s.locks := rfl
@[simp] theorem State.updFw_pcs (f : Fw → Fw) : (s.updFw f).pcs = s.pcs := rfl
@[simp] theorem State.updFw_spine (f : Fw → Fw) : (s.updFw f).spine = s.spine := rfl
@[simp] theorem State.updFw_hub (f : Fw → Fw) : (s.updFw f).hub = s.hub := rfl
@[simp] theorem State.updFw_eth (f : Fw → Fw) : (s.updFw f).eth = s.eth := rfl
@[simp] theorem State.updFw_clk (f : Fw → Fw) : (s.updFw f).clk = s.clk := rfl
@[simp] theorem State.updFw_fw (f : Fw → Fw) : (s.updFw f).fw = f s.fw := rfl
@[simp] theorem State.updFw_keeper (f : Fw → Fw) : (s.updFw f).keeper = s.keeper := rfl
@[simp] theorem State.updFw_mon (f : Fw → Fw) : (s.updFw f).mon = s.mon := rfl

/-! ### updKeeper -/

@[simp] theorem State.updKeeper_pending (f : Keeper → Keeper) : (s.updKeeper f).pending = s.pending := rfl
@[simp] theorem State.updKeeper_free (f : Keeper → Keeper) : (s.updKeeper f).free = s.free := rfl
@[simp] theorem State.updKeeper_out (f : Keeper → Keeper) : (s.updKeeper f).out = s.out := rfl
@[simp] theorem State.updKeeper_tb (f : Keeper → Keeper) : (s.updKeeper f).tb = s.tb := rfl
@[simp] theorem State.updKeeper_scnt (f : Keeper → Keeper) : (s.updKeeper f).scnt = s.scnt := rfl
@[simp] theorem State.updKeeper_ctxs (f : Keeper → Keeper) : (s.updKeeper f).ctxs = s.ctxs := rfl
@[simp] theorem State.updKeeper_aux (f : Keeper → Keeper) : (s.updKeeper f).aux = s.aux := rfl
@[simp] theorem State.updKeeper_clusters (f : Keeper → Keeper) : (s.updKeeper f).clusters = s.clusters := rfl
@[simp] theorem State.updKeeper_threads (f : Keeper → Keeper) : (s.updKeeper f).threads = s.threads := rfl
@[simp] theorem State.updKeeper_mem (f : Keeper → Keeper) : (s.updKeeper f).mem = s.mem := rfl
@[simp] theorem State.updKeeper_uecc (f : Keeper → Keeper) : (s.updKeeper f).uecc = s.uecc := rfl
@[simp] theorem State.updKeeper_banks (f : Keeper → Keeper) : (s.updKeeper f).banks = s.banks := rfl
@[simp] theorem State.updKeeper_locks (f : Keeper → Keeper) : (s.updKeeper f).locks = s.locks := rfl
@[simp] theorem State.updKeeper_pcs (f : Keeper → Keeper) : (s.updKeeper f).pcs = s.pcs := rfl
@[simp] theorem State.updKeeper_spine (f : Keeper → Keeper) : (s.updKeeper f).spine = s.spine := rfl
@[simp] theorem State.updKeeper_hub (f : Keeper → Keeper) : (s.updKeeper f).hub = s.hub := rfl
@[simp] theorem State.updKeeper_eth (f : Keeper → Keeper) : (s.updKeeper f).eth = s.eth := rfl
@[simp] theorem State.updKeeper_clk (f : Keeper → Keeper) : (s.updKeeper f).clk = s.clk := rfl
@[simp] theorem State.updKeeper_fw (f : Keeper → Keeper) : (s.updKeeper f).fw = s.fw := rfl
@[simp] theorem State.updKeeper_keeper (f : Keeper → Keeper) : (s.updKeeper f).keeper = f s.keeper := rfl
@[simp] theorem State.updKeeper_mon (f : Keeper → Keeper) : (s.updKeeper f).mon = s.mon := rfl

/-! ### updMon -/

@[simp] theorem State.updMon_pending (f : Mon → Mon) : (s.updMon f).pending = s.pending := rfl
@[simp] theorem State.updMon_free (f : Mon → Mon) : (s.updMon f).free = s.free := rfl
@[simp] theorem State.updMon_out (f : Mon → Mon) : (s.updMon f).out = s.out := rfl
@[simp] theorem State.updMon_tb (f : Mon → Mon) : (s.updMon f).tb = s.tb := rfl
@[simp] theorem State.updMon_scnt (f : Mon → Mon) : (s.updMon f).scnt = s.scnt := rfl
@[simp] theorem State.updMon_ctxs (f : Mon → Mon) : (s.updMon f).ctxs = s.ctxs := rfl
@[simp] theorem State.updMon_aux (f : Mon → Mon) : (s.updMon f).aux = s.aux := rfl
@[simp] theorem State.updMon_clusters (f : Mon → Mon) : (s.updMon f).clusters = s.clusters := rfl
@[simp] theorem State.updMon_threads (f : Mon → Mon) : (s.updMon f).threads = s.threads := rfl
@[simp] theorem State.updMon_mem (f : Mon → Mon) : (s.updMon f).mem = s.mem := rfl
@[simp] theorem State.updMon_uecc (f : Mon → Mon) : (s.updMon f).uecc = s.uecc := rfl
@[simp] theorem State.updMon_banks (f : Mon → Mon) : (s.updMon f).banks = s.banks := rfl
@[simp] theorem State.updMon_locks (f : Mon → Mon) : (s.updMon f).locks = s.locks := rfl
@[simp] theorem State.updMon_pcs (f : Mon → Mon) : (s.updMon f).pcs = s.pcs := rfl
@[simp] theorem State.updMon_spine (f : Mon → Mon) : (s.updMon f).spine = s.spine := rfl
@[simp] theorem State.updMon_hub (f : Mon → Mon) : (s.updMon f).hub = s.hub := rfl
@[simp] theorem State.updMon_eth (f : Mon → Mon) : (s.updMon f).eth = s.eth := rfl
@[simp] theorem State.updMon_clk (f : Mon → Mon) : (s.updMon f).clk = s.clk := rfl
@[simp] theorem State.updMon_fw (f : Mon → Mon) : (s.updMon f).fw = s.fw := rfl
@[simp] theorem State.updMon_keeper (f : Mon → Mon) : (s.updMon f).keeper = s.keeper := rfl
@[simp] theorem State.updMon_mon (f : Mon → Mon) : (s.updMon f).mon = f s.mon := rfl

/-! ### updEth -/

@[simp] theorem State.updEth_pending (f : Eth → Eth) : (s.updEth f).pending = s.pending := rfl
@[simp] theorem State.updEth_free (f : Eth → Eth) : (s.updEth f).free = s.free := rfl
@[simp] theorem State.updEth_out (f : Eth → Eth) : (s.updEth f).out = s.out := rfl
@[simp] theorem State.updEth_tb (f : Eth → Eth) : (s.updEth f).tb = s.tb := rfl
@[simp] theorem State.updEth_scnt (f : Eth → Eth) : (s.updEth f).scnt = s.scnt := rfl
@[simp] theorem State.updEth_ctxs (f : Eth → Eth) : (s.updEth f).ctxs = s.ctxs := rfl
@[simp] theorem State.updEth_aux (f : Eth → Eth) : (s.updEth f).aux = s.aux := rfl
@[simp] theorem State.updEth_clusters (f : Eth → Eth) : (s.updEth f).clusters = s.clusters := rfl
@[simp] theorem State.updEth_threads (f : Eth → Eth) : (s.updEth f).threads = s.threads := rfl
@[simp] theorem State.updEth_mem (f : Eth → Eth) : (s.updEth f).mem = s.mem := rfl
@[simp] theorem State.updEth_uecc (f : Eth → Eth) : (s.updEth f).uecc = s.uecc := rfl
@[simp] theorem State.updEth_banks (f : Eth → Eth) : (s.updEth f).banks = s.banks := rfl
@[simp] theorem State.updEth_locks (f : Eth → Eth) : (s.updEth f).locks = s.locks := rfl
@[simp] theorem State.updEth_pcs (f : Eth → Eth) : (s.updEth f).pcs = s.pcs := rfl
@[simp] theorem State.updEth_spine (f : Eth → Eth) : (s.updEth f).spine = s.spine := rfl
@[simp] theorem State.updEth_hub (f : Eth → Eth) : (s.updEth f).hub = s.hub := rfl
@[simp] theorem State.updEth_eth (f : Eth → Eth) : (s.updEth f).eth = f s.eth := rfl
@[simp] theorem State.updEth_clk (f : Eth → Eth) : (s.updEth f).clk = s.clk := rfl
@[simp] theorem State.updEth_fw (f : Eth → Eth) : (s.updEth f).fw = s.fw := rfl
@[simp] theorem State.updEth_keeper (f : Eth → Eth) : (s.updEth f).keeper = s.keeper := rfl
@[simp] theorem State.updEth_mon (f : Eth → Eth) : (s.updEth f).mon = s.mon := rfl

/-! ### takeFree -/

@[simp] theorem State.takeFree_pending : (s.takeFree).pending = s.pending := rfl
@[simp] theorem State.takeFree_free : (s.takeFree).free = s.free + 1 := rfl
@[simp] theorem State.takeFree_out : (s.takeFree).out = s.out := rfl
@[simp] theorem State.takeFree_tb : (s.takeFree).tb = s.tb := rfl
@[simp] theorem State.takeFree_scnt : (s.takeFree).scnt = s.scnt := rfl
@[simp] theorem State.takeFree_ctxs : (s.takeFree).ctxs = s.ctxs := rfl
@[simp] theorem State.takeFree_aux : (s.takeFree).aux = s.aux := rfl
@[simp] theorem State.takeFree_clusters : (s.takeFree).clusters = s.clusters := rfl
@[simp] theorem State.takeFree_threads : (s.takeFree).threads = s.threads := rfl
@[simp] theorem State.takeFree_mem : (s.takeFree).mem = s.mem := rfl
@[simp] theorem State.takeFree_uecc : (s.takeFree).uecc = s.uecc := rfl
@[simp] theorem State.takeFree_banks : (s.takeFree).banks = s.banks := rfl
@[simp] theorem State.takeFree_locks : (s.takeFree).locks = s.locks := rfl
@[simp] theorem State.takeFree_pcs : (s.takeFree).pcs = s.pcs := rfl
@[simp] theorem State.takeFree_spine : (s.takeFree).spine = s.spine := rfl
@[simp] theorem State.takeFree_hub : (s.takeFree).hub = s.hub := rfl
@[simp] theorem State.takeFree_eth : (s.takeFree).eth = s.eth := rfl
@[simp] theorem State.takeFree_clk : (s.takeFree).clk = s.clk := rfl
@[simp] theorem State.takeFree_fw : (s.takeFree).fw = s.fw := rfl
@[simp] theorem State.takeFree_keeper : (s.takeFree).keeper = s.keeper := rfl
@[simp] theorem State.takeFree_mon : (s.takeFree).mon = s.mon := rfl

/-! ### emit -/

@[simp] theorem State.emit_pending (o : Output) : (s.emit o).pending = s.pending := rfl
@[simp] theorem State.emit_free (o : Output) : (s.emit o).free = s.free := rfl
@[simp] theorem State.emit_out (o : Output) : (s.emit o).out = o :: s.out := rfl
@[simp] theorem State.emit_tb (o : Output) : (s.emit o).tb = s.tb := rfl
@[simp] theorem State.emit_scnt (o : Output) : (s.emit o).scnt = s.scnt := rfl
@[simp] theorem State.emit_ctxs (o : Output) : (s.emit o).ctxs = s.ctxs := rfl
@[simp] theorem State.emit_aux (o : Output) : (s.emit o).aux = s.aux := rfl
@[simp] theorem State.emit_clusters (o : Output) : (s.emit o).clusters = s.clusters := rfl
@[simp] theorem State.emit_threads (o : Output) : (s.emit o).threads = s.threads := rfl
@[simp] theorem State.emit_mem (o : Output) : (s.emit o).mem = s.mem := rfl
@[simp] theorem State.emit_uecc (o : Output) : (s.emit o).uecc = s.uecc := rfl
@[simp] theorem State.emit_banks (o : Output) : (s.emit o).banks = s.banks := rfl
@[simp] theorem State.emit_locks (o : Output) : (s.emit o).locks = s.locks := rfl
@[simp] theorem State.emit_pcs (o : Output) : (s.emit o).pcs = s.pcs := rfl
@[simp] theorem State.emit_spine (o : Output) : (s.emit o).spine = s.spine := rfl
@[simp] theorem State.emit_hub (o : Output) : (s.emit o).hub = s.hub := rfl
@[simp] theorem State.emit_eth (o : Output) : (s.emit o).eth = s.eth := rfl
@[simp] theorem State.emit_clk (o : Output) : (s.emit o).clk = s.clk := rfl
@[simp] theorem State.emit_fw (o : Output) : (s.emit o).fw = s.fw := rfl
@[simp] theorem State.emit_keeper (o : Output) : (s.emit o).keeper = s.keeper := rfl
@[simp] theorem State.emit_mon (o : Output) : (s.emit o).mon = s.mon := rfl

/-! ### wr -/

@[simp] theorem State.wr_pending (a n v : Nat) : (s.wr a n v).pending = s.pending := rfl
@[simp] theorem State.wr_free (a n v : Nat) : (s.wr a n v).free = s.free := rfl
@[simp] theorem State.wr_out (a n v : Nat) : (s.wr a n v).out = s.out := rfl
@[simp] theorem State.wr_tb (a n v : Nat) : (s.wr a n v).tb = s.tb := rfl
@[simp] theorem State.wr_scnt (a n v : Nat) : (s.wr a n v).scnt = s.scnt := rfl
@[simp] theorem State.wr_ctxs (a n v : Nat) : (s.wr a n v).ctxs = s.ctxs := rfl
@[simp] theorem State.wr_aux (a n v : Nat) : (s.wr a n v).aux = s.aux := rfl
@[simp] theorem State.wr_clusters (a n v : Nat) : (s.wr a n v).clusters = s.clusters := rfl
@[simp] theorem State.wr_threads (a n v : Nat) : (s.wr a n v).threads = s.threads := rfl
@[simp] theorem State.wr_mem (a n v : Nat) : (s.wr a n v).mem = Memory.write s.mem a n v := rfl
@[simp] theorem State.wr_uecc (a n v : Nat) : (s.wr a n v).uecc = s.uecc := rfl
@[simp] theorem State.wr_banks (a n v : Nat) : (s.wr a n v).banks = s.banks := rfl
@[simp] theorem State.wr_locks (a n v : Nat) : (s.wr a n v).locks = s.locks := rfl
@[simp] theorem State.wr_pcs (a n v : Nat) : (s.wr a n v).pcs = s.pcs := rfl
@[simp] theorem State.wr_spine (a n v : Nat) : (s.wr a n v).spine = s.spine := rfl
@[simp] theorem State.wr_hub (a n v : Nat) : (s.wr a n v).hub = s.hub := rfl
@[simp] theorem State.wr_eth (a n v : Nat) : (s.wr a n v).eth = s.eth := rfl
@[simp] theorem State.wr_clk (a n v : Nat) : (s.wr a n v).clk = s.clk := rfl
@[simp] theorem State.wr_fw (a n v : Nat) : (s.wr a n v).fw = s.fw := rfl
@[simp] theorem State.wr_keeper (a n v : Nat) : (s.wr a n v).keeper = s.keeper := rfl
@[simp] theorem State.wr_mon (a n v : Nat) : (s.wr a n v).mon = s.mon := rfl

/-! ### updPe -/

@[simp] theorem State.updPe_pending (c : ClusterId) (p : BitVec 3) (f : Pe → Pe) : (s.updPe c p f).pending = s.pending := rfl
@[simp] theorem State.updPe_free (c : ClusterId) (p : BitVec 3) (f : Pe → Pe) : (s.updPe c p f).free = s.free := rfl
@[simp] theorem State.updPe_out (c : ClusterId) (p : BitVec 3) (f : Pe → Pe) : (s.updPe c p f).out = s.out := rfl
@[simp] theorem State.updPe_tb (c : ClusterId) (p : BitVec 3) (f : Pe → Pe) : (s.updPe c p f).tb = s.tb := rfl
@[simp] theorem State.updPe_scnt (c : ClusterId) (p : BitVec 3) (f : Pe → Pe) : (s.updPe c p f).scnt = s.scnt := rfl
@[simp] theorem State.updPe_ctxs (c : ClusterId) (p : BitVec 3) (f : Pe → Pe) : (s.updPe c p f).ctxs = s.ctxs := rfl
@[simp] theorem State.updPe_aux (c : ClusterId) (p : BitVec 3) (f : Pe → Pe) : (s.updPe c p f).aux = s.aux := rfl
@[simp] theorem State.updPe_threads (c : ClusterId) (p : BitVec 3) (f : Pe → Pe) : (s.updPe c p f).threads = s.threads := rfl
@[simp] theorem State.updPe_mem (c : ClusterId) (p : BitVec 3) (f : Pe → Pe) : (s.updPe c p f).mem = s.mem := rfl
@[simp] theorem State.updPe_uecc (c : ClusterId) (p : BitVec 3) (f : Pe → Pe) : (s.updPe c p f).uecc = s.uecc := rfl
@[simp] theorem State.updPe_banks (c : ClusterId) (p : BitVec 3) (f : Pe → Pe) : (s.updPe c p f).banks = s.banks := rfl
@[simp] theorem State.updPe_locks (c : ClusterId) (p : BitVec 3) (f : Pe → Pe) : (s.updPe c p f).locks = s.locks := rfl
@[simp] theorem State.updPe_pcs (c : ClusterId) (p : BitVec 3) (f : Pe → Pe) : (s.updPe c p f).pcs = s.pcs := rfl
@[simp] theorem State.updPe_spine (c : ClusterId) (p : BitVec 3) (f : Pe → Pe) : (s.updPe c p f).spine = s.spine := rfl
@[simp] theorem State.updPe_hub (c : ClusterId) (p : BitVec 3) (f : Pe → Pe) : (s.updPe c p f).hub = s.hub := rfl
@[simp] theorem State.updPe_eth (c : ClusterId) (p : BitVec 3) (f : Pe → Pe) : (s.updPe c p f).eth = s.eth := rfl
@[simp] theorem State.updPe_clk (c : ClusterId) (p : BitVec 3) (f : Pe → Pe) : (s.updPe c p f).clk = s.clk := rfl
@[simp] theorem State.updPe_fw (c : ClusterId) (p : BitVec 3) (f : Pe → Pe) : (s.updPe c p f).fw = s.fw := rfl
@[simp] theorem State.updPe_keeper (c : ClusterId) (p : BitVec 3) (f : Pe → Pe) : (s.updPe c p f).keeper = s.keeper := rfl
@[simp] theorem State.updPe_mon (c : ClusterId) (p : BitVec 3) (f : Pe → Pe) : (s.updPe c p f).mon = s.mon := rfl

/-! ### pushBuf -/

@[simp] theorem State.pushBuf_pending (r : BitVec 4) (port : Nat) (p : Packet) : (s.pushBuf r port p).pending = s.pending := rfl
@[simp] theorem State.pushBuf_free (r : BitVec 4) (port : Nat) (p : Packet) : (s.pushBuf r port p).free = s.free := rfl
@[simp] theorem State.pushBuf_out (r : BitVec 4) (port : Nat) (p : Packet) : (s.pushBuf r port p).out = s.out := rfl
@[simp] theorem State.pushBuf_tb (r : BitVec 4) (port : Nat) (p : Packet) : (s.pushBuf r port p).tb = s.tb := rfl
@[simp] theorem State.pushBuf_scnt (r : BitVec 4) (port : Nat) (p : Packet) : (s.pushBuf r port p).scnt = s.scnt := rfl
@[simp] theorem State.pushBuf_ctxs (r : BitVec 4) (port : Nat) (p : Packet) : (s.pushBuf r port p).ctxs = s.ctxs := rfl
@[simp] theorem State.pushBuf_aux (r : BitVec 4) (port : Nat) (p : Packet) : (s.pushBuf r port p).aux = s.aux := rfl
@[simp] theorem State.pushBuf_clusters (r : BitVec 4) (port : Nat) (p : Packet) : (s.pushBuf r port p).clusters = s.clusters := rfl
@[simp] theorem State.pushBuf_threads (r : BitVec 4) (port : Nat) (p : Packet) : (s.pushBuf r port p).threads = s.threads := rfl
@[simp] theorem State.pushBuf_mem (r : BitVec 4) (port : Nat) (p : Packet) : (s.pushBuf r port p).mem = s.mem := rfl
@[simp] theorem State.pushBuf_uecc (r : BitVec 4) (port : Nat) (p : Packet) : (s.pushBuf r port p).uecc = s.uecc := rfl
@[simp] theorem State.pushBuf_banks (r : BitVec 4) (port : Nat) (p : Packet) : (s.pushBuf r port p).banks = s.banks := rfl
@[simp] theorem State.pushBuf_locks (r : BitVec 4) (port : Nat) (p : Packet) : (s.pushBuf r port p).locks = s.locks := rfl
@[simp] theorem State.pushBuf_pcs (r : BitVec 4) (port : Nat) (p : Packet) : (s.pushBuf r port p).pcs = s.pcs := rfl
@[simp] theorem State.pushBuf_hub (r : BitVec 4) (port : Nat) (p : Packet) : (s.pushBuf r port p).hub = s.hub := rfl
@[simp] theorem State.pushBuf_eth (r : BitVec 4) (port : Nat) (p : Packet) : (s.pushBuf r port p).eth = s.eth := rfl
@[simp] theorem State.pushBuf_clk (r : BitVec 4) (port : Nat) (p : Packet) : (s.pushBuf r port p).clk = s.clk := rfl
@[simp] theorem State.pushBuf_fw (r : BitVec 4) (port : Nat) (p : Packet) : (s.pushBuf r port p).fw = s.fw := rfl
@[simp] theorem State.pushBuf_keeper (r : BitVec 4) (port : Nat) (p : Packet) : (s.pushBuf r port p).keeper = s.keeper := rfl
@[simp] theorem State.pushBuf_mon (r : BitVec 4) (port : Nat) (p : Packet) : (s.pushBuf r port p).mon = s.mon := rfl

/-! ### Objects that a change does not touch -/

@[simp] theorem State.caux_updCtx (x : CtxId) (f : Ctx → Ctx) (x' : CtxId) : (s.updCtx x f).caux x' = s.caux x' := rfl
@[simp] theorem State.cluster_updCtx (x : CtxId) (f : Ctx → Ctx) (c' : ClusterId) : (s.updCtx x f).cluster c' = s.cluster c' := rfl
@[simp] theorem State.thread_updCtx (x : CtxId) (f : Ctx → Ctx) (t' : Tid) : (s.updCtx x f).thread t' = s.thread t' := rfl
@[simp] theorem State.bank_updCtx (x : CtxId) (f : Ctx → Ctx) (n' : Byte) : (s.updCtx x f).bank n' = s.bank n' := rfl
@[simp] theorem State.pch_updCtx (x : CtxId) (f : Ctx → Ctx) (p' : BitVec 4) : (s.updCtx x f).pch p' = s.pch p' := rfl
@[simp] theorem State.router_updCtx (x : CtxId) (f : Ctx → Ctx) (r' : BitVec 4) : (s.updCtx x f).router r' = s.router r' := rfl
@[simp] theorem State.func_updCtx (x : CtxId) (f : Ctx → Ctx) (f' : FuncId) : (s.updCtx x f).func f' = s.func f' := rfl
@[simp] theorem State.ring_updCtx (x : CtxId) (f : Ctx → Ctx) (f' : FuncId) (r' : RingId) : (s.updCtx x f).ring f' r' = s.ring f' r' := rfl
@[simp] theorem State.flow_updCtx (x : CtxId) (f : Ctx → Ctx) (n' : BitVec 14) : (s.updCtx x f).flow n' = s.flow n' := rfl
@[simp] theorem State.mbox_updCtx (x : CtxId) (f : Ctx → Ctx) (f' : FuncId) : (s.updCtx x f).mbox f' = s.mbox f' := rfl
@[simp] theorem State.sect_updCtx (x : CtxId) (f : Ctx → Ctx) (n' : BitVec 4) : (s.updCtx x f).sect n' = s.sect n' := rfl
@[simp] theorem State.ethPort_updCtx (x : CtxId) (f : Ctx → Ctx) (p' : BitVec 2) : (s.updCtx x f).ethPort p' = s.ethPort p' := rfl
@[simp] theorem State.image_updCtx (x : CtxId) (f : Ctx → Ctx) (h' : BitVec 16) : (s.updCtx x f).image h' = s.image h' := rfl

@[simp] theorem State.ctx_updAux (x : CtxId) (f : CtxAux → CtxAux) (x' : CtxId) : (s.updAux x f).ctx x' = s.ctx x' := rfl
@[simp] theorem State.cluster_updAux (x : CtxId) (f : CtxAux → CtxAux) (c' : ClusterId) : (s.updAux x f).cluster c' = s.cluster c' := rfl
@[simp] theorem State.thread_updAux (x : CtxId) (f : CtxAux → CtxAux) (t' : Tid) : (s.updAux x f).thread t' = s.thread t' := rfl
@[simp] theorem State.bank_updAux (x : CtxId) (f : CtxAux → CtxAux) (n' : Byte) : (s.updAux x f).bank n' = s.bank n' := rfl
@[simp] theorem State.pch_updAux (x : CtxId) (f : CtxAux → CtxAux) (p' : BitVec 4) : (s.updAux x f).pch p' = s.pch p' := rfl
@[simp] theorem State.router_updAux (x : CtxId) (f : CtxAux → CtxAux) (r' : BitVec 4) : (s.updAux x f).router r' = s.router r' := rfl
@[simp] theorem State.func_updAux (x : CtxId) (f : CtxAux → CtxAux) (f' : FuncId) : (s.updAux x f).func f' = s.func f' := rfl
@[simp] theorem State.ring_updAux (x : CtxId) (f : CtxAux → CtxAux) (f' : FuncId) (r' : RingId) : (s.updAux x f).ring f' r' = s.ring f' r' := rfl
@[simp] theorem State.flow_updAux (x : CtxId) (f : CtxAux → CtxAux) (n' : BitVec 14) : (s.updAux x f).flow n' = s.flow n' := rfl
@[simp] theorem State.mbox_updAux (x : CtxId) (f : CtxAux → CtxAux) (f' : FuncId) : (s.updAux x f).mbox f' = s.mbox f' := rfl
@[simp] theorem State.sect_updAux (x : CtxId) (f : CtxAux → CtxAux) (n' : BitVec 4) : (s.updAux x f).sect n' = s.sect n' := rfl
@[simp] theorem State.ethPort_updAux (x : CtxId) (f : CtxAux → CtxAux) (p' : BitVec 2) : (s.updAux x f).ethPort p' = s.ethPort p' := rfl
@[simp] theorem State.image_updAux (x : CtxId) (f : CtxAux → CtxAux) (h' : BitVec 16) : (s.updAux x f).image h' = s.image h' := rfl

@[simp] theorem State.ctx_updCluster (c : ClusterId) (f : Cluster → Cluster) (x' : CtxId) : (s.updCluster c f).ctx x' = s.ctx x' := rfl
@[simp] theorem State.caux_updCluster (c : ClusterId) (f : Cluster → Cluster) (x' : CtxId) : (s.updCluster c f).caux x' = s.caux x' := rfl
@[simp] theorem State.thread_updCluster (c : ClusterId) (f : Cluster → Cluster) (t' : Tid) : (s.updCluster c f).thread t' = s.thread t' := rfl
@[simp] theorem State.bank_updCluster (c : ClusterId) (f : Cluster → Cluster) (n' : Byte) : (s.updCluster c f).bank n' = s.bank n' := rfl
@[simp] theorem State.pch_updCluster (c : ClusterId) (f : Cluster → Cluster) (p' : BitVec 4) : (s.updCluster c f).pch p' = s.pch p' := rfl
@[simp] theorem State.router_updCluster (c : ClusterId) (f : Cluster → Cluster) (r' : BitVec 4) : (s.updCluster c f).router r' = s.router r' := rfl
@[simp] theorem State.func_updCluster (c : ClusterId) (f : Cluster → Cluster) (f' : FuncId) : (s.updCluster c f).func f' = s.func f' := rfl
@[simp] theorem State.ring_updCluster (c : ClusterId) (f : Cluster → Cluster) (f' : FuncId) (r' : RingId) : (s.updCluster c f).ring f' r' = s.ring f' r' := rfl
@[simp] theorem State.flow_updCluster (c : ClusterId) (f : Cluster → Cluster) (n' : BitVec 14) : (s.updCluster c f).flow n' = s.flow n' := rfl
@[simp] theorem State.mbox_updCluster (c : ClusterId) (f : Cluster → Cluster) (f' : FuncId) : (s.updCluster c f).mbox f' = s.mbox f' := rfl
@[simp] theorem State.sect_updCluster (c : ClusterId) (f : Cluster → Cluster) (n' : BitVec 4) : (s.updCluster c f).sect n' = s.sect n' := rfl
@[simp] theorem State.ethPort_updCluster (c : ClusterId) (f : Cluster → Cluster) (p' : BitVec 2) : (s.updCluster c f).ethPort p' = s.ethPort p' := rfl
@[simp] theorem State.image_updCluster (c : ClusterId) (f : Cluster → Cluster) (h' : BitVec 16) : (s.updCluster c f).image h' = s.image h' := rfl

@[simp] theorem State.ctx_updThread (t : Tid) (f : Thread → Thread) (x' : CtxId) : (s.updThread t f).ctx x' = s.ctx x' := rfl
@[simp] theorem State.caux_updThread (t : Tid) (f : Thread → Thread) (x' : CtxId) : (s.updThread t f).caux x' = s.caux x' := rfl
@[simp] theorem State.cluster_updThread (t : Tid) (f : Thread → Thread) (c' : ClusterId) : (s.updThread t f).cluster c' = s.cluster c' := rfl
@[simp] theorem State.bank_updThread (t : Tid) (f : Thread → Thread) (n' : Byte) : (s.updThread t f).bank n' = s.bank n' := rfl
@[simp] theorem State.pch_updThread (t : Tid) (f : Thread → Thread) (p' : BitVec 4) : (s.updThread t f).pch p' = s.pch p' := rfl
@[simp] theorem State.router_updThread (t : Tid) (f : Thread → Thread) (r' : BitVec 4) : (s.updThread t f).router r' = s.router r' := rfl
@[simp] theorem State.func_updThread (t : Tid) (f : Thread → Thread) (f' : FuncId) : (s.updThread t f).func f' = s.func f' := rfl
@[simp] theorem State.ring_updThread (t : Tid) (f : Thread → Thread) (f' : FuncId) (r' : RingId) : (s.updThread t f).ring f' r' = s.ring f' r' := rfl
@[simp] theorem State.flow_updThread (t : Tid) (f : Thread → Thread) (n' : BitVec 14) : (s.updThread t f).flow n' = s.flow n' := rfl
@[simp] theorem State.mbox_updThread (t : Tid) (f : Thread → Thread) (f' : FuncId) : (s.updThread t f).mbox f' = s.mbox f' := rfl
@[simp] theorem State.sect_updThread (t : Tid) (f : Thread → Thread) (n' : BitVec 4) : (s.updThread t f).sect n' = s.sect n' := rfl
@[simp] theorem State.ethPort_updThread (t : Tid) (f : Thread → Thread) (p' : BitVec 2) : (s.updThread t f).ethPort p' = s.ethPort p' := rfl
@[simp] theorem State.image_updThread (t : Tid) (f : Thread → Thread) (h' : BitVec 16) : (s.updThread t f).image h' = s.image h' := rfl

@[simp] theorem State.ctx_updBank (n : Byte) (f : Bank → Bank) (x' : CtxId) : (s.updBank n f).ctx x' = s.ctx x' := rfl
@[simp] theorem State.caux_updBank (n : Byte) (f : Bank → Bank) (x' : CtxId) : (s.updBank n f).caux x' = s.caux x' := rfl
@[simp] theorem State.cluster_updBank (n : Byte) (f : Bank → Bank) (c' : ClusterId) : (s.updBank n f).cluster c' = s.cluster c' := rfl
@[simp] theorem State.thread_updBank (n : Byte) (f : Bank → Bank) (t' : Tid) : (s.updBank n f).thread t' = s.thread t' := rfl
@[simp] theorem State.pch_updBank (n : Byte) (f : Bank → Bank) (p' : BitVec 4) : (s.updBank n f).pch p' = s.pch p' := rfl
@[simp] theorem State.router_updBank (n : Byte) (f : Bank → Bank) (r' : BitVec 4) : (s.updBank n f).router r' = s.router r' := rfl
@[simp] theorem State.func_updBank (n : Byte) (f : Bank → Bank) (f' : FuncId) : (s.updBank n f).func f' = s.func f' := rfl
@[simp] theorem State.ring_updBank (n : Byte) (f : Bank → Bank) (f' : FuncId) (r' : RingId) : (s.updBank n f).ring f' r' = s.ring f' r' := rfl
@[simp] theorem State.flow_updBank (n : Byte) (f : Bank → Bank) (n' : BitVec 14) : (s.updBank n f).flow n' = s.flow n' := rfl
@[simp] theorem State.mbox_updBank (n : Byte) (f : Bank → Bank) (f' : FuncId) : (s.updBank n f).mbox f' = s.mbox f' := rfl
@[simp] theorem State.sect_updBank (n : Byte) (f : Bank → Bank) (n' : BitVec 4) : (s.updBank n f).sect n' = s.sect n' := rfl
@[simp] theorem State.ethPort_updBank (n : Byte) (f : Bank → Bank) (p' : BitVec 2) : (s.updBank n f).ethPort p' = s.ethPort p' := rfl
@[simp] theorem State.image_updBank (n : Byte) (f : Bank → Bank) (h' : BitVec 16) : (s.updBank n f).image h' = s.image h' := rfl

@[simp] theorem State.ctx_updPch (p : BitVec 4) (f : PseudoCh → PseudoCh) (x' : CtxId) : (s.updPch p f).ctx x' = s.ctx x' := rfl
@[simp] theorem State.caux_updPch (p : BitVec 4) (f : PseudoCh → PseudoCh) (x' : CtxId) : (s.updPch p f).caux x' = s.caux x' := rfl
@[simp] theorem State.cluster_updPch (p : BitVec 4) (f : PseudoCh → PseudoCh) (c' : ClusterId) : (s.updPch p f).cluster c' = s.cluster c' := rfl
@[simp] theorem State.thread_updPch (p : BitVec 4) (f : PseudoCh → PseudoCh) (t' : Tid) : (s.updPch p f).thread t' = s.thread t' := rfl
@[simp] theorem State.bank_updPch (p : BitVec 4) (f : PseudoCh → PseudoCh) (n' : Byte) : (s.updPch p f).bank n' = s.bank n' := rfl
@[simp] theorem State.router_updPch (p : BitVec 4) (f : PseudoCh → PseudoCh) (r' : BitVec 4) : (s.updPch p f).router r' = s.router r' := rfl
@[simp] theorem State.func_updPch (p : BitVec 4) (f : PseudoCh → PseudoCh) (f' : FuncId) : (s.updPch p f).func f' = s.func f' := rfl
@[simp] theorem State.ring_updPch (p : BitVec 4) (f : PseudoCh → PseudoCh) (f' : FuncId) (r' : RingId) : (s.updPch p f).ring f' r' = s.ring f' r' := rfl
@[simp] theorem State.flow_updPch (p : BitVec 4) (f : PseudoCh → PseudoCh) (n' : BitVec 14) : (s.updPch p f).flow n' = s.flow n' := rfl
@[simp] theorem State.mbox_updPch (p : BitVec 4) (f : PseudoCh → PseudoCh) (f' : FuncId) : (s.updPch p f).mbox f' = s.mbox f' := rfl
@[simp] theorem State.sect_updPch (p : BitVec 4) (f : PseudoCh → PseudoCh) (n' : BitVec 4) : (s.updPch p f).sect n' = s.sect n' := rfl
@[simp] theorem State.ethPort_updPch (p : BitVec 4) (f : PseudoCh → PseudoCh) (p' : BitVec 2) : (s.updPch p f).ethPort p' = s.ethPort p' := rfl
@[simp] theorem State.image_updPch (p : BitVec 4) (f : PseudoCh → PseudoCh) (h' : BitVec 16) : (s.updPch p f).image h' = s.image h' := rfl

@[simp] theorem State.ctx_updSpine (f : Spine → Spine) (x' : CtxId) : (s.updSpine f).ctx x' = s.ctx x' := rfl
@[simp] theorem State.caux_updSpine (f : Spine → Spine) (x' : CtxId) : (s.updSpine f).caux x' = s.caux x' := rfl
@[simp] theorem State.cluster_updSpine (f : Spine → Spine) (c' : ClusterId) : (s.updSpine f).cluster c' = s.cluster c' := rfl
@[simp] theorem State.thread_updSpine (f : Spine → Spine) (t' : Tid) : (s.updSpine f).thread t' = s.thread t' := rfl
@[simp] theorem State.bank_updSpine (f : Spine → Spine) (n' : Byte) : (s.updSpine f).bank n' = s.bank n' := rfl
@[simp] theorem State.pch_updSpine (f : Spine → Spine) (p' : BitVec 4) : (s.updSpine f).pch p' = s.pch p' := rfl
@[simp] theorem State.func_updSpine (f : Spine → Spine) (f' : FuncId) : (s.updSpine f).func f' = s.func f' := rfl
@[simp] theorem State.ring_updSpine (f : Spine → Spine) (f' : FuncId) (r' : RingId) : (s.updSpine f).ring f' r' = s.ring f' r' := rfl
@[simp] theorem State.flow_updSpine (f : Spine → Spine) (n' : BitVec 14) : (s.updSpine f).flow n' = s.flow n' := rfl
@[simp] theorem State.mbox_updSpine (f : Spine → Spine) (f' : FuncId) : (s.updSpine f).mbox f' = s.mbox f' := rfl
@[simp] theorem State.sect_updSpine (f : Spine → Spine) (n' : BitVec 4) : (s.updSpine f).sect n' = s.sect n' := rfl
@[simp] theorem State.ethPort_updSpine (f : Spine → Spine) (p' : BitVec 2) : (s.updSpine f).ethPort p' = s.ethPort p' := rfl
@[simp] theorem State.image_updSpine (f : Spine → Spine) (h' : BitVec 16) : (s.updSpine f).image h' = s.image h' := rfl

@[simp] theorem State.ctx_updHub (f : Hub → Hub) (x' : CtxId) : (s.updHub f).ctx x' = s.ctx x' := rfl
@[simp] theorem State.caux_updHub (f : Hub → Hub) (x' : CtxId) : (s.updHub f).caux x' = s.caux x' := rfl
@[simp] theorem State.cluster_updHub (f : Hub → Hub) (c' : ClusterId) : (s.updHub f).cluster c' = s.cluster c' := rfl
@[simp] theorem State.thread_updHub (f : Hub → Hub) (t' : Tid) : (s.updHub f).thread t' = s.thread t' := rfl
@[simp] theorem State.bank_updHub (f : Hub → Hub) (n' : Byte) : (s.updHub f).bank n' = s.bank n' := rfl
@[simp] theorem State.pch_updHub (f : Hub → Hub) (p' : BitVec 4) : (s.updHub f).pch p' = s.pch p' := rfl
@[simp] theorem State.router_updHub (f : Hub → Hub) (r' : BitVec 4) : (s.updHub f).router r' = s.router r' := rfl
@[simp] theorem State.sect_updHub (f : Hub → Hub) (n' : BitVec 4) : (s.updHub f).sect n' = s.sect n' := rfl
@[simp] theorem State.ethPort_updHub (f : Hub → Hub) (p' : BitVec 2) : (s.updHub f).ethPort p' = s.ethPort p' := rfl
@[simp] theorem State.image_updHub (f : Hub → Hub) (h' : BitVec 16) : (s.updHub f).image h' = s.image h' := rfl

@[simp] theorem State.ctx_updClk (f : Clk → Clk) (x' : CtxId) : (s.updClk f).ctx x' = s.ctx x' := rfl
@[simp] theorem State.caux_updClk (f : Clk → Clk) (x' : CtxId) : (s.updClk f).caux x' = s.caux x' := rfl
@[simp] theorem State.cluster_updClk (f : Clk → Clk) (c' : ClusterId) : (s.updClk f).cluster c' = s.cluster c' := rfl
@[simp] theorem State.thread_updClk (f : Clk → Clk) (t' : Tid) : (s.updClk f).thread t' = s.thread t' := rfl
@[simp] theorem State.bank_updClk (f : Clk → Clk) (n' : Byte) : (s.updClk f).bank n' = s.bank n' := rfl
@[simp] theorem State.pch_updClk (f : Clk → Clk) (p' : BitVec 4) : (s.updClk f).pch p' = s.pch p' := rfl
@[simp] theorem State.router_updClk (f : Clk → Clk) (r' : BitVec 4) : (s.updClk f).router r' = s.router r' := rfl
@[simp] theorem State.func_updClk (f : Clk → Clk) (f' : FuncId) : (s.updClk f).func f' = s.func f' := rfl
@[simp] theorem State.ring_updClk (f : Clk → Clk) (f' : FuncId) (r' : RingId) : (s.updClk f).ring f' r' = s.ring f' r' := rfl
@[simp] theorem State.flow_updClk (f : Clk → Clk) (n' : BitVec 14) : (s.updClk f).flow n' = s.flow n' := rfl
@[simp] theorem State.mbox_updClk (f : Clk → Clk) (f' : FuncId) : (s.updClk f).mbox f' = s.mbox f' := rfl
@[simp] theorem State.ethPort_updClk (f : Clk → Clk) (p' : BitVec 2) : (s.updClk f).ethPort p' = s.ethPort p' := rfl
@[simp] theorem State.image_updClk (f : Clk → Clk) (h' : BitVec 16) : (s.updClk f).image h' = s.image h' := rfl

@[simp] theorem State.ctx_updFw (f : Fw → Fw) (x' : CtxId) : (s.updFw f).ctx x' = s.ctx x' := rfl
@[simp] theorem State.caux_updFw (f : Fw → Fw) (x' : CtxId) : (s.updFw f).caux x' = s.caux x' := rfl
@[simp] theorem State.cluster_updFw (f : Fw → Fw) (c' : ClusterId) : (s.updFw f).cluster c' = s.cluster c' := rfl
@[simp] theorem State.thread_updFw (f : Fw → Fw) (t' : Tid) : (s.updFw f).thread t' = s.thread t' := rfl
@[simp] theorem State.bank_updFw (f : Fw → Fw) (n' : Byte) : (s.updFw f).bank n' = s.bank n' := rfl
@[simp] theorem State.pch_updFw (f : Fw → Fw) (p' : BitVec 4) : (s.updFw f).pch p' = s.pch p' := rfl
@[simp] theorem State.router_updFw (f : Fw → Fw) (r' : BitVec 4) : (s.updFw f).router r' = s.router r' := rfl
@[simp] theorem State.func_updFw (f : Fw → Fw) (f' : FuncId) : (s.updFw f).func f' = s.func f' := rfl
@[simp] theorem State.ring_updFw (f : Fw → Fw) (f' : FuncId) (r' : RingId) : (s.updFw f).ring f' r' = s.ring f' r' := rfl
@[simp] theorem State.flow_updFw (f : Fw → Fw) (n' : BitVec 14) : (s.updFw f).flow n' = s.flow n' := rfl
@[simp] theorem State.mbox_updFw (f : Fw → Fw) (f' : FuncId) : (s.updFw f).mbox f' = s.mbox f' := rfl
@[simp] theorem State.sect_updFw (f : Fw → Fw) (n' : BitVec 4) : (s.updFw f).sect n' = s.sect n' := rfl
@[simp] theorem State.ethPort_updFw (f : Fw → Fw) (p' : BitVec 2) : (s.updFw f).ethPort p' = s.ethPort p' := rfl

@[simp] theorem State.ctx_updKeeper (f : Keeper → Keeper) (x' : CtxId) : (s.updKeeper f).ctx x' = s.ctx x' := rfl
@[simp] theorem State.caux_updKeeper (f : Keeper → Keeper) (x' : CtxId) : (s.updKeeper f).caux x' = s.caux x' := rfl
@[simp] theorem State.cluster_updKeeper (f : Keeper → Keeper) (c' : ClusterId) : (s.updKeeper f).cluster c' = s.cluster c' := rfl
@[simp] theorem State.thread_updKeeper (f : Keeper → Keeper) (t' : Tid) : (s.updKeeper f).thread t' = s.thread t' := rfl
@[simp] theorem State.bank_updKeeper (f : Keeper → Keeper) (n' : Byte) : (s.updKeeper f).bank n' = s.bank n' := rfl
@[simp] theorem State.pch_updKeeper (f : Keeper → Keeper) (p' : BitVec 4) : (s.updKeeper f).pch p' = s.pch p' := rfl
@[simp] theorem State.router_updKeeper (f : Keeper → Keeper) (r' : BitVec 4) : (s.updKeeper f).router r' = s.router r' := rfl
@[simp] theorem State.func_updKeeper (f : Keeper → Keeper) (f' : FuncId) : (s.updKeeper f).func f' = s.func f' := rfl
@[simp] theorem State.ring_updKeeper (f : Keeper → Keeper) (f' : FuncId) (r' : RingId) : (s.updKeeper f).ring f' r' = s.ring f' r' := rfl
@[simp] theorem State.flow_updKeeper (f : Keeper → Keeper) (n' : BitVec 14) : (s.updKeeper f).flow n' = s.flow n' := rfl
@[simp] theorem State.mbox_updKeeper (f : Keeper → Keeper) (f' : FuncId) : (s.updKeeper f).mbox f' = s.mbox f' := rfl
@[simp] theorem State.sect_updKeeper (f : Keeper → Keeper) (n' : BitVec 4) : (s.updKeeper f).sect n' = s.sect n' := rfl
@[simp] theorem State.ethPort_updKeeper (f : Keeper → Keeper) (p' : BitVec 2) : (s.updKeeper f).ethPort p' = s.ethPort p' := rfl
@[simp] theorem State.image_updKeeper (f : Keeper → Keeper) (h' : BitVec 16) : (s.updKeeper f).image h' = s.image h' := rfl

@[simp] theorem State.ctx_updMon (f : Mon → Mon) (x' : CtxId) : (s.updMon f).ctx x' = s.ctx x' := rfl
@[simp] theorem State.caux_updMon (f : Mon → Mon) (x' : CtxId) : (s.updMon f).caux x' = s.caux x' := rfl
@[simp] theorem State.cluster_updMon (f : Mon → Mon) (c' : ClusterId) : (s.updMon f).cluster c' = s.cluster c' := rfl
@[simp] theorem State.thread_updMon (f : Mon → Mon) (t' : Tid) : (s.updMon f).thread t' = s.thread t' := rfl
@[simp] theorem State.bank_updMon (f : Mon → Mon) (n' : Byte) : (s.updMon f).bank n' = s.bank n' := rfl
@[simp] theorem State.pch_updMon (f : Mon → Mon) (p' : BitVec 4) : (s.updMon f).pch p' = s.pch p' := rfl
@[simp] theorem State.router_updMon (f : Mon → Mon) (r' : BitVec 4) : (s.updMon f).router r' = s.router r' := rfl
@[simp] theorem State.func_updMon (f : Mon → Mon) (f' : FuncId) : (s.updMon f).func f' = s.func f' := rfl
@[simp] theorem State.ring_updMon (f : Mon → Mon) (f' : FuncId) (r' : RingId) : (s.updMon f).ring f' r' = s.ring f' r' := rfl
@[simp] theorem State.flow_updMon (f : Mon → Mon) (n' : BitVec 14) : (s.updMon f).flow n' = s.flow n' := rfl
@[simp] theorem State.mbox_updMon (f : Mon → Mon) (f' : FuncId) : (s.updMon f).mbox f' = s.mbox f' := rfl
@[simp] theorem State.sect_updMon (f : Mon → Mon) (n' : BitVec 4) : (s.updMon f).sect n' = s.sect n' := rfl
@[simp] theorem State.ethPort_updMon (f : Mon → Mon) (p' : BitVec 2) : (s.updMon f).ethPort p' = s.ethPort p' := rfl
@[simp] theorem State.image_updMon (f : Mon → Mon) (h' : BitVec 16) : (s.updMon f).image h' = s.image h' := rfl

@[simp] theorem State.ctx_updEth (f : Eth → Eth) (x' : CtxId) : (s.updEth f).ctx x' = s.ctx x' := rfl
@[simp] theorem State.caux_updEth (f : Eth → Eth) (x' : CtxId) : (s.updEth f).caux x' = s.caux x' := rfl
@[simp] theorem State.cluster_updEth (f : Eth → Eth) (c' : ClusterId) : (s.updEth f).cluster c' = s.cluster c' := rfl
@[simp] theorem State.thread_updEth (f : Eth → Eth) (t' : Tid) : (s.updEth f).thread t' = s.thread t' := rfl
@[simp] theorem State.bank_updEth (f : Eth → Eth) (n' : Byte) : (s.updEth f).bank n' = s.bank n' := rfl
@[simp] theorem State.pch_updEth (f : Eth → Eth) (p' : BitVec 4) : (s.updEth f).pch p' = s.pch p' := rfl
@[simp] theorem State.router_updEth (f : Eth → Eth) (r' : BitVec 4) : (s.updEth f).router r' = s.router r' := rfl
@[simp] theorem State.func_updEth (f : Eth → Eth) (f' : FuncId) : (s.updEth f).func f' = s.func f' := rfl
@[simp] theorem State.ring_updEth (f : Eth → Eth) (f' : FuncId) (r' : RingId) : (s.updEth f).ring f' r' = s.ring f' r' := rfl
@[simp] theorem State.flow_updEth (f : Eth → Eth) (n' : BitVec 14) : (s.updEth f).flow n' = s.flow n' := rfl
@[simp] theorem State.mbox_updEth (f : Eth → Eth) (f' : FuncId) : (s.updEth f).mbox f' = s.mbox f' := rfl
@[simp] theorem State.sect_updEth (f : Eth → Eth) (n' : BitVec 4) : (s.updEth f).sect n' = s.sect n' := rfl
@[simp] theorem State.image_updEth (f : Eth → Eth) (h' : BitVec 16) : (s.updEth f).image h' = s.image h' := rfl

@[simp] theorem State.ctx_takeFree (x' : CtxId) : (s.takeFree).ctx x' = s.ctx x' := rfl
@[simp] theorem State.caux_takeFree (x' : CtxId) : (s.takeFree).caux x' = s.caux x' := rfl
@[simp] theorem State.cluster_takeFree (c' : ClusterId) : (s.takeFree).cluster c' = s.cluster c' := rfl
@[simp] theorem State.thread_takeFree (t' : Tid) : (s.takeFree).thread t' = s.thread t' := rfl
@[simp] theorem State.bank_takeFree (n' : Byte) : (s.takeFree).bank n' = s.bank n' := rfl
@[simp] theorem State.pch_takeFree (p' : BitVec 4) : (s.takeFree).pch p' = s.pch p' := rfl
@[simp] theorem State.router_takeFree (r' : BitVec 4) : (s.takeFree).router r' = s.router r' := rfl
@[simp] theorem State.func_takeFree (f' : FuncId) : (s.takeFree).func f' = s.func f' := rfl
@[simp] theorem State.ring_takeFree (f' : FuncId) (r' : RingId) : (s.takeFree).ring f' r' = s.ring f' r' := rfl
@[simp] theorem State.flow_takeFree (n' : BitVec 14) : (s.takeFree).flow n' = s.flow n' := rfl
@[simp] theorem State.mbox_takeFree (f' : FuncId) : (s.takeFree).mbox f' = s.mbox f' := rfl
@[simp] theorem State.sect_takeFree (n' : BitVec 4) : (s.takeFree).sect n' = s.sect n' := rfl
@[simp] theorem State.ethPort_takeFree (p' : BitVec 2) : (s.takeFree).ethPort p' = s.ethPort p' := rfl
@[simp] theorem State.image_takeFree (h' : BitVec 16) : (s.takeFree).image h' = s.image h' := rfl

@[simp] theorem State.ctx_emit (o : Output) (x' : CtxId) : (s.emit o).ctx x' = s.ctx x' := rfl
@[simp] theorem State.caux_emit (o : Output) (x' : CtxId) : (s.emit o).caux x' = s.caux x' := rfl
@[simp] theorem State.cluster_emit (o : Output) (c' : ClusterId) : (s.emit o).cluster c' = s.cluster c' := rfl
@[simp] theorem State.thread_emit (o : Output) (t' : Tid) : (s.emit o).thread t' = s.thread t' := rfl
@[simp] theorem State.bank_emit (o : Output) (n' : Byte) : (s.emit o).bank n' = s.bank n' := rfl
@[simp] theorem State.pch_emit (o : Output) (p' : BitVec 4) : (s.emit o).pch p' = s.pch p' := rfl
@[simp] theorem State.router_emit (o : Output) (r' : BitVec 4) : (s.emit o).router r' = s.router r' := rfl
@[simp] theorem State.func_emit (o : Output) (f' : FuncId) : (s.emit o).func f' = s.func f' := rfl
@[simp] theorem State.ring_emit (o : Output) (f' : FuncId) (r' : RingId) : (s.emit o).ring f' r' = s.ring f' r' := rfl
@[simp] theorem State.flow_emit (o : Output) (n' : BitVec 14) : (s.emit o).flow n' = s.flow n' := rfl
@[simp] theorem State.mbox_emit (o : Output) (f' : FuncId) : (s.emit o).mbox f' = s.mbox f' := rfl
@[simp] theorem State.sect_emit (o : Output) (n' : BitVec 4) : (s.emit o).sect n' = s.sect n' := rfl
@[simp] theorem State.ethPort_emit (o : Output) (p' : BitVec 2) : (s.emit o).ethPort p' = s.ethPort p' := rfl
@[simp] theorem State.image_emit (o : Output) (h' : BitVec 16) : (s.emit o).image h' = s.image h' := rfl

@[simp] theorem State.ctx_wr (a n v : Nat) (x' : CtxId) : (s.wr a n v).ctx x' = s.ctx x' := rfl
@[simp] theorem State.caux_wr (a n v : Nat) (x' : CtxId) : (s.wr a n v).caux x' = s.caux x' := rfl
@[simp] theorem State.cluster_wr (a n v : Nat) (c' : ClusterId) : (s.wr a n v).cluster c' = s.cluster c' := rfl
@[simp] theorem State.thread_wr (a n v : Nat) (t' : Tid) : (s.wr a n v).thread t' = s.thread t' := rfl
@[simp] theorem State.bank_wr (a n v : Nat) (n' : Byte) : (s.wr a n v).bank n' = s.bank n' := rfl
@[simp] theorem State.pch_wr (a n v : Nat) (p' : BitVec 4) : (s.wr a n v).pch p' = s.pch p' := rfl
@[simp] theorem State.router_wr (a n v : Nat) (r' : BitVec 4) : (s.wr a n v).router r' = s.router r' := rfl
@[simp] theorem State.func_wr (a n v : Nat) (f' : FuncId) : (s.wr a n v).func f' = s.func f' := rfl
@[simp] theorem State.ring_wr (a n v : Nat) (f' : FuncId) (r' : RingId) : (s.wr a n v).ring f' r' = s.ring f' r' := rfl
@[simp] theorem State.flow_wr (a n v : Nat) (n' : BitVec 14) : (s.wr a n v).flow n' = s.flow n' := rfl
@[simp] theorem State.mbox_wr (a n v : Nat) (f' : FuncId) : (s.wr a n v).mbox f' = s.mbox f' := rfl
@[simp] theorem State.sect_wr (a n v : Nat) (n' : BitVec 4) : (s.wr a n v).sect n' = s.sect n' := rfl
@[simp] theorem State.ethPort_wr (a n v : Nat) (p' : BitVec 2) : (s.wr a n v).ethPort p' = s.ethPort p' := rfl
@[simp] theorem State.image_wr (a n v : Nat) (h' : BitVec 16) : (s.wr a n v).image h' = s.image h' := rfl

@[simp] theorem State.ctx_updPe (c : ClusterId) (p : BitVec 3) (f : Pe → Pe) (x' : CtxId) : (s.updPe c p f).ctx x' = s.ctx x' := rfl
@[simp] theorem State.caux_updPe (c : ClusterId) (p : BitVec 3) (f : Pe → Pe) (x' : CtxId) : (s.updPe c p f).caux x' = s.caux x' := rfl
@[simp] theorem State.thread_updPe (c : ClusterId) (p : BitVec 3) (f : Pe → Pe) (t' : Tid) : (s.updPe c p f).thread t' = s.thread t' := rfl
@[simp] theorem State.bank_updPe (c : ClusterId) (p : BitVec 3) (f : Pe → Pe) (n' : Byte) : (s.updPe c p f).bank n' = s.bank n' := rfl
@[simp] theorem State.pch_updPe (c : ClusterId) (p : BitVec 3) (f : Pe → Pe) (p' : BitVec 4) : (s.updPe c p f).pch p' = s.pch p' := rfl
@[simp] theorem State.router_updPe (c : ClusterId) (p : BitVec 3) (f : Pe → Pe) (r' : BitVec 4) : (s.updPe c p f).router r' = s.router r' := rfl
@[simp] theorem State.func_updPe (c : ClusterId) (p : BitVec 3) (f : Pe → Pe) (f' : FuncId) : (s.updPe c p f).func f' = s.func f' := rfl
@[simp] theorem State.ring_updPe (c : ClusterId) (p : BitVec 3) (f : Pe → Pe) (f' : FuncId) (r' : RingId) : (s.updPe c p f).ring f' r' = s.ring f' r' := rfl
@[simp] theorem State.flow_updPe (c : ClusterId) (p : BitVec 3) (f : Pe → Pe) (n' : BitVec 14) : (s.updPe c p f).flow n' = s.flow n' := rfl
@[simp] theorem State.mbox_updPe (c : ClusterId) (p : BitVec 3) (f : Pe → Pe) (f' : FuncId) : (s.updPe c p f).mbox f' = s.mbox f' := rfl
@[simp] theorem State.sect_updPe (c : ClusterId) (p : BitVec 3) (f : Pe → Pe) (n' : BitVec 4) : (s.updPe c p f).sect n' = s.sect n' := rfl
@[simp] theorem State.ethPort_updPe (c : ClusterId) (p : BitVec 3) (f : Pe → Pe) (p' : BitVec 2) : (s.updPe c p f).ethPort p' = s.ethPort p' := rfl
@[simp] theorem State.image_updPe (c : ClusterId) (p : BitVec 3) (f : Pe → Pe) (h' : BitVec 16) : (s.updPe c p f).image h' = s.image h' := rfl

@[simp] theorem State.ctx_pushBuf (r : BitVec 4) (port : Nat) (p : Packet) (x' : CtxId) : (s.pushBuf r port p).ctx x' = s.ctx x' := rfl
@[simp] theorem State.caux_pushBuf (r : BitVec 4) (port : Nat) (p : Packet) (x' : CtxId) : (s.pushBuf r port p).caux x' = s.caux x' := rfl
@[simp] theorem State.cluster_pushBuf (r : BitVec 4) (port : Nat) (p : Packet) (c' : ClusterId) : (s.pushBuf r port p).cluster c' = s.cluster c' := rfl
@[simp] theorem State.thread_pushBuf (r : BitVec 4) (port : Nat) (p : Packet) (t' : Tid) : (s.pushBuf r port p).thread t' = s.thread t' := rfl
@[simp] theorem State.bank_pushBuf (r : BitVec 4) (port : Nat) (p : Packet) (n' : Byte) : (s.pushBuf r port p).bank n' = s.bank n' := rfl
@[simp] theorem State.pch_pushBuf (r : BitVec 4) (port : Nat) (p : Packet) (p' : BitVec 4) : (s.pushBuf r port p).pch p' = s.pch p' := rfl
@[simp] theorem State.func_pushBuf (r : BitVec 4) (port : Nat) (p : Packet) (f' : FuncId) : (s.pushBuf r port p).func f' = s.func f' := rfl
@[simp] theorem State.ring_pushBuf (r : BitVec 4) (port : Nat) (p : Packet) (f' : FuncId) (r' : RingId) : (s.pushBuf r port p).ring f' r' = s.ring f' r' := rfl
@[simp] theorem State.flow_pushBuf (r : BitVec 4) (port : Nat) (p : Packet) (n' : BitVec 14) : (s.pushBuf r port p).flow n' = s.flow n' := rfl
@[simp] theorem State.mbox_pushBuf (r : BitVec 4) (port : Nat) (p : Packet) (f' : FuncId) : (s.pushBuf r port p).mbox f' = s.mbox f' := rfl
@[simp] theorem State.sect_pushBuf (r : BitVec 4) (port : Nat) (p : Packet) (n' : BitVec 4) : (s.pushBuf r port p).sect n' = s.sect n' := rfl
@[simp] theorem State.ethPort_pushBuf (r : BitVec 4) (port : Nat) (p : Packet) (p' : BitVec 2) : (s.pushBuf r port p).ethPort p' = s.ethPort p' := rfl
@[simp] theorem State.image_pushBuf (r : BitVec 4) (port : Nat) (p : Packet) (h' : BitVec 16) : (s.pushBuf r port p).image h' = s.image h' := rfl

end Fields

end Sys2Proof.Machine
end

