-- ==== Sys2Proof/Laws/Memory.lean ====
section
/-! SUPPORT. The laws of memory: every operation keeps the canonical form, a byte written reads back, and every other byte
reads as before. -/

namespace Sys2Proof.Machine

/-- The canonical form, as a rising list of bytes that differ from the default. -/
theorem Memory.wf_iff (m : List Host.Cell) :
    Memory.wf m = true ↔ m.Pairwise (fun e f => e.1 < f.1) ∧ ∀ e ∈ m, e.2 ≠ memDefault := by
  induction m with
  | nil => simp [Memory.wf]
  | cons e m ih =>
    obtain ⟨a, v⟩ := e
    cases m with
    | nil => simp [Memory.wf]
    | cons f m =>
      obtain ⟨b, w⟩ := f
      rw [Memory.wf, Bool.and_eq_true, Bool.and_eq_true, ih, List.pairwise_cons (a := (a, v))]
      simp only [bne_iff_ne, ne_eq, decide_eq_true_eq]
      constructor
      · rintro ⟨⟨hv, hab⟩, hp, hm⟩
        refine ⟨⟨?_, hp⟩, ?_⟩
        · intro g hg
          rcases List.mem_cons.1 hg with rfl | hg
          · exact hab
          · exact Nat.lt_trans hab ((List.pairwise_cons.1 hp).1 g hg)
        · intro g hg
          rcases List.mem_cons.1 hg with rfl | hg
          · exact hv
          · exact hm g hg
      · rintro ⟨⟨hb, hp⟩, hm⟩
        exact ⟨⟨hm (a, v) (by simp), hb (b, w) (by simp)⟩, hp, fun g hg => hm g (by simp [hg])⟩

/-- An address below every listed one reads the default. -/
theorem Memory.get_below {m : List Host.Cell} {a : Nat} (h : ∀ e ∈ m, a < e.1) : Memory.get m a = memDefault := by
  induction m with
  | nil => rfl
  | cons e m ih =>
    obtain ⟨b, w⟩ := e
    have hb : a < b := h (b, w) (by simp)
    simp only [Memory.get]
    rw [if_neg (by omega), ih fun f hf => h f (by simp [hf])]

/-- What a write leaves listed: the byte written, or what was listed before. -/
theorem Memory.mem_set {m : List Host.Cell} {a : Nat} {v : Byte} {e : Host.Cell} (h : e ∈ Memory.set m a v) :
    (e = (a, v) ∧ v ≠ memDefault) ∨ e ∈ m := by
  induction m with
  | nil =>
    simp only [Memory.set] at h
    split at h
    · simp at h
    · exact .inl ⟨by simpa using h, ‹_›⟩
  | cons f m ih =>
    obtain ⟨b, w⟩ := f
    simp only [Memory.set] at h
    split at h
    · split at h
      · exact .inr h
      · rcases List.mem_cons.1 h with rfl | h
        · exact .inl ⟨rfl, ‹_›⟩
        · exact .inr h
    · split at h
      · split at h
        · exact .inr (by simp [h])
        · rcases List.mem_cons.1 h with rfl | h
          · exact .inl ⟨rfl, ‹_›⟩
          · exact .inr (by simp [h])
      · rcases List.mem_cons.1 h with rfl | h
        · exact .inr (by simp)
        · rcases ih h with h | h
          · exact .inl h
          · exact .inr (by simp [h])

/-- A write keeps the canonical form. -/
theorem Memory.set_wf {m : List Host.Cell} (h : Memory.wf m = true) (a : Nat) (v : Byte) :
    Memory.wf (Memory.set m a v) = true := by
  rw [Memory.wf_iff] at h ⊢
  obtain ⟨hp, hm⟩ := h
  refine ⟨?_, fun e he => ?_⟩
  · clear hm
    induction m with
    | nil =>
      simp only [Memory.set]
      split <;> simp
    | cons f m ih =>
      obtain ⟨b, w⟩ := f
      obtain ⟨hb, hm⟩ := List.pairwise_cons.1 hp
      simp only [Memory.set]
      split
      · split
        · exact hp
        · refine List.pairwise_cons.2 ⟨fun e he => ?_, hp⟩
          rcases List.mem_cons.1 he with rfl | he
          · assumption
          · exact Nat.lt_trans ‹a < b› (hb e he)
      · split
        · split
          · exact hm
          · subst_vars
            exact List.pairwise_cons.2 ⟨hb, hm⟩
        · refine List.pairwise_cons.2 ⟨fun e he => ?_, ih hm⟩
          rcases Memory.mem_set he with ⟨rfl, _⟩ | he
          · show b < a
            omega
          · exact hb e he
  · rcases Memory.mem_set he with ⟨rfl, hv⟩ | he
    · exact hv
    · exact hm e he

/-- Reading after a write: the byte written at its address, and every other byte as before. -/
theorem Memory.get_set {m : List Host.Cell} (h : Memory.wf m = true) (a b : Nat) (v : Byte) :
    Memory.get (Memory.set m a v) b = if b = a then v else Memory.get m b := by
  have hp := ((Memory.wf_iff m).1 h).1
  clear h
  induction m with
  | nil =>
    simp only [Memory.set]
    by_cases hv : v = memDefault <;> by_cases hb : b = a
    · simp [Memory.get, hv, hb]
    · simp [Memory.get, hv]
    · simp [Memory.get, hv, hb]
    · simp [Memory.get, hv, hb, Ne.symm hb]
  | cons f m ih =>
    obtain ⟨c, w⟩ := f
    obtain ⟨hc, hm⟩ := List.pairwise_cons.1 hp
    simp only [Memory.set]
    by_cases hac : a < c
    · rw [if_pos hac]
      have hd : Memory.get ((c, w) :: m) a = memDefault := Memory.get_below fun e he => by
        rcases List.mem_cons.1 he with rfl | he
        · exact hac
        · exact Nat.lt_trans hac (hc e he)
      by_cases hv : v = memDefault <;> by_cases hb : b = a
      · subst hb; simp [hv, hd]
      · simp [hv, hb]
      · simp [Memory.get, hv, hb]
      · rw [if_neg hv, if_neg hb]
        conv => lhs; rw [Memory.get]
        rw [if_neg (Ne.symm hb)]
    · rw [if_neg hac]
      by_cases hae : a = c
      · subst hae
        rw [if_pos rfl]
        have hd : Memory.get m a = memDefault := Memory.get_below hc
        by_cases hv : v = memDefault <;> by_cases hb : b = a
        · subst hb; simp [hv, hd]
        · simp [Memory.get, hv, hb, Ne.symm hb]
        · simp [Memory.get, hv, hb]
        · simp [Memory.get, hv, hb, Ne.symm hb]
      · rw [if_neg hae]
        simp only [Memory.get]
        by_cases hcb : c = b
        · have hb : b ≠ a := fun e => hae (by omega)
          simp [hcb, hb]
        · simp [hcb, ih hm]

/-- Writing several bytes keeps the canonical form. -/
theorem Memory.write_wf {m : List Host.Cell} (h : Memory.wf m = true) (a n v : Nat) :
    Memory.wf (Memory.write m a n v) = true := by
  induction n generalizing m a v with
  | zero => exact h
  | succ n ih => exact ih (Memory.set_wf h a _) _ _

/-- A byte outside those written reads as before. -/
theorem Memory.get_write_other {m : List Host.Cell} (h : Memory.wf m = true) {a n b : Nat} (v : Nat)
    (hb : b < a ∨ a + n ≤ b) : Memory.get (Memory.write m a n v) b = Memory.get m b := by
  induction n generalizing m a v with
  | zero => rfl
  | succ n ih =>
    rw [Memory.write, ih (Memory.set_wf h a _) _ (by omega), Memory.get_set h, if_neg (by omega)]

/-- The byte `i` of those written, least significant first. -/
theorem Memory.get_write {m : List Host.Cell} (h : Memory.wf m = true) (a n v i : Nat) (hi : i < n) :
    Memory.get (Memory.write m a n v) (a + i) = BitVec.ofNat 8 (v / 256 ^ i) := by
  induction n generalizing m a v i with
  | zero => omega
  | succ n ih =>
    rw [Memory.write]
    cases i with
    | zero =>
      rw [Memory.get_write_other (Memory.set_wf h a _) _ (by omega), Memory.get_set h]
      simp
    | succ i =>
      have := ih (Memory.set_wf h a (BitVec.ofNat 8 v)) (a + 1) (v / 256) i (by omega)
      rw [show a + (i + 1) = a + 1 + i by omega, this, Nat.div_div_eq_div_mul, Nat.pow_succ, Nat.mul_comm]

/-- What was written reads back. -/
theorem Memory.read_write {m : List Host.Cell} (h : Memory.wf m = true) (a n v : Nat) :
    Memory.read (Memory.write m a n v) a n = v % 256 ^ n := by
  induction n generalizing m a v with
  | zero => simp [Memory.read, Nat.mod_one]
  | succ n ih =>
    rw [Memory.read, Memory.write, ih (Memory.set_wf h a _), Memory.get_write_other (Memory.set_wf h a _) _ (by omega),
      Memory.get_set h, if_pos rfl, Nat.pow_succ, Nat.mul_comm (256 ^ n), Nat.mod_mul]
    simp

/-- Bytes that read alike from an address on are the same number. -/
theorem Memory.read_congr {m k : List Host.Cell} (a n : Nat) (h : ∀ i, i < n → Memory.get m (a + i) = Memory.get k (a + i)) :
    Memory.read m a n = Memory.read k a n := by
  induction n generalizing a with
  | zero => rfl
  | succ n ih =>
    have h0 : Memory.get m a = Memory.get k a := h 0 (by omega)
    rw [Memory.read, Memory.read, h0, ih (a + 1) fun i hi => by
      rw [show a + 1 + i = a + (i + 1) by omega]; exact h (i + 1) (by omega)]

/-- Clearing a range keeps the canonical form. -/
theorem Memory.clear_wf {m : List Host.Cell} (h : Memory.wf m = true) (lo n : Nat) :
    Memory.wf (Memory.clear m lo n) = true := by
  rw [Memory.wf_iff] at h ⊢
  exact ⟨h.1.sublist List.filter_sublist, fun e he => h.2 e (List.mem_filter.1 he).1⟩

/-- After a clear the range reads the default, and every other byte as before. -/
theorem Memory.get_clear (m : List Host.Cell) (lo n a : Nat) :
    Memory.get (Memory.clear m lo n) a = if lo ≤ a ∧ a < lo + n then memDefault else Memory.get m a := by
  induction m with
  | nil => simp [Memory.clear, Memory.get]
  | cons e m ih =>
    obtain ⟨b, w⟩ := e
    rw [show Memory.clear ((b, w) :: m) lo n =
      if b < lo ∨ lo + n ≤ b then (b, w) :: Memory.clear m lo n else Memory.clear m lo n by
        simp [Memory.clear, List.filter_cons]]
    split
    · simp only [Memory.get]
      split
      · rw [if_neg (by omega)]
      · exact ih
    · rw [ih]
      split
      · rfl
      · rw [Memory.get, if_neg (by omega)]

/-- Memory at reset is in canonical form. -/
theorem State.reset_memWf : State.reset.memWf = true := rfl

@[simp] theorem State.setBad_mem (s : State) (a : Nat) (b : Bool) : (s.setBad a b).mem = s.mem := rfl

/-- A store of the machine keeps the canonical form. -/
theorem State.wr_memWf {s : State} (h : s.memWf = true) (a n v : Nat) : (s.wr a n v).memWf = true :=
  Memory.write_wf h a n v

end Sys2Proof.Machine
end

