-- ==== Sys2Proof/Laws/Frames.lean ====
section
/-! SUPPORT. The operations that leave memory alone. -/

set_option linter.unusedSimpArgs false

namespace Sys2Proof.Machine

theorem foldl_keeps_mem {α : Type} (f : State → α → State) (h : ∀ s a, (f s a).mem = s.mem) (l : List α) (s : State) :
    (l.foldl f s).mem = s.mem := by
  induction l generalizing s with
  | nil => rfl
  | cons a l ih => rw [List.foldl_cons, ih, h]

@[simp] theorem State.updRouter_mem (s : State) (r : BitVec 4) (f : Router → Router) :
    (State.updRouter s r f).mem = s.mem := by
  unfold State.updRouter
  simp

@[simp] theorem State.updFunc_mem (s : State) (f : FuncId) (g : Func → Func) :
    (State.updFunc s f g).mem = s.mem := by
  unfold State.updFunc
  simp

@[simp] theorem State.updPort_mem (s : State) (p : BitVec 2) (g : Port → Port) :
    (State.updPort s p g).mem = s.mem := by
  unfold State.updPort
  simp

@[simp] theorem State.setRing_mem (s : State) (f : FuncId) (r : RingId) (g : Ring) :
    (State.setRing s f r g).mem = s.mem := by
  unfold State.setRing
  simp

@[simp] theorem State.updRing_mem (s : State) (f : FuncId) (r : RingId) (g : Ring → Ring) :
    (State.updRing s f r g).mem = s.mem := by
  unfold State.updRing
  (repeat' split) <;> simp

@[simp] theorem State.updFlow_mem (s : State) (n : BitVec 14) (g : Flow → Flow) :
    (State.updFlow s n g).mem = s.mem := by
  unfold State.updFlow
  simp

@[simp] theorem State.updMbox_mem (s : State) (f : FuncId) (g : Mbox → Mbox) :
    (State.updMbox s f g).mem = s.mem := by
  unfold State.updMbox
  simp

@[simp] theorem State.updSect_mem (s : State) (n : BitVec 4) (f : Section → Section) :
    (State.updSect s n f).mem = s.mem := by
  unfold State.updSect
  simp

@[simp] theorem State.updXing_mem (s : State) (d : Nat) (f : Xing → Xing) :
    (State.updXing s d f).mem = s.mem := by
  unfold State.updXing
  simp

@[simp] theorem State.updProbe_mem (s : State) (k : Nat) (f : Probe → Probe) :
    (State.updProbe s k f).mem = s.mem := by
  unfold State.updProbe
  simp

@[simp] theorem State.wakeSect_mem (s : State) (n : BitVec 4) : (s.wakeSect n).mem = s.mem := by
  unfold State.wakeSect
  split <;> simp

@[simp] theorem State.updEthPort_mem (s : State) (p : BitVec 2) (f : EthPort → EthPort) :
    (State.updEthPort s p f).mem = s.mem := by
  unfold State.updEthPort
  simp

@[simp] theorem State.pass_mem (s : State) (n : Nat) :
    (State.pass s n).mem = s.mem := by
  unfold State.pass
  (repeat' split) <;> simp

@[simp] theorem State.passTo_mem (s : State) (due : Nat) :
    (State.passTo s due).mem = s.mem := by
  unfold State.passTo
  simp

@[simp] theorem State.passFc_mem (s : State) (n : BitVec 4) (due : Nat) :
    (State.passFc s n due).mem = s.mem := by
  unfold State.passFc
  (repeat' split) <;> simp (disch := (intros; simp)) [foldl_keeps_mem, apply_ite State.mem]

@[simp] theorem State.stepTb_mem (s : State) (off : DWord) :
    (State.stepTb s off).mem = s.mem := by
  unfold State.stepTb
  simp

@[simp] theorem State.emitFor_mem (s : State) (f : FuncId) (o : Output) :
    (State.emitFor s f o).mem = s.mem := by
  unfold State.emitFor
  (repeat' split) <;> simp

@[simp] theorem State.aerReport_mem (s : State) (f : FuncId) (e : AerErr) :
    (State.aerReport s f e).mem = s.mem := by
  unfold State.aerReport
  simp

@[simp] theorem State.covered_mem (s : State) (f : FuncId) (v : BitVec 6) : (s.covered f v).mem = s.mem := rfl

@[simp] theorem State.raise_mem (s : State) (f : FuncId) (v : BitVec 6) :
    (State.raise s f v).mem = s.mem := by
  unfold State.raise
  (repeat' split) <;> simp (disch := (intros; simp)) [foldl_keeps_mem, apply_ite State.mem]

@[simp] theorem State.stageItem_mem (s : State) (f : FuncId) (r : RingId) (i : ReelItem) :
    (State.stageItem s f r i).mem = s.mem := by
  unfold State.stageItem
  simp

@[simp] theorem State.event_mem (s : State) (f : FuncId) (code : BitVec 16) (object : Nat) (value : DWord) :
    (State.event s f code object value).mem = s.mem := by
  unfold State.event
  (repeat' split) <;> simp

@[simp] theorem State.adminEvent_mem (s : State) (code : BitVec 16) (object : Nat) (value : DWord) :
    (State.adminEvent s code object value).mem = s.mem := by
  unfold State.adminEvent
  simp

@[simp] theorem State.mgmtRecord_mem (s : State) (code : BitVec 16) (cause : Byte) (detail : DWord) :
    (State.mgmtRecord s code cause detail).mem = s.mem := by
  unfold State.mgmtRecord
  (repeat' split) <;> simp

@[simp] theorem State.inflightAdd_mem (s : State) (x : CtxId) (n : Nat) :
    (State.inflightAdd s x n).mem = s.mem := by
  unfold State.inflightAdd
  simp

@[simp] theorem State.inflightSub_mem (s : State) (x : CtxId) (n : Nat) :
    (State.inflightSub s x n).mem = s.mem := by
  unfold State.inflightSub
  simp

@[simp] theorem State.timersAdd_mem (s : State) (x : CtxId) :
    (State.timersAdd s x).mem = s.mem := by
  unfold State.timersAdd
  simp

@[simp] theorem State.timersSub_mem (s : State) (x : CtxId) :
    (State.timersSub s x).mem = s.mem := by
  unfold State.timersSub
  simp

@[simp] theorem State.act_mem (s : State) (c : ClusterId) (x : CtxId) :
    (State.act s c x).mem = s.mem := by
  unfold State.act
  simp

@[simp] theorem State.toBroke_mem (s : State) (tok : Token) (cause : Byte) (x : CtxId) (counted poison : Bool) :
    (State.toBroke s tok cause x counted poison).mem = s.mem := by
  unfold State.toBroke
  simp

@[simp] theorem State.updTask_mem (s : State) (c : ClusterId) (d : BitVec 10) (f : Task → Task) :
    (State.updTask s c d f).mem = s.mem := by
  unfold State.updTask
  simp

@[simp] theorem State.freeThread_mem (s : State) (t : Tid) :
    (State.freeThread s t).mem = s.mem := by
  unfold State.freeThread
  (repeat' split) <;> simp

@[simp] theorem State.enqueue_mem (s : State) (c : ClusterId) (w : Work) :
    (State.enqueue s c w).mem = s.mem := by
  unfold State.enqueue
  simp

@[simp] theorem State.emptySlots_mem (s : State) (c : ClusterId) (p : Work → Bool) :
    (State.emptySlots s c p).mem = s.mem := by
  unfold State.emptySlots
  simp

@[simp] theorem State.makeReady_mem (s : State) (c : ClusterId) (d : BitVec 10) :
    (State.makeReady s c d).mem = s.mem := by
  unfold State.makeReady
  simp

@[simp] theorem State.unready_mem (s : State) (c : ClusterId) (d : BitVec 10) :
    (State.unready s c d).mem = s.mem := by
  unfold State.unready
  simp

@[simp] theorem State.updChan_mem (s : State) (c : ClusterId) (d : BitVec 10) (ch : BitVec 3) (f : Channel → Channel) :
    (State.updChan s c d ch f).mem = s.mem := by
  unfold State.updChan
  simp

@[simp] theorem State.tear_mem (s : State) (who : Sender) (x : CtxId) (task : BitVec 16) (ch : BitVec 3) (granted : Bool) :
    (State.tear s who x task ch granted).mem = s.mem := by
  unfold State.tear
  (repeat' split) <;> simp

@[simp] theorem State.tearTrap_mem (s : State) (t : Tid) :
    (State.tearTrap s t).mem = s.mem := by
  unfold State.tearTrap
  (repeat' split) <;> simp

@[simp] theorem State.tearOutbox_mem (s : State) (t : Tid) :
    (State.tearOutbox s t).mem = s.mem := by
  unfold State.tearOutbox
  (repeat' split) <;> simp (disch := (intros; simp)) [foldl_keeps_mem, apply_ite State.mem]

@[simp] theorem State.toDormant_mem (s : State) (c : ClusterId) (d : BitVec 10) :
    (State.toDormant s c d).mem = s.mem := by
  unfold State.toDormant
  (repeat' split) <;> simp (disch := (intros; simp)) [foldl_keeps_mem, apply_ite State.mem]

@[simp] theorem State.endThread_mem (s : State) (t : Tid) :
    (State.endThread s t).mem = s.mem := by
  unfold State.endThread
  (repeat' split) <;> simp

@[simp] theorem State.stopWork_mem (s : State) (t : Tid) (a : AfterSave) :
    (State.stopWork s t a).mem = s.mem := by
  unfold State.stopWork
  try dsimp only
  (repeat' split) <;> first | with_reducible rfl | (simp; done) | simp (disch := (intros; (try dsimp only); (repeat' split) <;> simp)) [foldl_keeps_mem, apply_ite State.mem]

@[simp] theorem State.dropThread_mem (s : State) (x : CtxId) (t : Tid) :
    (State.dropThread s x t).mem = s.mem := by
  unfold State.dropThread
  (repeat' split) <;> simp (disch := (intros; simp)) [foldl_keeps_mem, apply_ite State.mem]

@[simp] theorem State.endTask_mem (s : State) (t : Tid) (d : BitVec 10) :
    (State.endTask s t d).mem = s.mem := by
  unfold State.endTask
  simp

@[simp] theorem State.sendFrom_mem (s : State) (c : ClusterId) (dr de : BitVec 4) (vc : BitVec 2) (ty : BitVec 4) (flits : List (BitVec 128)) :
    (State.sendFrom s c dr de vc ty flits).mem = s.mem := by
  unfold State.sendFrom
  simp

@[simp] theorem State.injectFrom_mem (s : State) (c : ClusterId) (tok : Token) (ev : Bool) (counted : Bool) :
    (State.injectFrom s c tok ev counted).mem = s.mem := by
  unfold State.injectFrom
  (repeat' split) <;> simp

@[simp] theorem State.runEp_mem (r : BitVec 4) (l : List Word) (s : State) : (State.runEp r l s).mem = s.mem := by
  induction l generalizing s with
  | nil => simp [State.runEp]
  | cons v l ih =>
    unfold State.runEp
    split
    · rw [ih]; simp
    · simp

@[simp] theorem State.writeEp_mem (s : State) (r : BitVec 4) (v : Word) :
    (State.writeEp s r v).mem = s.mem := State.runEp_mem _ _ _

@[simp] theorem State.retryEp_mem (s : State) (r : BitVec 4) :
    (State.retryEp s r).mem = s.mem := by
  unfold State.retryEp
  (repeat' split) <;> simp

@[simp] theorem State.creditRefused_mem (s : State) (c : ClusterId) (x : CtxId) (toks : List Token) :
    (State.creditRefused s c x toks).mem = s.mem := by
  unfold State.creditRefused
  (repeat' split) <;> simp (disch := (intros; simp)) [foldl_keeps_mem, apply_ite State.mem]

@[simp] theorem State.abandon_mem (s : State) (p : Holder → Bool) :
    (State.abandon s p).mem = s.mem := by
  unfold State.abandon
  simp

@[simp] theorem State.haltThread_mem (s : State) (a : AfterSave) (t : Tid) :
    (State.haltThread s a t).mem = s.mem := by
  unfold State.haltThread
  try dsimp only
  (repeat' split) <;> first | with_reducible rfl | (simp; done) | simp (disch := (intros; (try dsimp only); (repeat' split) <;> simp)) [foldl_keeps_mem, apply_ite State.mem]

@[simp] theorem State.dropActivations_mem (s : State) (x : CtxId) (c : ClusterId) :
    (State.dropActivations s x c).mem = s.mem := by
  unfold State.dropActivations
  simp

@[simp] theorem State.dropParked_mem (s : State) (x : CtxId) (c : ClusterId) :
    (State.dropParked s x c).mem = s.mem := by
  unfold State.dropParked
  (repeat' split) <;> simp (disch := (intros; simp)) [foldl_keeps_mem, apply_ite State.mem]

@[simp] theorem State.dropStaged_mem (s : State) (x : CtxId) :
    (State.dropStaged s x).mem = s.mem := by
  unfold State.dropStaged
  simp

@[simp] theorem State.tearSaved_mem (s : State) (c : ClusterId) (d : BitVec 10) :
    (State.tearSaved s c d).mem = s.mem := by
  unfold State.tearSaved
  (repeat' split) <;> simp (disch := (intros; simp)) [foldl_keeps_mem, apply_ite State.mem]

@[simp] theorem State.tearRings_mem (s : State) (x : CtxId) :
    (State.tearRings s x).mem = s.mem := by
  unfold State.tearRings
  try dsimp only
  (repeat' split) <;> first | with_reducible rfl | (simp; done) | simp (disch := (intros; (try dsimp only); (repeat' split) <;> simp)) [foldl_keeps_mem, apply_ite State.mem]

@[simp] theorem State.tearAll_mem (s : State) (x : CtxId) : (s.tearAll x).mem = s.mem := by
  unfold State.tearAll
  dsimp only
  rw [State.tearRings_mem, foldl_keeps_mem]
  intro s e
  rw [foldl_keeps_mem]
  intro s k
  split <;> simp

@[simp] theorem State.fence_mem (s : State) (x : CtxId) (cause : Byte) :
    (State.fence s x cause).mem = s.mem := by
  unfold State.fence
  (repeat' split) <;> simp (disch := (intros; simp)) [foldl_keeps_mem, apply_ite State.mem]

@[simp] theorem State.spillStore_mem (s : State) (a : Nat) (be : BitVec 16) (v : BitVec 128) :
    (State.spillStore s a be v).mem = s.mem := by
  unfold State.spillStore
  simp

@[simp] theorem State.lockStore_mem (s : State) (a n : Nat) (v : DWord) :
    (State.lockStore s a n v).mem = s.mem := by
  unfold State.lockStore
  simp

@[simp] theorem State.actOf_mem (s : State) (t : Tid) :
    (State.actOf s t).mem = s.mem := by
  unfold State.actOf
  (repeat' split) <;> simp

@[simp] theorem State.updTaskOf_mem (s : State) (t : Tid) (f : Task → Task) :
    (State.updTaskOf s t f).mem = s.mem := by
  unfold State.updTaskOf
  (repeat' split) <;> simp

@[simp] theorem State.hold_mem (s : State) (t : Tid) (w : Wait) :
    (State.hold s t w).mem = s.mem := by
  unfold State.hold
  simp

@[simp] theorem State.cancelRunning_mem (s : State) (t : Tid) :
    (State.cancelRunning s t).mem = s.mem := by
  unfold State.cancelRunning
  (repeat' split) <;> simp

@[simp] theorem State.stopReq_mem (s : State) (t : Tid) :
    (State.stopReq s t).mem = s.mem := by
  unfold State.stopReq
  try dsimp only
  (repeat' split) <;> first | with_reducible rfl | (simp; done) | simp (disch := (intros; (try dsimp only); (repeat' split) <;> simp)) [foldl_keeps_mem, apply_ite State.mem]

@[simp] theorem State.block_mem (s : State) (t : Tid) (w : Wait) (code : BitVec 3) (ch : BitVec 3) (mask : Word) :
    (State.block s t w code ch mask).mem = s.mem := by
  unfold State.block
  split
  · simp
  · dsimp only
    split <;> simp

@[simp] theorem State.wake_mem (s : State) (t : Tid) :
    (State.wake s t).mem = s.mem := by
  unfold State.wake
  (repeat' split) <;> simp (disch := (intros; simp)) [foldl_keeps_mem, apply_ite State.mem]

@[simp] theorem State.boundary_mem (s : State) (t : Tid) :
    (State.boundary s t).mem = s.mem := by
  unfold State.boundary
  (repeat' split) <;> simp

@[simp] theorem State.retire_mem (s : State) (t : Tid) :
    (State.retire s t).mem = s.mem := by
  unfold State.retire
  try dsimp only
  (repeat' split) <;> first | with_reducible rfl | (simp; done) | simp (disch := (intros; (try dsimp only); (repeat' split) <;> simp)) [foldl_keeps_mem, apply_ite State.mem]

@[simp] theorem State.finish_mem (s : State) (t : Tid) :
    (State.finish s t).mem = s.mem := by
  unfold State.finish
  simp

@[simp] theorem State.leaveFaulted_mem (s : State) (t : Tid) :
    (State.leaveFaulted s t).mem = s.mem := by
  unfold State.leaveFaulted
  (repeat' split) <;> simp

@[simp] theorem State.countFault_mem (s : State) (x : CtxId) (cause : Byte) :
    (State.countFault s x cause).mem = s.mem := by
  unfold State.countFault
  simp

@[simp] theorem State.takeFault_mem (s : State) (t : Tid) (cause : Byte) (inB : Bool) :
    (State.takeFault s t cause inB).mem = s.mem := by
  unfold State.takeFault
  try dsimp only
  (repeat' split) <;> first | with_reducible rfl | (simp; done) | simp (disch := (intros; (try dsimp only); (repeat' split) <;> simp)) [foldl_keeps_mem, apply_ite State.mem]

@[simp] theorem State.unitHold_mem (s : State) (t : Tid) (u : IterUnit) (k : Nat) :
    (State.unitHold s t u k).mem = s.mem := by
  unfold State.unitHold
  (repeat' split) <;> simp

@[simp] theorem State.noteIssue_mem (s : State) (t : Tid) (w : Word) (k : Nat) :
    (State.noteIssue s t w k).mem = s.mem := by
  unfold State.noteIssue
  (repeat' split) <;> simp

@[simp] theorem State.bankDelay_mem (s : State) (t : Tid) (b : Byte) (k : Nat) :
    (State.bankDelay s t b k).mem = s.mem := by
  unfold State.bankDelay
  simp

@[simp] theorem State.repFault_mem (s : State) (t : Tid) (r : Repeat) :
    (State.repFault s t r).mem = s.mem := by
  unfold State.repFault
  simp

@[simp] theorem State.noCode_mem (s : State) (t : Tid) :
    (State.noCode s t).mem = s.mem := by
  unfold State.noCode
  simp

@[simp] theorem State.unmapped_mem (s : State) (pa : Nat) :
    (State.unmapped s pa).mem = s.mem := by
  unfold State.unmapped
  simp

/-! ### Reads of registers -/

/-- A read of a register changes no memory. -/
def StatReg.Keeps (r : StatReg) : Prop := ∀ s : State, (r.clear s).mem = s.mem

@[simp] theorem StatReg.keep_keeps (v : DWord) : (StatReg.keep v).Keeps := fun _ => rfl

theorem getD_keeps {l : List StatReg} (h : ∀ r ∈ l, r.Keeps) (k : Nat) : (l.getD k (.keep 0)).Keeps := by
  rw [List.getD_eq_getElem?_getD]
  cases e : l[k]? with
  | none => exact StatReg.keep_keeps 0
  | some r => exact h r (List.mem_of_getElem? e)

theorem headD_keeps {l : List StatReg} (h : ∀ r ∈ l, r.Keeps) : (l.headD (.keep 0)).Keeps := by
  cases l with
  | nil => exact StatReg.keep_keeps 0
  | cons r l => exact h r (by simp)

theorem clReg_keeps (c : ClusterId) (v : Word) (z : Cluster → Cluster) : (clReg c v z).Keeps := fun _ => by simp [clReg]

theorem State.flowRegs_keeps (s : State) (n : BitVec 14) : ∀ r ∈ s.flowRegs n, r.Keeps := by
  intro r h
  simp only [State.flowRegs, List.mem_cons, List.not_mem_nil, or_false] at h
  obtain rfl | rfl := h
  · exact StatReg.keep_keeps _
  · intro; simp

theorem State.ctxRegs_keeps (s : State) (x : CtxId) : ∀ r ∈ s.ctxRegs x, r.Keeps := by
  intro r h
  simp only [State.ctxRegs, List.mem_append, List.mem_cons, List.not_mem_nil, or_false, List.mem_flatMap] at h
  obtain (rfl | rfl | rfl | rfl) | ⟨c, _, h⟩ := h <;> try exact StatReg.keep_keeps _
  unfold State.positionRegs at h
  dsimp only at h
  split at h
  · simp only [List.mem_cons, List.not_mem_nil, or_false, or_self] at h
    subst h; exact StatReg.keep_keeps _
  · simp only [List.mem_append, List.mem_cons, List.not_mem_nil, or_false] at h
    obtain (rfl | rfl | rfl) | h := h
    · exact StatReg.keep_keeps _
    · intro; simp
    · exact StatReg.keep_keeps _
    · simp only [State.tornRegs, List.mem_flatMap, List.mem_map] at h
      obtain ⟨d, _, ch, _, rfl⟩ := h
      exact StatReg.keep_keeps _

theorem State.peRegs_keeps (s : State) (c : ClusterId) (v : Pe → DWord) (z : Pe → Pe) : ∀ r ∈ s.peRegs c v z, r.Keeps := by
  intro r h
  simp only [State.peRegs, List.mem_map] at h
  obtain ⟨p, _, rfl⟩ := h
  intro; simp

theorem State.bankRegs_keeps (s : State) (c : ClusterId) (v : Bank → Word) (z : Bank → Bank) : ∀ r ∈ s.bankRegs c v z, r.Keeps := by
  intro r h
  simp only [State.bankRegs, List.mem_map] at h
  obtain ⟨p, _, rfl⟩ := h
  intro; simp

theorem State.countRegs_keeps (s : State) (c : ClusterId) : ∀ r ∈ s.countRegs c, r.Keeps := by
  intro r h
  simp only [State.countRegs, List.mem_append, List.mem_map, List.mem_cons, List.not_mem_nil, or_false] at h
  rcases h with ((⟨k, _, rfl⟩ | rfl) | h) | h
  · exact clReg_keeps _ _ _
  · exact clReg_keeps _ _ _
  · rcases h with rfl | rfl | rfl | rfl | rfl | rfl | rfl | rfl | rfl | rfl | rfl <;> exact clReg_keeps _ _ _
  · rcases h with rfl | rfl | rfl | rfl | rfl | rfl <;> exact clReg_keeps _ _ _

theorem State.clusterRegs_keeps (s : State) (c : ClusterId) : ∀ r ∈ s.clusterRegs c, r.Keeps := by
  intro r h
  simp only [State.clusterRegs, State.spdRegs, State.depthRegs, List.mem_append, List.mem_map, List.mem_flatMap] at h
  rcases h with (((((((⟨p, _, rfl⟩ | h) | h) | h) | h) | h) | h) | h) | (((((⟨b, _, m, _, rfl⟩ | h) | h) | h) | h) | h)
  all_goals first
    | exact State.peRegs_keeps _ _ _ _ _ h
    | exact State.bankRegs_keeps _ _ _ _ _ h
    | exact State.countRegs_keeps _ _ _ h
    | (intro; simp)

theorem State.routerRegs_keeps (s : State) (n : BitVec 4) : ∀ r ∈ s.routerRegs n, r.Keeps := by
  intro r h
  simp only [State.routerRegs, List.mem_cons, List.not_mem_nil, or_false] at h
  rcases h with rfl | rfl | rfl | rfl | rfl | rfl | rfl | rfl | rfl | rfl <;> (intro; simp [State.updProbe])

theorem State.rwRead_keeps (s : State) (n : RegName) : (s.rwRead n).Keeps := by
  cases n <;> simp only [State.rwRead, State.xingReg] <;> first
    | with_reducible exact StatReg.keep_keeps _
    | with_reducible exact headD_keeps (State.flowRegs_keeps _ _)
    | (intro; dsimp only; (repeat' split) <;> simp)

theorem State.ethCnt_keeps (s : State) (p : BitVec 2) (k : Nat) : (s.ethCnt p k).Keeps := by
  unfold State.ethCnt
  dsimp only
  split <;> first
    | exact StatReg.keep_keeps _
    | (intro; simp)

theorem State.regRead_keeps (s : State) (n : DevReg) : (s.regRead n).Keeps := by
  cases n <;> simp only [State.regRead] <;> with_reducible first
    | exact StatReg.keep_keeps _
    | exact State.rwRead_keeps _ _
    | exact getD_keeps (State.ctxRegs_keeps _ _) _
    | exact getD_keeps (State.flowRegs_keeps _ _) _
    | exact getD_keeps (State.clusterRegs_keeps _ _) _
    | exact getD_keeps (State.routerRegs_keeps _ _) _
    | exact State.ethCnt_keeps _ _ _
    | (simp [StatReg.Keeps])

@[simp] theorem State.regRead_clear_mem (s t : State) (n : DevReg) : ((s.regRead n).clear t).mem = t.mem := State.regRead_keeps s n t

@[simp] theorem State.nowhere_mem (s : State) (pa : Nat) (store : Bool) :
    (State.nowhere s pa store).1.mem = s.mem := by
  unfold State.nowhere
  (repeat' split) <;> simp

@[simp] theorem State.issueSplit_mem (s : State) (t : Tid) (a : Access) (pa : BitVec 40) :
    (State.issueSplit s t a pa).mem = s.mem := by
  unfold State.issueSplit
  (repeat' split) <;> simp (disch := (intros; simp)) [foldl_keeps_mem, apply_ite State.mem]

@[simp] theorem State.reelUnstage_mem (s : State) (f : FuncId) (r : RingId) (inst : BitVec 16) :
    (State.reelUnstage s f r inst).mem = s.mem := by
  unfold State.reelUnstage
  (repeat' split) <;> simp

@[simp] theorem State.lostCredit_mem (s : State) (tag : DWord) :
    (State.lostCredit s tag).mem = s.mem := by
  unfold State.lostCredit
  try dsimp only
  (repeat' split) <;> first | with_reducible rfl | (simp; done) | simp (disch := (intros; (try dsimp only); (repeat' split) <;> simp)) [foldl_keeps_mem, apply_ite State.mem]

@[simp] theorem State.parkWrite_mem (s : State) (c : ClusterId) (a : Nat) (txn : BitVec 16) (v : BitVec 128) :
    (State.parkWrite s c a txn v).mem = s.mem := by
  unfold State.parkWrite
  simp

@[simp] theorem State.parkToken_mem (s : State) (t : Tid) (tok : Token) :
    (State.parkToken s t tok).mem = s.mem := by
  unfold State.parkToken
  (repeat' split) <;> simp (disch := (intros; simp)) [foldl_keeps_mem, apply_ite State.mem]

@[simp] theorem State.tryPark_mem (s : State) (t : Tid) (tok : Token) :
    (State.tryPark s t tok).1.mem = s.mem := by
  unfold State.tryPark
  try dsimp only
  (repeat' split) <;> first | with_reducible rfl | (simp; done) | simp (disch := (intros; (try dsimp only); (repeat' split) <;> simp)) [foldl_keeps_mem, apply_ite State.mem]

@[simp] theorem State.inject_mem (s : State) (t : Tid) (tok : Token) (ev : Bool) :
    (State.inject s t tok ev).1.mem = s.mem := by
  unfold State.inject
  try dsimp only
  (repeat' split) <;> first | with_reducible rfl | (simp; done) | simp (disch := (intros; (try dsimp only); (repeat' split) <;> simp)) [foldl_keeps_mem, apply_ite State.mem]

@[simp] theorem State.requestChan_mem (s : State) (c : ClusterId) (d : BitVec 10) (ch : BitVec 3) (who : Sender) :
    (State.requestChan s c d ch who).mem = s.mem := by
  unfold State.requestChan
  simp

@[simp] theorem State.putWord_mem (s : State) (t : Tid) (task : BitVec 16) (ch : BitVec 3) (v : DWord) (last : Bool) :
    (State.putWord s t task ch v last).mem = s.mem := by
  unfold State.putWord
  (repeat' split) <;> simp

@[simp] theorem State.replyTo_mem (s : State) (x : CtxId) (h : Word) (v : DWord) :
    (State.replyTo s x h v).mem = s.mem := by
  unfold State.replyTo
  (repeat' split) <;> simp

@[simp] theorem State.takeWord_mem (s : State) (t : Tid) (d : BitVec 10) (ch : BitVec 3) (rd rt : GReg) (n k : Nat) :
    (State.takeWord s t d ch rd rt n k).mem = s.mem := by
  unfold State.takeWord
  try dsimp only
  (repeat' split) <;> first | with_reducible rfl | (simp; done) | simp (disch := (intros; (try dsimp only); (repeat' split) <;> simp)) [foldl_keeps_mem, apply_ite State.mem]

@[simp] theorem State.evReturn_mem (s : State) (t : Tid) (d : BitVec 10) (m : Word) (rd : GReg) (n k : Nat) :
    (State.evReturn s t d m rd n k).mem = s.mem := by
  unfold State.evReturn
  simp

@[simp] theorem State.dlLevel_mem (s : State) (c : ClusterId) (old : Nat) :
    (State.dlLevel s c old).mem = s.mem := by
  unfold State.dlLevel
  (repeat' split) <;> simp (disch := (intros; simp)) [foldl_keeps_mem, apply_ite State.mem]

@[simp] theorem State.leaveAs_mem (s : State) (t : Tid) (d : BitVec 10) (st : BitVec 3) (a : AfterSave) :
    (State.leaveAs s t d st a).1.mem = s.mem := by
  unfold State.leaveAs
  try dsimp only
  (repeat' split) <;> first | with_reducible rfl | (simp; done) | simp (disch := (intros; (try dsimp only); (repeat' split) <;> simp)) [foldl_keeps_mem, apply_ite State.mem]

@[simp] theorem State.yieldWork_mem (s : State) (t : Tid) (d : BitVec 10) :
    (State.yieldWork s t d).mem = s.mem := by
  unfold State.yieldWork
  try dsimp only
  (repeat' split) <;> first | with_reducible rfl | (simp; done) | simp (disch := (intros; (try dsimp only); (repeat' split) <;> simp)) [foldl_keeps_mem, apply_ite State.mem]

@[simp] theorem State.freshIss_mem (s : State) (t : Tid) :
    (State.freshIss s t).1.mem = s.mem := by
  unfold State.freshIss
  simp

@[simp] theorem State.handOver_toState_mem (s : State) (t : Tid) (tok : Token) (ev : Bool) :
    ((s.handOver t tok ev).toState t).mem = s.mem := by
  unfold State.handOver
  dsimp only
  (repeat' split) <;> simp [Eff.toState]

@[simp] theorem State.released_mem (s : State) (t : Tid) (tok : Token) (ev : Bool) : (s.released t tok ev).mem = s.mem := by
  unfold State.released
  (repeat' split) <;> simp

@[simp] theorem State.countUe_mem (s : State) (c : ClusterId) :
    (State.countUe s c).mem = s.mem := by
  unfold State.countUe
  simp

@[simp] theorem State.countCe_mem (s : State) (c : ClusterId) :
    (State.countCe s c).mem = s.mem := by
  unfold State.countCe
  simp

@[simp] theorem State.updSet_mem (s : State) (c : ClusterId) (n : Nat) (f : MSet → MSet) :
    (State.updSet s c n f).mem = s.mem := by
  unfold State.updSet
  simp

@[simp] theorem State.updMsRes_mem (s : State) (c : ClusterId) (n : Nat) (f : MsRes → MsRes) :
    (State.updMsRes s c n f).mem = s.mem := by
  unfold State.updMsRes
  simp

@[simp] theorem State.msCount_mem (s : State) (c : ClusterId) (f : MsCnt → MsCnt) :
    (State.msCount s c f).mem = s.mem := by
  unfold State.msCount
  simp

@[simp] theorem State.setSlot_mem (s : State) (c : ClusterId) (i : Nat) (q : SpillSlot) :
    (State.setSlot s c i q).mem = s.mem := by
  unfold State.setSlot
  simp

@[simp] theorem State.runFreed_mem (s : State) (c : ClusterId) (b : Nat) :
    (State.runFreed s c b).mem = s.mem := by
  unfold State.runFreed
  simp

@[simp] theorem State.leaveSpill_mem (s : State) (c : ClusterId) (f : Nat × MEntry × Bool) (keep : Bool) :
    (State.leaveSpill s c f keep).mem = s.mem := by
  unfold State.leaveSpill
  (repeat' split) <;> simp

@[simp] theorem State.refuse_mem (s : State) (c : ClusterId) (e : MEntry) :
    (State.refuse s c e).mem = s.mem := by
  unfold State.refuse
  simp

@[simp] theorem State.unrefused_mem (s : State) (c : ClusterId) (e : MEntry) :
    (State.unrefused s c e).mem = s.mem := by
  unfold State.unrefused
  simp

@[simp] theorem State.keyCheck_mem (s : State) (c : ClusterId) :
    (State.keyCheck s c).mem = s.mem := by
  unfold State.keyCheck
  (repeat' split) <;> simp (disch := (intros; simp)) [foldl_keeps_mem, apply_ite State.mem]

@[simp] theorem State.keyError_mem (s : State) (c : ClusterId) (place : Nat) :
    (State.keyError s c place).mem = s.mem := by
  unfold State.keyError
  (repeat' split) <;> simp (disch := (intros; simp)) [foldl_keeps_mem, apply_ite State.mem]

@[simp] theorem State.dropWay_mem (s : State) (c : ClusterId) (st : Nat) (way : BitVec 3) :
    (State.dropWay s c st way).mem = s.mem := by
  unfold State.dropWay
  simp

@[simp] theorem State.readBad_mem (s : State) (c : ClusterId) (st : Nat) :
    (State.readBad s c st).mem = s.mem := by
  unfold State.readBad
  (repeat' split) <;> simp (disch := (intros; simp)) [foldl_keeps_mem, apply_ite State.mem]

@[simp] theorem State.readSet_mem (s : State) (c : ClusterId) (st : Nat) (err : EntryErr) (way : BitVec 3) :
    (State.readSet s c st err way).mem = s.mem := by
  unfold State.readSet
  (repeat' split) <;> simp (disch := (intros; simp)) [foldl_keeps_mem, apply_ite State.mem]

@[simp] theorem State.countPc_mem (s : State) (pa : Nat) (ue : Bool) :
    (State.countPc s pa ue).mem = s.mem := by
  unfold State.countPc
  simp

@[simp] theorem State.readSlot_mem (s : State) (c : ClusterId) (i : Nat) (err : EntryErr) :
    (State.readSlot s c i err).mem = s.mem := by
  unfold State.readSlot
  try dsimp only
  (repeat' split) <;> first | with_reducible rfl | (simp; done) | simp (disch := (intros; (try dsimp only); (repeat' split) <;> simp)) [foldl_keeps_mem, apply_ite State.mem]

@[simp] theorem State.readRun_mem (s : State) (c : ClusterId) (k : Nat) (err : EntryErr) (j : Nat) :
    (State.readRun s c k err j).mem = s.mem := by
  unfold State.readRun
  (repeat' split) <;> simp (disch := (intros; simp)) [foldl_keeps_mem, apply_ite State.mem]

@[simp] theorem State.readyAct_mem (s : State) (c : ClusterId) (a : Activation) :
    (State.readyAct s c a).mem = s.mem := by
  unfold State.readyAct
  simp

@[simp] theorem State.deliver_mem (s : State) (c : ClusterId) (a : Activation) :
    (State.deliver s c a).mem = s.mem := by
  unfold State.deliver
  (repeat' split) <;> simp

@[simp] theorem State.countDup_mem (s : State) (c : ClusterId) (e : MEntry) (es : List MEntry) :
    (State.countDup s c e es).mem = s.mem := by
  unfold State.countDup
  (repeat' split) <;> simp

@[simp] theorem State.settled_mem (s : State) (a : Arrival) :
    (State.settled s a).mem = s.mem := by
  unfold State.settled
  (repeat' split) <;> simp

@[simp] theorem State.storeWay_mem (s : State) (c : ClusterId) (n st : Nat) (e : MEntry) :
    (State.storeWay s c n st e).mem = s.mem := by
  unfold State.storeWay
  simp

@[simp] theorem State.giveBack_mem (s : State) (c : ClusterId) (x : CtxId) :
    (State.giveBack s c x).mem = s.mem := by
  unfold State.giveBack
  simp

@[simp] theorem State.leaveBuffer_mem (s : State) (c : ClusterId) (n : Nat) (x : CtxId) (es : List MEntry) :
    (State.leaveBuffer s c n x es).mem = s.mem := by
  unfold State.leaveBuffer
  simp (disch := (intros; simp)) [foldl_keeps_mem]

@[simp] theorem State.formFound_mem (s : State) (c : ClusterId) (n : Nat) (a : Arrival) (es ws : List MEntry) (found : List (Nat × MEntry × Bool)) :
    (State.formFound s c n a es ws found).mem = s.mem := by
  unfold State.formFound
  (repeat' split) <;> simp (disch := (intros; simp)) [foldl_keeps_mem, apply_ite State.mem]

@[simp] theorem State.countLookup_mem (s : State) (c : ClusterId) (a : Arrival) :
    (State.countLookup s c a).mem = s.mem := by
  unfold State.countLookup
  (repeat' split) <;> simp

@[simp] theorem State.couchFreed_mem (s : State) (c : ClusterId) (n : Nat) :
    (State.couchFreed s c n).mem = s.mem := by
  unfold State.couchFreed
  simp

@[simp] theorem State.forwardPacket_mem (s : State) (c : ClusterId) (n : Nat) (f : Fwd) (p : Packet) :
    (State.forwardPacket s c n f p).mem = s.mem := by
  unfold State.forwardPacket
  simp

/-- The state that a lookup leaves. -/
def lookState : Look → State
  | .done s => s
  | .stay s => s

@[simp] theorem lookState_of_done (s : State) : lookState (.done s) = s := rfl
@[simp] theorem lookState_of_stay (s : State) : lookState (.stay s) = s := rfl

@[simp] theorem State.readProbe_mem (s : State) (c : ClusterId) (h : Nat) : (s.readProbe c h).mem = s.mem := by
  unfold State.readProbe
  split
  · rfl
  · exact foldl_keeps_mem _ (fun s i => by simp) _ _

theorem State.spillWrite_some {s t : State} {c : ClusterId} {e : MEntry} {al : Bool} (h : s.spillWrite c e al = some t) :
    t.mem = s.mem := by
  unfold State.spillWrite at h
  simp only [Option.map_eq_some_iff] at h
  obtain ⟨i, _, rfl⟩ := h
  simp

theorem State.displace_some {s t : State} {c : ClusterId} {n st : Nat} {e : MEntry} (h : s.displace c n st e = some t) :
    t.mem = s.mem := by
  unfold State.displace at h
  simp only [Option.map_eq_some_iff] at h
  obtain ⟨u, hu, rfl⟩ := h
  simp [State.spillWrite_some hu]

theorem State.spillAllowance_some {s t : State} {c : ClusterId} {st : Nat} {e : MEntry}
    (h : s.spillAllowance c st e = some t) : t.mem = s.mem := by
  unfold State.spillAllowance at h
  simp only [Option.map_eq_some_iff] at h
  obtain ⟨u, hu, rfl⟩ := h
  simp [State.spillWrite_some hu]

theorem State.written_look {s : State} {c : ClusterId} {a : Arrival} {o : Option State} (h : ∀ t, o = some t → t.mem = s.mem) :
    (lookState (s.written c a o)).mem = s.mem := by
  unfold State.written
  cases o with
  | none => simp
  | some t => simpa using h t rfl

@[simp] theorem State.storeOp_look (s : State) (c : ClusterId) (n : Nat) (a : Arrival) (b : Bool) (l : List MEntry) :
    (lookState (s.storeOp c n a b l)).mem = s.mem := by
  unfold State.storeOp
  dsimp only
  split
  · split
    · simp
    · exact State.written_look fun t h => by simp [State.displace_some h]
  · cases a with
    | moved r => exact State.written_look fun t h => by simp [State.spillAllowance_some h]
    | token tok => dsimp only; split <;> simp

@[simp] theorem State.form_look (s : State) (c : ClusterId) (n : Nat) (a : Arrival) (es ws : List MEntry)
    (f : List (Nat × MEntry × Bool)) : (lookState (s.form c n a es ws f)).mem = s.mem := by
  unfold State.form
  dsimp only
  split
  · rw [lookState_of_done]
    cases a with
    | token tok => simp
    | moved r => dsimp only; split <;> simp
  · simp

@[simp] theorem State.lookup_look (s : State) (c : ClusterId) (a : Arrival) (n : Nat) (r : List (BitVec 2)) :
    (lookState (s.lookup c a n r)).mem = s.mem := by
  unfold State.lookup
  dsimp only
  (repeat' split) <;> first | (simp; done) | simp

@[simp] theorem State.rest_look (s : State) (c : ClusterId) (a : Arrival) : (lookState (s.rest c a)).mem = s.mem := by
  unfold State.rest
  split
  · rfl
  · split <;> simp

theorem State.forwardToken_some {s t : State} {c : ClusterId} {n : Nat} {f : Fwd} {tok : Token}
    (h : s.forwardToken c n f tok = some t) : t.mem = s.mem := by
  unfold State.forwardToken at h
  split at h <;> cases h
  simp

@[simp] theorem State.serve_look (s : State) (c : ClusterId) (a : Arrival) (e : EntryErr) (w : BitVec 3) :
    (lookState (s.serve c a e w)).mem = s.mem := by
  unfold State.serve
  dsimp only
  split
  · split
    · rename_i h; rw [lookState_of_done, State.forwardToken_some h]
    · simp
  · split
    · split
      · simp
      · simp
    · split <;> simp

/-- What a lookup keeps, its two outcomes keep. -/
theorem lookState_done {r : Look} {s t : State} (h : (lookState r).mem = s.mem) (e : r = .done t) : t.mem = s.mem := by
  subst e; exact h
theorem lookState_stay {r : Look} {s t : State} (h : (lookState r).mem = s.mem) (e : r = .stay t) : t.mem = s.mem := by
  subst e; exact h

@[simp] theorem State.lookHead_mem (s : State) (c : ClusterId) (a : Arrival) (e : EntryErr) (w : BitVec 3) :
    (s.lookHead c a e w).1.mem = s.mem := by
  unfold State.lookHead
  split
  · simp
  split
  · rename_i h; simp [lookState_done (State.serve_look s c a e w) h]
  · rename_i h; simp [lookState_stay (State.serve_look s c a e w) h]

@[simp] theorem State.dropHead_mem (s : State) (c : ClusterId) (k : Nat) :
    (State.dropHead s c k).mem = s.mem := by
  unfold State.dropHead
  (repeat' split) <;> simp

@[simp] theorem State.reload_look (s : State) (c : ClusterId) (n : Nat) (a : Arrival) (d l : List (Nat × MEntry × Bool)) :
    (lookState (s.reload c n a d l)).mem = s.mem := by
  unfold State.reload
  dsimp only
  rw [State.storeOp_look, State.msCount_mem, foldl_keeps_mem]
  intros; simp

@[simp] theorem State.searchDone_look (s : State) (c : ClusterId) (n : Nat) (a : Arrival) (r : List (BitVec 2)) :
    (lookState (s.searchDone c n a r)).mem = s.mem := by
  unfold State.searchDone
  dsimp only
  (repeat' split) <;> simp

@[simp] theorem State.serveSearch_look (s : State) (c : ClusterId) (p : Pending) (e : EntryErr) (w : BitVec 3) :
    (lookState (s.serveSearch c p e w)).mem = s.mem := by
  unfold State.serveSearch
  dsimp only
  generalize hr : (if ((s.cluster c).forward p.arr.ctx).isSome || s.shut c p.arr.ctx then s.serve c p.arr e w
    else match ((s.readSet c p.set.toNat e w).cluster c).slotOf p.arr.ctx,
        (s.readSet c p.set.toNat e w).requiredOf p.arr.ctx p.arr.node with
      | some n, some req => (s.readSet c p.set.toNat e w).searchDone c n p.arr req
      | _, _ => .done (s.readSet c p.set.toNat e w)) = r
  have g : (lookState r).mem = s.mem := by
    subst hr
    split
    · simp
    · split <;> simp
  cases r <;> simpa using g

@[simp] theorem State.lookSource_mem (s : State) (c : ClusterId) (k : Nat) (e : EntryErr) (w : BitVec 3) :
    (s.lookSource c k e w).mem = s.mem := by
  unfold State.lookSource
  split
  · rfl
  · rename_i a _
    have g := State.lookHead_mem s c a e w
    generalize s.lookHead c a e w = q at g
    dsimp only
    split <;> simp [g]
  · split
    · rename_i h; simp [lookState_done (State.serveSearch_look s c _ e w) h]
    · rename_i h; exact lookState_stay (State.serveSearch_look s c _ e w) h

@[simp] theorem State.lookSlot_mem (s : State) (c : ClusterId) (e : EntryErr) (w : BitVec 3) : (s.lookSlot c e w).mem = s.mem := by
  unfold State.lookSlot
  split
  · rfl
  · split
    · split
      · rename_i h; simp [lookState_done (State.serve_look s c _ e w) h]
      · rename_i h; exact lookState_stay (State.serve_look s c _ e w) h
    · split <;> simp

@[simp] theorem State.violation_mem (s : State) (tok : Token) :
    (State.violation s tok).mem = s.mem := by
  unfold State.violation
  (repeat' split) <;> simp (disch := (intros; simp)) [foldl_keeps_mem, apply_ite State.mem]

@[simp] theorem State.reserveSpill_look (s : State) (c : ClusterId) (tok : Token) (rank : Nat) :
    (lookState (s.reserveSpill c tok rank)).mem = s.mem := by
  unfold State.reserveSpill
  dsimp only
  split
  · split
    · rename_i h; rw [lookState_of_done, State.forwardToken_some h]
    · simp
  · split
    · simp
    · split
      · simp
      · split
        · simp
        · split
          · rename_i h; simpa using lookState_done (s := s) (State.written_look fun t e => by simpa using State.spillAllowance_some e) h
          · rename_i h; simpa using lookState_stay (s := s) (State.written_look fun t e => by simpa using State.spillAllowance_some e) h

@[simp] theorem State.evacuate_mem (s : State) (c : ClusterId) (p : MEntry → Bool) : (s.evacuate c p).mem = s.mem := by
  unfold State.evacuate
  dsimp only
  rw [foldl_keeps_mem]
  intro s e
  split
  · rfl
  · rename_i h
    simp [State.spillWrite_some h]

@[simp] theorem State.readPark_mem (s : State) (c : ClusterId) (k : Parked) (ecc : Ecc) :
    (State.readPark s c k ecc).1.mem = s.mem := by
  unfold State.readPark
  try dsimp only
  (repeat' split) <;> first | with_reducible rfl | (simp; done) | simp (disch := (intros; (try dsimp only); (repeat' split) <;> simp)) [foldl_keeps_mem, apply_ite State.mem]

@[simp] theorem State.sendWords_mem (s : State) (c dc : ClusterId) (d : BitVec 10) (ch : BitVec 3) (toks : List Token) (single : Bool) :
    (State.sendWords s c dc d ch toks single).mem = s.mem := by
  unfold State.sendWords
  (repeat' split) <;> simp (disch := (intros; simp)) [foldl_keeps_mem, apply_ite State.mem]

@[simp] theorem State.chanCredit_mem (s : State) (t : Tid) (task : BitVec 16) (ch : BitVec 3) (v : DWord) (last : Bool) :
    (State.chanCredit s t task ch v last).mem = s.mem := by
  unfold State.chanCredit
  try dsimp only
  (repeat' split) <;> first | with_reducible rfl | (simp; done) | simp (disch := (intros; (try dsimp only); (repeat' split) <;> simp)) [foldl_keeps_mem, apply_ite State.mem]

@[simp] theorem State.cendCredit_mem (s : State) (t : Tid) :
    (State.cendCredit s t).mem = s.mem := by
  unfold State.cendCredit
  try dsimp only
  (repeat' split) <;> first | with_reducible rfl | (simp; done) | simp (disch := (intros; (try dsimp only); (repeat' split) <;> simp)) [foldl_keeps_mem, apply_ite State.mem]

@[simp] theorem State.trapCredit_mem (s : State) (t : Tid) (ws : List DWord) :
    (State.trapCredit s t ws).mem = s.mem := by
  unfold State.trapCredit
  try dsimp only
  (repeat' split) <;> first | with_reducible rfl | (simp; done) | simp (disch := (intros; (try dsimp only); (repeat' split) <;> simp)) [foldl_keeps_mem, apply_ite State.mem]

@[simp] theorem State.threadCredit_mem (s : State) (t : Tid) : (s.threadCredit t).mem = s.mem := by
  unfold State.threadCredit
  generalize (s.thread t).wait = w
  cases w
  case chan => exact State.chanCredit_mem ..
  case cend => exact State.cendCredit_mem ..
  case trap => exact State.trapCredit_mem ..
  all_goals rfl

@[simp] theorem State.bypassRefill_mem (s : State) (c : ClusterId) :
    (State.bypassRefill s c).mem = s.mem := by
  unfold State.bypassRefill
  simp

@[simp] theorem State.bypassOne_mem (s : State) (c : ClusterId) (tok : Token) :
    (State.bypassOne s c tok).mem = s.mem := by
  unfold State.bypassOne
  (repeat' split) <;> simp (disch := (intros; simp)) [foldl_keeps_mem, apply_ite State.mem]

theorem State.bypassTake_some {s t : State} {c : ClusterId} {tok : Token} (h : s.bypassTake c tok = some t) : t.mem = s.mem := by
  unfold State.bypassTake at h
  split at h
  · exact State.forwardToken_some h
  · split at h <;> cases h
    simp

@[simp] theorem State.bypassRun_mem (c : ClusterId) (n : Nat) (s : State) : (State.bypassRun c n s).mem = s.mem := by
  induction n generalizing s with
  | zero => rfl
  | succ n ih =>
    unfold State.bypassRun
    dsimp only
    repeat' split
    all_goals first | rfl | (rename_i h; simp [ih, State.bypassTake_some h])

@[simp] theorem State.bypass_mem (s : State) (c : ClusterId) :
    (State.bypass s c).mem = s.mem := by
  unfold State.bypass
  simp

@[simp] theorem State.movedRun_mem (c : ClusterId) (n : Nat) (s : State) : (State.movedRun c n s).mem = s.mem := by
  induction n generalizing s with
  | zero => rfl
  | succ n ih =>
    unfold State.movedRun
    (repeat' split) <;> simp [ih]

@[simp] theorem State.outputRun_mem (s : State) (c : ClusterId) :
    (State.outputRun s c).mem = s.mem := by
  unfold State.outputRun
  try dsimp only
  (repeat' split) <;> first | with_reducible rfl | (simp; done) | simp (disch := (intros; (try dsimp only); (repeat' split) <;> simp)) [foldl_keeps_mem, apply_ite State.mem]

@[simp] theorem State.readInbox_mem (s : State) (c : ClusterId) (vc : BitVec 2) :
    (State.readInbox s c vc).mem = s.mem := by
  unfold State.readInbox
  simp

theorem State.dlInsert_some {s t : State} {c : ClusterId} {x : CtxId} {k : DWord} {i : Token ⊕ BitVec 10}
    (h : s.dlInsert c x k i = some t) : t.mem = s.mem := by
  unfold State.dlInsert at h
  dsimp only at h
  split at h
  · cases h
  · split at h <;> cases h
    simp

@[simp] theorem State.acceptNode_mem (s : State) (c : ClusterId) (tok : Token) : (s.acceptNode c tok).mem = s.mem := by
  unfold State.acceptNode
  dsimp only
  repeat' split
  all_goals first
    | (simp; done)
    | (rename_i h; simp [State.dlInsert_some h])

@[simp] theorem State.dropSleep_mem (s : State) (c : ClusterId) (d : BitVec 10) :
    (State.dropSleep s c d).mem = s.mem := by
  unfold State.dropSleep
  (repeat' split) <;> simp (disch := (intros; simp)) [foldl_keeps_mem, apply_ite State.mem]

@[simp] theorem State.cancelTask_mem (s : State) (c : ClusterId) (d : BitVec 10) :
    (State.cancelTask s c d).mem = s.mem := by
  unfold State.cancelTask
  try dsimp only
  (repeat' split) <;> first | with_reducible rfl | (simp; done) | simp (disch := (intros; (try dsimp only); (repeat' split) <;> simp)) [foldl_keeps_mem, apply_ite State.mem]

@[simp] theorem State.cancelEvent_mem (s : State) (c : ClusterId) (d : BitVec 10) (meet : Bool) :
    (State.cancelEvent s c d meet).mem = s.mem := by
  unfold State.cancelEvent
  (repeat' split) <;> simp (disch := (intros; simp)) [foldl_keeps_mem, apply_ite State.mem]

@[simp] theorem State.restartEvent_mem (s : State) (c : ClusterId) (d : BitVec 10) :
    (State.restartEvent s c d).mem = s.mem := by
  unfold State.restartEvent
  (repeat' split) <;> simp

@[simp] theorem State.ringTo_mem (s : State) (f : FuncId) (r : RingId) (g g' : Ring) (cause : Bool) :
    (State.ringTo s f r g g' cause).mem = s.mem := by
  unfold State.ringTo
  (repeat' split) <;> simp

@[simp] theorem State.ringFault_mem (s : State) (f : FuncId) (r : RingId) (cause : BitVec 4) :
    (State.ringFault s f r cause).mem = s.mem := by
  unfold State.ringFault
  (repeat' split) <;> simp

@[simp] theorem State.reelPut_mem (s : State) (f : FuncId) (r : RingId) (i : ReelItem) :
    (State.reelPut s f r i).mem = s.mem := by
  unfold State.reelPut
  (repeat' split) <;> simp (disch := (intros; simp)) [foldl_keeps_mem, apply_ite State.mem]

@[simp] theorem State.reelReject_mem (s : State) (tok : Token) (poison : Bool) :
    (State.reelReject s tok poison).mem = s.mem := by
  unfold State.reelReject
  simp

@[simp] theorem State.takeLink_mem (s : State) (f : FuncId) (n : Nat) :
    (State.takeLink s f n).mem = s.mem := by
  unfold State.takeLink
  simp

@[simp] theorem State.sendHub_mem (s : State) (f : FuncId) (dr de ty : BitVec 4) (flits : List (BitVec 128)) :
    (State.sendHub s f dr de ty flits).mem = s.mem := by
  unfold State.sendHub
  simp

@[simp] theorem State.flowArrive_mem (s : State) (n : BitVec 14) (tok : Token) :
    (State.flowArrive s n tok).mem = s.mem := by
  unfold State.flowArrive
  (repeat' split) <;> simp (disch := (intros; simp)) [foldl_keeps_mem, apply_ite State.mem]

theorem State.reelGrant_granted {s q : State} {tok : Token} (h : s.reelGrant tok = .granted q) : q.mem = s.mem := by
  revert h
  unfold State.reelGrant
  dsimp only
  repeat' split
  all_goals intro h
  all_goals first | (cases h; first | rfl | simp) | cases h

theorem State.reelGrant_broke {s q : State} {tok : Token} {c : Byte} (h : s.reelGrant tok = .broke q c) : q.mem = s.mem := by
  revert h
  unfold State.reelGrant
  dsimp only
  repeat' split
  all_goals intro h
  all_goals first | (cases h; first | rfl | simp) | cases h

@[simp] theorem State.threadReel_mem (s : State) (t : Tid) : (s.threadReel t).mem = s.mem := by
  unfold State.threadReel
  repeat' split
  all_goals first
    | rfl
    | (rename_i h; simp [State.reelGrant_broke h]; done)
    | (rename_i h _; simp [State.reelGrant_granted h])

@[simp] theorem State.loseItem_mem (s : State) (n : BitVec 14) :
    (State.loseItem s n).mem = s.mem := by
  unfold State.loseItem
  try dsimp only
  (repeat' split) <;> first | with_reducible rfl | (simp; done) | simp (disch := (intros; (try dsimp only); (repeat' split) <;> simp)) [foldl_keeps_mem, apply_ite State.mem]

@[simp] theorem State.brokeLost_mem (s : State) (f : FuncId) (cause : Byte) :
    (State.brokeLost s f cause).mem = s.mem := by
  unfold State.brokeLost
  (repeat' split) <;> simp (disch := (intros; simp)) [foldl_keeps_mem, apply_ite State.mem]

@[simp] theorem State.orphan_mem (s : State) (b : Bool) :
    (State.orphan s b).mem = s.mem := by
  unfold State.orphan
  (repeat' split) <;> simp

@[simp] theorem State.faultPlace_mem (s : State) (c : ClusterId) :
    (State.faultPlace s c).mem = s.mem := by
  unfold State.faultPlace
  (repeat' split) <;> simp

@[simp] theorem State.dropRecordClaim_mem (s : State) (c : ClusterId) (r : FaultRec) :
    (State.dropRecordClaim s c r).mem = s.mem := by
  unfold State.dropRecordClaim
  (repeat' split) <;> simp

@[simp] theorem State.recordToRing_mem (s : State) (c : ClusterId) (i : Nat) (r : FaultRec) :
    (State.recordToRing s c i r).mem = s.mem := by
  unfold State.recordToRing
  (repeat' split) <;> simp

@[simp] theorem State.dlRemove_mem (s : State) (c : ClusterId) (i : Nat) (e : DlEntry) :
    (State.dlRemove s c i e).mem = s.mem := by
  unfold State.dlRemove
  simp

@[simp] theorem State.wakeSleep_mem (s : State) (c : ClusterId) (d : BitVec 10) :
    (State.wakeSleep s c d).mem = s.mem := by
  unfold State.wakeSleep
  (repeat' split) <;> simp (disch := (intros; simp)) [foldl_keeps_mem, apply_ite State.mem]

@[simp] theorem State.releaseEntry_mem (s : State) (c : ClusterId) (i : Nat) (e : DlEntry) :
    (State.releaseEntry s c i e).mem = s.mem := by
  unfold State.releaseEntry
  try dsimp only
  (repeat' split) <;> first | with_reducible rfl | (simp; done) | simp (disch := (intros; (try dsimp only); (repeat' split) <;> simp)) [foldl_keeps_mem, apply_ite State.mem]

@[simp] theorem State.dlKeyError_mem (s : State) (c : ClusterId) (i : Nat) :
    (State.dlKeyError s c i).mem = s.mem := by
  unfold State.dlKeyError
  (repeat' split) <;> simp (disch := (intros; simp)) [foldl_keeps_mem, apply_ite State.mem]

@[simp] theorem State.dlRead_mem (s : State) (c : ClusterId) (i : Nat) (e : DlEntry) (err : EntryErr) :
    (State.dlRead s c i e err).mem = s.mem := by
  unfold State.dlRead
  (repeat' split) <;> simp

@[simp] theorem State.setInq_mem (s : State) (r e : BitVec 4) (vc : BitVec 2) (l : List Packet) :
    (State.setInq s r e vc l).mem = s.mem := by
  unfold State.setInq
  simp

@[simp] theorem State.respond_mem (s : State) (r e : BitVec 4) (p : Packet) (status : Byte) (data : DWord) (more : List (BitVec 128)) :
    (State.respond s r e p status data more).mem = s.mem := by
  unfold State.respond
  simp

@[simp] theorem State.keepOld_mem (s : State) (p : Packet) (v : DWord) :
    (State.keepOld s p v).mem = s.mem := by
  unfold State.keepOld
  (repeat' split) <;> simp

@[simp] theorem State.healRange_mem (s : State) (a n : Nat) :
    (State.healRange s a n).mem = s.mem := by
  unfold State.healRange
  simp

@[simp] theorem State.bankEcc_mem (s : State) (n : Byte) (a : Nat) (ecc : Ecc) :
    (State.bankEcc s n a ecc).mem = s.mem := by
  unfold State.bankEcc
  (repeat' split) <;> simp

@[simp] theorem State.forwardBank_mem (s : State) (n : Byte) (p : Packet) :
    (State.forwardBank s n p).mem = s.mem := by
  unfold State.forwardBank
  simp

@[simp] theorem State.bankOwner_mem (s : State) (n : Byte) (v : Word) :
    (State.bankOwner s n v).mem = s.mem := by
  unfold State.bankOwner
  (repeat' split) <;> simp (disch := (intros; simp)) [foldl_keeps_mem, apply_ite State.mem]

@[simp] theorem State.setLock_mem (s : State) (n : BitVec 12) (v : DWord) (h : Option Holder) :
    (State.setLock s n v h).mem = s.mem := by
  unfold State.setLock
  simp

@[simp] theorem State.lockCas_mem (s : State) (n : BitVec 12) (expect new : DWord) (m : Holder) (rights : Bool) :
    (State.lockCas s n expect new m rights).1.mem = s.mem := by
  unfold State.lockCas
  try dsimp only
  (repeat' split) <;> first | with_reducible rfl | (simp; done) | simp (disch := (intros; (try dsimp only); (repeat' split) <;> simp)) [foldl_keeps_mem, apply_ite State.mem]

@[simp] theorem State.lockEcc_mem (s : State) (n : BitVec 12) (a0 : Ecc) :
    (State.lockEcc s n a0).mem = s.mem := by
  unfold State.lockEcc
  (repeat' split) <;> simp

@[simp] theorem State.sendHeld_mem (s : State) (t : Tid) (w : BitVec 6) : (s.sendHeld t w).mem = s.mem := by
  unfold State.sendHeld
  dsimp only
  rw [foldl_keeps_mem] <;> intros <;> simp

@[simp] theorem State.shadowF_mem (s : State) (f : FuncId) (g : Ring) (r : RingId) :
    (State.shadowF s f g r).mem = s.mem := by
  unfold State.shadowF
  (repeat' split) <;> simp (disch := (intros; simp)) [foldl_keeps_mem, apply_ite State.mem]

@[simp] theorem State.ringNext_mem (s : State) (f : FuncId) (r : RingId) (notify : Bool) :
    (State.ringNext s f r notify).mem = s.mem := by
  unfold State.ringNext
  (repeat' split) <;> simp

@[simp] theorem State.ringWait_mem (s : State) (f : FuncId) (r : RingId) (e : BitVec 256) (held : Bool) :
    (State.ringWait s f r e held).mem = s.mem := by
  unfold State.ringWait
  simp

@[simp] theorem State.hbReject_mem (s : State) (f : FuncId) (r : RingId) (x : CtxId) (e : BitVec 256) (cause : Byte) :
    (State.hbReject s f r x e cause).mem = s.mem := by
  unfold State.hbReject
  simp

@[simp] theorem State.accepted_mem (s : State) (tag : DWord) :
    (State.accepted s tag).mem = s.mem := by
  unfold State.accepted
  simp

@[simp] theorem State.hubInject_mem (s : State) (f : FuncId) (tok : Token) :
    (State.hubInject s f tok).mem = s.mem := by
  unfold State.hubInject
  simp

@[simp] theorem State.ringWords_mem (s : State) (f : FuncId) (c : ClusterId) (d : BitVec 10) (ch : BitVec 3) (toks : List Token) (single : Bool) :
    (State.ringWords s f c d ch toks single).mem = s.mem := by
  unfold State.ringWords
  (repeat' split) <;> simp (disch := (intros; simp)) [foldl_keeps_mem, apply_ite State.mem]

@[simp] theorem State.hbData_mem (s : State) (f : FuncId) (r : RingId) (g : Ring) (e : BitVec 256) :
    (State.hbData s f r g e).mem = s.mem := by
  unfold State.hbData
  (repeat' split) <;> simp (disch := (intros; simp)) [foldl_keeps_mem, apply_ite State.mem]

@[simp] theorem State.hbSkip_mem (s : State) (f : FuncId) (r : RingId) (g : Ring) (e : BitVec 256) (ask : Bool) :
    (s.hbSkip f r g e ask).mem = s.mem := by
  unfold State.hbSkip
  repeat' split
  all_goals first
    | (simp; done)
    | (rename_i h; simp [State.reelGrant_broke h]; done)
    | (rename_i h _; simp [State.reelGrant_granted h])

@[simp] theorem State.hbWord_mem (s : State) (f : FuncId) (r : RingId) (e : BitVec 256) (c : ClusterId) (d : BitVec 10) (ch : BitVec 3) (ask : Bool) :
    (State.hbWord s f r e c d ch ask).mem = s.mem := by
  unfold State.hbWord
  (repeat' split) <;> simp (disch := (intros; simp)) [foldl_keeps_mem, apply_ite State.mem]

@[simp] theorem State.hbEnd_mem (s : State) (f : FuncId) (r : RingId) (g : Ring) (o : Outbox) (e : BitVec 256) (c : ClusterId) (d : BitVec 10) (ch : BitVec 3) (ask : Bool) :
    (State.hbEnd s f r g o e c d ch ask).mem = s.mem := by
  unfold State.hbEnd
  (repeat' split) <;> simp (disch := (intros; simp)) [foldl_keeps_mem, apply_ite State.mem]

@[simp] theorem State.hbChan_mem (s : State) (f : FuncId) (r : RingId) (g : Ring) (e : BitVec 256) (ask : Bool) :
    (State.hbChan s f r g e ask).mem = s.mem := by
  unfold State.hbChan
  try dsimp only
  (repeat' split) <;> first | with_reducible rfl | (simp; done) | simp (disch := (intros; (try dsimp only); (repeat' split) <;> simp)) [foldl_keeps_mem, apply_ite State.mem]

@[simp] theorem State.hbEntry_mem (s : State) (f : FuncId) (r : RingId) (g : Ring) (e : BitVec 256) (ask : Bool) :
    (State.hbEntry s f r g e ask).mem = s.mem := by
  unfold State.hbEntry
  (repeat' split) <;> simp (disch := (intros; simp)) [foldl_keeps_mem, apply_ite State.mem]

@[simp] theorem State.ringCredit_mem (s : State) (f : FuncId) (r : RingId) (p : BitVec 3 → Bool) :
    (State.ringCredit s f r p).mem = s.mem := by
  unfold State.ringCredit
  (repeat' split) <;> simp

@[simp] theorem State.releaseHeld_mem (s : State) (x : CtxId) :
    (State.releaseHeld s x).mem = s.mem := by
  unfold State.releaseHeld
  try dsimp only
  (repeat' split) <;> first | with_reducible rfl | (simp; done) | simp (disch := (intros; (try dsimp only); (repeat' split) <;> simp)) [foldl_keeps_mem, apply_ite State.mem]

@[simp] theorem State.markLost_mem (s : State) (f : FuncId) (r : RingId) (g : Ring) :
    (State.markLost s f r g).mem = s.mem := by
  unfold State.markLost
  simp

@[simp] theorem State.publish_mem (s : State) (f : FuncId) (r : RingId) (g : Ring) (p : BitVec 16) :
    (State.publish s f r g p).mem = s.mem := by
  unfold State.publish
  try dsimp only
  (repeat' split) <;> first | with_reducible rfl | (simp; done) | simp (disch := (intros; (try dsimp only); (repeat' split) <;> simp)) [foldl_keeps_mem, apply_ite State.mem]

@[simp] theorem State.consumed_mem (s : State) (f : FuncId) (r : RingId) (g : Ring) (p : BitVec 16) :
    (State.consumed s f r g p).mem = s.mem := by
  unfold State.consumed
  (repeat' split) <;> simp

@[simp] theorem State.mrCount_mem (s : State) (pa : Nat) (cause : Byte) :
    (State.mrCount s pa cause).mem = s.mem := by
  unfold State.mrCount
  (repeat' split) <;> simp

@[simp] theorem State.mrCorrected_mem (s : State) (pa : Nat) :
    (State.mrCorrected s pa).mem = s.mem := by
  unfold State.mrCorrected
  (repeat' split) <;> simp

@[simp] theorem State.sendPending_mem (s : State) (f : FuncId) : (s.sendPending f).mem = s.mem := by
  unfold State.sendPending
  dsimp only
  split
  · rw [foldl_keeps_mem] <;> intros <;> simp
  · rfl

@[simp] theorem State.msixSet_mem (s : State) (f : FuncId) (g : Msix → Msix) :
    (State.msixSet s f g).mem = s.mem := by
  unfold State.msixSet
  (repeat' split) <;> simp

@[simp] theorem State.slotRead_mem (s : State) (f : FuncId) (o : Nat) (wide : Bool) :
    (State.slotRead s f o wide).mem = s.mem := by
  unfold State.slotRead
  try dsimp only
  (repeat' split) <;> first | with_reducible rfl | (simp; done) | simp (disch := (intros; (try dsimp only); (repeat' split) <;> simp)) [foldl_keeps_mem, apply_ite State.mem]

@[simp] theorem State.emptySlot1_mem (s : State) (c : ClusterId) (p : BitVec 3) :
    (State.emptySlot1 s c p).mem = s.mem := by
  unfold State.emptySlot1
  simp

@[simp] theorem State.toSlot_mem (s : State) (c : ClusterId) (k : Nat) (p : BitVec 3) (i : Item) :
    (State.toSlot s c k p i).mem = s.mem := by
  unfold State.toSlot
  simp

@[simp] theorem State.unqueue_mem (s : State) (c : ClusterId) (i : Item) :
    (State.unqueue s c i).mem = s.mem := by
  unfold State.unqueue
  simp

theorem State.serveHold_some {s t : State} {c : ClusterId} {k : Nat} (h : s.serveHold c k = some t) : t.mem = s.mem := by
  unfold State.serveHold at h
  simp only [Option.map_eq_some_iff] at h
  obtain ⟨i, _, rfl⟩ := h
  simp

@[simp] theorem State.placeOne_mem (s : State) (c : ClusterId) (k : Nat) : (s.placeOne c k).mem = s.mem := by
  unfold State.placeOne
  split
  · rename_i h
    exact State.serveHold_some h
  · dsimp only
    (repeat' split) <;> simp

@[simp] theorem State.taskUe_mem (s : State) (c : ClusterId) (d : BitVec 10) :
    (State.taskUe s c d).mem = s.mem := by
  unfold State.taskUe
  (repeat' split) <;> simp (disch := (intros; simp)) [foldl_keeps_mem, apply_ite State.mem]

@[simp] theorem State.renameSender_mem (s : State) (x : CtxId) (o : Outbox) (old new : Sender) :
    (State.renameSender s x o old new).mem = s.mem := by
  unfold State.renameSender
  (repeat' split) <;> simp

@[simp] theorem State.noteStart_mem (s : State) (c : ClusterId) (p : BitVec 3) (i : Item) :
    (State.noteStart s c p i).mem = s.mem := by
  unfold State.noteStart
  (repeat' split) <;> simp

@[simp] theorem State.start_mem (s : State) (c : ClusterId) (p : BitVec 3) (t : Tid) (i : Item) :
    (State.start s c p t i).mem = s.mem := by
  unfold State.start
  (repeat' split) <;> simp

@[simp] theorem State.backToList_mem (s : State) (c : ClusterId) (p : BitVec 3) (i : Item) :
    (State.backToList s c p i).mem = s.mem := by
  unfold State.backToList
  (repeat' split) <;> simp (disch := (intros; simp)) [foldl_keeps_mem, apply_ite State.mem]

@[simp] theorem State.saveDone_mem (s : State) (t : Tid) (d : BitVec 10) :
    (State.saveDone s t d).mem = s.mem := by
  unfold State.saveDone
  try dsimp only
  (repeat' split) <;> first | with_reducible rfl | (simp; done) | simp (disch := (intros; (try dsimp only); (repeat' split) <;> simp)) [foldl_keeps_mem, apply_ite State.mem]

@[simp] theorem State.answer_mem (s : State) (f : FuncId) (status : BitVec 16) (detail : DWord) (payload : List Byte) :
    (State.answer s f status detail payload).mem = s.mem := by
  unfold State.answer
  (repeat' split) <;> simp (disch := (intros; simp)) [foldl_keeps_mem, apply_ite State.mem]

@[simp] theorem State.dmaOut_mem (s : State) (f : FuncId) (out : Option (List Byte)) :
    (State.dmaOut s f out).1.mem = s.mem := by
  unfold State.dmaOut
  (repeat' split) <;> simp (disch := (intros; simp)) [foldl_keeps_mem, apply_ite State.mem]

@[simp] theorem State.hubAnswer_mem (s : State) (f : FuncId) (status : BitVec 16) :
    (State.hubAnswer s f status).mem = s.mem := by
  unfold State.hubAnswer
  simp

@[simp] theorem State.killThread_mem (s : State) (x : CtxId) (t : Tid) :
    (State.killThread s x t).mem = s.mem := by
  unfold State.killThread
  (repeat' split) <;> simp

@[simp] theorem State.dropTasks_mem (s : State) (x : CtxId) (c : ClusterId) :
    (State.dropTasks s x c).mem = s.mem := by
  unfold State.dropTasks
  (repeat' split) <;> simp (disch := (intros; simp)) [foldl_keeps_mem, apply_ite State.mem]

@[simp] theorem State.dropDelayed_mem (s : State) (x : CtxId) (c : ClusterId) :
    (State.dropDelayed s x c).mem = s.mem := by
  unfold State.dropDelayed
  (repeat' split) <;> simp (disch := (intros; simp)) [foldl_keeps_mem, apply_ite State.mem]

@[simp] theorem State.dropReel_mem (s : State) (x : CtxId) :
    (State.dropReel s x).mem = s.mem := by
  unfold State.dropReel
  simp

@[simp] theorem State.killBegin_mem (s : State) (x : CtxId) (b : Option FuncId) : (s.killBegin x b).mem = s.mem := by
  unfold State.killBegin
  dsimp only
  rw [foldl_keeps_mem]
  · rw [State.dropStaged_mem, State.dropReel_mem, foldl_keeps_mem]
    · rw [State.tearRings_mem, foldl_keeps_mem]
      · simp
      · intros; simp
    · intros; simp
  · intros; simp

@[simp] theorem State.purgeStore_mem (s : State) (x : CtxId) (c : ClusterId) :
    (State.purgeStore s x c).mem = s.mem := by
  unfold State.purgeStore
  (repeat' split) <;> simp (disch := (intros; simp)) [foldl_keeps_mem, apply_ite State.mem]

@[simp] theorem State.purge_mem (s : State) (x : CtxId) (c : ClusterId) :
    (State.purge s x c).mem = s.mem := by
  unfold State.purge
  simp

@[simp] theorem State.returnCredits_mem (s : State) (x : CtxId) : (s.returnCredits x).mem = s.mem := by
  unfold State.returnCredits
  rw [foldl_keeps_mem]
  intro s p
  split <;> simp

@[simp] theorem State.dropWindows_mem (s : State) (x : CtxId) :
    (State.dropWindows s x).mem = s.mem := by
  unfold State.dropWindows
  simp

@[simp] theorem State.dropFrames_mem (s : State) (x : CtxId) :
    (State.dropFrames s x).mem = s.mem := by
  unfold State.dropFrames
  (repeat' split) <;> simp (disch := (intros; simp)) [foldl_keeps_mem, apply_ite State.mem]

@[simp] theorem State.brokeItems_mem (s : State) (is : List ReelItem) :
    (State.brokeItems s is).mem = s.mem := by
  unfold State.brokeItems
  try dsimp only
  (repeat' split) <;> first | with_reducible rfl | (simp; done) | simp (disch := (intros; (try dsimp only); (repeat' split) <;> simp)) [foldl_keeps_mem, apply_ite State.mem]

@[simp] theorem State.destroyRing_mem (s : State) (f : FuncId) (r : RingId) :
    (State.destroyRing s f r).mem = s.mem := by
  unfold State.destroyRing
  try dsimp only
  (repeat' split) <;> first | with_reducible rfl | (simp; done) | simp (disch := (intros; (try dsimp only); (repeat' split) <;> simp)) [foldl_keeps_mem, apply_ite State.mem]

@[simp] theorem State.passBrk_mem (s : State) (c : ClusterId) (d : BitVec 10) :
    (State.passBrk s c d).mem = s.mem := by
  unfold State.passBrk
  (repeat' split) <;> simp

@[simp] theorem State.resumeThread_mem (s : State) (t : Tid) :
    (State.resumeThread s t).mem = s.mem := by
  unfold State.resumeThread
  (repeat' split) <;> simp (disch := (intros; simp)) [foldl_keeps_mem, apply_ite State.mem]

@[simp] theorem State.forgetAsker_mem (s : State) (f : FuncId) :
    (State.forgetAsker s f).mem = s.mem := by
  unfold State.forgetAsker
  simp

theorem State.loadCode_some {s t : State} {c : ClusterId} {x : CtxId} {h : BitVec 16} {m : Image} {k : Nat} {b : Bool}
    {p : Option Nat} (e : s.loadCode c x h m k b p = some t) : t.mem = s.mem := by
  unfold State.loadCode at e
  dsimp only at e
  (repeat' split at e) <;> cases e <;> first | rfl | simp

theorem State.loadCode_getD (s : State) (c : ClusterId) (x : CtxId) (h : BitVec 16) (m : Image) (k : Nat) (b : Bool)
    (p : Option Nat) : ((s.loadCode c x h m k b p).getD s).mem = s.mem := by
  cases e : s.loadCode c x h m k b p with
  | none => rfl
  | some t => exact State.loadCode_some e

@[simp] theorem State.reside_mem (s : State) (x : CtxId) (k : Nat) (c : ClusterId) (p : PosRec)
    (code : List (BitVec 16 × Image × Bool × Option Nat)) : (s.reside x k c p code).mem = s.mem := by
  unfold State.reside
  dsimp only
  rw [foldl_keeps_mem]
  · simp
  · intro s i
    exact State.loadCode_getD s c x _ _ k _ _

@[simp] theorem State.placeTask_mem (s : State) (x : CtxId) (h : BitVec 16) (t : Nat) (r : TaskRec) :
    (State.placeTask s x h t r).mem = s.mem := by
  unfold State.placeTask
  simp

@[simp] theorem State.admitAt_mem (s : State) (x : CtxId) (h : BitVec 16) (m : Image) (cs : List ClusterId) (base scanp : Nat) (fof dzt : Bool) :
    (State.admitAt s x h m cs base scanp fof dzt).mem = s.mem := by
  unfold State.admitAt
  (repeat' split) <;> simp (disch := (intros; simp)) [foldl_keeps_mem, apply_ite State.mem]

@[simp] theorem State.startTasks_mem (s : State) (x : CtxId) :
    (State.startTasks s x).mem = s.mem := by
  unfold State.startTasks
  try dsimp only
  (repeat' split) <;> first | with_reducible rfl | (simp; done) | simp (disch := (intros; (try dsimp only); (repeat' split) <;> simp)) [foldl_keeps_mem, apply_ite State.mem]

@[simp] theorem State.lateFrozen_mem (s : State) (x : CtxId) :
    (State.lateFrozen s x).mem = s.mem := by
  unfold State.lateFrozen
  refine foldl_keeps_mem _ (fun s c => ?_) _ _
  show (ite _ s (s.updCluster c _)).mem = s.mem
  split <;> rfl

@[simp] theorem State.setPolicy_mem (s : State) (x : CtxId) (pol : Nat) :
    (State.setPolicy s x pol).mem = s.mem := by
  unfold State.setPolicy
  (repeat' split) <;> simp

@[simp] theorem State.freeNodes_mem (s : State) (x : CtxId) (h : BitVec 16) :
    (State.freeNodes s x h).mem = s.mem := by
  unfold State.freeNodes
  simp

@[simp] theorem State.switchImage_mem (s : State) (x : CtxId) (u : Update) :
    (State.switchImage s x u).mem = s.mem := by
  unfold State.switchImage
  (repeat' split) <;> simp (disch := (intros; simp)) [foldl_keeps_mem, apply_ite State.mem]

@[simp] theorem State.drainAct_mem (s : State) (x : CtxId) :
    (State.drainAct s x).mem = s.mem := by
  unfold State.drainAct
  (repeat' split) <;> simp (disch := (intros; simp)) [foldl_keeps_mem, apply_ite State.mem]

@[simp] theorem State.rewind_mem (s : State) (f : FuncId) (r : RingId) (g : Ring) :
    (State.rewind s f r g).mem = s.mem := by
  unfold State.rewind
  (repeat' split) <;> simp

@[simp] theorem State.resync_mem (s : State) (d : Nat) (asked : Bool) :
    (State.resync s d asked).mem = s.mem := by
  unfold State.resync
  simp

@[simp] theorem State.releaseDomain_mem (s : State) (d : Nat) :
    (State.releaseDomain s d).mem = s.mem := by
  unfold State.releaseDomain
  (repeat' split) <;> simp (disch := (intros; simp)) [foldl_keeps_mem, apply_ite State.mem]

@[simp] theorem State.holdDomain_mem (s : State) (d : Nat) (asked : Bool) :
    (State.holdDomain s d asked).mem = s.mem := by
  unfold State.holdDomain
  simp

@[simp] theorem State.hostRelease_mem (s : State) :
    (State.hostRelease s).mem = s.mem := by
  unfold State.hostRelease
  (repeat' split) <;> simp (disch := (intros; simp)) [foldl_keeps_mem, apply_ite State.mem]

@[simp] theorem State.runWrites_mem (n : Nat) (s : State) : (State.runWrites n s).mem = s.mem := by
  induction n generalizing s with
  | zero => rfl
  | succ n ih =>
    unfold State.runWrites
    (repeat' split) <;> simp [ih]

@[simp] theorem State.rtWrite_mem (s : State) (ws : List RtWrite) :
    (State.rtWrite s ws).mem = s.mem := by
  unfold State.rtWrite
  simp

@[simp] theorem State.newTables_mem (s : State) (tab : Nat → DWord) :
    (State.newTables s tab).mem = s.mem := by
  unfold State.newTables
  simp

@[simp] theorem State.probes_mem (s : State) (r : BitVec 4) (out : Bool) (port : Nat) (q : Packet) (i : Nat) (seq seq0 : BitVec 5) (cap : Capture) :
    (State.probes s r out port q i seq seq0 cap).mem = s.mem := by
  unfold State.probes
  simp

@[simp] theorem State.fromControl_mem (s : State) (r : BitVec 4) (p : Packet) :
    (State.fromControl s r p).mem = s.mem := by
  unfold State.fromControl
  simp

@[simp] theorem State.brokeArrives_mem (s : State) (p : Packet) :
    (State.brokeArrives s p).mem = s.mem := by
  unfold State.brokeArrives
  simp

@[simp] theorem State.arrive_mem (s : State) (r : BitVec 4) (p : Packet) :
    (State.arrive s r p).mem = s.mem := by
  unfold State.arrive
  (repeat' split) <;> simp (disch := (intros; simp)) [foldl_keeps_mem, apply_ite State.mem]

@[simp] theorem State.updLink_mem (s : State) (r : BitVec 4) (d : Nat) (f : Link → Link) :
    (State.updLink s r d f).mem = s.mem := by
  unfold State.updLink
  simp

@[simp] theorem State.freePlace_mem (s : State) (r : BitVec 4) (port : Nat) (vc : BitVec 2) :
    (State.freePlace s r port vc).mem = s.mem := by
  unfold State.freePlace
  (repeat' split) <;> simp

@[simp] theorem State.acceptHead_mem (s : State) (r : BitVec 4) (port : Nat) (vc : BitVec 2) (p : Packet) (o : WormOut) :
    (State.acceptHead s r port vc p o).mem = s.mem := by
  unfold State.acceptHead
  simp

@[simp] theorem State.crossFlit_mem (s : State) (r : BitVec 4) (d : Nat) (p : Packet) (i : Nat) (cap : Capture) :
    (State.crossFlit s r d p i cap).mem = s.mem := by
  unfold State.crossFlit
  (repeat' split) <;> simp

@[simp] theorem State.outFlit_mem (s : State) (r : BitVec 4) (p : Packet) (i : Nat) (o : WormOut) (cap : Capture) :
    (State.outFlit s r p i o cap).mem = s.mem := by
  unfold State.outFlit
  (repeat' split) <;> simp

@[simp] theorem State.dropAhead_mem (n : Nat) (r : BitVec 4) (vc : BitVec 2) (o : WormOut) (m : Nat) (s : State) :
    (State.dropAhead n r vc o m s).mem = s.mem := by
  induction n generalizing r o m s with
  | zero => rfl
  | succ n ih =>
    unfold State.dropAhead
    dsimp only
    (repeat' split) <;> simp [ih]

@[simp] theorem State.replay_mem (s : State) (r : BitVec 4) (d : Nat) :
    (State.replay s r d).mem = s.mem := by
  unfold State.replay
  (repeat' split) <;> simp (disch := (intros; simp)) [foldl_keeps_mem, apply_ite State.mem]

@[simp] theorem State.settleSpine_mem (s : State) (r : BitVec 4) :
    (State.settleSpine s r).mem = s.mem := by
  unfold State.settleSpine
  simp

@[simp] theorem State.drive_mem (s : State) :
    (State.drive s).mem = s.mem := by
  unfold State.drive
  (repeat' split) <;> simp

@[simp] theorem State.holdStewards_mem (s : State) :
    (State.holdStewards s).mem = s.mem := by
  unfold State.holdStewards
  simp

@[simp] theorem State.refuseCommands_mem (s : State) :
    (State.refuseCommands s).mem = s.mem := by
  unfold State.refuseCommands
  (repeat' split) <;> simp (disch := (intros; simp)) [foldl_keeps_mem, apply_ite State.mem]

@[simp] theorem State.kprAnswer_mem (s : State) (p : BitVec 2) (w : DWord) (status : BitVec 16) :
    (State.kprAnswer s p w status).mem = s.mem := by
  unfold State.kprAnswer
  simp

@[simp] theorem State.stewardRestart_mem (s : State) (pause : BitVec 2) :
    (State.stewardRestart s pause).mem = s.mem := by
  unfold State.stewardRestart
  simp

@[simp] theorem State.setEps_mem (s : State) (n : BitVec 4) (v : BitVec 2) :
    (State.setEps s n v).mem = s.mem := by
  unfold State.setEps
  simp

@[simp] theorem State.sectRamp_mem (s : State) (n : BitVec 4) : (s.sectRamp n).mem = s.mem := by simp [State.sectRamp]
@[simp] theorem State.sectLock_mem (s : State) (n : BitVec 4) : (s.sectLock n).mem = s.mem := by simp [State.sectLock]
@[simp] theorem State.sectRelease_mem (s : State) (n : BitVec 4) : (s.sectRelease n).mem = s.mem := by simp [State.sectRelease]

@[simp] theorem State.sectionUp_mem (s : State) (n : BitVec 4) : (State.sectionUp s n).mem = s.mem := by simp [State.sectionUp]

@[simp] theorem State.setM_mem (s : State) (n : BitVec 4) (v : BitVec 5) :
    (State.setM s n v).mem = s.mem := by
  unfold State.setM
  (repeat' split) <;> simp (disch := (intros; simp)) [foldl_keeps_mem, apply_ite State.mem]

@[simp] theorem State.takeRecords_mem (s : State) :
    (State.takeRecords s).mem = s.mem := by
  unfold State.takeRecords
  try dsimp only
  (repeat' split) <;> first | with_reducible rfl | (simp; done) | simp (disch := (intros; (try dsimp only); (repeat' split) <;> simp)) [foldl_keeps_mem, apply_ite State.mem]

@[simp] theorem State.startTables_mem (s : State) :
    (State.startTables s).mem = s.mem := by
  unfold State.startTables
  simp

@[simp] theorem State.deadlockRecord_mem (s : State) (x : CtxId) :
    (State.deadlockRecord s x).mem = s.mem := by
  unfold State.deadlockRecord
  (repeat' split) <;> simp

@[simp] theorem State.resideFrom_mem (s : State) (x : CtxId) (k : BitVec 6) (a c : ClusterId) :
    (State.resideFrom s x k a c).mem = s.mem := by
  unfold State.resideFrom
  simp

@[simp] theorem State.takePlan_mem (s : State) (p : Planning) :
    (State.takePlan s p).mem = s.mem := by
  unfold State.takePlan
  (repeat' split) <;> simp (disch := (intros; simp)) [foldl_keeps_mem, apply_ite State.mem]

@[simp] theorem State.leaveAdmission_mem (s : State) (n : BitVec 4) :
    (State.leaveAdmission s n).mem = s.mem := by
  unfold State.leaveAdmission
  simp

@[simp] theorem State.fenceSection_mem (s : State) (n : BitVec 4) (cause : Byte) (by_ : Option FuncId) :
    (State.fenceSection s n cause by_).mem = s.mem := by
  unfold State.fenceSection
  (repeat' split) <;> simp

@[simp] theorem State.fenceCluster_mem (s : State) (c : ClusterId) :
    (State.fenceCluster s c).mem = s.mem := by
  unfold State.fenceCluster
  simp

@[simp] theorem State.askStop_mem (s : State) (t : Tid) :
    (State.askStop s t).mem = s.mem := by
  unfold State.askStop
  try dsimp only
  (repeat' split) <;> first | with_reducible rfl | (simp; done) | simp (disch := (intros; (try dsimp only); (repeat' split) <;> simp)) [foldl_keeps_mem, apply_ite State.mem]

@[simp] theorem State.askMoves_mem (s : State) (x : CtxId) (a : ClusterId) :
    (State.askMoves s x a).mem = s.mem := by
  unfold State.askMoves
  try dsimp only
  (repeat' split) <;> first | with_reducible rfl | (simp; done) | simp (disch := (intros; (try dsimp only); (repeat' split) <;> simp)) [foldl_keeps_mem, apply_ite State.mem]

@[simp] theorem State.renameSenders_mem (s : State) (g : Sender → Sender) :
    (State.renameSenders s g).mem = s.mem := by
  unfold State.renameSenders
  simp

@[simp] theorem State.moveTask_mem (s : State) (a b : ClusterId) (delta : Word) (d : BitVec 10) :
    (State.moveTask s a b delta d).1.mem = s.mem := by
  unfold State.moveTask
  (repeat' split) <;> simp

@[simp] theorem State.readOperands_mem (s : State) (x : CtxId) (c : ClusterId) : (s.readOperands x c).mem = s.mem := by
  unfold State.readOperands
  dsimp only
  rw [foldl_keeps_mem]
  · rw [foldl_keeps_mem]
    intros; simp
  · intro s e
    (repeat' split) <;> simp

@[simp] theorem State.moveOperands_mem (s : State) (x : CtxId) (a b : ClusterId) :
    (State.moveOperands s x a b).mem = s.mem := by
  unfold State.moveOperands
  simp

@[simp] theorem State.moveDelayed_mem (s : State) (x : CtxId) (a b : ClusterId) (ren : List (BitVec 10 × BitVec 10)) :
    (State.moveDelayed s x a b ren).mem = s.mem := by
  unfold State.moveDelayed
  (repeat' split) <;> simp (disch := (intros; simp)) [foldl_keeps_mem, apply_ite State.mem]

@[simp] theorem State.moveReady_mem (s : State) (x : CtxId) (a b : ClusterId) (works : List Work) (ren : List (BitVec 10 × BitVec 10)) :
    (State.moveReady s x a b works ren).mem = s.mem := by
  unfold State.moveReady
  try dsimp only
  (repeat' split) <;> first | with_reducible rfl | (simp; done) | simp (disch := (intros; (try dsimp only); (repeat' split) <;> simp)) [foldl_keeps_mem, apply_ite State.mem]

@[simp] theorem State.endForwarding_mem (s : State) (c : ClusterId) : (s.endForwarding c).mem = s.mem := by
  unfold State.endForwarding
  dsimp only
  rw [State.updRouter_mem, foldl_keeps_mem, foldl_keeps_mem] <;> intros <;> simp

@[simp] theorem State.nextFence_mem (l : List (BitVec 4 × Byte)) (s : State) : (s.nextFence l).mem = s.mem := by
  induction l generalizing s with
  | nil => simp [State.nextFence]
  | cons q l ih =>
    unfold State.nextFence
    split
    · simp
    · exact ih s

@[simp] theorem State.undoFence_mem (s : State) (f : FuncId) : (s.undoFence f).mem = s.mem := by
  unfold State.undoFence
  (repeat' split) <;> simp

@[simp] theorem State.endFence_mem (s : State) (n : BitVec 4) : (State.endFence s n).mem = s.mem := by
  unfold State.endFence
  dsimp only
  split
  · split
    · rfl
    · rw [State.nextFence_mem]
      split
      · split <;> simp
      · simp
  · rfl

@[simp] theorem State.every_mem (s : State) (key n : Nat) :
    (State.every s key n).mem = s.mem := by
  unfold State.every
  (repeat' split) <;> simp

@[simp] theorem State.alert_mem (s : State) :
    (State.alert s).mem = s.mem := by
  unfold State.alert
  simp

@[simp] theorem State.thermal_mem (s : State) (i : Nat) (v : BitVec 16) (level : Nat) :
    (State.thermal s i v level).mem = s.mem := by
  unfold State.thermal
  simp

@[simp] theorem State.reEqualise_mem (s : State) (ok : Bool) (mark : Nat) : (s.reEqualise ok mark).mem = s.mem := by
  unfold State.reEqualise
  simp

@[simp] theorem State.equalise_mem (s : State) (old v : Int) (ok : Bool) :
    (State.equalise s old v ok).mem = s.mem := by
  unfold State.equalise
  (repeat' split) <;> simp (disch := (intros; simp)) [foldl_keeps_mem, apply_ite State.mem]

@[simp] theorem State.thresholds_mem (s : State) (i : Nat) (v : BitVec 16) :
    (State.thresholds s i v).mem = s.mem := by
  unfold State.thresholds
  (repeat' split) <;> simp (disch := (intros; simp)) [foldl_keeps_mem, apply_ite State.mem]

@[simp] theorem State.slewEnd_mem (s : State) (n mv : Nat) :
    (State.slewEnd s n mv).mem = s.mem := by
  unfold State.slewEnd
  (repeat' split) <;> simp (disch := (intros; simp)) [foldl_keeps_mem, apply_ite State.mem]

@[simp] theorem State.voltage_mem (s : State) (n mv : Nat) (crit : Bool) :
    (State.voltage s n mv crit).mem = s.mem := by
  unfold State.voltage
  simp

@[simp] theorem State.warnWindow_mem (s : State) (n mv : Nat) :
    (State.warnWindow s n mv).mem = s.mem := by
  unfold State.warnWindow
  (repeat' split) <;> simp (disch := (intros; simp)) [foldl_keeps_mem, apply_ite State.mem]

@[simp] theorem State.convertProc_mem (s : State) : s.convertProc.mem = s.mem := by
  unfold State.convertProc
  (repeat' split) <;> simp

@[simp] theorem State.slewTo_mem (s : State) (v : BitVec 16) : (s.slewTo v).mem = s.mem := by
  unfold State.slewTo
  simp

@[simp] theorem State.raiseM_mem (s : State) : s.raiseM.mem = s.mem := by
  unfold State.raiseM
  dsimp only
  split
  · rw [State.updMon_mem, foldl_keeps_mem]
    intros; simp
  · rfl

@[simp] theorem State.avsRun_mem (s : State) (ack : Bool) : (State.avsRun s ack).mem = s.mem := by
  unfold State.avsRun
  dsimp only
  split
  · rw [State.updMon_mem, foldl_keeps_mem, State.convertProc_mem]
    intros; simp
  · rw [State.raiseM_mem, State.updMon_mem, State.emit_mem, State.slewTo_mem, State.updMon_mem, foldl_keeps_mem, State.convertProc_mem]
    intros; simp

@[simp] theorem State.updTb_mem (s : State) (f : TimeBase → TimeBase) :
    (State.updTb s f).mem = s.mem := by
  unfold State.updTb
  simp

@[simp] theorem State.setTk_mem (s : State) (ns : Nat) :
    (State.setTk s ns).mem = s.mem := by
  unfold State.setTk
  simp

@[simp] theorem State.lockTime_mem (s : State) :
    (State.lockTime s).mem = s.mem := by
  unfold State.lockTime
  (repeat' split) <;> simp (disch := (intros; simp)) [foldl_keeps_mem, apply_ite State.mem]

@[simp] theorem State.sample_mem (s : State) (off : DWord) :
    (State.sample s off).mem = s.mem := by
  unfold State.sample
  (repeat' split) <;> simp (disch := (intros; simp)) [foldl_keeps_mem, apply_ite State.mem]

@[simp] theorem State.passTb_mem (s : State) (t : DWord) :
    (State.passTb s t).mem = s.mem := by
  unfold State.passTb
  (repeat' split) <;> simp

@[simp] theorem State.countRule_mem (s : State) (n : Nat) (f : RuleCnt → RuleCnt) :
    (State.countRule s n f).mem = s.mem := by
  unfold State.countRule
  simp

@[simp] theorem State.ethInject_mem (s : State) (tok : Token) :
    (State.ethInject s tok).mem = s.mem := by
  unfold State.ethInject
  simp

@[simp] theorem State.overflow_mem (s : State) (p : BitVec 2) :
    (State.overflow s p).mem = s.mem := by
  unfold State.overflow
  simp

theorem State.ethEnter_some {s t : State} {b : Bool} {tok : Token} (h : s.ethEnter b tok = some t) : t.mem = s.mem := by
  revert h
  unfold State.ethEnter
  dsimp only
  repeat' split
  all_goals intro h
  all_goals first | (cases h; first | rfl | simp) | cases h

@[simp] theorem State.ruleTake_mem (s : State) (n : Nat) (r : Rule) (p : BitVec 2) (size : Nat) (b : List Byte) :
    (s.ruleTake n r p size b).mem = s.mem := by
  unfold State.ruleTake
  dsimp only
  split
  · rename_i h
    split at h
    · simp [State.ethEnter_some h]
    · cases h
  · split <;> simp

@[simp] theorem State.classify_mem (s : State) (p : BitVec 2) (size : Nat) (v : Stripped) :
    (State.classify s p size v).mem = s.mem := by
  unfold State.classify
  try dsimp only
  (repeat' split) <;> first | with_reducible rfl | (simp; done) | simp (disch := (intros; (try dsimp only); (repeat' split) <;> simp)) [foldl_keeps_mem, apply_ite State.mem]

@[simp] theorem State.queueFrame_mem (s : State) (p : BitVec 2) (q : Nat) (b : List Byte) :
    (State.queueFrame s p q b).mem = s.mem := by
  unfold State.queueFrame
  simp

@[simp] theorem State.sendGptp_mem (s : State) (p : BitVec 2) (l : List (List Byte)) : (s.sendGptp p l).mem = s.mem := by
  unfold State.sendGptp
  refine foldl_keeps_mem _ (fun s b => ?_) _ _
  dsimp only
  split <;> simp

@[simp] theorem State.bmca_mem (s : State) (p : BitVec 2) : (s.bmca p).mem = s.mem := by
  unfold State.bmca
  simp

@[simp] theorem State.gptpOwn_mem (s : State) (p : BitVec 2) : (s.gptpOwn p).mem = s.mem := by
  unfold State.gptpOwn
  dsimp only
  split <;> simp

@[simp] theorem State.gptp_mem (s : State) (p : BitVec 2) (off : Option DWord) :
    (State.gptp s p off).mem = s.mem := by
  unfold State.gptp
  try dsimp only
  (repeat' split) <;> first | with_reducible rfl | (simp; done) | simp (disch := (intros; (try dsimp only); (repeat' split) <;> simp)) [foldl_keeps_mem, apply_ite State.mem]

@[simp] theorem State.countTpl_mem (s : State) (n : Nat) (f : TplCnt → TplCnt) :
    (State.countTpl s n f).mem = s.mem := by
  unfold State.countTpl
  simp

@[simp] theorem State.setTpl_mem (s : State) (n : Nat) (t : Template) :
    (State.setTpl s n t).mem = s.mem := by
  unfold State.setTpl
  simp

@[simp] theorem State.launchCopy_mem (s : State) (n : Nat) (p : BitVec 2) :
    (State.launchCopy s n p).mem = s.mem := by
  unfold State.launchCopy
  (repeat' split) <;> simp (disch := (intros; simp)) [foldl_keeps_mem, apply_ite State.mem]

@[simp] theorem State.refill_mem (s : State) (p : BitVec 2) :
    (State.refill s p).mem = s.mem := by
  unfold State.refill
  try dsimp only
  (repeat' split) <;> first | with_reducible rfl | (simp; done) | simp (disch := (intros; (try dsimp only); (repeat' split) <;> simp)) [foldl_keeps_mem, apply_ite State.mem]

@[simp] theorem State.stage_mem (s : State) (n : Nat) (t : Template) (tok : Token) :
    (State.stage s n t tok).mem = s.mem := by
  unfold State.stage
  (repeat' split) <;> simp (disch := (intros; simp)) [foldl_keeps_mem, apply_ite State.mem]

@[simp] theorem State.sendSync_mem (s : State) :
    (State.sendSync s).mem = s.mem := by
  unfold State.sendSync
  simp

@[simp] theorem State.dbgStopThread_mem (s : State) (t : Tid) :
    (State.dbgStopThread s t).mem = s.mem := by
  unfold State.dbgStopThread
  (repeat' split) <;> simp (disch := (intros; simp)) [foldl_keeps_mem, apply_ite State.mem]

@[simp] theorem State.dbgStopTask_mem (s : State) (c : ClusterId) (d : BitVec 10) :
    (State.dbgStopTask s c d).mem = s.mem := by
  unfold State.dbgStopTask
  (repeat' split) <;> simp (disch := (intros; simp)) [foldl_keeps_mem, apply_ite State.mem]

@[simp] theorem State.smbus_mem (s : State) (b : List Byte) :
    (State.smbus s b).mem = s.mem := by
  unfold State.smbus
  simp

@[simp] theorem State.lentDelay_mem (s : State) (n : Byte) (k : BitVec 10) : (s.lentDelay n k).mem = s.mem := by
  unfold State.lentDelay
  dsimp only
  rw [foldl_keeps_mem] <;> intros <;> simp

@[simp] theorem State.bteAborted_mem (s : State) (w : SramWin) :
    (State.bteAborted s w).mem = s.mem := by
  unfold State.bteAborted
  (repeat' split) <;> simp

@[simp] theorem State.scrubUe_mem (s : State) (w : Nat) :
    (State.scrubUe s w).mem = s.mem := by
  unfold State.scrubUe
  simp

@[simp] theorem State.writeResidency_mem (s : State) (reg : RegName) (v hw : DWord) :
    (State.writeResidency s reg v hw).mem = s.mem := by
  unfold State.writeResidency
  (repeat' split) <;> simp

@[simp] theorem State.writeShared_mem (s : State) (reg : RegName) (v : DWord) :
    (State.writeShared s reg v).mem = s.mem := by
  unfold State.writeShared
  (repeat' split) <;> simp

@[simp] theorem State.writeHub_mem (s : State) (reg : RegName) (v hw : DWord) :
    (State.writeHub s reg v hw).mem = s.mem := by
  unfold State.writeHub
  (repeat' split) <;> simp

@[simp] theorem State.writeVwin_mem (s : State) (n : Nat) (v : DWord) :
    (State.writeVwin s n v).mem = s.mem := by
  unfold State.writeVwin
  (repeat' split) <;> simp

@[simp] theorem State.writeClock_mem (s : State) (reg : RegName) (v hw : DWord) :
    (State.writeClock s reg v hw).mem = s.mem := by
  unfold State.writeClock
  (repeat' split) <;> simp

@[simp] theorem State.goesOn_mem (t : State) (f : FuncId) :
    (State.goesOn t f).mem = t.mem := by
  unfold State.goesOn
  simp

end Sys2Proof.Machine
end

