-- ==== Sys2Proof/Laws/Canonical.lean ====
section
/-! SUPPORT. The operations that write memory keep its canonical form. -/

set_option linter.unusedSimpArgs false

namespace Sys2Proof.Machine

/-- The state that the operation of a word leaves. -/
def effState : Eff → State
  | .ok s => s
  | .fault s _ => s
  | .stay s => s

/-- The state that a near access leaves. -/
def nearState : NearResult → State
  | .done s _ => s
  | .fault s _ => s
  | .wait s => s

/-- What follows the operation of a word leaves memory alone. -/
@[simp] theorem Eff.toState_mem (t : Tid) (e : Eff) : (e.toState t).mem = (effState e).mem := by
  cases e <;> simp [Eff.toState, effState]

@[simp] theorem State.wr_wf {s : State} (h : Memory.wf s.mem = true) (a n v : Nat) : Memory.wf (s.wr a n v).mem = true :=
  State.wr_memWf h a n v

@[simp] theorem State.store_wf {s : State} (h : Memory.wf s.mem = true) (a n v : Nat) : Memory.wf (s.store a n v).mem = true := by
  unfold State.store
  split
  · simp [h]
  · exact State.wr_wf h a n v

theorem State.nearAt_wf {s : State} (h : Memory.wf s.mem = true) (x : Option CtxId) (pa size : Nat) (store : Bool) (d : DWord)
    (r : NearResult) (e : s.nearAt x pa size store d = r) : Memory.wf (nearState r).mem = true := by
  subst e
  unfold State.nearAt
  dsimp only
  (repeat' split) <;> simp only [nearState, State.updBank_mem, State.setBad_mem, State.wr_wf, h]

theorem State.stewardAt_wf {s : State} (h : Memory.wf s.mem = true) (pa size : Nat) (store : Bool) (d : DWord)
    (r : NearResult) (e : s.stewardAt pa size store d = r) : Memory.wf (nearState r).mem = true := by
  subst e
  unfold State.stewardAt
  (repeat' split) <;>
    simp only [nearState, State.updPch_mem, State.setBad_mem, State.store_wf, State.lockStore_mem, State.nowhere_mem, h]

@[simp] theorem State.takePortA_mem (s : State) (t : Tid) (k pa : Nat) : (s.takePortA t k pa).mem = s.mem := by
  unfold State.takePortA
  split <;> simp

theorem State.accessAt_wf {s : State} (h : Memory.wf s.mem = true) (t : Tid) (i : Iss) (a : Access) (pa : Nat) :
    Memory.wf (effState (s.accessAt t i a pa)).mem = true := by
  unfold State.accessAt
  dsimp only
  split
  · generalize hu : s.takePortA t i.k pa = u
    have hw : Memory.wf u.mem = true := by rw [← hu]; simpa using h
    have hr (r : NearResult) (e : (if inBanks pa = true then
        u.nearAt (if isSteward t = true then none else some i.x) pa a.kind.size
          (match a.kind with | .store _ => true | _ => false) a.data
        else u.stewardAt pa a.kind.size (match a.kind with | .store _ => true | _ => false) a.data) = r) :
        Memory.wf (nearState r).mem = true := by
      split at e
      · exact State.nearAt_wf hw _ _ _ _ _ _ e
      · exact State.stewardAt_wf hw _ _ _ _ _ e
    split
    · rename_i e; exact hr _ e
    · rename_i e; simpa [effState, nearState] using hr _ e
    · rename_i e
      have := hr _ e
      split <;> simpa [effState, nearState] using this
  · split <;> simp [effState, h]

theorem State.access_wf {s : State} (h : Memory.wf s.mem = true) (t : Tid) (i : Iss) (a : Access) :
    Memory.wf (effState (s.access t i a)).mem = true := by
  unfold State.access
  dsimp only
  (repeat' split) <;> first | exact State.accessAt_wf h t i a _ | exact h | simp [effState, h]

theorem foldl_keeps_wf {α : Type} (f : State → α → State) (hf : ∀ s a, Memory.wf s.mem = true → Memory.wf (f s a).mem = true)
    (l : List α) {s : State} (h : Memory.wf s.mem = true) : Memory.wf (l.foldl f s).mem = true := by
  induction l generalizing s with
  | nil => exact h
  | cons a l ih => exact ih (hf s a h)

@[simp] theorem State.waitldDone_mem (s : State) (t : Tid) : (effState (s.waitldDone t)).mem = s.mem := by
  unfold State.waitldDone
  dsimp only
  (repeat' split) <;> simp [effState]

@[simp] theorem State.endDone_mem (s : State) (t : Tid) : (effState (s.endDone t)).mem = s.mem := by
  have h := State.waitldDone_mem s t
  unfold State.endDone
  split
  · rename_i e
    rw [e] at h
    simpa [effState] using h
  · exact h

@[simp] theorem State.outboxBroke_mem (s : State) (tok : Token) (x : CtxId) : (effState (s.outboxBroke tok x)).mem = s.mem := by
  unfold State.outboxBroke
  (repeat' split) <;> simp [effState]

@[simp] theorem State.pump_wf {s : State} (h : Memory.wf s.mem = true) (t : Tid) : Memory.wf (s.pump t).mem = true := by
  have h1 (i : Iss) (a : Access) : Memory.wf (effState (((s.wake t).freshIss t).1.access t i a)).mem = true :=
    State.access_wf (by simpa using h) t i a
  have h2 (f : Thread → Thread) (i : Iss) (a : Access) (pa : Nat) :
      Memory.wf (effState (((((s.wake t).freshIss t).1).updThread t f).accessAt t i a pa)).mem = true :=
    State.accessAt_wf (by simpa using h) t i a pa
  cases e : (s.thread t).wait <;> simp only [State.pump, e, h]
  all_goals (repeat' split) <;> simp [h, h1, h2]

@[simp] theorem State.wakeTask_wf {s : State} (h : Memory.wf s.mem = true) (c : ClusterId) (d : BitVec 10) :
    Memory.wf (s.wakeTask c d).mem = true := by
  unfold State.wakeTask
  dsimp only
  (repeat' split) <;> simp [h, State.pump_wf]

@[simp] theorem State.performed_wf {s : State} (p : Packet) (h : Memory.wf s.mem = true) :
    Memory.wf (State.performed s p).mem = true := by
  unfold State.performed
  try dsimp only
  (repeat' split) <;> first
    | exact h
    | (simp [h]; done)
    | (refine foldl_keeps_wf _ (fun s a h => ?_) _ ?_ <;> (try dsimp only) <;> (repeat' split) <;> simp [h])

@[simp] theorem State.refuseRequest_wf {s : State} (r : BitVec 4) (p : Packet) (status : Byte) (h : Memory.wf s.mem = true) :
    Memory.wf (State.refuseRequest s r p status).mem = true := by
  unfold State.refuseRequest
  try dsimp only
  (repeat' split) <;> first
    | exact h
    | (simp [h]; done)
    | (refine foldl_keeps_wf _ (fun s a h => ?_) _ ?_ <;> (try dsimp only) <;> (repeat' split) <;> simp [h])

@[simp] theorem State.lostWorm_wf {s : State} (r : BitVec 4) (p : Packet) (h : Memory.wf s.mem = true) :
    Memory.wf (State.lostWorm s r p).mem = true := by
  unfold State.lostWorm
  try dsimp only
  (repeat' split) <;> first
    | exact h
    | (simp [h]; done)
    | (refine foldl_keeps_wf _ (fun s a h => ?_) _ ?_ <;> (try dsimp only) <;> (repeat' split) <;> simp [h])

@[simp] theorem State.turnBack_wf {s : State} (r : BitVec 4) (p : Packet) (off : Bool) (h : Memory.wf s.mem = true) :
    Memory.wf (State.turnBack s r p off).mem = true := by
  unfold State.turnBack
  try dsimp only
  (repeat' split) <;> first
    | exact h
    | (simp [h]; done)
    | (refine foldl_keeps_wf _ (fun s a h => ?_) _ ?_ <;> (try dsimp only) <;> (repeat' split) <;> simp [h])

@[simp] theorem State.pumpAll_wf {s : State} (p : Wait → Bool) (h : Memory.wf s.mem = true) :
    Memory.wf (State.pumpAll s p).mem = true := by
  unfold State.pumpAll
  try dsimp only
  (repeat' split) <;> first
    | exact h
    | (simp [h]; done)
    | (refine foldl_keeps_wf _ (fun s a h => ?_) _ ?_ <;> (try dsimp only) <;> (repeat' split) <;> simp [h])

@[simp] theorem State.pumpSends_wf {s : State} (c : ClusterId) (h : Memory.wf s.mem = true) :
    Memory.wf (State.pumpSends s c).mem = true := by
  unfold State.pumpSends
  try dsimp only
  (repeat' split) <;> first
    | exact h
    | (simp [h]; done)
    | (refine foldl_keeps_wf _ (fun s a h => ?_) _ ?_ <;> (try dsimp only) <;> (repeat' split) <;> simp [h])

@[simp] theorem State.flagEvent_wf {s : State} (c : ClusterId) (d : BitVec 10) (f : BitVec 5) (h : Memory.wf s.mem = true) :
    Memory.wf (State.flagEvent s c d f).mem = true := by
  unfold State.flagEvent
  try dsimp only
  (repeat' split) <;> first
    | exact h
    | (simp [h]; done)
    | (refine foldl_keeps_wf _ (fun s a h => ?_) _ ?_ <;> (try dsimp only) <;> (repeat' split) <;> simp [h])

/-! ### The spine (11 R316-R330) -/

@[simp] theorem State.tailGone_wf {s : State} (r : BitVec 4) (p : Packet) (o : WormOut) (h : Memory.wf s.mem = true) :
    Memory.wf (State.tailGone s r p o).mem = true := by
  unfold State.tailGone
  try dsimp only
  (repeat' split) <;> first
    | exact h
    | (simp [h]; done)
    | (refine foldl_keeps_wf _ (fun s a h => ?_) _ ?_ <;> (try dsimp only) <;> (repeat' split) <;> simp [h])

@[simp] theorem State.stepFlit_wf {s : State} (r : BitVec 4) (port : Nat) (vc : BitVec 2) (o : WormOut) (cap : Capture)
    (h : Memory.wf s.mem = true) : Memory.wf (s.stepFlit r port vc o cap).1.mem = true := by
  unfold State.stepFlit
  dsimp only
  split
  · exact h
  · split
    · dsimp only
      rw [State.updSpine_mem, State.freePlace_mem, State.outFlit_mem]
      (repeat' split) <;> simp [h]
    · dsimp only
      refine State.tailGone_wf _ _ _ ?_
      rw [State.updSpine_mem, State.freePlace_mem, State.outFlit_mem]
      (repeat' split) <;> simp [h]

@[simp] theorem State.moveWorm_wf (r : BitVec 4) (port : Nat) (vc : BitVec 2) (o : WormOut) (cap : Capture) (n : Nat)
    {s : State} (h : Memory.wf s.mem = true) : Memory.wf (State.moveWorm r port vc o cap n s).mem = true := by
  induction n generalizing s with
  | zero => exact h
  | succ n ih =>
    unfold State.moveWorm
    have g := State.stepFlit_wf r port vc o cap h
    generalize s.stepFlit r port vc o cap = q at g
    split
    · dsimp only
      split
      · exact g
      · exact ih g
    · exact h

@[simp] theorem State.loseWorm_wf {s : State} (r : BitVec 4) (port : Nat) (vc : BitVec 2) (cap : Capture)
    (h : Memory.wf s.mem = true) : Memory.wf (s.loseWorm r port vc cap).mem = true := by
  unfold State.loseWorm
  split
  · dsimp only
    refine State.moveWorm_wf _ _ _ _ _ _ ?_
    rw [State.updSpine_mem]
    refine State.lostWorm_wf _ _ ?_
    split
    · exact h
    · rw [State.dropAhead_mem]; exact h
  · exact h

@[simp] theorem State.hop_wf {s : State} (r : BitVec 4) (port : Nat) (vc : BitVec 2) (err : HopErr) (cap : Capture) (h : Memory.wf s.mem = true) :
    Memory.wf (State.hop s r port vc err cap).mem = true := by
  unfold State.hop
  try dsimp only
  (repeat' split) <;> first
    | exact h
    | (simp [h]; done)
    | (refine foldl_keeps_wf _ (fun s a h => ?_) _ ?_ <;> (try dsimp only) <;> (repeat' split) <;> simp [h])

@[simp] theorem State.loseWaiting_wf (r : BitVec 4) (port d : Nat) (vc : BitVec 2) (n : Nat) {s : State}
    (h : Memory.wf s.mem = true) : Memory.wf (State.loseWaiting r port d vc n s).mem = true := by
  induction n generalizing s with
  | zero => exact h
  | succ n ih =>
    unfold State.loseWaiting
    split
    · exact ih (State.loseWorm_wf _ _ _ _ h)
    · exact h

@[simp] theorem State.dropWaiting_wf {s : State} (r : BitVec 4) (d : Nat) (h : Memory.wf s.mem = true) :
    Memory.wf (s.dropWaiting r d).mem = true :=
  foldl_keeps_wf _ (fun _ _ h => State.loseWaiting_wf _ _ _ _ _ h) _ h

/-! ### Sections, windows and memory homes -/

@[simp] theorem State.resetCluster_wf {s : State} (h : Memory.wf s.mem = true) (c : ClusterId) :
    Memory.wf (s.resetCluster c).mem = true := Memory.clear_wf h _ _

@[simp] theorem State.resetSection_wf {s : State} (h : Memory.wf s.mem = true) (n : BitVec 4) (a : Bool) :
    Memory.wf (s.resetSection n a).mem = true := by
  unfold State.resetSection
  simp only [State.holdDomain_mem]
  exact foldl_keeps_wf _ (fun s c h => State.resetCluster_wf h c) _ h

@[simp] theorem State.setWindow_wf {s : State} (h : Memory.wf s.mem = true) (x : CtxId) (w : BitVec 6) (raw : BitVec 128) :
    Memory.wf (s.setWindow x w raw).mem = true := by
  unfold State.setWindow
  dsimp only
  rw [State.healRange_mem]
  exact State.wr_wf h _ _ _

@[simp] theorem State.writeRequest_wf {s : State} (h : Memory.wf s.mem = true) (p : Packet) :
    Memory.wf (s.writeRequest p).mem = true := by
  unfold State.writeRequest
  dsimp only
  split
  · exact foldl_keeps_wf _ (fun s i h => State.wr_wf h _ _ _) _ h
  · split
    · simp [h]
    · refine foldl_keeps_wf _ (fun s i h => ?_) _ h
      split
      · exact State.wr_wf h _ _ _
      · exact h

@[simp] theorem State.memRequest_wf {s : State} (h : Memory.wf s.mem = true) (p : Packet) :
    Memory.wf (s.memRequest p).1.mem = true := by
  unfold State.memRequest
  dsimp only
  (repeat' split) <;> simp [h, Memory.write_wf]

@[simp] theorem State.portB_wf {s : State} (h : Memory.wf s.mem = true) (n : Byte) (p : Packet) (lost : Bool)
    (before : State) : Memory.wf (s.portB n p lost before).mem = true := by
  unfold State.portB
  dsimp only
  generalize hu : (s.updBank n fun b => { b with takenB := some (s.fc (bankCluster n)) }) = u
  have hw : Memory.wf u.mem = true := by rw [← hu]; simpa using h
  split
  · simp [hw]
  · split
    · simp [hw]
    · have hr (e : ¬ p.type = 3) :
          Memory.wf ((if p.type = 3 then ({ u with mem := before.mem, uecc := before.uecc } : State) else u).memRequest p).1.mem = true :=
        State.memRequest_wf (by rw [if_neg e]; exact hw) p
      generalize (if p.type = 3 then ({ u with mem := before.mem, uecc := before.uecc } : State) else u).memRequest p = m at hr
      obtain ⟨q, st, v, more⟩ := m
      simp only [State.respond_mem]
      refine State.performed_wf (h := ?_) _
      have hq : Memory.wf (if p.type = 3 then { q with mem := u.mem, uecc := u.uecc } else q : State).mem = true := by
        by_cases e : p.type = 3
        · rw [if_pos e]; exact hw
        · rw [if_neg e]; exact hr e
      split
      · simpa only [State.updBank_mem] using hq
      · exact hq

@[simp] theorem State.portA_wf {s : State} (h : Memory.wf s.mem = true) (n : Byte) (a : PortA) (before : State) :
    Memory.wf (s.portA n a before).1.mem = true := by
  unfold State.portA
  dsimp only
  split
  · simp [h]
  · simp [h]
  · rename_i e
    split
    · rename_i b
      rw [if_pos b] at e
      exact State.nearAt_wf (by simpa using h) _ _ _ _ _ _ e
    · simp [h]

@[simp] theorem State.serveBank_wf {s : State} (h : Memory.wf s.mem = true) (n : Byte) (k : Nat) (l : List Tid) :
    Memory.wf (s.serveBank n k l).mem = true := by
  induction k generalizing s l with
  | zero => exact h
  | succ k ih =>
    unfold State.serveBank
    split
    · exact h
    · exact ih (by simpa using State.pump_wf h _) _

@[simp] theorem State.zeroFilled_wf {s : State} (h : Memory.wf s.mem = true) (n : Byte) : Memory.wf (s.zeroFilled n).mem = true := by
  unfold State.zeroFilled
  dsimp only
  split
  · refine State.serveBank_wf (h := ?_) _ _ _
    simp only [State.updBank_mem]
    exact Memory.clear_wf (by simpa using h) _ _
  · exact h

theorem State.copyBank_wf {s : State} (h : Memory.wf s.mem = true) (old new : Byte) : Memory.wf (s.copyBank old new).mem = true := by
  unfold State.copyBank
  dsimp only
  have hs (l : List Host.Cell) (m : List Host.Cell) (f : Host.Cell → Nat) (hm : Memory.wf m = true) :
      Memory.wf (l.foldl (fun m e => Memory.set m (f e) e.2) m) = true := by
    induction l generalizing m with
    | nil => exact hm
    | cons a l ih => exact ih _ (Memory.set_wf hm _ _)
  exact hs _ _ _ (Memory.clear_wf h _ _)

@[simp] theorem State.rewriteWindows_wf {s : State} (h : Memory.wf s.mem = true) (x : CtxId) (old : Byte) :
    Memory.wf (s.rewriteWindows x old).mem = true := by
  unfold State.rewriteWindows
  refine foldl_keeps_wf _ (fun s w h => ?_) _ h
  dsimp only
  (repeat' split) <;> simp [h]

@[simp] theorem State.resumeTask_wf {s : State} (h : Memory.wf s.mem = true) (c : ClusterId) (d : BitVec 10) :
    Memory.wf (s.resumeTask c d).mem = true := by
  unfold State.resumeTask
  dsimp only
  (repeat' split) <;> simp [h]

@[simp] theorem State.undoStop_wf {s : State} (h : Memory.wf s.mem = true) (f : FuncId) : Memory.wf (s.undoStop f).mem = true := by
  unfold State.undoStop
  dsimp only
  refine foldl_keeps_wf _ (fun s c h => ?_) _ (foldl_keeps_wf _ (fun s t h => ?_) _ h)
  · split
    · exact h
    · exact State.resumeTask_wf h _ _
  · split <;> simpa using h

@[simp] theorem State.failBegun_wf {s : State} (h : Memory.wf s.mem = true) : Memory.wf s.failBegun.mem = true := by
  unfold State.failBegun
  refine foldl_keeps_wf _ (fun s f h => ?_) _ h
  split
  · exact h
  · dsimp only
    split
    · simpa using h
    · simpa using State.undoStop_wf h f
    · simpa using h

@[simp] theorem State.detach_wf {s : State} (h : Memory.wf s.mem = true) (x : CtxId) : Memory.wf (s.detach x).mem = true := by
  unfold State.detach
  dsimp only
  refine foldl_keeps_wf _ (fun s c h => foldl_keeps_wf _ (fun s d h => State.resumeTask_wf h c d) _ h) _ ?_
  refine foldl_keeps_wf _ (fun s t h => ?_) _ (by simpa using h)
  split <;> simp [h]

@[simp] theorem State.killEnd_wf {s : State} (h : Memory.wf s.mem = true) (x : CtxId) : Memory.wf (s.killEnd x).mem = true := by
  have hb (s : State) (l : List Nat) : (l.foldl (fun s n =>
      if (s.bank (BitVec.ofNat 8 n)).kind = 2 ∧ (s.bank (BitVec.ofNat 8 n)).ctx = x then s.bankOwner (BitVec.ofNat 8 n) 4 else s) s).mem = s.mem :=
    foldl_keeps_mem _ (by intro s a; split <;> simp) l s
  unfold State.killEnd
  simp only [State.event_mem, State.updEth_mem, State.dropFrames_mem, State.dropStaged_mem, State.dropWindows_mem, hb, State.updHub_mem, State.returnCredits_mem]
  exact Memory.clear_wf h _ _

@[simp] theorem State.purgeDone_wf {s : State} (h : Memory.wf s.mem = true) (x : CtxId) (c : ClusterId) :
    Memory.wf (s.purgeDone x c).mem = true := by
  unfold State.purgeDone
  dsimp only
  (repeat' split) <;> simp [h]

@[simp] theorem State.killNow_wf {s : State} (h : Memory.wf s.mem = true) (x : CtxId) : Memory.wf (s.killNow x).mem = true := by
  unfold State.killNow
  generalize hu : (if s.dying x = true then _ else s.killBegin x none) = u
  have hk : Memory.wf u.mem = true := by rw [← hu]; split <;> simp [h]
  dsimp only
  split
  · split
    · exact State.killEnd_wf hk x
    · exact foldl_keeps_wf _ (fun s c h => State.purgeDone_wf h x c) _ hk
  · exact hk

@[simp] theorem State.flrSteps_wf {s : State} (h : Memory.wf s.mem = true) (f : FuncId) : Memory.wf (s.flrSteps f).mem = true := by
  unfold State.flrSteps
  simp only [State.updFunc_mem, State.updFw_mem, State.updHub_mem]
  rw [foldl_keeps_mem _ (by simp)]
  simp only [State.abandon_mem]
  refine foldl_keeps_wf _ (fun s c h => State.killNow_wf h c) _ ?_
  rw [State.forgetAsker_mem]
  exact foldl_keeps_wf _ (fun s c h => State.detach_wf h c) _ h

@[simp] theorem State.flrOne_wf {s : State} (h : Memory.wf s.mem = true) (f : FuncId) : Memory.wf (s.flrOne f).mem = true := by
  unfold State.flrOne
  dsimp only
  (repeat' split) <;> simp [h]

@[simp] theorem State.flr_wf {s : State} (h : Memory.wf s.mem = true) (f : FuncId) : Memory.wf (s.flr f).mem = true := by
  unfold State.flr
  (try dsimp only)
  (repeat' split) <;> first | (simp [h]; done) | (refine foldl_keeps_wf _ (fun s c h => State.flrOne_wf h c) _ ?_; simp [h])

@[simp] theorem State.finishFlrs_wf {s : State} (h : Memory.wf s.mem = true) : Memory.wf s.finishFlrs.mem = true := by
  unfold State.finishFlrs
  refine foldl_keeps_wf _ (fun s e h => ?_) _ h
  (repeat' split) <;> simp [h]

@[simp] theorem State.portDown_wf {s : State} (h : Memory.wf s.mem = true) (p : BitVec 2) (b : Option PortReset) :
    Memory.wf (s.portDown p b).mem = true := by
  unfold State.portDown
  dsimp only
  rw [foldl_keeps_mem _ (by simp)]
  simp only [State.updPort_mem, State.updHub_mem]
  exact foldl_keeps_wf _ (fun s c h => State.flrOne_wf h c) _ h

@[simp] theorem State.powerOff_wf {s : State} (h : Memory.wf s.mem = true) (n : BitVec 4) : Memory.wf (s.powerOff n).mem = true := by
  unfold State.powerOff
  dsimp only
  (repeat' split) <;> simp [h]

@[simp] theorem State.coldReset_mem (s : State) (c : BitVec 5) : (s.coldReset c).mem = [] := rfl

@[simp] theorem State.warmReset_mem (s : State) (b : Nat) : (s.warmReset b).mem = [] := by
  unfold State.warmReset
  dsimp only
  rw [foldl_keeps_mem _ (by simp)]
  rfl

@[simp] theorem State.thermalTrip_wf {s : State} (h : Memory.wf s.mem = true) : Memory.wf s.thermalTrip.mem = true := by
  unfold State.thermalTrip
  dsimp only
  split
  · exact h
  · rw [foldl_keeps_mem _ (by simp)]
    rfl

@[simp] theorem State.loseContexts_wf {s : State} (h : Memory.wf s.mem = true) : Memory.wf s.loseContexts.mem = true := by
  unfold State.loseContexts
  simp only [State.updEth_mem, State.updHub_mem, State.updSpine_mem, State.abandon_mem]
  exact foldl_keeps_wf _ (fun s c h => State.resetSection_wf h c _) _ h

@[simp] theorem State.keeperBack_mem (s : State) : s.keeperBack.mem = s.mem := by
  unfold State.keeperBack
  split <;> simp

@[simp] theorem State.keeperEnter_wf {s : State} (h : Memory.wf s.mem = true) (c : Byte) : Memory.wf (s.keeperEnter c).mem = true := by
  unfold State.keeperEnter
  dsimp only
  split
  · exact h
  · simp only [State.drive_mem, State.refuseCommands_mem]
    rw [foldl_keeps_mem _ (by intro s a; split <;> simp)]
    simp [h]

@[simp] theorem State.railWindow_wf {s : State} (h : Memory.wf s.mem = true) (n : Nat) (o : Bool) :
    Memory.wf (s.railWindow n o).mem = true := by
  unfold State.railWindow
  dsimp only
  (repeat' split) <;> simp [h]

@[simp] theorem State.critWindow_wf {s : State} (h : Memory.wf s.mem = true) (n mv : Nat) : Memory.wf (s.critWindow n mv).mem = true := by
  unfold State.critWindow
  dsimp only
  (repeat' split) <;> simp [h]

@[simp] theorem State.stewardDeckle_wf {s : State} (c : Byte) (h : Memory.wf s.mem = true) :
    Memory.wf (State.stewardDeckle s c).mem = true := by
  unfold State.stewardDeckle
  try dsimp only
  (repeat' split) <;> first
    | exact h
    | (simp [h]; done)
    | (refine foldl_keeps_wf _ (fun s a h => ?_) _ ?_ <;> (try dsimp only) <;> (repeat' split) <;> simp [h])

@[simp] theorem State.shadowUe_wf {s : State} (w : SramWin) (h : Memory.wf s.mem = true) : Memory.wf (s.shadowUe w).mem = true := by
  unfold State.shadowUe
  split
  all_goals first
    | (rw [foldl_keeps_mem _ (by intros; simp)]; exact h)
    | simp [h]

@[simp] theorem State.firmwareReady_wf {s : State} (h : Memory.wf s.mem = true) : Memory.wf s.firmwareReady.mem = true := by
  unfold State.firmwareReady
  dsimp only
  (repeat' split) <;> simp [h]

/-! ### A position moves (16 R446) -/

@[simp] theorem State.moveTasks_mem (s : State) (a b : ClusterId) (delta : Word) (ds : List (BitVec 10)) :
    (s.moveTasks a b delta ds).1.mem = s.mem := by
  unfold State.moveTasks
  generalize ([] : List (BitVec 10 × BitVec 10)) = l
  induction ds generalizing s l with
  | nil => rfl
  | cons d ds ih => rw [List.foldl_cons, ih]; simp

@[simp] theorem State.moveWork_mem (s : State) (x : CtxId) (m : Move) : (s.moveWork x m).mem = s.mem := by
  unfold State.moveWork
  simp

theorem State.followCode_some {s u : State} {x : CtxId} {k : BitVec 6} {a b : ClusterId} (e : s.followCode x k a b = some u) :
    u.mem = s.mem := by
  unfold State.followCode at e
  dsimp only at e
  generalize hs : s.updCluster b _ = s1 at e
  have h1 : s1.mem = s.mem := by rw [← hs]; simp
  rw [← h1]
  clear h1 hs
  generalize s.codeFor x a = l at e
  induction l generalizing s1 with
  | nil => cases e; rfl
  | cons i l ih =>
    rw [List.foldl_cons, Option.bind_some] at e
    split at e
    · exact ih s1 e
    · cases e2 : s1.loadCode b x i.1 i.2.1 k.toNat i.2.2.1 i.2.2.2 with
      | some v =>
        rw [e2] at e
        rw [ih v e, State.loadCode_some e2]
      | none =>
        rw [e2] at e
        have hn (l : List (BitVec 16 × Image × Bool × Option Nat)) (g : State → BitVec 16 × Image × Bool × Option Nat → Option State) :
            l.foldl (fun (o : Option State) i => o.bind fun s => g s i) none = none := by
          induction l with
          | nil => rfl
          | cons i l ih => simpa using ih
        rw [hn] at e
        cases e

@[simp] theorem State.planned_mem (s : State) (x : CtxId) (k : BitVec 6) (a b : ClusterId) :
    (s.planned x k a b).mem = s.mem := by
  unfold State.planned
  simp

@[simp] theorem State.beginMove_mem (s : State) (x : CtxId) (k : BitVec 6) (a b : ClusterId) :
    (s.beginMove x k a b).mem = s.mem := by
  unfold State.beginMove
  simp

@[simp] theorem State.positionMove_mem (s : State) (x : CtxId) (k : BitVec 6) : (s.positionMove x k).mem = s.mem := by
  unfold State.positionMove
  dsimp only
  split
  · split
    · rfl
    · split
      · split
        · rename_i e
          rw [State.moveWork_mem, State.followCode_some e, State.askMoves_mem]
        · simp
      · simp
  · split
    · rfl
    · (repeat' split) <;> simp

/-! ### Issue and mailbox commands -/

/-- What an issued word leaves keeps the form of memory where its operation does. -/
theorem State.issueWord_wf {s : State} {t : Tid} {w : Word} {k : Nat} {body : State → Iss → Eff} (h : Memory.wf s.mem = true)
    (hb : ∀ s i, Memory.wf s.mem = true → Memory.wf (effState (body s i)).mem = true) :
    Memory.wf (s.issueWord t w k body).mem = true := by
  unfold State.issueWord
  dsimp only
  split
  · simp [h]
  · split
    · simp [h]
    · split
      · simp [h]
      rw [Eff.toState_mem]
      refine hb _ _ ?_
      split
      · split <;> simp [h]
      · simp [h]

/-- What an issue leaves keeps the form of memory where its operation does. -/
theorem issue_wf {t : Tid} {w : Word} {body : State → Iss → Eff} {s s' : State} (h : Memory.wf s.mem = true)
    (hb : ∀ s i, Memory.wf s.mem = true → Memory.wf (effState (body s i)).mem = true) (e : issue t w body s = .next s') :
    Memory.wf s'.mem = true := by
  revert e
  unfold issue
  (repeat' split) <;> intro e
  all_goals first
    | cases e; done
    | (simp only [Host.Outcome.next.injEq] at e; subst e)
  all_goals first
    | exact h
    | exact State.issueWord_wf h hb
    | simp [h]

theorem accessBody_wf {s : State} (h : Memory.wf s.mem = true) (t : Tid) (near : Bool) (kind : SplitKind) (rd : GReg)
    (ea : Thread → Nat → Word) (data expect : Thread → Nat → DWord) (i : Iss) :
    Memory.wf (effState (accessBody t near kind rd ea data expect s i)).mem = true := by
  unfold accessBody
  dsimp only
  split
  · exact h
  · exact State.access_wf h t i _

/-- The answer to a mailbox command leaves a state in which memory keeps its form. -/
def replyKeeps : Reply → Prop
  | .ok s _ _ => Memory.wf s.mem = true
  | .failIn s _ _ _ _ => Memory.wf s.mem = true
  | .later s => Memory.wf s.mem = true
  | _ => True

@[simp] theorem replyKeeps_bad (st : BitVec 16) (o : Nat) : replyKeeps (.bad st o) := trivial
@[simp] theorem replyKeeps_fail (st : BitVec 16) (o a b : Nat) (w : Option (List Byte)) : replyKeeps (.fail st o a b w) := trivial
@[simp] theorem replyKeeps_idle : replyKeeps .idle := trivial
@[simp] theorem replyKeeps_done (s : State) : replyKeeps (.done s) = (Memory.wf s.mem = true) := rfl
@[simp] theorem replyKeeps_ok (s : State) (p : List Byte) (w : Option (List Byte)) : replyKeeps (.ok s p w) = (Memory.wf s.mem = true) := rfl
@[simp] theorem replyKeeps_later (s : State) : replyKeeps (.later s) = (Memory.wf s.mem = true) := rfl

theorem State.settle_wf {s : State} (h : Memory.wf s.mem = true) (f : FuncId) {r : Reply} (hr : replyKeeps r) :
    Memory.wf (s.settle f r).mem = true := by
  cases r with
  | ok t p w => simpa [State.settle] using hr
  | fail st o a b w => simpa [State.settle] using h
  | failIn t st o a w => simpa [State.settle, replyKeeps] using hr
  | later t => simpa [State.settle] using hr
  | idle => simpa [State.settle] using h

theorem State.perform_wf {s : State} (h : Memory.wf s.mem = true) (f : FuncId) (op : Nat) (sel : Bool) {r : Reply}
    (hr : replyKeeps r) : Memory.wf (s.perform f op sel r).mem = true := by
  have hb (st : BitVec 16) (o : Nat) : Memory.wf (s.settle f (.bad st o)).mem = true := State.settle_wf h f trivial
  have hd := State.settle_wf h f hr
  unfold State.perform
  dsimp only
  (repeat' split) <;> first | exact h | exact hb _ _ | exact hd

theorem State.ctxTarget_keeps (s : State) (f : FuncId) (x : CtxId) {r : Reply} (hr : replyKeeps r) :
    replyKeeps (s.ctxTarget f x r) := by
  unfold State.ctxTarget
  dsimp only
  (repeat' split) <;> first | exact hr | exact trivial

end Sys2Proof.Machine
end

