-- ==== Sys2Proof/Laws/Maps.lean ====
section
/-! SUPPORT. Reading a sparse table after a change, and reading one object of the state after another was changed. -/

namespace Sys2Proof.Machine

/-! ## Sparse tables -/

@[simp] theorem Map.find_set_same {α : Type} (m : Map α) (k : Nat) (v : α) : (Map.set m k v).find k = some v := by
  induction m with
  | nil => simp [Map.set, Map.find]
  | cons e m ih =>
    obtain ⟨j, w⟩ := e
    unfold Map.set
    split
    · simp [Map.find]
    · split
      · simp [Map.find]
      · rename_i h
        simp [Map.find, Ne.symm h, ih]

theorem Map.find_set_other {α : Type} (m : Map α) {k j : Nat} (h : j ≠ k) (v : α) :
    (Map.set m k v).find j = m.find j := by
  induction m with
  | nil => simp [Map.set, Map.find, Ne.symm h]
  | cons e m ih =>
    obtain ⟨i, w⟩ := e
    unfold Map.set
    split
    · simp [Map.find, Ne.symm h]
    · split
      · rename_i e
        subst e
        simp [Map.find, Ne.symm h]
      · simp only [Map.find]
        split
        · rfl
        · exact ih

/-- Reading a table after one number was written. -/
theorem Map.getD_set {α : Type} (m : Map α) (k j : Nat) (v d : α) :
    (Map.set m k v).getD j d = if j = k then v else m.getD j d := by
  unfold Map.getD
  split
  · rename_i h
    subst h
    simp
  · rename_i h
    rw [Map.find_set_other m h]

@[simp] theorem Map.getD_upd_same {α : Type} (m : Map α) (k : Nat) (d : α) (f : α → α) :
    (Map.upd m k d f).getD k d = f (m.getD k d) := by
  simp [Map.upd, Map.getD_set]

/-- Reading a table at another number than the one changed. -/
theorem Map.getD_upd_other {α : Type} (m : Map α) {k j : Nat} (h : j ≠ k) (d e : α) (f : α → α) :
    (Map.upd m k d f).getD j e = m.getD j e := by
  simp [Map.upd, Map.getD_set, h]

/-! ## One object after a change -/

theorem toNat_ne {n : Nat} {a b : BitVec n} (h : a ≠ b) : a.toNat ≠ b.toNat := fun e => h (BitVec.eq_of_toNat_eq e)

@[simp] theorem State.thread_updThread_same (s : State) (t : Tid) (f : Thread → Thread) :
    (s.updThread t f).thread t = f (s.thread t) := by simp [State.thread]

theorem State.thread_updThread_other (s : State) {t u : Tid} (h : u ≠ t) (f : Thread → Thread) :
    (s.updThread t f).thread u = s.thread u := by simp [State.thread, Map.getD_upd_other _ (toNat_ne h)]

@[simp] theorem State.cluster_updCluster_same (s : State) (c : ClusterId) (f : Cluster → Cluster) :
    (s.updCluster c f).cluster c = f (s.cluster c) := by simp [State.cluster]

theorem State.cluster_updCluster_other (s : State) {c d : ClusterId} (h : d ≠ c) (f : Cluster → Cluster) :
    (s.updCluster c f).cluster d = s.cluster d := by simp [State.cluster, Map.getD_upd_other _ (toNat_ne h)]

@[simp] theorem State.ctx_updCtx_same (s : State) (x : CtxId) (f : Ctx → Ctx) :
    (s.updCtx x f).ctx x = f (s.ctx x) := by simp [State.ctx]

theorem State.ctx_updCtx_other (s : State) {x y : CtxId} (h : y ≠ x) (f : Ctx → Ctx) :
    (s.updCtx x f).ctx y = s.ctx y := by simp [State.ctx, Map.getD_upd_other _ (toNat_ne h)]

@[simp] theorem State.caux_updAux_same (s : State) (x : CtxId) (f : CtxAux → CtxAux) :
    (s.updAux x f).caux x = f (s.caux x) := by simp [State.caux]

theorem State.caux_updAux_other (s : State) {x y : CtxId} (h : y ≠ x) (f : CtxAux → CtxAux) :
    (s.updAux x f).caux y = s.caux y := by simp [State.caux, Map.getD_upd_other _ (toNat_ne h)]

@[simp] theorem State.bank_updBank_same (s : State) (n : Byte) (f : Bank → Bank) :
    (s.updBank n f).bank n = f (s.bank n) := by simp [State.bank]

theorem State.bank_updBank_other (s : State) {n m : Byte} (h : m ≠ n) (f : Bank → Bank) :
    (s.updBank n f).bank m = s.bank m := by simp [State.bank, Map.getD_upd_other _ (toNat_ne h)]

@[simp] theorem State.pch_updPch_same (s : State) (p : BitVec 4) (f : PseudoCh → PseudoCh) :
    (s.updPch p f).pch p = f (s.pch p) := by simp [State.pch]

theorem State.pch_updPch_other (s : State) {p q : BitVec 4} (h : q ≠ p) (f : PseudoCh → PseudoCh) :
    (s.updPch p f).pch q = s.pch q := by simp [State.pch, Map.getD_upd_other _ (toNat_ne h)]

@[simp] theorem State.mbox_updMbox_same (s : State) (f : FuncId) (g : Mbox → Mbox) :
    (s.updMbox f g).mbox f = g (s.mbox f) := by simp [State.mbox, State.updMbox]

theorem State.mbox_updMbox_other (s : State) {f h : FuncId} (n : h ≠ f) (g : Mbox → Mbox) :
    (s.updMbox f g).mbox h = s.mbox h := by simp [State.mbox, State.updMbox, Map.getD_upd_other _ (toNat_ne n)]

@[simp] theorem State.sect_updSect_same (s : State) (n : BitVec 4) (f : Section → Section) :
    (s.updSect n f).sect n = f (s.sect n) := by simp [State.sect, State.updSect]

theorem State.sect_updSect_other (s : State) {n m : BitVec 4} (h : m ≠ n) (f : Section → Section) :
    (s.updSect n f).sect m = s.sect m := by simp [State.sect, State.updSect, Map.getD_upd_other _ (toNat_ne h)]

@[simp] theorem State.pe_updPe_same (s : State) (c : ClusterId) (p : BitVec 3) (f : Pe → Pe) :
    ((s.updPe c p f).cluster c).pe p = f ((s.cluster c).pe p) := by simp [State.updPe, Cluster.pe]

theorem State.pe_updPe_other (s : State) (c : ClusterId) {p q : BitVec 3} (h : q ≠ p) (f : Pe → Pe) :
    ((s.updPe c p f).cluster c).pe q = (s.cluster c).pe q := by
  simp [State.updPe, Cluster.pe, Map.getD_upd_other _ (toNat_ne h)]

theorem ringKey_inj {f g : FuncId} {r q : RingId} (h : ringKey f r = ringKey g q) : f = g ∧ r = q := by
  have h1 := r.isLt
  have h2 := q.isLt
  have h3 : 64 * f.toNat + r.toNat = 64 * g.toNat + q.toNat := h
  exact ⟨BitVec.eq_of_toNat_eq (by omega), BitVec.eq_of_toNat_eq (by omega)⟩

@[simp] theorem State.ring_setRing_same (s : State) (f : FuncId) (r : RingId) (g : Ring) :
    (s.setRing f r g).ring f r = some g := by simp [State.ring, State.setRing]

theorem State.ring_setRing_other (s : State) {f h : FuncId} {r q : RingId} (n : ¬(h = f ∧ q = r)) (g : Ring) :
    (s.setRing f r g).ring h q = s.ring h q := by
  simp only [State.ring, State.setRing, State.updHub_hub]
  exact Map.find_set_other _ (fun e => n (ringKey_inj e)) g

end Sys2Proof.Machine
end

