-- ==== Sys2Proof/Laws/Issue.lean ====
section
/-! SUPPORT. How a word issues: where `State.runs` holds, `issue` is its body at the noted state, and a word that
completes only advances its thread. -/

namespace Sys2Proof.Machine

/-- The state in which the body of a word runs. -/
def State.armed (s : State) (t : Tid) (w : Word) : State :=
  let k := s.issueClock t w
  let a := s.takeFree.noteIssue t w k
  match unitOf w ((a.thread t).read s.free (wRs2 w)) with
  | some (u, d) => if isSteward t then a else a.unitHold t u (k + d)
  | none => a

@[simp] theorem Thread.land_work (th : Thread) (l : Land) : (th.land l).work = th.work := by
  unfold Thread.land; split <;> try rfl
  split <;> rfl
@[simp] theorem Thread.land_delay (th : Thread) (l : Land) : (th.land l).delay = th.delay := by
  unfold Thread.land; split <;> try rfl
  split <;> rfl
@[simp] theorem Thread.land_rep (th : Thread) (l : Land) : (th.land l).rep = th.rep := by
  unfold Thread.land; split <;> try rfl
  split <;> rfl
@[simp] theorem Thread.land_dbgReq (th : Thread) (l : Land) : (th.land l).dbgReq = th.dbgReq := by
  unfold Thread.land; split <;> try rfl
  split <;> rfl
@[simp] theorem Thread.land_moveReq (th : Thread) (l : Land) : (th.land l).moveReq = th.moveReq := by
  unfold Thread.land; split <;> try rfl
  split <;> rfl

/-- What landing keeps, landing of a list keeps. -/
theorem Thread.foldl_land_keeps {α : Type} (f : Thread → α) (h : ∀ th l, f (Thread.land th l) = f th) (ls : List Land)
    (th : Thread) : f (ls.foldl Thread.land th) = f th := by
  induction ls generalizing th with
  | nil => rfl
  | cons l ls ih => rw [List.foldl_cons, ih, h]

@[simp] theorem Thread.landTo_work (th : Thread) (k : Nat) : (th.landTo k).work = th.work := by
  unfold Thread.landTo; rw [Thread.foldl_land_keeps _ Thread.land_work]
@[simp] theorem Thread.landTo_delay (th : Thread) (k : Nat) : (th.landTo k).delay = th.delay := by
  unfold Thread.landTo; rw [Thread.foldl_land_keeps _ Thread.land_delay]
@[simp] theorem Thread.landTo_rep (th : Thread) (k : Nat) : (th.landTo k).rep = th.rep := by
  unfold Thread.landTo; rw [Thread.foldl_land_keeps _ Thread.land_rep]
@[simp] theorem Thread.landTo_dbgReq (th : Thread) (k : Nat) : (th.landTo k).dbgReq = th.dbgReq := by
  unfold Thread.landTo; rw [Thread.foldl_land_keeps _ Thread.land_dbgReq]
@[simp] theorem Thread.landTo_moveReq (th : Thread) (k : Nat) : (th.landTo k).moveReq = th.moveReq := by
  unfold Thread.landTo; rw [Thread.foldl_land_keeps _ Thread.land_moveReq]

/-- The thread after the issue is noted is the one the word sees. -/
theorem State.thread_noteIssue (s : State) (t : Tid) (w : Word) :
    (s.takeFree.noteIssue t w (s.issueClock t w)).thread t = s.seen t w := by
  unfold State.noteIssue State.seen
  dsimp only
  split <;> simp [State.updPe]

theorem State.thread_noteIssue_other (s : State) {t u : Tid} (h : u ≠ t) (w : Word) (k : Nat) :
    (s.takeFree.noteIssue t w k).thread u = s.thread u := by
  unfold State.noteIssue
  dsimp only
  split <;> simp [State.updPe, State.thread_updThread_other _ h]

@[simp] theorem State.noteIssue_ctx (s : State) (t : Tid) (w : Word) (k : Nat) (x : CtxId) :
    (s.noteIssue t w k).ctx x = s.ctx x := by
  unfold State.noteIssue; dsimp only; split <;> rfl

theorem Cluster.task_pes (cl : Cluster) (ps : Map Pe) (d : BitVec 10) :
    ({ cl with pes := ps } : Cluster).task d = cl.task d := rfl

theorem State.noteIssue_task (s : State) (t : Tid) (w : Word) (k : Nat) (d : BitVec 10) :
    ((s.noteIssue t w k).cluster (tCluster t)).task d = (s.cluster (tCluster t)).task d := by
  unfold State.noteIssue; dsimp only; split <;> simp [State.updPe, Cluster.task]

theorem State.seen_work (s : State) (t : Tid) (w : Word) : (s.seen t w).work = (s.thread t).work := by
  simp [State.seen]

/-- Noting an issue changes none of the checks of 07 R207. -/
theorem State.wordFault_noteIssue (s : State) (t : Tid) (w : Word) :
    (s.takeFree.noteIssue t w (s.issueClock t w)).wordFault t w = s.wordFault t w := by
  have h1 := s.thread_noteIssue t w
  have hd : (s.seen t w).delay = (s.thread t).delay := by simp [State.seen]
  have ht : (s.takeFree.noteIssue t w (s.issueClock t w)).taskOf t = s.taskOf t := by
    simp [State.taskOf, h1, State.seen_work]
  have hc : (s.takeFree.noteIssue t w (s.issueClock t w)).threadCtx t = s.threadCtx t := by
    simp only [State.threadCtx, h1, State.seen_work]
    split
    · rfl
    · rename_i v _
      cases v with
      | activation a => rfl
      | task d => simp [Cluster.workCtx, State.noteIssue_task]
  simp [State.wordFault, h1, hd, ht, hc]

/-- A word that runs is its body, at the state in which its issue is noted. -/
theorem issue_runs {s : State} {t : Tid} {w : Word} (h : s.runs t w = true) (body : State → Iss → Eff) :
    issue t w body s = .next ((body (s.armed t w)
      { n := s.free, k := s.issueClock t w, x := (s.armed t w).threadCtx t }).toState t) := by
  simp only [State.runs, Bool.and_eq_true, beq_iff_eq] at h
  obtain ⟨⟨⟨⟨⟨⟨⟨⟨⟨⟨h1, h2⟩, h3⟩, he⟩, hf⟩, hb⟩, h4⟩, hp⟩, h5⟩, h6⟩, h7⟩ := h
  have hp' : ((s.takeFree.noteIssue t w (s.issueClock t w)).thread t).badRead w = false := by
    rw [State.thread_noteIssue]
    simpa using hp
  have h5' : ((s.takeFree.noteIssue t w (s.issueClock t w)).thread t).rep.filter
      (fun r => !r.begun && repeatIllegal w) = none := by
    rw [State.thread_noteIssue]
    rw [show (s.seen t w).rep = (s.thread t).rep by simp [State.seen]]
    exact Option.isNone_iff_eq_none.mp h5
  have h4' : (s.takeFree.noteIssue t w (s.issueClock t w)).wordFault t w = none := by
    rw [State.wordFault_noteIssue]
    simpa using h4
  simp only [issue, h1, h2, h3, he, hf, Option.isNone_iff_eq_none.mp hb, not_true_eq_false, if_false, State.issueWord, h5', h4',
    hp', Bool.false_eq_true]
  rfl

theorem State.runs_quiet {s : State} {t : Tid} {w : Word} (h : s.runs t w = true) :
    (s.thread t).dbgReq = false ∧ (s.thread t).moveReq = false := by
  simp only [State.runs, Bool.and_eq_true, Bool.not_eq_true'] at h
  exact ⟨h.1.2, h.2⟩

/-! ## What is left alone -/

theorem OnlyThread.refl (s : State) (t : Tid) : OnlyThread s s t (s.thread t) :=
  ⟨rfl, fun _ _ => rfl, rfl, fun _ _ => rfl, rfl, fun _ _ => rfl, rfl⟩

/-- A change of the thread alone. -/
theorem OnlyThread.thread_upd {s a : State} {t : Tid} {th : Thread} (h : OnlyThread s a t th) (f : Thread → Thread) :
    OnlyThread s (a.updThread t f) t (f th) where
  thread := by simp [h.thread]
  others u hu := by rw [State.thread_updThread_other _ hu, h.others u hu]
  rest := h.rest
  away := h.away
  cluster := h.cluster
  pes := h.pes
  pe := h.pe

/-- A change of the PE's own counters. -/
theorem OnlyThread.pe_upd {s a : State} {t : Tid} {th : Thread} (h : OnlyThread s a t th) (hs : isSteward t = false)
    (f : Pe → Pe)
    (hf : ∀ p : Pe,
      { f p with clock := p.clock, lastThread := p.lastThread, busy := p.busy, mulBusy := p.mulBusy, divBusy := p.divBusy, fdivBusy := p.fdivBusy } = p) :
    OnlyThread s (a.updPe (tCluster t) (tPe t) f) t th where
  thread := h.thread
  others := h.others
  rest := h.rest
  away c hc := by
    have hne : c ≠ tCluster t := hc.resolve_left (by simp [hs])
    rw [State.updPe, State.cluster_updCluster_other _ hne, h.away c hc]
  cluster := by simpa [State.updPe] using h.cluster
  pes p hp := by rw [State.pe_updPe_other _ _ hp, h.pes p hp]
  pe := by
    have h1 := h.pe
    have h2 := hf ((a.cluster (tCluster t)).pe (tPe t))
    simp only [State.pe_updPe_same]
    generalize f ((a.cluster (tCluster t)).pe (tPe t)) = u at h2 ⊢
    generalize (a.cluster (tCluster t)).pe (tPe t) = v at h1 h2
    generalize (s.cluster (tCluster t)).pe (tPe t) = z at h1 ⊢
    cases u; cases v; cases z
    simp_all

/-- A change of the cluster's decimal or interpolation unit. -/
theorem OnlyThread.unit_upd {s a : State} {t : Tid} {th : Thread} (h : OnlyThread s a t th) (hs : isSteward t = false)
    (f : Cluster → Cluster)
    (hf : ∀ c : Cluster, { f c with decBusy := c.decBusy, interpBusy := c.interpBusy } = c) :
    OnlyThread s (a.updCluster (tCluster t) f) t th := by
  have hp : (f (a.cluster (tCluster t))).pes = (a.cluster (tCluster t)).pes := by
    have := congrArg Cluster.pes (hf (a.cluster (tCluster t)))
    simpa using this
  refine ⟨h.thread, h.others, h.rest, fun c hc => ?_, ?_, fun p hpp => ?_, ?_⟩
  · have hne : c ≠ tCluster t := hc.resolve_left (by simp [hs])
    rw [State.cluster_updCluster_other _ hne, h.away c hc]
  · have h1 := h.cluster
    have h2 := hf (a.cluster (tCluster t))
    simp only [State.cluster_updCluster_same]
    generalize f (a.cluster (tCluster t)) = u at h2 ⊢
    generalize a.cluster (tCluster t) = v at h1 h2
    generalize s.cluster (tCluster t) = z at h1 ⊢
    cases u; cases v; cases z
    simp_all
  · have := h.pes p hpp
    simpa [Cluster.pe, hp] using this
  · have := h.pe
    simpa [Cluster.pe, hp] using this

/-- Noting an issue changes no more than an issue may. -/
theorem OnlyThread.noted (s : State) (t : Tid) (w : Word) :
    OnlyThread s (s.takeFree.noteIssue t w (s.issueClock t w)) t (s.seen t w) := by
  have h0 : OnlyThread s s.takeFree t (s.thread t) := ⟨rfl, fun _ _ => rfl, rfl, fun _ _ => rfl, rfl, fun _ _ => rfl, rfl⟩
  have h1 := h0.thread_upd (fun th => { th.landTo (s.issueClock t w) with cur := w, lastIssue := s.issueClock t w })
  unfold State.noteIssue
  dsimp only
  split
  · exact h1
  · rename_i hs
    exact h1.pe_upd (by simpa using hs) _ (fun _ => rfl)

/-- The state in which a body runs differs from the one before as an issue may. -/
theorem OnlyThread.armed (s : State) (t : Tid) (w : Word) : OnlyThread s (s.armed t w) t (s.seen t w) := by
  have h := OnlyThread.noted s t w
  unfold State.armed
  dsimp only
  split
  · rename_i u d _
    split
    · exact h
    · rename_i hs
      have hs' : isSteward t = false := by simpa using hs
      cases u
      · exact h.pe_upd hs' _ (fun _ => rfl)
      · exact h.pe_upd hs' _ (fun _ => rfl)
      · exact h.pe_upd hs' _ (fun _ => rfl)
      · exact h.unit_upd hs' _ (fun _ => rfl)
      · exact h.unit_upd hs' _ (fun _ => rfl)
  · exact h

@[simp] theorem State.thread_armed (s : State) (t : Tid) (w : Word) : (s.armed t w).thread t = s.seen t w :=
  (OnlyThread.armed s t w).thread

@[simp] theorem State.taskOf_armed (s : State) (t : Tid) (w : Word) : (s.armed t w).taskOf t = s.taskOf t := by
  simp [State.taskOf, State.seen]

theorem State.threadCtx_armed (s : State) (t : Tid) (w : Word) : (s.armed t w).threadCtx t = s.threadCtx t := by
  have hc := (OnlyThread.armed s t w).cluster
  simp only [State.threadCtx, State.thread_armed, State.seen_work]
  split
  · rfl
  · rename_i v _
    cases v with
    | activation a => rfl
    | task d =>
      simp only [Cluster.workCtx, Cluster.task]
      have := congrArg Cluster.tasks hc
      simp only at this
      rw [this]

/-! ## Completing -/

theorem State.boundary_quiet {s : State} {t : Tid} (h1 : (s.thread t).dbgReq = false) (h2 : (s.thread t).moveReq = false) :
    s.boundary t = s := by
  unfold State.boundary State.stopReq
  split
  · rfl
  · simp [h1, h2]

theorem State.updThread_const (s : State) (t : Tid) (f : Thread → Thread) :
    s.updThread t f = s.updThread t fun _ => f (s.thread t) := rfl

/-- Where no stop was asked for, a word that completes advances its thread and nothing else. -/
theorem State.retire_quiet {s : State} {t : Tid} (h1 : (s.thread t).dbgReq = false) (h2 : (s.thread t).moveReq = false) :
    s.retire t = s.updThread t Thread.advance := by
  have key : ∀ f : Thread → Thread, (f (s.thread t)).dbgReq = false → (f (s.thread t)).moveReq = false →
      f (s.thread t) = (s.thread t).advance → (s.updThread t f).boundary t = s.updThread t Thread.advance := by
    intro f g1 g2 e
    rw [State.boundary_quiet (by simpa using g1) (by simpa using g2), State.updThread_const, e,
      ← State.updThread_const]
  have adv := Thread.advance.eq_1 (s.thread t)
  unfold State.retire
  dsimp only
  cases hr : (s.thread t).rep with
  | some r =>
    dsimp only
    simp only [hr] at adv
    split
    · rename_i hc
      simp only [hc, if_true] at adv
      exact key _ h1 h2 adv.symm
    · rename_i hc
      simp only [hc, if_false] at adv
      split
      · exact key _ h1 h2 adv.symm
      · rw [State.updThread_const s t Thread.advance, adv, State.updThread_const]
  | none =>
    dsimp only
    simp only [hr] at adv
    cases hd : (s.thread t).delay with
    | some a =>
      simp only [hd] at adv
      exact key _ h1 h2 (by simp only [adv, hr])
    | none =>
      simp only [hd] at adv
      exact key _ h1 h2 (by simp only [adv, hr, hd])

theorem OnlyThread.retired {s a : State} {t : Tid} {th : Thread} (h : OnlyThread s a t th) (h1 : th.dbgReq = false)
    (h2 : th.moveReq = false) : OnlyThread s (a.retire t) t th.advance := by
  rw [State.retire_quiet (by rw [h.thread]; exact h1) (by rw [h.thread]; exact h2)]
  exact h.thread_upd _

/-- The issue of a word whose body completes. -/
theorem issue_ok {s b a : State} {t : Tid} {w : Word} {th : Thread} {body : State → Iss → Eff} (h : s.runs t w = true)
    (e : body (s.armed t w) { n := s.free, k := s.issueClock t w, x := s.threadCtx t } = .ok a)
    (o : OnlyThread b a t th) (h1 : th.dbgReq = false) (h2 : th.moveReq = false) :
    ∃ s', issue t w body s = .next s' ∧ OnlyThread b s' t th.advance := by
  refine ⟨_, issue_runs h body, ?_⟩
  rw [State.threadCtx_armed, e]
  exact o.retired h1 h2

/-- The issue of a word whose thread goes on by itself. -/
theorem issue_stay {s a : State} {t : Tid} {w : Word} {body : State → Iss → Eff} (h : s.runs t w = true)
    (e : body (s.armed t w) { n := s.free, k := s.issueClock t w, x := s.threadCtx t } = .stay a) :
    issue t w body s = .next a := by
  rw [issue_runs h body, State.threadCtx_armed, e]
  rfl

/-- The issue of a word that faults. -/
theorem issue_fault {s a : State} {t : Tid} {w : Word} {c : Byte} {body : State → Iss → Eff} (h : s.runs t w = true)
    (e : body (s.armed t w) { n := s.free, k := s.issueClock t w, x := s.threadCtx t } = .fault a c) :
    issue t w body s = .next (a.takeFault t c) := by
  rw [issue_runs h body, State.threadCtx_armed, e]
  rfl

/-- A result on its way changes no request to stop. -/
@[simp] theorem Thread.addLand_dbgReq (th : Thread) (n : Nat) (d : Option Nat) (g : Target) (v : Word) :
    (th.addLand n d g v).dbgReq = th.dbgReq := by unfold Thread.addLand; split <;> rfl
@[simp] theorem Thread.addLand_moveReq (th : Thread) (n : Nat) (d : Option Nat) (g : Target) (v : Word) :
    (th.addLand n d g v).moveReq = th.moveReq := by unfold Thread.addLand; split <;> rfl
@[simp] theorem Thread.write_dbgReq (th : Thread) (n : Nat) (d : Option Nat) (r : GReg) (v : Word) :
    (th.write n d r v).dbgReq = th.dbgReq := by unfold Thread.write; split <;> simp
@[simp] theorem Thread.write_moveReq (th : Thread) (n : Nat) (d : Option Nat) (r : GReg) (v : Word) :
    (th.write n d r v).moveReq = th.moveReq := by unfold Thread.write; split <;> simp
@[simp] theorem Thread.writePair_dbgReq (th : Thread) (n : Nat) (d : Option Nat) (r : GReg) (v : DWord) :
    (th.writePair n d r v).dbgReq = th.dbgReq := by simp [Thread.writePair]
@[simp] theorem Thread.writePair_moveReq (th : Thread) (n : Nat) (d : Option Nat) (r : GReg) (v : DWord) :
    (th.writePair n d r v).moveReq = th.moveReq := by simp [Thread.writePair]
@[simp] theorem State.seen_dbgReq (s : State) (t : Tid) (w : Word) : (s.seen t w).dbgReq = (s.thread t).dbgReq := by
  simp [State.seen]
@[simp] theorem State.seen_moveReq (s : State) (t : Tid) (w : Word) : (s.seen t w).moveReq = (s.thread t).moveReq := by
  simp [State.seen]

/-- A word that writes one register. -/
theorem issue_writes {s : State} {t : Tid} {w : Word} (h : s.runs t w = true) (rd : GReg) (d : Nat)
    (f : Thread → Nat → Word) :
    ∃ s', issue t w (writes t rd d f) s = .next s' ∧
      OnlyThread s s' t ((s.seen t w).write s.free (some (s.issueClock t w + d)) rd (f (s.seen t w) s.free)).advance := by
  have q := State.runs_quiet h
  refine issue_ok h rfl ?_ (by simp [q.1]) (by simp [q.2])
  rw [State.thread_armed]
  exact (OnlyThread.armed s t w).thread_upd _

end Sys2Proof.Machine
end

