-- ==== Sys2Proof/Laws/Mailbox.lean ====
section
/-! SUPPORT. A mailbox command that is performed: where the firmware accepts it, the command is its body settled, and the checks
that pass fall away. -/

namespace Sys2Proof.Machine

/-- A command that is accepted is its body, settled. -/
theorem State.perform_accepts {s : State} {f : FuncId} {op : Nat} (h : s.accepts f op = true) (body : Reply) :
    s.perform f op true body = s.settle f body := by
  simp only [State.accepts, Bool.and_eq_true, beq_iff_eq] at h
  obtain ⟨⟨⟨⟨hp, hf⟩, ho⟩, he⟩, hc⟩ := h
  unfold State.perform
  simp only [hp, hf, ho, he]
  cases hcm : cmdOf op with
  | none => simp [hcm] at hc
  | some c =>
    have hop : c.op = op := by
      have := List.find?_some hcm
      simpa using this
    simp only [hcm, hop] at hc ⊢
    cases hb : (s.mbox f).begun with
    | true => simp
    | false =>
      simp only [hb, Bool.false_or, Bool.and_eq_true, Option.isNone_iff_eq_none] at hc
      simp [hc.1, hc.2]

/-- The checks on the context of TARGET pass where the context is served. -/
theorem State.ctxTarget_serves {s : State} {f : FuncId} (h : s.serves f = true) (k : Reply) :
    s.ctxTarget f (s.argCtx f 8) k = k := by
  simp only [State.serves, Bool.and_eq_true, Bool.or_eq_true, bne_iff_ne, ne_eq, beq_iff_eq, Bool.not_eq_true'] at h
  obtain ⟨⟨h1, h2⟩, h3⟩ := h
  unfold State.ctxTarget
  simp only [h1, h3, if_false]
  rw [if_neg]
  · simp
  · rintro ⟨a, b⟩
    rcases h2 with h2 | h2
    · exact a h2
    · exact b h2

/-- Checks that pass leave the reply. -/
theorem checked_none {st : BitVec 16} {l : List (Bool × Nat)} (h : firstBad l = none) (k : Reply) : checked st l k = k := by
  simp [checked, h]

/-- A command that completes: its DMA-out data leave, and it is answered OK. -/
theorem State.settle_ok (s t : State) (f : FuncId) (p : List Byte) (out : Option (List Byte)) :
    s.settle f (.ok t p out) = t.completes f p out := rfl

/-- A command that has begun and goes on. -/
theorem State.settle_later (s t : State) (f : FuncId) : s.settle f (.later t) = t.goesOn f := rfl

end Sys2Proof.Machine
end

