-- ==== Sys2Proof/Tests/Slice0.lean ====
section
/-! SUPPORT. The tests: ill-formed commands that the check refuses, one step on small states, and for each statement a
witness that meets its hypotheses. -/

open Sys2Proof Sys2Proof.Machine

namespace Sys2Proof.Tests

/-! ## Ill-formed commands are refused (01 R32, 11 R314, 17 R462, R463) -/

theorem test_wf_thread : (Instr.add 0x1010 1 2 3).wf = false ∧ (Instr.add 0x1007 1 2 3).wf = true := by decide
theorem test_wf_undefined : (Instr.undefinedEncoding 0x1FFF 0 false).wf = false := by decide
theorem test_wf_requester : (Instr.reelCreditRequest (.thread 0x1010)).wf = false ∧
    (Instr.channelCreditRequest (.ring 0 0)).wf = true := by decide
theorem test_wf_bank : (Instr.bankAccess 0 (some ⟨0x1010, false, 0, 0, false, 0, 0⟩) false .clean).wf = false := by decide
theorem test_wf_hop_port : (Instr.spinePacketHop 5 13 0 .none .kept).wf = false ∧
    (Instr.spinePacketHop 5 12 0 .none .kept).wf = true := by decide
theorem test_wf_hop_edge : (Instr.spinePacketHop 0 0 0 .none .kept).wf = false := by decide
theorem test_wf_nak_edge : (Instr.negativeAcknowledgement 15 1).wf = false := by decide
theorem test_wf_retry_edge : (Instr.linkRetry 12 2 false).wf = false := by decide
theorem test_wf_fail_edge : (Instr.linkFailTimeout 4 3).wf = false := by decide
theorem test_wf_temperature : (Instr.temperatureSample 38 0).wf = false ∧
    (Instr.temperatureSample 37 0).wf = true := by decide
theorem test_wf_voltage : (Instr.voltageSample 24 0).wf = false ∧ (Instr.voltageSample 23 0).wf = true := by decide

/-! ## Small states -/

/-- A section in service. -/
def sectOn : Section := { pstate := 3, lock := true, tried := true, svc := 0, iso := false }

/-- An image: nodes with two destinations, tasks with every channel. -/
def img : Image :=
  { owner := 0, bytes := [], cls := 0, drnd := 0, nodecnt := 8, taskcnt := 12, flowcnt := 0, csize := 1, code := []
    nodes := List.replicate 8 { codeOff := 0, codeLen := 4, inputs := 2, ctl := false, ndest := 2, destOff := 0, pgroup := 0 }
    dests := [{ node := 4, port := 0, kind := 0, chan := 0 }, { node := 4, port := 1, kind := 4, chan := 0 }]
    groups := [{ first := 0, count := 1, rule := 0, shift := 0 }], flows := []
    tasks := List.replicate 12 { entry := 0, prio := 4, place := 0, chmask := 0xFF, start := false, super := false, exth := false, arg := 0 }
    taskBytes := [], tables := [], extins := [], census := 0, spill := 0, pos := [], sealed := [] }

/-- The part started, with section 0 on, the endpoints of routers 0 and 5 open and port 0 enabled. -/
def up : State :=
  { State.reset with
    clk := { State.reset.clk with porstLow := false, aon := true, safeLock := true, coreLock := true, memLock := true, ethLock := true, timeLock := true, pciLock := 0b1111, hbmUp := true, keeperOk := true, sections := [(0, sectOn)], xing := (List.range 22).map fun d => (d, { released := true, inReset := false }) }
    fw := { State.reset.fw with ready := true, held := false, images := [(1, img)] }
    keeper := { State.reset.keeper with running := true }
    spine := { State.reset.spine with routers := (State.reset.spine.routers.set 0 { Router.reset 0 with ep := [0, 0, 0, 0] }).set 5 { Router.reset 5 with ep := [0, 0, 0, 0] } }
    hub := { State.reset.hub with ports := [(0, { present := true, perst := false, linkUp := true, crs := false, enabled := true, released := true })], mbox := [(0, { notrdy := false })] } }

/-- An activation of node 3 of context 5. -/
def act : Activation :=
  { ctx := 5, node := 3, inst := 7, image := 1, ops := [], poison := false, ready := 0, age := 0 }

/-- Cluster 0 with a slot of context 5 in each structure. -/
def cl0 : Cluster :=
  { pes := [(0, { icache := [0] })]
    msRes := [(0, { ctx := 5, valid := true, limit := 8 })]
    dlRes := [(0, { ctx := 5, valid := true, limit := 8 })]
    cdRes := [(0, { ctx := 5, valid := true })] }

/-- Context 5 RUNNING in cluster 0. -/
def ctx5 : Ctx := { state := RUNNING, image := 1, csize := 1, nodecnt := 8, taskcnt := 12, exth := 0xFFFF, sup := 0xFFFF, inflight := 3 }

/-- Context 5 runs, and thread 0 holds `th` with its activation. -/
def hold (th : Thread) : State :=
  { up with
    ctxs := [(5, ctx5)], aux := [(5, { clmap := [0] })], clusters := [(0, cl0)]
    threads := [(0, { th with work := some (.activation act) })] }

/-- The same with task 9 in descriptor 2 on the thread. -/
def taskOn (k : Task) : Cluster := { cl0 with tasks := [(2, { k with ctx := 5, task := 9, chmask := 0xFF, resident := true })] }

/-- Thread 0 runs task 9. -/
def holdTask (th : Thread) : State :=
  { up with
    ctxs := [(5, ctx5)], aux := [(5, { clmap := [0] })], clusters := [(0, taskOn { state := RUNNINGT })]
    threads := [(0, { th with work := some (.task 2) })] }

/-- A context with one thread at its start. -/
def fabric : State := hold {}

/-- The next state of a command. -/
def after (i : Instr) (s : State) : Option State :=
  match exec i s with
  | .next s' => some s'
  | _ => none

/-- Word `w` of context 5 stands at the PC of thread 0. -/
def put (w : Word) (s : State) : State :=
  s.updCluster 0 fun cl => { cl with code := cl.code.set ((s.thread 0).pc.toNat / 4) { word := w, ctx := 5, image := 1 } }

/-- Thread 0 fetches word `w`, and the command that it decodes to runs. -/
def runWord (w : Word) (s : State) : Option State := (decodeWord 0 w).bind fun i => after i (put w s)

/-- Register `r` of thread 0 once every result of the word has landed. -/
def regAfter (w : Word) (s : State) (r : GReg) : Option Word :=
  (runWord w s).map fun s' => ((s'.thread 0).landTo 1000).regs.getD r.toNat 0

/-! ## Words -/

/-- Thread 0 with g3 = `a` and g4 = `b`. -/
def two (a b : Word) : State := hold { regs := [(3, a), (4, b)] }

theorem test_add_wraps : regAfter (wL3 1 2 3 4 0) (two 0xFFFFFFFF 2) 2 = some 1 := by decide
theorem test_add_own_source : regAfter (wL3 1 3 3 4 0) (two 5 2) 3 = some 7 := by decide
theorem test_g0_reads_zero : regAfter (wL3 1 0 3 4 0) (two 5 2) 0 = some 0 := by decide
theorem test_sub_wraps : regAfter (wL3 1 2 3 4 1) (two 0 1) 2 = some 0xFFFFFFFF := by decide
theorem test_sll_by_32 : regAfter (wL3 1 2 3 4 6) (two 1 32) 2 = some 0 := by decide
theorem test_sra_by_63 : regAfter (wL3 1 2 3 4 8) (two 0x80000000 63) 2 = some 0xFFFFFFFF := by decide
theorem test_srl_by_64 : regAfter (wL3 1 2 3 4 7) (two 8 64) 2 = some 8 := by decide
theorem test_cmplt_signed : regAfter (wL3 1 2 3 4 11) (two 0xFFFFFFFF 0) 2 = some 1 := by decide
theorem test_cmpltu_unsigned : regAfter (wL3 1 2 3 4 12) (two 0xFFFFFFFF 0) 2 = some 0 := by decide
theorem test_andi_zero_extends : regAfter (wLI 9 2 3 0x7FFF) (two 0xFFFFFFFF 0) 2 = some 0x7FFF := by decide
theorem test_addi_sign_extends : regAfter (wLI 8 2 3 0x7FFF) (two 5 0) 2 = some 4 := by decide
theorem test_lui : regAfter (wLB 3 2 0x80001) fabric 2 = some 0x80001000 := by decide
theorem test_mulh_signs : regAfter (wL3 2 2 3 4 1) (two 0xFFFFFFFF 2) 2 = some 0xFFFFFFFF := by decide
theorem test_mulhu_no_signs : regAfter (wL3 2 2 3 4 2) (two 0xFFFFFFFF 2) 2 = some 1 := by decide
theorem test_div_truncates : regAfter (wL3 2 2 3 4 3) (two 0xFFFFFFF9 2) 2 = some 0xFFFFFFFD := by decide
theorem test_rem_sign : regAfter (wL3 2 2 3 4 5) (two 0xFFFFFFF9 2) 2 = some 0xFFFFFFFF := by decide
theorem test_div_most_negative : regAfter (wL3 2 2 3 4 3) (two 0x80000000 0xFFFFFFFF) 2 = some 0x80000000 := by decide
theorem test_divu_zero : regAfter (wL3 2 2 3 4 4) (two 9 0) 2 = some 0xFFFFFFFF := by decide
theorem test_paired_reads_first :
    regAfter ((1 : BitVec 1) ++ ((0x10 : BitVec 7) ++ (3 : BitVec 4) ++ (4 : BitVec 4) ++ (0x10 : BitVec 7) ++ (4 : BitVec 4) ++ (3 : BitVec 4) ++ (0 : BitVec 1))) (two 5 6) 3 = some 6 := by decide
theorem test_fadd_one_and_two : regAfter (wF false 2 3 4 0) (two 0x3F800000 0x40000000) 2 = some 0x40400000 := by decide
theorem test_fdiv_zero_is_infinite : regAfter (wF false 2 3 4 4) (two 0x3F800000 0) 2 = some 0x7F800000 := by decide
set_option maxRecDepth 8192 in
theorem test_fsqrt_four : regAfter (wF false 2 3 0 5) (two 0x40800000 0) 2 = some 0x40000000 := by decide
theorem test_fcvt_saturates : regAfter (wF false 2 3 0 0x12) (two 0x7F800000 0) 2 = some 0x7FFFFFFF := by decide

theorem witness_IntegerWordsCompute_reg :
    ((integerRegForms 0 2 3 4).all fun p => (put p.2.w fabric).runs p.2.t p.2.w) = true := by decide
theorem witness_IntegerWordsCompute_imm :
    ((integerImmForms 0 2 3 31 0xFFFFF).all fun p => (put p.2.w fabric).runs p.2.t p.2.w) = true := by decide
theorem witness_IntegerWordsCompute_division :
    ((divisionForms 0 2 3 4).all fun p =>
      (put p.2.w (two 9 2)).runs 0 p.2.w && ((put p.2.w (two 9 2)).seen 0 p.2.w).read 0 4 != 0) = true := by decide
theorem witness_IntegerWordsCompute_divisionTraps :
    ((divisionForms 0 2 3 4).all fun p =>
      let s : State := put p.2.w { fabric with ctxs := [(5, { ctx5 with dzt := true })] }
      s.runs 0 p.2.w && (s.seen 0 p.2.w).read s.free 4 == 0 && (s.ctx (s.threadCtx 0)).dzt) = true ∧
    isSteward 0 = false := by decide
theorem witness_IntegerWordsCompute_paired :
    (put (pairedForm 0 0).w fabric).runs 0 (pairedForm 0 0).w = true := by decide
theorem witness_FloatWordsCompute :
    ((floatForms 0 false 2 4 6).all fun p => (put p.2.w fabric).runs p.2.t p.2.w) = true ∧
    ((floatForms 0 true 2 4 6).all fun p => (put p.2.w fabric).runs p.2.t p.2.w) = true := by decide
theorem witness_DecimalAndInterpolationWordsCompute_decimal :
    let s : State := { fabric with ctxs := [(5, { ctx5 with cls := 1 })] }
    ((decimalForms 0 false 2 3 4).all fun p => (put p.2.w s).runs p.2.t p.2.w) = true ∧
    ((decimalForms 0 true 2 4 6).all fun p => (put p.2.w s).runs p.2.t p.2.w) = true := by decide

/-- A table of one dimension with two values. -/
def tbl (d : BitVec 8) : Table :=
  { handle := 1, dims := d, format := 0, ext := false, nx := 2, ny := 2, bx := [0, 0x3F800000], vy := [0, 0x3F800000], values := [0, 0x40000000, 0, 0], wx := [0x3F800000], wy := [0x3F800000], size := 0 }

/-- Context 5 has a table of one dimension under handle 1, and g3 names it. -/
def withTable (d : BitVec 8) : State :=
  { hold { regs := [(3, 1)] } with aux := [(5, { clmap := [0], tables := [tbl d] })] }

theorem witness_DecimalAndInterpolationWordsCompute_found :
    ([(false, (1 : BitVec 8)), (true, 2)].all fun q =>
      let w := wL3 0x39 2 3 4 (if q.1 then 1 else 0)
      let s := put w (withTable q.2)
      s.runs 0 w && ((s.caux (s.threadCtx 0)).table (bits ((s.seen 0 w).read s.free 3) 0 16)).filter (fun tb => tb.dims == q.2) ==
        some (tbl q.2)) = true := by decide
theorem witness_DecimalAndInterpolationWordsCompute_missing :
    let w := wL3 0x39 2 3 4 0
    let s := put w (withTable 2)
    s.runs 0 w = true ∧
    ((s.caux (s.threadCtx 0)).table (bits ((s.seen 0 w).read s.free 3) 0 16)).filter (fun tb => tb.dims == 1) = none := by decide
theorem witness_BranchesDelayTheirTarget_offset :
    ((branchForms 0 2 3 0xFFFFF).all fun p => (put p.2.w fabric).runs p.2.t p.2.w) = true := by decide
theorem witness_BranchesDelayTheirTarget_jr :
    let w := wL3 0x2C 2 3 0 0
    let s (a : Word) := put w (two a 0)
    (s 8).runs 0 w = true ∧ bits (((s 8).seen 0 w).read (s 8).free 3) 0 2 = (0 : BitVec 2) ∧
    (s 3).runs 0 w = true ∧ bits (((s 3).seen 0 w).read (s 3).free 3) 0 2 ≠ (0 : BitVec 2) := by decide

theorem test_branch_delay : (runWord (wLB 0x28 3 2) fabric).map (fun s' => ((s'.thread 0).pc, (s'.thread 0).delay)) =
    some (4, some 8) := by decide

/-- Thread 0 at the prefix `w`, with `a` in g3 and word `n` next. -/
def atRep (w : Word) (a : Word) (n : Word) : State :=
  put w { two a 0 with clusters := [(0, { cl0 with code := [(1, { word := n, ctx := 5, image := 1 })] })] }

theorem witness_RepeatPrefixesSetTheCount_counts :
    let i := wLI 0x2D 0 3 0
    let s (a : Word) := atRep i a 0x02000000
    let n (k : BitVec 15) := atRep (wLI 0x2E 0 0 k) 0 0x02000000
    (s 0).runs 0 i = true ∧ ((s 0).nextWord 0).any repeatIllegal = false ∧ ((s 0).seen 0 i).read (s 0).free 3 = 0 ∧
    (s 5).runs 0 i = true ∧ ((s 5).nextWord 0).any repeatIllegal = false ∧ ((s 5).seen 0 i).read (s 5).free 3 ≠ 0 ∧
    ([0, 1, 64, 65].all fun k => (n k).runs 0 (wLI 0x2E 0 0 k) && !((n k).nextWord 0).any repeatIllegal) = true := by decide
theorem witness_RepeatPrefixesSetTheCount_illegal :
    ([wLI 0x2D 0 3 0, wLI 0x2E 0 0 1].all fun w =>
      (atRep w 5 (wLB 0x28 0 0)).runs 0 w && ((atRep w 5 (wLB 0x28 0 0)).nextWord 0).any repeatIllegal) = true := by decide
theorem witness_StateRegisterMovesReadAndWrite :
    ([wLI 0x33 2 0 0x10, wLI 0x34 0 2 0x10, wLI 0x34 0 2 0x14, wLI 0x34 0 2 15, wLI 0x34 0 2 0x11, wLI 0x34 0 2 0x12,
      wLI 0x34 0 2 0x13].all fun w => (put w fabric).runs 0 w) = true := by decide


/-- A split access outstanding. -/
def split0 (p : Bool) : Split :=
  { txn := splitTxn 0 0, seq := 0, kind := .load 2 false, rd := 2, dirty := false, performed := p }

theorem witness_NopFenceAndWaitldComplete_fence :
    let w := wL3 0x22 0 0 0 0x30
    let s := put w (hold { splits := [split0 true] })
    s.runs 0 w = true ∧ (s.thread 0).splits.all (·.performed) = true := by decide
theorem witness_NopFenceAndWaitldComplete_waitld :
    let w := wL3 0x22 0 0 0 0x20
    let s := put w fabric
    (put (wL3 0x32 0 0 0 0) fabric).runs 0 (wL3 0x32 0 0 0 0) = true ∧ s.runs 0 w = true ∧ (s.thread 0).splits = [] ∧
    (s.seen 0 w).err = none := by decide
theorem witness_NopFenceAndWaitldComplete_error :
    let w := wL3 0x22 0 0 0 0x20
    let s := put w (hold { err := some (0, 0x20) })
    s.runs 0 w = true ∧ (s.thread 0).splits = [] ∧ (s.seen 0 w).err = some (0, 0x20) := by decide


/-! ## Memory words, traps, sends and waits -/

/-- A window with every right on `len` bytes at `base`. -/
def winAt (base len : Nat) : WinEntry := ⟨BitVec.ofNat 128 (base + 0x17000000000000 + len * 2 ^ 64), true⟩

/-- Window 0 of context 5 lies at `base`, bank 0 is its own, and g3 holds `a`. -/
def mapped (base : Nat) (a : Word) : State :=
  { hold { regs := [(3, a)] } with clusters := [(0, { cl0 with wcache := [(winKey 5 0, winAt base 0x1000)] })], banks := [(0, { kind := 2, ctx := 5 })] }

theorem test_window_well_formed : winWellFormed (winAt bankBase 0x1000).raw = true := by decide
theorem test_lb_sign : regAfter (wLI 0x18 2 3 0) { mapped bankBase 0 with mem := [(bankBase, 0x80)] } 2 = some 0xFFFFFF80 := by
  decide
theorem test_lhu_zero : regAfter (wLI 0x1B 2 3 0) { mapped bankBase 0 with mem := [(bankBase, 1), (bankBase + 1, 0x80)] } 2 =
    some 0x8001 := by decide
theorem test_sw_low_byte_first : (runWord (wLI 0x20 3 3 0) (mapped bankBase 0x10)).map (·.mem) = some [(bankBase + 0x10, 0x10)] := by
  decide
theorem test_lw_unaligned : (runWord (wLI 0x1C 2 3 0) (mapped bankBase 2)).map (fun s => (s.ctx 5).lastfault) = some ALIGN := by
  decide

theorem witness_NearAccessesReadAndWrite_load :
    ((nearLoadForms 0 2 3 0x7FF8).all fun p =>
      let w := wLI p.2.1 2 3 0x7FF8
      let s := put w (mapped bankBase 0x1000)
      s.runs 0 w && s.reaches 0 w true (.load p.2.2.1 p.2.2.2) ((s.seen 0 w).read s.free 3 + (0x7FF8 : BitVec 15).signExtend 32) ==
        some (bankBase + 0xFF8) && s.bankAnswers 0 (bankBase + 0xFF8) false) = true := by decide
theorem witness_NearAccessesReadAndWrite_store :
    ((nearStoreForms 0 2 3 0).all fun p =>
      let w := wLI p.2.1 2 3 0
      let s := put w (mapped bankBase 0xFF8)
      s.runs 0 w && s.memWf && s.reaches 0 w true (.store p.2.2) ((s.seen 0 w).read s.free 3 + (0 : BitVec 15).signExtend 32) ==
        some (bankBase + 0xFF8) && s.bankAnswers 0 (bankBase + 0xFF8) (p.2.2 == 3)) = true := by decide

/-- A thread of a steward runs. -/
def steward : State := { up with threads := [(0x1000, { regs := [(3, 0x8000010)] })] }

theorem steward_runs : steward.memWf = true ∧ steward.runs 0x1000 (wLI 0x1C 2 3 0) = true ∧
    steward.runs 0x1000 (wLI 0x20 2 3 0) = true := by decide
/-- No steward address with these low bits lies in the banks. -/
theorem steward_outside (b : BitVec 8) : inBanks (b ++ (0x8000010 : Word)).toNat = false := by
  revert b; decide
/-- An access of a steward outside the banks completes where no word has an error. -/
theorem stewardAt_done (s : State) (pa n : Nat) (store : Bool) (d : DWord) (h : s.uecc = []) :
    ∃ q v, s.stewardAt pa n store d = .done q v := by
  unfold State.stewardAt
  have e : s.bad pa = false := by simp [State.bad, h]
  simp only [e]
  repeat' split
  all_goals first | exact ⟨_, _, rfl⟩ | simp_all
theorem witness_NearAccessesReadAndWrite_steward :
    isSteward 0x1000 = true ∧ steward.memWf = true ∧
    (∀ p ∈ [(false, wLI 0x1C 2 3 0, SplitKind.load 2 false), (true, wLI 0x20 2 3 0, SplitKind.store 2)],
      steward.runs 0x1000 p.2.1 = true ∧
      ∃ pa q v, steward.reaches 0x1000 p.2.1 true p.2.2 ((steward.seen 0x1000 p.2.1).read steward.free 3 + (0 : BitVec 15).signExtend 32) = some pa ∧
        inBanks pa = false ∧ steward.takeFree.stewardAt pa 4 p.1 (storeData 2 2 (steward.seen 0x1000 p.2.1) steward.free) = .done q v) := by
  refine ⟨by decide, steward_runs.1, fun p hp => ?_⟩
  obtain ⟨q, v, h⟩ := stewardAt_done steward.takeFree (stewardPa steward.free 0x8000010) 4 p.1
    (storeData 2 2 (steward.seen 0x1000 p.2.1) steward.free) rfl
  rcases List.mem_cons.1 hp with rfl | hp
  · exact ⟨steward_runs.2.1, _, q, v, rfl, steward_outside _, h⟩
  · rcases List.mem_cons.1 hp with rfl | hp
    · exact ⟨steward_runs.2.2, _, q, v, rfl, steward_outside _, h⟩
    · cases hp
theorem witness_SplitAccessesAskAndComplete_ask :
    ((splitForms 0 2 3 4).all fun p =>
      let w := wL3 0x22 2 3 4 p.2.fn
      let s := put w (mapped 0x10000 0xFF8)
      s.runs 0 w && s.reaches 0 w false p.2.kind (p.2.access (s.seen 0 w) s.free).ea == some 0x10FF8 &&
        decide ((s.thread 0).splits.length < 8) && (homeOf (BitVec.ofNat 40 0x10FF8)).isSome) = true := by decide


theorem witness_SplitAccessesAskAndComplete_nowhere :
    ((splitForms 0 2 3 4).all fun p =>
      let w := wL3 0x22 2 3 4 p.2.fn
      let s := put w (mapped 0x500000000 0xFF8)
      s.runs 0 w && s.reaches 0 w false p.2.kind (p.2.access (s.seen 0 w) s.free).ea == some 0x500000FF8 &&
        decide ((s.thread 0).splits.length < 8) && (homeOf (BitVec.ofNat 40 0x500000FF8)).isNone) = true := by decide

/-- A response packet of transaction 0 with status `c`. -/
def response (c : Byte) : Packet :=
  { dr := 0, de := 0, vc := 2, type := 6, epoch := false, sr := 0, se := 4, pri := false, flits := [BitVec.setWidth 128 c <<< 16] }

theorem witness_SplitAccessesAskAndComplete_complete (c : Byte) (h : c = 0 ∨ c = 0x20) :
    let s : State := { hold { splits := [split0 false] } with spine := { up.spine with inq := [(bufKey 0 4 2, [response c])] } }
    Tid.wf 0 = true ∧ (s.thread 0).wait = .none ∧ (s.thread 0).splits.find? (fun e => e.txn == 0) = some (split0 false) ∧
    takeResponse 0 (s.spine.inq.getD (bufKey (threadHome 0).1 (4 + (threadHome 0).2.toNat) 2) []) = some (response c, []) ∧
    rspStatus (response c).head = c := by
  rcases h with rfl | rfl <;> decide

/-- Task 9 is the trap handler of context 5. -/
def handled : State :=
  { fabric with ctxs := [(5, { ctx5 with exth := 9 })], clusters := [(0, taskOn { state := BLOCKED })] }

theorem witness_TrapsAndBreaksStopTheirThread_trap :
    ([wL3 0x32 2 4 6 1, (0 : BitVec 1) ++ (0xF : BitVec 4) ++ (3 : BitVec 2) ++ (0 : BitVec 25)].all fun w =>
      let s := put w handled
      s.runs 0 w && !s.cancelPending 0 && (s.ctx (s.threadCtx 0)).exth == 9 && s.declared (s.threadCtx 0) 9 6 == some (0, 2)) = true ∧
    isSteward 0 = false := by decide
theorem witness_TrapsAndBreaksStopTheirThread_noHandler :
    let w := wL3 0x32 2 4 6 1
    let s := put w fabric
    s.runs 0 w = true ∧ s.cancelPending 0 = false ∧ (s.ctx (s.threadCtx 0)).exth = 0xFFFF := by decide


/-- A debugger is attached to context 5. -/
def debugged (s : State) : State := { s with aux := [(5, { clmap := [0], debugger := some 0 })] }

theorem witness_TrapsAndBreaksStopTheirThread_brk :
    let w := wL3 0x32 0 0 0 2
    let a := put w (debugged fabric)
    let k := put w (debugged (holdTask {}))
    let n := put w fabric
    isSteward 0 = false ∧ a.runs 0 w = true ∧ a.taskOf 0 = none ∧ (a.caux (a.threadCtx 0)).debugger.isSome = true ∧
    k.runs 0 w = true ∧ k.taskOf 0 = some 2 ∧ (k.seen 0 w).splits = [] ∧ (k.caux (k.threadCtx 0)).debugger.isSome = true ∧
    n.runs 0 w = true ∧ (n.caux (n.threadCtx 0)).debugger.isSome = false := by decide
theorem witness_TrapsAndBreaksStopTheirThread_reply (v : DWord) (h : v = 7 ∨ v = 1 <<< 63) :
    let s := hold { wait := .trap [], reply := some v }
    Tid.wf 0 = true ∧ (s.thread 0).wait = .trap [] ∧ (s.thread 0).reply = some v ∧ (s.thread 0).dbgReq = false ∧
    (s.thread 0).moveReq = false ∧ (v.getLsbD 63 = false ∨ v.getLsbD 63 = true) := by
  rcases h with rfl | rfl <;> decide

theorem test_trap_reply : (after (.trapReply 0) (hold { wait := .trap [], reply := some 7, cur := wL3 0x32 2 4 6 1 })).map
    (fun s => ((s.thread 0).regs.getD 2 0, (s.thread 0).pc)) = some (7, 4) := by decide

theorem witness_FaultsAreTakenAndRecorded_undefined :
    let s := put 0 fabric
    Tid.wf 0 = true ∧ s.ready 0 = true ∧ s.lineIn 0 = true ∧ s.elected 0 = true ∧ (s.thread 0).rep = none ∧ wordDefined 0 = false ∧
    s.fetched 0 0 = .word 0 ∧ fabric.ready 0 = true ∧ fabric.lineIn 0 = true ∧ fabric.elected 0 = true ∧ (fabric.thread 0).rep = none ∧
    fabric.fetch 0 = none := by decide
theorem witness_FaultsAreTakenAndRecorded_reserved :
    let w := wL3 0x32 1 0 0 0
    Tid.wf 0x1000 = true ∧ isSteward 0x1000 = true ∧ steward.ready 0x1000 = true ∧ steward.elected 0x1000 = true ∧ (steward.thread 0x1000).rep = none ∧
    wordDefined w = true ∧ wordReserved w = true := by decide
theorem witness_FaultsAreTakenAndRecorded_taken :
    let s := holdTask {}
    isSteward 0 = false ∧ (s.thread 0).outbox.words = [] ∧ (s.thread 0).work.isSome = true ∧ (s.thread 0).splits = [] ∧
    (s.ctx (s.threadCtx 0)).fof = false ∧ (s.cluster (tCluster 0)).faults.length < 64 ∧ s.taskOf 0 = some 2 := by decide
theorem test_fault_counts : (after (.undefinedEncoding 0 0 false) (put 0 fabric)).map
    (fun s => ((s.ctx 5).lastfault, (s.ctx 5).faultcnt)) = some (ILLEGAL_OP, 1) := by decide

/-- Thread 0 with `tag` in g4 and g5, 9 in g3. -/
def tagged (tag : DWord) : Thread := { regs := [(3, 9), (4, bits tag 0 32), (5, bits tag 32 32)] }

/-- The tag of node 4, instance 7. -/
def tag4 : DWord := mkTag 5 4 7 0 0 0

/-- The hypotheses of an injection hold for a send `p` of a thread with `th`. -/
def injects (p : SendForm) (th : Thread) : Bool :=
  let s := put p.w (hold th)
  s.runs 0 p.w && (p.token s (s.seen 0 p.w) s.free).any fun tok =>
    (p.ev || !isReel (tagNode tok.tag) && !s.hasParked 0) && (s.seen 0 p.w).storesDone &&
      decide (tok.flits ≤ (s.cluster (tCluster 0)).couchOut.avail)

theorem witness_SendsInjectWaitOrBreak_inject :
    (((sendForms 0 4 3 6 0)[0]?).any fun p => injects p.2 (tagged tag4)) = true ∧
    (((sendForms 0 4 4 6 0)[1]?).any fun p => injects p.2 (tagged tag4)) = true ∧
    (((sendForms 0 6 3 6 0)[2]?).any fun p => injects p.2 {}) = true ∧
    (((sendForms 0 0 3 0 8)[3]?).any fun p => injects p.2 (tagged tag4)) = true := by decide
theorem witness_SendsInjectWaitOrBreak_reel :
    let w := wLT 0x30 0 4 6 0 1
    let s := put w (hold (tagged (mkTag 5 0xFFFC0 7 0 0 0)))
    let th := s.seen 0 w
    s.runs 0 w = true ∧ s.outboxTag (s.threadCtx 0) (th.readPair s.free 4) = true ∧
    isReel (tagNode (th.readPair s.free 4)) = true ∧ th.storesDone = true := by decide
theorem witness_SendsInjectWaitOrBreak_broke :
    let w := wLT 0x30 0 4 6 0 1
    let e : Split := { txn := splitTxn 0 0, seq := 0, kind := .store 2, rd := 0, dirty := false, performed := false }
    let s := put w (hold (tagged (tag4 ||| 1)))
    let u := put w (hold { tagged (tag4 ||| 1) with splits := [e] })
    s.runs 0 w = true ∧ s.outboxTag (s.threadCtx 0) ((s.seen 0 w).readPair s.free 4) = false ∧ (s.seen 0 w).storesDone = true ∧
    u.runs 0 w = true ∧ u.outboxTag (u.threadCtx 0) ((u.seen 0 w).readPair u.free 4) = false ∧ (u.seen 0 w).storesDone = false := by
  decide
theorem test_sendx_counts : (runWord (wLT 0x30 0 4 6 0 1) (hold (tagged tag4))).map
    (fun s => ((s.ctx 5).inflight, (s.cluster 0).couchOut.avail)) = some (4, 15) := by decide

theorem witness_ChannelWordsWaitForTheirCredits :
    let base := { hold (tagged tag4) with clusters := [(0, taskOn { state := BLOCKED })] }
    let full := { hold { tagged tag4 with outbox := { words := List.replicate 8 0, task := 9, chan := 6 } } with
                  clusters := [(0, taskOn { state := BLOCKED })] }
    bits (6 : BitVec 7) 0 3 ≠ (7 : BitVec 3) ∧
    ([(3 : BitVec 3), 4, 5].all fun sub =>
      let w := wLT 0x30 0 3 6 6 sub
      let s := put w base
      let th := s.seen 0 w
      s.runs 0 w && !(th.read s.free 3).getLsbD 31 && !th.otherTarget (bits (th.read s.free 3) 0 16) 6 &&
        decide (th.outbox.words.length < 8) && s.declared (s.threadCtx 0) (bits (th.read s.free 3) 0 16) 6 == some (0, 2)) = true ∧
    (let w := wLT 0x30 0 3 6 6 5
     let s := put w full
     let th := s.seen 0 w
     s.runs 0 w = true ∧ th.otherTarget (bits (th.read s.free 3) 0 16) 6 = false ∧ 8 ≤ th.outbox.words.length) := by decide


/-- Thread 0 runs task 9 with `a` in g3, and channel 1 holds a visible word. -/
def receiving (a : Word) : State :=
  { holdTask { regs := [(3, a)] } with
    clusters := [(0, { taskOn { state := RUNNINGT, evflags := 0x100 } with chans := [(17, { words := [{ value := 0x0000000200000001, last := true, poison := false }], visible := 1 })] })] }

theorem witness_EventsAndChannelsAreReceived_clrev :
    let w := wLT 0x30 0 3 0 0 7
    let s (a : Word) := put w (receiving a)
    (s 0x100).runs 0 w = true ∧ (((s 0x100).seen 0 w).read (s 0x100).free 3).toNat < 2 ^ 30 ∧
    (s 0x40000000).runs 0 w = true ∧ 2 ^ 30 ≤ (((s 0x40000000).seen 0 w).read (s 0x40000000).free 3).toNat := by decide
theorem witness_EventsAndChannelsAreReceived_recv :
    ([(0 : BitVec 3), 1].all fun try_ =>
      let w := wLT 0x31 4 6 0 1 try_
      let s := put w (receiving 0)
      s.runs 0 w && s.taskOf 0 == some 2 && ((s.cluster (tCluster 0)).task 2).chmask.getLsbD 1 &&
        !((s.cluster (tCluster 0)).chan 2 1).words.isEmpty && decide (0 < ((s.cluster (tCluster 0)).chan 2 1).visible)) = true := by decide
theorem witness_EventsAndChannelsAreReceived_empty :
    ([(0 : BitVec 3), 1].all fun try_ =>
      let w := wLT 0x31 4 6 0 7 try_
      let s := put w (receiving 0)
      s.runs 0 w && s.taskOf 0 == some 2 && ((s.cluster (tCluster 0)).task 2).chmask.getLsbD 7 &&
        ((s.cluster (tCluster 0)).chan 2 7).visible == 0 && !s.cancelPending 0) = true := by decide
theorem witness_EventsAndChannelsAreReceived_waitev (all : Bool) (m : Word) (h : m = 0x102 ∨ m = 0x200) :
    let w := wLT 0x31 4 3 0 0 (if all then 3 else 2)
    let s := put w (receiving m)
    s.runs 0 w = true ∧ s.taskOf 0 = some 2 ∧ (s.seen 0 w).read s.free 3 = m ∧ m.toNat < 2 ^ 30 ∧
    (m = 0x102 → (s.cluster (tCluster 0)).flags 2 &&& m = m) ∧ (m = 0x200 → (s.cluster (tCluster 0)).flags 2 &&& m = 0) ∧
    s.cancelPending 0 = false := by
  cases all <;> rcases h with rfl | rfl <;> decide
theorem test_recv_pair : regAfter (wLT 0x31 4 6 0 1 0) (receiving 0) 5 = some 2 := by decide
theorem test_recv_status : regAfter (wLT 0x31 4 6 0 1 0) (receiving 0) 6 = some 11 := by decide

theorem witness_ThreadsAreGivenUp_yieldAndSleep :
    ([wLT 0x31 0 0 0 0 5, wLT 0x31 0 3 0 0 4, wLT 0x31 0 4 0 1 4].all fun w =>
      let s := put w (receiving 5)
      s.taskOf 0 == some 2 && !s.cancelPending 0 && (s.thread 0).splits.isEmpty && s.runs 0 w &&
        (s.seen 0 w).read s.free 3 == 5 && (s.cluster (tCluster 0)).slotOf (s.threadCtx 0) == some 0 &&
        decide (((s.cluster (tCluster 0)).dlRes.getD 0 {}).held.toNat < ((s.cluster (tCluster 0)).dlRes.getD 0 {}).limit.toNat)) = true := by
  decide
theorem witness_ThreadsAreGivenUp_horizon :
    let w := wLT 0x31 0 3 0 0 4
    let s := put w (receiving 16777217)
    s.taskOf 0 = some 2 ∧ s.cancelPending 0 = false ∧ (s.thread 0).splits = [] ∧ s.runs 0 w = true ∧
    ((s.seen 0 w).read s.free 3).toNat > 16777216 := by decide
theorem witness_ThreadsAreGivenUp_end :
    let w := wLT 0x31 0 0 0 0 6
    let s := put w (holdTask {})
    s.runs 0 w = true ∧ (s.thread 0).outbox.words = [] ∧ (s.thread 0).splits = [] ∧ (s.thread 0).err = none ∧
    s.taskOf 0 = some 2 ∧ (s.cluster (tCluster 0)).liveFlags 2 = 0 := by decide

/-! ## Clusters, the dispatcher, the spine -/

/-- A token for node 4. -/
def tok4 : Token := { tag := tag4, value := 11, tick := none }

/-- Context 5 with cluster 0 as given and no thread. -/
def withCl (cl : Cluster) : State :=
  { up with ctxs := [(5, ctx5)], aux := [(5, { clmap := [0] })], clusters := [(0, cl)] }

theorem witness_TheSendParkTakesAndReturnsTokens_parks :
    let s := hold { wait := .inject tok4 false 0 }
    Tid.wf 0 = true ∧ (s.thread 0).wait = .inject tok4 false 0 ∧ tok4.neverParks = false ∧
    (s.cluster (tCluster 0)).park.length < parkPlaces ∧ (s.thread 0).dbgReq = false ∧ (s.thread 0).moveReq = false := by decide
theorem witness_TheSendParkTakesAndReturnsTokens_returns :
    let s := { hold {} with clusters := [(0, { cl0 with park := [{ token := tok4, thread := 0 }] })] }
    (s.cluster 0).park = [{ token := tok4, thread := 0 }] ∧ tok4.flits ≤ (s.cluster 0).couchOut.avail ∧
    (∀ e ∈ s.threads, (∀ a b n, e.2.wait ≠ .inject a b n) ∧ ∀ a, e.2.wait ≠ .park a) ∧ s.uecc = [] :=
  ⟨by decide, by decide, by simp [hold], rfl⟩
/-- A fold that one element leaves where it has brought it. -/
theorem fold_same {A B : Type} (f : Option B → A → Option B) (k : A) (b : B) (n : Nat) (h0 : f none k = some b)
    (h1 : f (some b) k = some b) : (List.replicate (n + 1) k).foldl f none = some b := by
  rw [List.replicate_succ, List.foldl_cons, h0]
  induction n with
  | zero => rfl
  | succ n ih => rw [List.replicate_succ, List.foldl_cons, h1, ih]
/-- A park that holds copies of one token. -/
theorem mostParked_replicate (k : Parked) (n : Nat) : mostParked (List.replicate (n + 1) k) = some (tagCtx k.token.tag) := by
  unfold mostParked
  rw [fold_same _ k (tagCtx k.token.tag, n + 1) n] <;> simp [List.countP_replicate]
theorem witness_TheSendParkTakesAndReturnsTokens_full :
    let s := withCl { cl0 with park := List.replicate 65536 { token := tok4, thread := 0 }, parkFullSince := some 0 }
    (s.cluster 0).parkFullSince = some 0 ∧ parkPlaces ≤ (s.cluster 0).park.length ∧ mostParked (s.cluster 0).park = some 5 ∧
    s.fwRuns = true ∧ ({ s with fw := { s.fw with paused := 1 } } : State).fwRuns = false :=
  ⟨rfl, Nat.le_of_eq (List.length_replicate).symm, mostParked_replicate _ 65535, rfl, rfl⟩


/-- Thread 0 waits to send a word to task 9, blocked in cluster 0. -/
def sending : State :=
  { hold { wait := .chan 9 6 1 true } with clusters := [(0, taskOn { state := BLOCKED })] }

theorem witness_ChannelWordsMove_credit :
    Tid.wf 0 = true ∧ (sending.thread 0).wait = .chan 9 6 1 true ∧
    sending.declared (sending.threadCtx 0) 9 6 = some (0, 2) ∧ sending.epShut 0 = false ∧
    ((sending.cluster 0).chan 2 6).openTo ((sending.thread 0).outbox.grant && !(sending.thread 0).outbox.words.isEmpty) = true ∧
    1 ≤ ((sending.cluster 0).chan 2 6).free ∧ 1 ≤ (sending.cluster (tCluster 0)).couchOut.avail ∧
    (sending.thread 0).dbgReq = false ∧ (sending.thread 0).moveReq = false := by decide
theorem witness_ChannelWordsMove_grant :
    let s := withCl { taskOn { state := BLOCKED } with chans := [(17, { queue := [.thread 0, .fault 0 0] })] }
    ((s.cluster 0).chan 2 1).holder = none ∧ ((s.cluster 0).chan 2 1).queue = [.thread 0, .fault 0 0] := by decide

/-- A word for channel 1 of task 9. -/
def chanTok : Token := { tag := chanTag 5 9 1 true 0, value := 3, tick := none }

theorem witness_ChannelWordsMove_arrival :
    let s := withCl { taskOn { state := BLOCKED } with chanIn := [(chanTok, 0)] }
    (s.cluster 0).chanIn = [(chanTok, 0)] ∧ (s.cluster 0).forward 5 = none ∧ s.shut 0 (tagCtx chanTok.tag) = false ∧
    (s.cluster 0).findTask (tagCtx chanTok.tag) (bits (tagNode chanTok.tag) 0 16) = some 2 := by decide
theorem test_word_wakes : (after (.channelWordArrival 0 .clean)
    (withCl { taskOn { state := BLOCKED, wait := 1, wch := 1 } with chanIn := [(chanTok, 0)] })).map
    (fun s => (((s.cluster 0).task 2).state, ((s.cluster 0).chan 2 1).words.length)) = some (READY, 1) := by decide

/-- A packet of one or two flits for cluster 0. -/
def packetOf (ty : BitVec 4) (fs : List (BitVec 128)) : Packet :=
  { dr := 0, de := 0, vc := 0, type := ty, epoch := false, sr := 0, se := 8, pri := false, flits := fs }

/-- `p` waits at the inbound couch of cluster 0. -/
def inbound (cl : Cluster) (p : Packet) : State :=
  { withCl cl with spine := { up.spine with inq := [(bufKey 0 4 0, [p])] } }

/-- Cluster 0 holds position 0 of context 5. -/
def cl1 : Cluster := { cl0 with position := [(0, 0)] }

theorem witness_ClustersTakeTokensAndEvents_ingress :
    let s := inbound cl1 (packetOf 0 (tokenFlits tok4))
    s.inbox 0 0 = [packetOf 0 (tokenFlits tok4)] ∧ (packetOf 0 (tokenFlits tok4)).type ≠ 2 ∧ packetToken (packetOf 0 (tokenFlits tok4)) = tok4 ∧
    (s.cluster 0).forward 5 = none ∧ s.shut 0 5 = false ∧ tagKind tag4 = 0 ∧ s.ingressNode 0 tag4 = true ∧
    (∀ q, s.requiredOf 5 (tagNode tag4) ≠ some [q]) := by decide
theorem witness_ClustersTakeTokensAndEvents_unplaced :
    let k : Token := { tok4 with tag := mkTag 5 4 7 2 0 0 }
    let s := inbound cl1 (packetOf 0 (tokenFlits k))
    s.inbox 0 0 = [packetOf 0 (tokenFlits k)] ∧ s.shut 0 5 = false ∧ s.ingressNode 0 k.tag = false := by decide
theorem witness_ClustersTakeTokensAndEvents_channel :
    let s := inbound (taskOn { state := BLOCKED }) (packetOf 0 (tokenFlits chanTok))
    s.inbox 0 0 = [packetOf 0 (tokenFlits chanTok)] ∧ (s.cluster 0).forward 5 = none ∧ s.shut 0 5 = false ∧
    tagKind (packetToken (packetOf 0 (tokenFlits chanTok))).tag = 3 ∧ (s.cluster 0).findTask 5 9 = some 2 ∧
    ((s.cluster 0).task 2).chmask.getLsbD 1 = true := by decide
theorem witness_ClustersTakeTokensAndEvents_event (f : BitVec 5) (h : f = 8 ∨ f = 29) :
    let p := packetOf 2 [BitVec.setWidth 128 (eventPayload 5 9 f)]
    let s := inbound (taskOn { state := RUNNINGT }) p
    s.inbox 0 0 = [p] ∧ p.type = 2 ∧ p.ctx = 5 ∧ (s.cluster 0).forward p.ctx = none ∧ s.shut 0 p.ctx = false ∧
    (s.cluster 0).findTask p.ctx (bits p.head 13 16) = some 2 ∧ bits p.head 29 5 = f ∧ 8 ≤ f.toNat ∧ f.toNat < 30 ∧
    ((s.cluster 0).task 2).state ≠ DORMANT ∧ ((s.cluster 0).task 2).state ≠ BLOCKED := by
  rcases h with rfl | rfl <;> decide


theorem witness_CreditsComeBack :
    let s := { inbound { cl0 with couchIn := ⟨15, 1⟩ } (packetOf 0 []) with hub := { up.hub with linkA := ⟨15, 1⟩, linkB := ⟨15, 1⟩ }, eth := { credits := ⟨15, 1⟩ } }
    0 < s.hub.linkA.owed ∧ s.hub.linkA.avail < 16 ∧ 0 < s.hub.linkB.owed ∧ s.hub.linkB.avail < 16 ∧
    0 < (s.cluster 0).couchIn.owed ∧ (s.cluster 0).couchIn.avail < 16 ∧ 0 < s.eth.credits.owed ∧ s.eth.credits.avail < 16 := by decide


/-- A sleep entry of task 9 that is due. -/
def sleepE : DlEntry := { tick := 0, item := .inr 2, ctx := 5, elig := 0 }

theorem witness_DelayListReleasesASleeper :
    let s := withCl { taskOn { state := DELAYED } with dl := [sleepE], dlRes := [(0, { ctx := 5, valid := true, limit := 8, held := 1 })] }
    (∀ q ∈ (s.cluster 0).dl, s.dlDue q = true → q.elig ≤ s.fc 0) ∧ (s.cluster 0).releaseRoom = true ∧
    s.dlNext 0 = some (0, sleepE) ∧ ((s.cluster 0).task 2).state = DELAYED ∧ (s.releaseEntry 0 0 sleepE).dlNext 0 = none ∧
    (s.cluster 0).slotOf sleepE.ctx = some 0 := by decide

/-- The other operand of node 4, instance 7, on port 1. -/
def ent1 : MEntry :=
  { value := 5, inst := 7, node := 4, ctx := 5, port := 1, poison := false, rslot := 0 }

theorem witness_OperandsMeetInTheStore_match :
    let s := withCl { cl0 with ingress := [tok4], sets := [(setOf tok4.key, { ways := [(0, ent1)] })] }
    let cl := s.cluster 0
    cl.output = none ∧ cl.pendBuf = [] ∧ cl.searching = [] ∧ cl.writeBuf < 16 ∧ cl.refused = [] ∧ cl.rotation = 0 ∧ cl.ingress = [tok4] ∧
    (cl.set (setOf tok4.key)).bad = [] ∧ cl.forward 5 = none ∧ s.shut 0 5 = false ∧ cl.slotOf 5 = some 0 ∧ s.requiredOf 5 4 = some [0, 1] ∧
    choosePorts [0, 1] ((cl.set (setOf tok4.key)).matching tok4.key ++ cl.waiting tok4.key 0 ++ [tok4.entry 0 s.free]) = some [tok4.entry 0 s.free, ent1] ∧
    0 < cl.readyCr.avail := by decide
theorem witness_OperandsMeetInTheStore_store :
    let s := withCl { cl0 with ingress := [tok4] }
    let cl := s.cluster 0
    choosePorts [0, 1] ((cl.set (setOf tok4.key)).matching tok4.key ++ cl.waiting tok4.key 0 ++ [tok4.entry 0 s.free]) = none ∧
    (cl.set (setOf tok4.key)).spc = 0 ∧ (cl.set (setOf tok4.key)).ways.length < 8 ∧
    (cl.msRes.getD 0 {}).held.toNat < (cl.msRes.getD 0 {}).limit.toNat := by decide
theorem test_match_forms : (after (.matchingLookup 0 .clean 0)
    (withCl { cl0 with ingress := [tok4], sets := [(setOf tok4.key, { ways := [(0, ent1)] })] })).map
    (fun s => (s.cluster 0).ready.map fun i => match i.work with | .activation a => a.ops | _ => []) =
    some [[(0, 11), (1, 5)]] := by decide
theorem test_match_forms_from_the_write_buffer : (after (.matchingLookup 0 .clean 0)
    (withCl { cl0 with ingress := [tok4], ledger := [.give 5, .take { tok4 with tag := tok4.tag + 8192 } 3] })).map
    (fun s => ((s.cluster 0).ready.map fun i => match i.work with | .activation a => a.ops | _ => [], (s.cluster 0).ledger)) =
    some ([[(0, 11), (1, 11)]], [.give 5]) := by decide
theorem test_no_match_stores : (after (.matchingLookup 0 .clean 0) (withCl { cl0 with ingress := [tok4] })).map
    (fun s => ((s.cluster 0).ready.length, ((s.cluster 0).msRes.getD 0 {}).held)) = some (0, 1) := by decide
/-- A search for the operand `tok4` is out, its partner in the spill region. -/
def searched (cl : Cluster) : State :=
  withCl { cl with searching := [⟨BitVec.ofNat 11 (setOf tok4.key), .token tok4⟩], spill := [(probeSlot (homeBucket tok4.key) 0, .full ent1 false)] }

theorem witness_OperandsMeetInTheStore_search :
    let p : Pending := ⟨BitVec.ofNat 11 (setOf tok4.key), .token tok4⟩
    let q := searched { cl0 with spillRet := [.search 9] }
    let s := searched { cl0 with rotation := 2 }
    let cl := s.cluster 0
    (q.cluster 0).searching[(0 : BitVec 2).toNat]? = some p ∧ q.uecc = [] ∧ (q.cluster 0).spillRet ≠ [] ∧
    (q.cluster 0).spillRet.contains (.search p.set) = false ∧
    cl.searching = [p] ∧ p.set.toNat = setOf p.arr.key ∧ s.uecc = [] ∧ cl.spillRet = [] ∧ cl.pendBuf = [] ∧ cl.refused = [] ∧ cl.writeBuf < 16 ∧
    cl.rotation = 2 ∧ cl.output = none ∧ 0 < cl.readyCr.avail ∧ (cl.set p.set.toNat).bad = [] ∧ cl.forward 5 = none ∧ s.shut 0 5 = false ∧
    cl.slotOf 5 = some 0 ∧ p.arr.ctx = 5 ∧ s.requiredOf 5 p.arr.node = some [0, 1] ∧
    choosePorts [0, 1] ((cl.set (setOf p.arr.key)).matching p.arr.key ++ cl.waiting p.arr.key 0 ++ (cl.spillFind p.arr.key).map (·.2.1) ++ [p.arr.entry 0 s.free]) =
      some [p.arr.entry 0 s.free, ent1] := by decide
theorem witness_OperandsMeetInTheStore_ledger :
    let s := { withCl { cl0 with ledger := [.take tok4 3] } with ctxs := [(5, { ctx5 with spillres := 1 })] }
    let cl := s.cluster 0
    cl.ledger = [.take tok4 3] ∧ cl.refused = [] ∧ cl.forward 5 = none ∧ s.shut 0 5 = false ∧ cl.slotOf 5 = some 0 ∧
    (s.hub.spledger.getD 5 0).toNat < (s.ctx 5).spillres.toNat ∧
    (least 64 fun j => (cl.spillAt (probeSlot (homeBucket tok4.key) j)).free) = some 0 ∧
    (∀ j, j < 64 → s.bad (slotAddr 0 (probeSlot (homeBucket tok4.key) j)) = false ∧
      s.bad (slotAddr 0 (probeSlot (homeBucket tok4.key) j) + 8) = false) ∧
    ((withCl { cl0 with ledger := [.give 5] }).cluster 0).ledger = [.give 5] := by decide
theorem witness_OperandsMeetInTheStore_tombstone :
    let s := withCl { cl0 with spill := [(probeSlot 262143 3, .tomb), (probeSlot 262143 2, .full ent1 false)] }
    (s.cluster 0).spillAt (probeSlot 262143 3) = .tomb ∧ (s.cluster 0).tombNeeded 262143 3 = false ∧
    (s.cluster 0).spillAt (probeSlot 262143 2) ≠ .tomb := by decide
theorem witness_OperandsMeetInTheStore_delayKey :
    (0 : BitVec 12).toNat < ((withCl { cl0 with dl := [sleepE] }).cluster 0).dl.length := by decide

/-- The activation as a ready item. -/
def item0 : Item := { work := .activation act, age := 0, since := 0 }
/-- The activation with one operand in a startable slot of PE 0, and its threads free. -/
def slotted (poison startable : Bool) : State :=
  let a := { act with ops := [(1, 0x900000005)], poison := poison }
  withCl { cl0 with pes := [(0, { slot := some { item := { item0 with work := .activation a }, due := 0, startable := startable } })] }

theorem witness_TheDispatcherStartsAndEvicts_place :
    let s := withCl { cl0 with ready := [item0] }
    (s.cluster 0).holds = [] ∧ s.pick 0 = some item0 ∧ (s.cluster 0).prefer item0.work = none ∧
    (s.cluster 0).emptySlot (s.dispNext 0) = some 0 := by decide
theorem witness_TheDispatcherStartsAndEvicts_hold :
    let s := withCl { cl0 with holds := [{ item := item0, pe := 7, until_ := 64 }] }
    let b := s.passFc (clusterSection 0) 64
    (s.cluster 0).holds[(0 : BitVec 2).toNat]? = some { item := item0, pe := 7, until_ := 64 } ∧
    b.passOver 0 item0.work = false ∧ (b.cluster 0).emptySlot (max (b.dispNext 0) 64) = some 0 := by decide
theorem witness_TheDispatcherStartsAndEvicts_preload :
    (((slotted false false).cluster 0).pe 0).slot.any (fun k => match k.item.work with | .activation _ => true | .task _ => false) = true := by
  decide
theorem witness_TheDispatcherStartsAndEvicts_take (poison : Bool) :
    let s := slotted poison true
    (((s.cluster 0).pe 0).slot.any fun k => k.startable && k.item.work == .activation { act with ops := [(1, 0x900000005)], poison := poison }) = true ∧
    s.freeThreadOf 0 0 = some 0 ∧ (s.ctx 5).state ≠ FENCED ∧ s.stalled 0 5 < 8 := by
  cases poison <;> decide
theorem test_start_registers : (after (.slotTake 0 0) (slotted false true)).map
    (fun s => ((s.thread 0).reg 1, (s.thread 0).reg 4, (s.thread 0).reg 5)) = some (7, 5, 9) := by decide
theorem witness_TheDispatcherStartsAndEvicts_evict :
    let s := { slotted false true with threads := [(7, { work := some (.task 2), wait := .recv 1 })] }
    (((s.cluster 0).pe 0).slot.any (·.startable)) = true ∧ (∀ j : BitVec 3, (s.thread (mkTid 0 0 j)).evicting = false) ∧
    s.evictable (mkTid 0 0 7) = some 0 ∧ (∀ j : BitVec 3, j ≠ 7 → s.evictable (mkTid 0 0 j) = none) ∧
    (s.thread (mkTid 0 0 7)).splits = [] := by decide
theorem witness_TheDispatcherStartsAndEvicts_save :
    let s := holdTask { wait := .saving 40, after := .evicted }
    Tid.wf 0 = true ∧ isSteward 0 = false ∧ (s.thread 0).wait = .saving 40 ∧ s.taskOf 0 = some 2 ∧
    (s.thread 0).after ≠ .ended ∧ (s.thread 0).lands = [] := by decide

theorem witness_CodeIsFetchedAndRepaired :
    let s := { hold { wait := .icache, pc := 64 } with clusters := [(0, { cl0 with code := [(4, { word := 0, ctx := 5, image := 1, ue := true })] })] }
    Tid.wf 0 = true ∧ (s.thread 0).wait = .icache ∧
    (∀ x, (s.cluster (tCluster 0)).code.find ((s.thread 0).pc.toNat / 4) = some x → x.ue = false) ∧ s.fwRuns = true ∧
    ((s.cluster 0).code.find ((16 : BitVec 18).toNat / 4)).isSome = true := by
  refine ⟨by decide, by decide, fun x h => ?_, by decide, by decide⟩
  have : (none : Option CodeWord) = some x := h
  cases this

theorem witness_CodeIsFetchedAndRepaired_parity : Tid.wf 0 = true ∧ fabric.lineParity 0 = true := by decide
theorem test_parity_refetches : (after (.instructionCacheFill 0 .clean true) fabric).map (fun s => (s.thread 0).wait) = some .icache ∧
    ((after (.instructionCacheFill 0 .clean true) fabric).bind (after (.instructionCacheFill 0 .clean))).map (fun s => (s.thread 0).wait) =
      some .none := by decide

/-- `p` waits at input `port` of router 5. -/
def atRouter (port : Nat) (p : Packet) : State :=
  { up with spine := { up.spine with bufs := [(bufKey 5 port p.vc, [p])] } }
/-- A one-flit packet for endpoint `de` of router `dr`. -/
def oneFlit (dr de : BitVec 4) (vc : BitVec 2) : Packet :=
  { dr := dr, de := de, vc := vc, type := 3, epoch := false, sr := 5, se := 4, pri := false, flits := [0] }

theorem witness_PacketsHopBeDeliveredOrTurnBack_hop :
    let p := oneFlit 6 4 1
    let s := atRouter 8 p
    s.buf 5 8 1 = [p] ∧ p.vc = 1 ∧ p.flits.length = 1 ∧ p.type.toNat < 14 ∧ s.spine.sent.getD (bufKey 5 8 1) 0 = 0 ∧
    s.spine.short.getD (bufKey 5 8 1) 0 = 0 ∧ s.spine.route.find (bufKey 5 8 1) = none ∧
    (s.router 5).route 5 { p with epoch := s.spine.cur } = .dir 1 ∧ neighbour 5 1 = some 6 ∧
    ((s.router 5).link 1).dead = false ∧ s.goes 5 8 1 (.out 1) = true ∧ s.clockRuns .spine = true ∧
    s.spine.waits.getD (bufKey 5 8 1) [] = [] := by decide
theorem witness_PacketsHopBeDeliveredOrTurnBack_local :
    let p := oneFlit 5 0 2
    let s := atRouter 3 p
    let o : State := { s with spine := { s.spine with routers := Map.set s.spine.routers 5 { Router.reset 5 with ep := [2, 2, 2, 2] } } }
    meshPort 5 3 = true ∧ s.buf 5 3 2 = [p] ∧ p.vc = 2 ∧ p.flits.length = 1 ∧ p.type.toNat < 14 ∧ s.spine.sent.getD (bufKey 5 3 2) 0 = 0 ∧
    s.spine.short.getD (bufKey 5 3 2) 0 = 0 ∧ s.spine.route.find (bufKey 5 3 2) = none ∧ (s.router 5).route 5 p = .local_ ∧
    s.closed 5 p = none ∧ s.goes 5 3 2 (.out 4) = true ∧ s.clockRuns .spine = true ∧ s.spine.waits.getD (bufKey 5 3 2) [] = [] ∧ o.buf 5 3 2 = [p] ∧ (o.router 5).route 5 p = .local_ ∧
    (o.closed 5 p).isSome = true := by decide
theorem witness_PacketsHopBeDeliveredOrTurnBack_unroutable :
    let p := oneFlit 5 15 0
    let s := atRouter 12 p
    s.buf 5 12 0 = [p] ∧ p.flits.length = 1 ∧ (0 : BitVec 2) ≠ 1 ∧ s.clockRuns .spine = true ∧ s.spine.waits.getD (bufKey 5 12 0) [] = [] ∧ (s.router 5).route 5 { p with epoch := s.spine.cur } = .unroutable := by decide
theorem test_hop_moves : (after (.spinePacketHop 5 8 1 .none .kept) (atRouter 8 (oneFlit 6 4 1))).map
    (fun s => ((s.buf 6 3 1).length, (s.buf 5 8 1).length)) = some (1, 0) := by decide

/-- Router 5 with its link 1 failed since cycle 0 and not routed around. -/
def linkDown (failed : Bool) : State :=
  { up with scnt := scMs 1, spine := { up.spine with routers := Map.set up.spine.routers 5 { Router.reset 5 with links := [(1, { fails := 3, failed := failed })] } } }

theorem witness_LinksEpochsAndEndpointsChange_links :
    meshPort 5 1 = true ∧ (linkDown true).clockRuns .spine = true ∧ (linkDown false).clockRuns .spine = true ∧ (((linkDown false).router 5).link 1).failed = false ∧
    (((linkDown true).router 5).link 1).failed = true := by decide
theorem witness_LinksEpochsAndEndpointsChange_epoch :
    let p : Packet := { oneFlit 6 4 1 with epoch := true }
    let s : State := { up with spine := { up.spine with bufs := [(bufKey 6 3 1, [p])] } }
    up.stale = false ∧ up.spine.regWait = [] ∧ s.stale = true ∧ { s.spine with regWait := [.flip] }.regWait ≠ [] := by decide
theorem witness_LinksEpochsAndEndpointsChange_endpoints :
    let s := { fabric with threads := [(0, { work := some (.activation act), splits := [split0 false] })]
                           spine := { up.spine with routers := Map.set up.spine.routers 0 { Router.reset 0 with ep := [0, 0, 0, 0], busy := true, epWait := [2] } } }
    (up.router 5).epWait = [] ∧ (∀ e, e < 4 → epField 0xAA e = 2 → up.clusterDrained ((5 : BitVec 4) ++ BitVec.ofNat 2 e) = true) ∧
    (s.router 0).epWait ≠ [] ∧ epField ((s.router 0).epWait.headD 0) 0 = 2 ∧ s.clusterDrained ((0 : BitVec 4) ++ BitVec.ofNat 2 0) = false := by
  decide
theorem witness_LinksEpochsAndEndpointsChange_trace :
    let s (n : Nat) := { up with mon := { up.mon with traceOn := true, traceSince := n }, spine := { up.spine with trace := [1] } }
    up.clk.porstLow = false ∧ (s 255).clockRuns .trace = true ∧ (s 256).clockRuns .trace = true ∧ (s 255).mon.traceSince < 256 ∧ (s 255).spine.trace = [1] ∧
    256 ≤ (s 256).mon.traceSince := by decide
theorem witness_LinksEpochsAndEndpointsChange_reroute :
    let s := linkDown true
    let l := (s.router 5).link 1
    let b := ((s.passTo (l.failedSince + scMs 1)).dropWaiting 5 1).updLink 5 1 fun k => { k with dead := true }
    let a := (s.passTo (l.failedSince + scMs 1)).dropWaiting 5 1
    a.fwRuns = true ∧ tablesOk (fun q => avoidBank b.deadLink q) = true := by decide +kernel

/-! ## Memory, the keeper, rings -/

/-- A request packet of the host hub (master 1) or a DMA (master 3) at `pa` of 2 ^ `size` bytes. -/
def request (ty : BitVec 4) (pa : Nat) (size master : Nat) (more : List (BitVec 128)) : Packet :=
  { dr := 0, de := 4, vc := 1, type := ty, epoch := false, sr := 4, se := 4, pri := false
    flits := BitVec.ofNat 128 (pa + size * 2 ^ 40 + master * 2 ^ 77 + 0xFFFF * 2 ^ 86) :: more }

/-- The request waits at endpoint `e` of router `r`. -/
def atHome (r e : BitVec 4) (p : Packet) : State :=
  { up with spine := { up.spine with inq := [(bufKey r (4 + e.toNat) 1, [p])] }, mem := [(0, 5), (8, 7)], banks := [(0, { kind := 2, ctx := 0 })] }

theorem witness_MemoryHomesAnswerRequests_hbm :
    let s (ty : BitVec 4) := atHome 0 4 (request ty 0 3 1 [5])
    (pcHome 0) = (0, 4) ∧ (s 3).clockRuns .memc = true ∧ ([3, 4, 5].all fun ty => (s ty).inq 0 4 1 == [request ty 0 3 1 [5]] && reqMaster (request ty 0 3 1 [5]).head == 1) = true ∧
    (s 3).badRange 0 8 = false ∧ (s 4).badPart 0 8 = false ∧ (s 4).memWf = true ∧ reqBytes (request 4 0 3 1 [5]).head = 8 := by decide
theorem witness_MemoryHomesAnswerRequests_bank :
    let p := request 3 bankBase 3 1 []
    let s := atHome 0 0 p
    s.portBNext 0 = some (p, []) ∧ p.type = 3 ∧
    (s.bank 0).fwdValid = false ∧ (s.bank 0).allows p.head = true ∧ reqMaster p.head ≠ 0 ∧ reqMaster p.head ≠ 2 ∧
    s.badRange (reqPa p.head).toNat (reqBytes p.head) = false := by decide
theorem test_hbm_cas : (after (.hbmAccess 0 .clean) (atHome 0 4 (request 5 0 3 1 [BitVec.ofNat 128 (5 + 9 * 2 ^ 64)]))).map (·.mem) =
    some [(0, 9), (8, 7)] := by decide
theorem test_hbm_cas_differs : (after (.hbmAccess 0 .clean) (atHome 0 4 (request 5 8 3 1 [BitVec.ofNat 128 (5 + 9 * 2 ^ 64)]))).map (·.mem) =
    some [(0, 5), (8, 7)] := by decide

/-- A CAS of the firmware (master 3) at lock word 0. -/
def lockCas (old new : DWord) : Packet := { request 5 lockBase 3 2 [new ++ old] with dr := 4, de := 7 }
/-- Lock word 0 holds `v` by `h`. -/
def lockState (v : DWord) (h : Map Holder) (p : Packet) : State :=
  { atHome 4 7 p with locks := { words := [(0, v)], holders := h, groups := [(0, { f0 := 1 })], relQ := [0] } }

theorem witness_LocksAreTakenAndReleased_take :
    let p := lockCas 7 (1 <<< 63)
    let s := lockState 7 [] p
    s.inq 4 7 1 = [p] ∧ p.type = 5 ∧ (s.lockMaster (lockOf (reqPa p.head).toNat) p).2 = true ∧ bits p.flit1 0 64 = s.lockWord 0 ∧
    (s.lockWord 0).getLsbD 63 = false ∧ (bits p.flit1 64 64 : DWord).getLsbD 63 = true := by decide
theorem witness_LocksAreTakenAndReleased_free :
    let p := lockCas (1 <<< 63) 0
    let s := lockState (1 <<< 63) [(0, { kind := 3, valid := true })] p
    bits p.flit1 0 64 = s.lockWord 0 ∧ (s.lockWord 0).getLsbD 63 = true ∧ (bits p.flit1 64 64 : DWord).getLsbD 63 = false ∧
    (s.locks.holders.getD 0 {}).matches_ (s.lockMaster 0 p).1 = true := by decide
theorem witness_LocksAreTakenAndReleased_lost :
    let p : Packet := { request 3 lockBase 3 2 [] with dr := 4, de := 7 }
    let s := lockState 7 [] p
    s.inq 4 7 1 = [p] ∧ p.type = 3 ∧ (reqPa p.head).toNat % 8 = 0 ∧ reqBytes p.head = 8 ∧
    (s.lockMaster (lockOf (reqPa p.head).toNat) p).2 = true := by decide
theorem witness_LocksAreTakenAndReleased_release :
    let s := lockState (1 <<< 63) [(0, { kind := 3, valid := true, reset := true })] (lockCas 0 0)
    s.locks.relQ = [0] ∧ (s.locks.holders.getD 0 {}).reset = true := by decide
theorem test_lock_release_marks : (after .lockRelease
    (lockState ((1 <<< 63) ||| 9) [(0, { kind := 3, valid := true, reset := true })] (lockCas 0 0))).map (·.lockWord 0) =
    some ((1 <<< 62) ||| 9) := by decide

theorem witness_BanksAndWindowsChange :
    let e : Split := { split0 false with held := some (63, packetOf 0 []) }
    let s := hold { splits := [e] }
    let q := mapped bankBase 0
    s.missed 0 5 63 = true ∧ (∀ e ∈ s.threads, e.2.wait.isWindow 63 = false) ∧ (q.winEntry 0 5 0).isSome = true ∧
    (∀ e ∈ q.threads, e.2.wait.isWindow 0 = false) ∧ fabric.missed 0 5 63 = false ∧
    bits (3 : Word) 0 2 = (3 : BitVec 2) ∧ bits (6 : Word) 0 2 ≠ (3 : BitVec 2) := by decide
theorem witness_BanksAndWindowsChange_fill :
    let s := { fabric with banks := [(255, { kind := 2, ctx := 5, clring := true })] }
    (s.bank 255).clring = true ∧ (∀ e ∈ s.threads, ∀ a pa, e.2.wait ≠ .bank a pa) :=
  ⟨by decide, by simp [fabric, hold]⟩
theorem witness_MemoryIsTestedScrubbedAndRepaired :
    (SramWin.bank 0 1023).wf = true ∧ up.fw.sramRate ≠ 0 ∧ up.fw.hbmRate ≠ 0 ∧ up.mayBorrow (.bank 0 1023) = true ∧ up.fwRuns = true ∧
    (SramWin.steward 0).wf = true ∧ up.mayBorrow (.steward 0) = true ∧ (SramWin.keeper 0).wf = true ∧ up.mayBorrow (.keeper 0) = true ∧
    up.clockRuns .bte = true ∧ up.clockRuns .memc = true ∧ State.reset.clockRuns .bte = false ∧ State.reset.clockRuns .memc = false ∧
    (∀ w ∈ up.uecc, w / 128 ≠ (7 : BitVec 24).toNat) ∧ { up.fw with sramRate := 0 }.sramRate = 0 := by decide
theorem witness_MemoryIsTestedScrubbedAndRepaired_rows :
    let g : Ring := { kind := 1, lsize := 4 }
    let s := { up with hub := { up.hub with rings := [(63, g)] }, eth := { rules := [(4095, { raw := 0, owner := 5 })] } }
    s.ring 0 63 = some g ∧ s.fwRuns = true ∧ (s.eth.rules.find (4095 : BitVec 12).toNat).isSome = true := by decide
theorem witness_MemoryIsTestedScrubbedAndRepaired_temperature :
    ((max (999 &&& 0xFFF8 : BitVec 16).toInt 0 : Int) < 1000) ∧ (1000 ≤ (max (1007 &&& 0xFFF8 : BitVec 16).toInt 0 : Int)) ∧
    ((max (1087 &&& 0xFFF8 : BitVec 16).toInt 0 : Int) = 1080) ∧ (max (1079 &&& 0xFFF8 : BitVec 16).toInt 0 : Int) < 1080 ∧
    up.keeper.running = true ∧ up.keeper.keeper = false ∧ up.clk.dead = false := by decide
theorem witness_MemoryIsTestedScrubbedAndRepaired_lost :
    let s := { fabric with hub := { fabric.hub with broke := [{ token := tok4, cause := RESERVED_FIELD, ctx := 5, counted := true, poison := false }] } }
    isSteward 0 = false ∧ (s.thread 0).work.isSome = true ∧ (15 : GReg) ≠ 0 ∧ s.hub.broke ≠ [] := by decide
theorem test_refresh_hysteresis : (after (.stackTemperatureRead 680 0) { up with fw := { up.fw with hbmRefresh := 2 } }).map
    (·.fw.hbmRefresh) = some 2 ∧ (after (.stackTemperatureRead 656 0) { up with fw := { up.fw with hbmRefresh := 2 } }).map
    (·.fw.hbmRefresh) = some 1 := by decide

/-- The part after a steward restart at cycle 0. -/
def restarted : State := { up with fw := { up.fw with lastRestart := some 0 } }
/-- The stewards paused as `p` says. -/
def paused (p : BitVec 2) : State := { up with scnt := scMs 250, fw := { up.fw with paused := p } }

theorem witness_CausesEnterKeeperMode :
    up.keeper.running = true ∧ up.keeper.keeper = false ∧ up.clk.dead = false ∧ up.fw.held = false ∧ up.fw.paused.toNat < 2 ∧ up.clk.warmLow = false ∧
    (paused 2).clk.dead = false ∧ restarted.clk.dead = false ∧
    2 ≤ (paused 2).fw.paused.toNat ∧ (paused 2).keeper.running = true ∧ restarted.fwRuns = true ∧
    restarted.restartedLately = true ∧ restarted.keeper.running = true := by decide
theorem test_keeper_entry : (after (.keeperModeEntry 6) fabric).map (fun s => (s.keeper.cause, s.fw.held, s.ctxs)) =
    some (6, true, []) := by decide

/-- In keeper mode, with a table whose outputs delay by 1 and whose heartbeat is 1 ms. -/
def keeping : State :=
  { up with
    keeper := { up.keeper with keeper := true, samples := [9, 9], table := some (((1 : BitVec 2688) <<< 96) ||| ((1 : BitVec 2688) <<< 2272)) }
    eth := { ports := [(0, { link := true })] } }

theorem witness_TheKeeperServesTheBoard_restart :
    up.fwRuns = true ∧ up.restartedLately = false ∧ (paused 1).fw.paused = 1 ∧
    ((paused 1).passTo ((paused 1).fw.activateAt + scMs 100)).restartedLately = false := by decide
theorem witness_TheKeeperServesTheBoard_outputs :
    keeping.keeper.keeper = true ∧ keeping.keeper.running = true ∧ keeping.keeper.samples = [9, 9] ∧
    (keeping.keeper.table.any fun t => bits (kprOut t (31 : BitVec 5).toNat) 32 16 != (0 : BitVec 16)) = true ∧
    keeping.keeper.delayed.getLsbD 31 = false ∧ keeping.keeper.hbp ≠ 0 ∧ (keeping.ethPort 0).link = true ∧
    keeping.keeperBack.hostUp = true ∧ keeping.hostRails = true ∧ keeping.keeperBack.domUp 4 = true := by decide +kernel
theorem witness_TheKeeperServesTheBoard_lockstep :
    { keeping with keeper := { keeping.keeper with restartAt := some 7 } }.keeper.restartAt = some 7 ∧ (1 : Byte) ≠ 0 ∧
    keeping.mon.last.find 163 = none ∧ { keeping with mon := { keeping.mon with last := [(163, 0)] } }.mon.last.find 163 = some 0 := by decide +kernel
theorem test_keeper_back : (after (.lockstepMiscompare true) keeping).map
    (fun s => (s.keeper.restartAt, s.keeper.driven, s.keeperBack.keeper.restartAt, s.keeperBack.scnt)) = some (some 0, 0, none, scMs 5) := by
  decide +kernel
theorem witness_TheKeeperServesTheBoard_answers :
    (up.stewardsServe || up.keeperServes) = true ∧ (keeping.stewardsServe || keeping.keeperServes) = true := by decide
theorem witness_TheKeeperServesTheBoard_mailbox :
    up.kprServed 0 = true ∧ kprOp 1 = 1 ∧ kprOp 2 = 2 ∧ kprOp 3 = 3 ∧ funcPort up.hub.admin = 0 ∧
    bits (0x5741524D00000002 : DWord) 32 32 = (0x5741524D : Word) := by decide
theorem test_safe_input : (after (.safeInputSample 9) keeping).map (·.keeper.safeIn) = some 9 ∧
    (after (.safeInputSample 1) keeping).map (·.keeper.safeIn) = some 1 := by decide

/-- Function 0 with ring 0 as given, and context 5 RUNNING in cluster 0. -/
def ringed (g : Ring) : State := { withCl cl1 with hub := { up.hub with rings := [(0, g), (1, { kind := 1, lsize := 4, fault := true })] } }
/-- A HEADBOX ring of 16 entries with one to read. -/
def hbRing : Ring := { kind := 0, lsize := 4, ctx := 5, h := 1, d := 0 }
/-- A REEL ring of 16 entries. -/
def reelRing : Ring := { kind := 1, lsize := 4, stage := 1 }

theorem witness_HeadboxRingsTakeEntries_doorbell :
    let g := { hbRing with h := 0 }
    let q := { reelRing with d := 0 }
    (ringed g).barsAnswer 0 = true ∧ (ringed g).ring 0 0 = some g ∧ g.kind ≠ 1 ∧ g.markv = false ∧ g.rfault = false ∧
    (16 : BitVec 16).toNat ≤ g.size - (g.h - g.d).toNat ∧ g.size - (g.h - g.d).toNat < (17 : BitVec 16).toNat ∧
    (ringed q).ring 0 0 = some q ∧ q.kind = 1 ∧ (0 - q.h : BitVec 16).toNat ≤ (q.d - q.h).toNat ∧ q.rfault = false ∧
    (q.d - q.h).toNat < (1 - q.h : BitVec 16).toNat := by decide
theorem test_doorbell_bounds : (after (.ringDoorbell 0 0 16) (ringed { hbRing with h := 0 })).bind (fun s => (s.ring 0 0).map fun g => (g.h, g.rfault)) =
    some (16, false) ∧ (after (.ringDoorbell 0 0 17) (ringed { hbRing with h := 0 })).bind (fun s => (s.ring 0 0).map fun g => (g.h, g.rfault)) =
    some (0, true) := by decide
theorem witness_HeadboxRingsTakeEntries_entry :
    let e : BitVec 256 := BitVec.setWidth 256 tag4
    let s := ringed hbRing
    s.ring 0 0 = some hbRing ∧ hbRing.kind ≠ 1 ∧ s.ringReads 0 hbRing = true ∧ hbRing.kind = 0 ∧ hbRing.waiting = none ∧ hbMark e = false ∧
    hbStage1 5 e = true ∧ hbStage1 5 (e ||| 1) = false ∧ s.entryAccepts 5 = true ∧ (s.ctx 5).owner = 0 ∧ hbRing.refuse = false ∧
    (s.func 0).refuse = false ∧ s.hbStage3 (hbTag e) = true ∧ tagKind (hbTag e) = 0 ∧ hbTick e = 0 ∧ s.entryHeld (hbTag e) = false ∧
    s.hbServes 0 0 = true ∧ 1 ≤ (s.linkOf 0).avail := by decide
theorem witness_HeadboxRingsTakeEntries_turn :
    let s := { ringed hbRing with hub := { (ringed hbRing).hub with rings := [(0, hbRing), (1, hbRing)], hbRun := 32, hbFunc := 0, hbRings := [(0, 0)] } }
    s.ring 0 0 = some hbRing ∧ s.ringReads 0 hbRing = true ∧ hbRing.kind = 0 ∧ hbRing.waiting = none ∧ s.hbServes 0 0 = false ∧
    s.hbServes 0 1 = true := by decide
theorem test_entry_injects : (after (.headboxEntry 0 0 (BitVec.setWidth 256 tag4)) (ringed hbRing)).map
    (fun s => ((s.ctx 5).inflight, (s.ctx 5).instb)) = some (4, 7) := by decide
theorem test_entry_reserved : (after (.headboxEntry 0 0 (BitVec.setWidth 256 (tag4 ||| 1))) (ringed hbRing)).map
    (fun s => ((s.ctx 5).inflight, s.hub.brokeIn.length)) = some (3, 1) := by decide

/-- A MEMORY ring of context 5 whose window 0 lies at `base`, its entry in memory at 0. -/
def memState (base : Nat) : State :=
  { ringed { hbRing with kind := 2, cring := 1 } with
    mem := ((List.range 16).map fun k => (k, (bits (winAt base 0x1000).raw (8 * k) 8 : Byte))).filter fun e => e.2 != 0 }
/-- A transfer of 8 bytes at window 0 offset 8. -/
def memEntry (op : Nat) : BitVec 256 := BitVec.ofNat 256 (8 * 2 ^ 64 + op * 2 ^ (8 * 13) + 8 * 2 ^ 128)

theorem witness_MemoryRingsTransferWords_in :
    let s := memState 0x10000
    let e := memEntry 1
    let g := { hbRing with kind := 2, cring := 1 }
    let w := s.readWin 5 (BitVec.ofNat 6 (fldN e 12 1))
    s.memWf = true ∧ s.ring 0 0 = some g ∧ s.ringReads 0 g = true ∧ s.mrWaits 5 e = false ∧ g.cring ≠ 0 ∧ (s.ring 0 1).isSome = true ∧
    mrOk e = true ∧ mrIn e = true ∧ [(7 : DWord)].length = mrLength e / 8 ∧ (s.ctx 5).state ≠ FREE ∧ (s.ctx 5).state ≠ FENCED ∧
    (g.refuse || (s.func 0).refuse) = false ∧
    w.valid = true ∧ w.w = true ∧ fldN e 8 4 + mrLength e ≤ w.len ∧
    (∀ k, k < mrLength e / 8 → s.mrFault 5 (w.base + fldN e 8 4 + 8 * k) true = none) := by decide
theorem witness_MemoryRingsTransferWords_out :
    let s := memState 0x10000
    let e := memEntry 0
    let w := s.readWin 5 (BitVec.ofNat 6 (fldN e 12 1))
    s.ringReads 0 { hbRing with kind := 2, cring := 1 } = true ∧ s.mrWaits 5 e = false ∧ mrOk e = true ∧ mrIn e = false ∧ w.valid = true ∧ w.r = true ∧
    fldN e 8 4 + mrLength e ≤ w.len ∧ (∀ k, k < mrLength e / 8 → s.mrFault 5 (w.base + fldN e 8 4 + 8 * k) false = none) := by decide
theorem witness_MemoryRingsTransferWords_row :
    let g (b : Bool) : Ring := { hbRing with kind := 2, cring := 1, refuse := b }
    let s (b : Bool) (st : BitVec 3) : State :=
      { ringed (g b) with ctxs := [(5, { ctx5 with state := st })] }
    ([(true, RUNNING), (false, FENCED)].all fun q =>
      (s q.1 q.2).ring 0 0 == some (g q.1) && (s q.1 q.2).ringReads 0 (g q.1) && !(s q.1 q.2).mrWaits 5 (memEntry 1) &&
        ((s q.1 q.2).ctx 5).state == q.2 && (((g q.1).refuse || ((s q.1 q.2).func 0).refuse) == q.1) && (s q.1 q.2).memWf) = true ∧
    mrOk (memEntry 1) = true ∧ mrIn (memEntry 1) = true ∧ mrLength (memEntry 1) / 8 ≤ [(7 : DWord)].length := by decide
theorem witness_MemoryRingsTransferWords_refused :
    let s := memState bankBase
    let w (op : Nat) := s.readWin 5 (BitVec.ofNat 6 (fldN (memEntry op) 12 1))
    ([0, 1].all fun op => (w op).valid && mrOk (memEntry op) && (mrIn (memEntry op) == (op == 1)) &&
      (s.mrFault 5 ((w op).base + fldN (memEntry op) 8 4) (op == 1)).isSome) = true ∧ s.memWf = true := by decide


/-- An item of context 5. -/
def item5 (k : BitVec 3) : ReelItem := { tag := mkTag 5 0xFFFC0 0 0 k 0, value := 3, type := 0, poison := false, cause := 0, tt := false, ctx := some 5 }
/-- Flow 0 of ring 0 with the item at `n`. -/
def flowed (n : Nat) (k : BitVec 3) : State :=
  { ringed reelRing with hub := { (ringed reelRing).hub with flows := [(0, { ctx := 5, valid := true, quota := 8, items := [(n, item5 k)], trun := decide (n ≠ 0) })] } }

theorem witness_TheReelStagesOrdersAndWrites_credit :
    let tok : Token := { tok4 with tag := mkTag 5 0xFFFC0 7 0 0 0 }
    let s := { ringed reelRing with threads := [(0, { work := some (.activation act), wait := .reel tok })] }
    Tid.wf 0 = true ∧ (s.thread 0).wait = .reel tok ∧ (match s.reelGrant tok with | .granted _ => true | _ => false) = true ∧
    tok.flits ≤ (s.cluster (tCluster 0)).couchOut.avail := by decide
theorem witness_TheReelStagesOrdersAndWrites_arrival :
    let p := packetOf 0 (tokenFlits { tok4 with tag := mkTag 5 0xFFFC0 7 0 0 0 })
    let s := { ringed reelRing with hub := { (ringed reelRing).hub with reelIn := [p] } }
    s.hub.reelIn = [p] ∧ tagCtx (packetToken p).tag = 5 ∧ s.reelAccepts 5 = true ∧ s.claimed 0 0 = false ∧
    s.ring 0 0 = some reelRing ∧ reelRing.kind = 1 ∧ reelRing.rfault = false ∧ s.flowOf 0 0 = none ∧ (flowed 0 0).flowOf 0 0 = some 0 := by decide
theorem witness_TheReelStagesOrdersAndWrites_write :
    let g := { reelRing with items := [item5 0] }
    (ringed g).ring 0 0 = some g ∧ g.kind = 1 ∧ g.rfault = false ∧ g.win = false ∧ g.room ≠ 0 ∧ ((ringed g).func 0).flr = false := by decide
theorem witness_TheReelStagesOrdersAndWrites_flow (k : BitVec 3) (h : k = 0 ∨ k = 5) :
    let w := (flowed 0 k).flow 0
    let full : Ring := { reelRing with h := 0, d := 16 }
    w.valid = true ∧ w.head = some (item5 k) ∧ (flowed 0 k).ring w.func w.ring = some reelRing ∧ reelRing.rfault = false ∧ reelRing.room ≠ 0 ∧
    tagKind (item5 k).tag = k ∧ full.room = 0 ∧ full.rfault = false := by
  rcases h with rfl | rfl <;> decide
theorem witness_TheReelStagesOrdersAndWrites_gap :
    let w := (flowed 65535 0).flow 0
    (flowed 65535 0).ring w.func w.ring = some reelRing ∧ w.valid = true ∧ w.trun = true ∧ reelRing.rfault = false ∧ reelRing.room ≠ 0 := by
  decide
theorem witness_TheReelStagesOrdersAndWrites_moderation :
    let g := { reelRing with uncovered := 1, time := 5 }
    (ringed g).ring 0 0 = some g ∧ g.uncovered ≠ 0 ∧ g.time ≠ 0 := by decide

/-- A token of context 5 for the broke queue. -/
def broke5 : Broke := { token := tok4, cause := RESERVED_FIELD, ctx := 5, counted := true, poison := false }
/-- A fault record of context 5. -/
def rec5 : FaultRec := { words := [3, 0, 0, 0], ctx := 5 }

theorem witness_BrokeTokensAndFaultRecordsReachTheHost_intake :
    let s := { ringed reelRing with hub := { (ringed reelRing).hub with brokeIn := [broke5] } }
    s.hub.brokeIn = [broke5] ∧ (s.ctx broke5.ctx).state ≠ FREE ∧ s.hub.broke.length < 4096 := by decide
theorem witness_BrokeTokensAndFaultRecordsReachTheHost_write :
    let s := { ringed reelRing with hub := { (ringed reelRing).hub with broke := [broke5] } }
    s.takeBroke 0 s.hub.broke = some (broke5, []) ∧ s.faultRing 0 = some 1 ∧ (s.ring 0 1).any (fun g => !g.rfault && g.room != 0) = true := by
  decide
theorem witness_BrokeTokensAndFaultRecordsReachTheHost_record :
    let s := { ringed reelRing with clusters := [(0, { cl1 with faults := [rec5] })] }
    (s.cluster 0).faults[(0 : BitVec 6).toNat]? = some rec5 ∧ s.recordSup rec5 = none ∧ s.faultRing (s.faultDest rec5.ctx).1 = some 1 ∧
    (s.ring (s.faultDest rec5.ctx).1 1).any (fun g => !g.rfault && 2 ≤ g.room) = true ∧ (∀ e ∈ s.threads, e.2.heldRec = none) := by decide
theorem witness_BrokeTokensAndFaultRecordsReachTheHost_window :
    let s := { ringed reelRing with hub := { (ringed reelRing).hub with slots := [(63, { ready := true })] } }
    let o := (0x7F20 : BitVec 16).toNat
    s.funcExists 0 = true ∧ s.hostRails = true ∧ 0x4000 ≤ o ∧ o < 0x8000 ∧ o % 256 = 0x20 ∧ (s.hub.slots.getD (64 * 0 + (o - 0x4000) / 256) {}).ready = true ∧
    (0x7F28 : BitVec 16).toNat % 256 ≠ 0x20 := by decide


/-! ## The host's registers, process I/O, resets, power, monitors -/

theorem witness_HostsUseMsixAndLockWords :
    up.barsAnswer 0 = true ∧ (0x7FF8 : BitVec 15).toNat % 8 = 0 ∧ (0x7FFC : BitVec 15).toNat % 8 ≠ 0 ∧ (0x7FFC : BitVec 15).toNat % 4 = 0 := by
  decide
theorem test_unmask_raises : (after (.msixVectorUnmask 0 63)
    { up with hub := { up.hub with msix := [(0, { enable := true, pending := [63], table := [(63, 0xFEE00000)] })] } }).map (·.out) =
    some [.msix 0 63 0xFEE00000] := by decide
theorem witness_RegisterWritesFollowTheirAccessCodes :
    (23 : BitVec 5).toNat ≤ 23 ∧ (bits (0x01FF : DWord) 8 8 : Byte).toNat < (bits (0x01FF : DWord) 0 8 : Byte).toNat ∧
    false = up.spine.cur := by decide
theorem test_rst_cause_set_wins : (after (.registerWrite .rstCause 0x11 0x01) up).map (·.clk.rstCause) = some 1 := by decide

/-- Function 0's mailbox holds the command word `n`, pending when `p`. -/
def mailbox (p notrdy keeper : Bool) (n : Nat) : State :=
  { up with
    hub := { up.hub with mbox := [(0, { pend := p, notrdy := notrdy, cmd := BitVec.ofNat 2048 n })] }
    keeper := { up.keeper with keeper := keeper } }

theorem witness_MailboxesAcceptAndAnswer :
    (mailbox false false false 5).barsAnswer 0 = true ∧ ((mailbox false false false 5).mbox 0).pend = false ∧
    ((mailbox true false false 5).mbox 0).pend = true ∧ (mailbox true false false 5).barsAnswer 0 = true ∧
    ((mailbox false true false 5).mbox 0).notrdy = true ∧ (mailbox false false true 5).keeper.keeper = true ∧
    ((mailbox false false false 5).mbox 0).notrdy = false ∧ (0xF8 : BitVec 8).toNat % 8 = 0 ∧ (0xFC : BitVec 8).toNat % 4 = 0 := by
  decide +kernel
theorem test_doorbell_latches : (after (.mailboxDoorbell 0 1) (mailbox false false false 0x00070001)).map
    (fun s => ((s.mbox 0).seq, s.hub.order)) = some (7, [0]) := by decide +kernel
theorem test_doorbell_keeper : (after (.mailboxDoorbell 0 1) (mailbox false false true 0x00070001)).map
    (fun s => ((s.mbox 0).status, (s.mbox 0).done)) = some (KEEPER_MODE, true) := by decide +kernel

/-- A rule of ports 0 and 3 for data tokens of node 4: `elim` and its value at `voff`. -/
def rule (elim : Bool) (voff : Nat) : Rule :=
  { raw := BitVec.ofNat 512 (9 + (if elim then 16 else 0) + 4 * 2 ^ 256 + voff * 2 ^ 304 + 8 * 2 ^ 320), owner := 5 }
/-- A frame of zeros of `n` bytes. -/
def frameOf (n : Nat) : Frame := { bytes := List.replicate n 0, fcsOk := true, pause := false }
/-- Context 5 RUNNING, ports 0 and 3 up, and rule 4095. -/
def ethState (r : Rule) : State :=
  { withCl cl1 with eth := { rules := [(4095, r)], ports := [(0, { link := true }), (3, { link := true })] } }

theorem witness_FramesAreReceivedAndClassified_bad :
    let s := ethState (rule false 14)
    s.ethUp = true ∧ (s.ethPort 3).link = true ∧ decide ((frameOf 59).bytes.length + 4 < 64) = true ∧
    decide (2048 < (frameOf 2045).bytes.length + 4) = true := by decide +kernel
theorem witness_FramesAreReceivedAndClassified_rule (voff : Nat) (h : voff = 52 ∨ voff = 53) :
    let s := ethState (rule false voff)
    let v := stripTags (frameOf 60).bytes
    64 ≤ (frameOf 60).bytes.length + 4 ∧ s.keeper.keeper = false ∧ rdBe v.bytes 12 2 ≠ 0x88F7 ∧ s.heldBytes 3 + 64 ≤ 131072 ∧
    s.ruleFor 3 v = some (4095, rule false voff) ∧ (rule false voff).elim = false ∧
    (rule false voff).fits v.bytes = decide (voff = 52) ∧ (s.eth.waiting.getD 4095 []).length < 8 ∧ s.ruleFor 1 v = none := by
  rcases h with rfl | rfl <;> decide +kernel
theorem witness_FramesAreReceivedAndClassified_limit :
    (frameOf 2044).bytes.length + 4 ≤ 2048 := by decide +kernel
theorem test_frame_makes_a_token : (after (.frameReceive 3 (frameOf 60)) (ethState (rule false 14))).map
    (fun s => ((s.eth.ruleCnt.getD 4095 {}).hits, (s.ctx 5).inflight)) = some (1, 4) := by decide +kernel
theorem witness_FramesAreReceivedAndClassified_held :
    let h : HeldFrame := { token := tok4, port := 3, size := 64 }
    let s (l : List HeldFrame) : State := { ethState (rule false 14) with eth := { (ethState (rule false 14)).eth with waiting := [(4095, l)] } }
    ([[h], [h, h]].all fun l => (s l).ethRuns && (s l).eth.waiting.getD (4095 : BitVec 12).toNat [] == l &&
      ((s l).ethEnter (((s l).eth.rules.find (4095 : BitVec 12).toNat).any (·.refuse)) tok4).isSome) = true := by decide +kernel
theorem witness_FramesAreReceivedAndClassified_elimination :
    let r := { rule true 14 with hist := [1] }
    (ethState r).eth.rules.find (4095 : BitVec 12).toNat = some r ∧ r.elim = true ∧ r.hist ≠ [] := by decide +kernel
theorem witness_FramesAreReceivedAndClassified_links :
    let s := ethState (rule false 14)
    s.ethRuns = true ∧ s.ethUp = true ∧ (s.ethPort 3).link = true ∧ s.fwRuns = true ∧ { s.tb with src := 1 }.src = 1 ∧ (s.ethPort 3).queued 7 ≤ 32768 ∧
    (0x1000 : BitVec 16).getLsbD 15 = false ∧ (0x8000 : BitVec 16).getLsbD 15 = true ∧
    (0x8000 : BitVec 16).getLsbD 12 = false ∧ (0x9A01 : BitVec 16).getLsbD 15 = true ∧ (0x9A01 : BitVec 16).getLsbD 12 = true ∧
    (speedOf 0x9A01).isSome = true := by decide +kernel

/-- An egress template of port 0, queue 7, ring 2, subnumber 0, in frames of 60 bytes: untimed or timed. -/
def template (timed : Bool) : Template :=
  { raw := BitVec.ofNat 1024 (7 * 2 ^ 8 + 2 * 2 ^ 16 + (if timed then 2 ^ 33 else 0) + 8 * 2 ^ 40 + 14 * 2 ^ 48 + 60 * 2 ^ 80 + 0xFFFF * 2 ^ 128), owner := 5 }
/-- A gate list of one entry that opens queue 7. -/
def gates : GateList := { base := 0, cycle := 100000, entries := [(0x80, 100000)] }
/-- Port 0 with a gate list in force and one frame in queue 7. -/
def portUp : EthPort :=
  { link := true, list := some gates, entryEnd := 100000, queues := [(7, [List.replicate 60 0])], pendingList := some (gates, 5) }
/-- Context 5 RUNNING with the template and port 0. -/
def egress (t : Template) (inq : List Packet) : State :=
  { withCl cl1 with eth := { templates := [(2047, t)], ports := [(0, portUp)], inq := inq } }

theorem witness_FramesLeaveByTheirGates_token :
    let p := packetOf 0 (tokenFlits { tok4 with tag := mkTag 5 0xFFFC2 0x00FF 0 0 0 })
    let s := egress (template false) [p]
    s.eth.inq = [p] ∧ s.ethRuns = true ∧ s.reelAccepts 5 = true ∧ s.templateFor 5 2 0x00FF = some (2047, template false) ∧
    tagCtx (packetToken p).tag = 5 ∧ (bits (tagNode (packetToken p).tag) 0 6 : RingId) = 2 := by decide +kernel
theorem witness_FramesLeaveByTheirGates_timed :
    let t := { template true with staged := some (1, 0), toGo := [0] }
    let s := egress t []
    s.ethRuns = true ∧ s.eth.templates.find (2047 : BitVec 11).toNat = some t ∧ t.timed = true ∧ t.staged = some (1, 0) ∧ t.toGo = [0] ∧
    (s.launchOn t 0).isSome = true ∧ (s.ethPort 0).queued t.queue + (t.frame 1 0).length + 4 ≤ 32768 := by decide +kernel
theorem witness_FramesLeaveByTheirGates_transmit :
    let s := egress (template false) []
    s.ethRuns = true ∧ (s.ethPort 0).link = true ∧ ((s.ethPort 0).busyUntil - s.tb.now).toInt ≤ 0 ∧
    (s.ethPort 0).pick s.tb.now = some (7, List.replicate 60 0) ∧ (s.ethPort 0).list = some gates ∧
    (s.ethPort 0).pendingList = some (gates, 5) := by decide +kernel

theorem witness_FunctionsAreReset :
    let s := { up with hub := { up.hub with ports := [(0, { present := true, perst := false, linkUp := true, enabled := true, vfEnable := true, numVfs := 31 })] } }
    s.funcExists 31 = true ∧ funcIdx 31 ≠ 0 ∧ s.funcExists 0 = true ∧ funcIdx 0 = 0 ∧ s.fwRuns = true ∧ (paused 1).fwRuns = false ∧ (s.port 0).vfEnable = true ∧
    { s with fw := (paused 1).fw }.funcExists 31 = true := by decide
theorem witness_FunctionsAreReset_ports :
    let cold := { up with hub := { up.hub with ports := [(3, { present := true, perst := false }), (2, { present := true }), (1, { present := true, perst := false, linkUp := true })] } }
    (up.port 0).present = true ∧ (up.port 0).enabled = true ∧ (up.port 0).vfEnable = false ∧ (up.port 0).linkUp = true ∧
    (cold.port 2).perst = true ∧ (cold.port 3).perst = false ∧ (cold.port 3).linkUp = false ∧ cold.hostUp = true ∧ cold.hostRails = true ∧
    cold.clk.pciLock.getLsbD 3 = true ∧
    (cold.port 1).linkUp = true ∧ (cold.port 1).enabled = false ∧ (cold.fw.ready || cold.keeper.keeper) = true := by decide
theorem witness_ResetsHoldTheirDomains :
    State.reset.clk.porstLow = true ∧ up.clk.porstLow = false ∧ up.awake = true ∧ up.clk.warmLow = false ∧
    { up with clk := { up.clk with warmLow := true } }.clk.warmLow = true ∧ { up.keeper with warmReq := true }.warmReq = true := by decide
theorem test_flash_programmed : (after (.porstNRelease 0 0 0 [(true, 9)]) State.reset).map (fun s => (s.fw.versions.find 1, s.fw.staged)) =
    some (some 9, none) := by decide
theorem test_trip_while_porst_low : (after .thermalTrip State.reset).map (·.clk.thermLatch) = some true := by decide
theorem test_warm_reset_cause : (after .warmReset fabric).map (fun s => (s.clk.rstCause, s.ctxs)) = some (0b10101, []) := by decide

/-- The part as its start-up finds it, the stewards running and not ready. -/
def starting : State :=
  { up with fw := { up.fw with ready := false }, clk := { up.clk with hbmUp := false, safeLock := false, keeperOk := false } }

theorem witness_StartupGoesItsSteps_first :
    starting.awake = true ∧ starting.clk.safeLock = false ∧ (starting.sect 0).pstate ≠ 0 ∧ starting.keeper.running = true ∧
    starting.clk.keeperOk = false ∧ starting.clk.dead = false ∧ starting.fw.held = false ∧ starting.fw.ready = false ∧
    starting.clk.hbmUp = false := by decide
theorem witness_StartupGoesItsSteps_stewards :
    let s := { starting with fw := { starting.fw with held := true }, clk := { starting.clk with keeperOk := true } }
    s.fw.held = true ∧ s.fw.ready = false ∧ s.clk.keeperOk = true ∧ s.awake = true ∧ s.clk.warmLow = false ∧ s.hostUp = true ∧
    s.keeper.keeper = false ∧ s.keeper.running = true ∧ s.clk.dead = false ∧ s.keeper.restartAt = none ∧
    { s.keeper with keeper := true }.warmed = false ∧ { s.keeper with keeper := true, warmed := true }.warmed = true := by decide
theorem witness_StartupGoesItsSteps_sections :
    let s := { starting with clk := { starting.clk with hbmUp := true } }
    s.clk.hbmUp = true ∧ s.fw.held = false ∧ s.fw.ready = false ∧ (s.sect 15).tried = false := by decide
theorem witness_StartupGoesItsSteps_ready :
    let s := { starting with clk := { starting.clk with hbmUp := true, sections := (List.range 16).map fun k => (k, sectOn) } }
    s.fw.paused = 0 ∧ s.startedUp = true ∧ s.hub.steward.recs = [] ∧ (∀ e ∈ s.hub.funcs, e.2.flr = false) := by decide

/-- Section 15 as given, its endpoints OFF when `off`. -/
def sectioned (x : Section) (off : Bool) : State :=
  { up with
    clk := { up.clk with sections := [(15, x)] }
    spine := { up.spine with routers := Map.set up.spine.routers 15 { Router.reset 15 with ep := if off then [2, 2, 2, 2] else [0, 0, 0, 0] } } }

theorem witness_SectionsArePoweredAndClocked_clock :
    let s := sectioned sectOn false
    let a : State := { s with mon := { s.mon with avsFault := true, hot := [31] } }
    4 ≤ (bits (4 : Word) 0 5 : BitVec 5).toNat ∧ (bits (20 : Word) 0 5 : BitVec 5).toNat ≤ 20 ∧ s.throttled 15 = false ∧ s.mon.avsFault = false ∧
    16 < (bits (17 : Word) 0 5 : BitVec 5).toNat ∧ a.throttled 15 = true ∧ a.mon.avsFault = true ∧ (s.sect 15).pstate ≠ 2 ∧
    (s.xing (sectDomain 15)).inReset = false ∧ (State.reset.xing (sectDomain 15)).inReset = true ∧ (State.reset.sect 15).pstate ≠ 2 ∧
    (bits (3 : Word) 0 5 : BitVec 5).toNat < 4 ∧ 20 < (bits (21 : Word) 0 5 : BitVec 5).toNat ∧
    ((sectioned { sectOn with gated := true } false).sect 15).gated = true ∧ (s.sect 15).pstate = 3 ∧ (s.sect 15).lock = true ∧
    s.sectionIdle 15 = true ∧ (s.xing 1).inReset = false := by decide
theorem witness_SectionsArePoweredAndClocked_power :
    ((sectioned sectOn true).sect 15).pstate = 3 ∧ ((sectioned sectOn true).sect 15).heldReq = none ∧
    (((sectioned sectOn true).router 15).ep.all (· == 2)) = true ∧ (((sectioned sectOn false).router 15).ep.all (· == 2)) = false ∧
    ((sectioned {} true).sect 15).pstate = 0 ∧ (sectioned {} true).fw.held = false ∧
    ((sectioned { sectOn with pstate := 2 } true).sect 15).pstate = 2 ∧ ((sectioned { sectOn with pstate := 2 } true).sect 15).lock = true ∧
    ((sectioned { sectOn with pstate := 2 } true).sect 15).heldReq = none ∧ ((sectioned { sectOn with pstate := 1 } true).sect 15).pstate = 1 ∧
    ((sectioned { sectOn with pstate := 4 } true).sect 15).pstate = 4 := by decide

theorem test_pulses_merge : (after (.clockWake 15 20) (sectioned { sectOn with gated := true } false)).map
    (fun s => ((s.sect 15).gated, (s.xing (sectDomain 15)).merged, (s.xing (sectDomain 15)).mergeCnt)) = some (false, true, 4) := by decide
theorem test_section_comes_on : (((after (.sectionPowerOn 15) (sectioned {} true)).bind (after (.pllLock (.sect 15)))).bind (after (.clockWake 15))).map
    (fun s => ((s.sect 15).pstate, (s.sect 15).iso)) = some (3, false) := by decide

theorem witness_MonitorsWarnThrottleAndTrip_temperature :
    (31 : BitVec 6).toNat < 36 ∧ up.clk.porstLow = false ∧ (sectioned sectOn false).sectOff ((31 : BitVec 6).toNat / 2) = false ∧
    1080 ≤ (1080 : BitVec 16).toInt ∧ (855 : BitVec 16).toInt < 856 ∧ 960 ≤ (960 : BitVec 16).toInt ∧ (999 : BitVec 16).toInt < 1000 ∧
    36 ≤ (36 : BitVec 6).toNat ∧ (37 : BitVec 6).toNat ≤ 37 ∧ ((1007 : BitVec 16) &&& 0xFFF8).toInt ≥ 1000 ∧ ((999 : BitVec 16) &&& 0xFFF8).toInt < 1000 := by
  decide
theorem witness_MonitorsWarnThrottleAndTrip_throttle :
    let hot := { sectioned { sectOn with mcur := 4 } false with mon := { up.mon with hot := [31] } }
    let cool := sectioned { sectOn with mcur := 15 } false
    (hot.mon.hot.contains (2 * (15 : BitVec 4).toNat) || hot.mon.hot.contains (2 * (15 : BitVec 4).toNat + 1)) = true ∧
    (cool.mon.hot.contains (2 * (15 : BitVec 4).toNat) || cool.mon.hot.contains (2 * (15 : BitVec 4).toNat + 1)) = false ∧
    (cool.sect 15).mcur.toNat < (cool.sect 15).m.toNat := by decide
theorem test_throttle_floor : (after (.throttleStep 15)
    { sectioned { sectOn with mcur := 4 } false with mon := { up.mon with hot := [31] } }).map (fun s => (s.sect 15).mcur) = some 4 := by decide
theorem witness_MonitorsWarnThrottleAndTrip_voltage :
    (23 : BitVec 5).toNat ≤ 23 ∧ up.sectOff 23 = false ∧ up.outside 23 (up.mon.warn.getD 23 30).toNat 800 = false ∧
    up.outside 23 (up.mon.crit.getD 23 60).toNat 800 = false ∧ up.outside 23 (railTolerance 23) 800 = false ∧ up.mon.slew.find 23 = none := by decide
theorem witness_MonitorsWarnThrottleAndTrip_avs :
    let b := (up.every 160 (scMs 10)).convertProc
    let low : State := { up with mon := { up.mon with avsTarget := 0 } }
    up.fwRuns = true ∧ up.mon.avsFault = false ∧ up.mon.avsSent = none ∧ { up with mon := { up.mon with avsFault := true } }.mon.avsFault = true ∧
    { up with mon := { up.mon with avsSent := some 5 } }.mon.avsSent = some 5 ∧ up.mon.mReq = [] ∧ (∀ n, (up.sect n).m.toNat ≤ 16) ∧
    low.mon.avsTarget.toNat ≤ (BitVec.ofNat 16 (b.avsCompute 300 b.avsSections).1).toNat :=
  ⟨by decide, by decide, by decide, by decide, by decide, by decide, by decide, Nat.zero_le _⟩
theorem test_window_edges : up.outside 17 30 776 = false ∧ up.outside 17 30 775 = true ∧ up.outside 17 30 824 = false ∧ up.outside 17 30 825 = true := by
  decide

/-! ## Mailbox commands -/

/-- A command word: opcode, LENGTH, FLAGS, TARGET and payload fields by offset. -/
def command (op len flags target : Nat) (fs : List (Nat × Nat)) : Nat :=
  fs.foldl (fun a e => a + e.2 * 256 ^ e.1) (op + len * 256 ^ 4 + flags * 256 ^ 6 + target * 256 ^ 8)

/-- Function `f` has the command waiting. -/
def asks (f : FuncId) (n : Nat) (s : State) : State :=
  { s with hub := { s.hub with mbox := [(f.toNat, { pend := true, notrdy := false, latched := BitVec.ofNat 2048 n })], order := [f] } }

/-- The part with context 5, its rings and its image. -/
def based : State :=
  { ringed hbRing with hub := { (ringed hbRing).hub with funcs := [(0, { bud0 := 0x0000400001000010, bud1 := 0x0000000010000100, bud2 := 0x0000010000000100 })] } }
/-- Context 5 in another state. -/
def ctxIn (e : Ctx) : State := { based with ctxs := [(5, e)] }

theorem witness_DeviceCommandsComplete_any :
    (asks 0 (command 0x0001 0 0 0 []) based).accepts 0 0x0001 = true ∧ (asks 0 (command 0x0002 0 0 0 []) based).accepts 0 0x0002 = true := by
  decide +kernel
theorem witness_DeviceCommandsComplete_stage :
    let s := asks 0 (command 0x0003 16 1 0 [(0x18, 8)]) based
    s.accepts 0 0x0003 = true ∧ (List.replicate 8 (0 : Byte)).length = s.arg 0 0x18 4 ∧ s.arg 0 0x18 4 ≤ 0x400000 := by decide +kernel
theorem witness_DeviceCommandsComplete_activate :
    let s := asks 0 (command 0x0004 0 0 0 []) { based with fw := { based.fw with staged := some 2 } }
    s.accepts 0 0x0004 = true ∧ s.fw.staged.isSome = true := by decide +kernel
theorem witness_DeviceCommandsComplete_time :
    let src (n : BitVec 2) := asks 0 (command 0x0601 8 0 0 [(0x10, 2 ^ 64 - 1)]) { based with tb := { based.tb with src := n } }
    let ask := asks 0 (command 0x0602 16 0 0 [(0x11, 3)]) based
    let tick := asks 0 (command 0x0603 4 0 0 [(0x10, 125)]) up
    (src 0).accepts 0 0x0601 = true ∧ (src 0).tb.src = 0 ∧ (src 1).accepts 0 0x0601 = true ∧ (src 1).tb.src ≠ 0 ∧
    ask.accepts 0 0x0602 = true ∧ ask.arg 0 0x10 1 = 0 ∧ ask.arg 0 0x11 1 ≤ 3 ∧ ask.arg 0 0x14 4 = 0 ∧
    tick.accepts 0 0x0603 = true ∧ (∀ e ∈ tick.ctxs, e.2.state = FREE) ∧ tick.arg 0 0x10 4 % 5 = 0 ∧ 125 ≤ tick.arg 0 0x10 4 ∧
    tick.arg 0 0x10 4 ≤ 1000000 := by decide +kernel
theorem test_tick_set : (after (.tickSet 0) (asks 0 (command 0x0603 4 0 0 [(0x10, 1000000)]) up)).map (·.tkNs) = some 1000000 := by
  decide +kernel

/-- A keeper table with WDOGP 100 and no heartbeat. -/
def keeperTable : List Byte :=
  [0x4B, 0x50, 0x52, 0x54, 1, 0, 0x50, 1, 100] ++ List.replicate 327 0

theorem witness_DeviceCommandsComplete_keeper :
    let s := asks 0 (command 0x0A01 16 1 0 [(0x18, 336)]) based
    let e := asks 0 (command 0x0A02 8 0 0 [(0x10, 0x4B454550)]) based
    s.accepts 0 0x0A01 = true ∧ s.arg 0 0x18 4 = 336 ∧ keeperTable.length = 336 ∧ kprBad (BitVec.ofNat 2688 (leNat keeperTable)) = none ∧
    e.accepts 0 0x0A02 = true ∧ e.arg 0 0x10 4 = 0x4B454550 ∧ e.keeper.running = true ∧ e.clk.dead = false := by decide +kernel
theorem witness_DeviceCommandsComplete_routes :
    let s := asks 0 (command 0x0805 128 0 0 ((List.range 16).map fun r => (0x10 + 8 * r, (resetBank r).toNat))) based
    let tab (r : Nat) : DWord := BitVec.ofNat 64 (s.arg 0 (0x10 + 8 * r) 8)
    s.accepts 0 0x0805 = true ∧ s.stale = false ∧
    ((List.range 16).all fun r => (List.range 16).all fun d => !(tab r).getLsbD (4 * d + 3)) = true ∧ tablesOk tab = true := by decide +kernel

/-- SHA-384 of the image's bytes before its certificate. -/
def imageDigest : List Byte :=
  beBytes 48 0xe1c9053ea5477db26b5dbe7f6b01562c247cf38826112dd181aff69682a333a45db58e4a09406fbf060edd690f24654b

/-- An image of one node and one NOP, by 02 R60-R67; its digest was computed outside Lean. -/
def imageBytes : List Byte :=
  leBytes 4 0x32475A45 ++ leBytes 2 2 ++ leBytes 2 64 ++ leBytes 4 228 ++ [0, 0] ++ leBytes 2 4 ++ leBytes 4 1 ++ leBytes 4 0 ++ [1] ++ List.replicate 39 0 ++
  (leBytes 8 1 ++ leBytes 4 128 ++ leBytes 4 4) ++ (leBytes 8 2 ++ leBytes 4 132 ++ leBytes 4 16) ++
  (leBytes 8 4 ++ leBytes 4 148 ++ leBytes 4 8) ++ (leBytes 8 9 ++ leBytes 4 156 ++ leBytes 4 72) ++
  leBytes 4 0x64000000 ++ (leBytes 4 0 ++ leBytes 2 1 ++ [1] ++ List.replicate 9 0) ++ leBytes 8 0x40 ++
  (leBytes 2 1 ++ leBytes 2 1 ++ List.replicate 12 0 ++ imageDigest ++ leBytes 2 8 ++ List.replicate 6 0)

theorem test_image_parses : (match parseImage 0 imageBytes with | .inl m => (m.nodecnt, m.csize, m.pos.length) | .inr _ => (0, 0, 0)) = (1, 1, 1) := by
  decide +kernel
theorem test_image_bad_node : (match parseImage 0 (imageBytes.set 132 4) with | .inl _ => (0, 0) | .inr e => (e.1.toNat, e.2)) =
    (BAD_ARG.toNat, 132) := by decide +kernel

theorem witness_GraphCommandsComplete_load :
    let s := asks 0 (command 0x0101 16 1 0 [(0x18, 228)]) based
    s.accepts 0 0x0101 = true ∧ imageBytes.length = s.arg 0 0x18 4 ∧ s.imageRoom imageBytes.length = true ∧
    (least 65534 fun k => (s.fw.images.find (k + 1)).isNone) = some 1 := by decide +kernel
theorem witness_GraphCommandsComplete_unload :
    let s := asks 0 (command 0x0102 0 0 1 []) based
    s.accepts 0 0x0102 = true ∧ (s.image 1).any (fun m => m.owner == 0) = true ∧ s.imageUsed 1 = true ∧
    ({ s with ctxs := [] }.accepts 0 0x0102) = true ∧ { s with ctxs := [] }.imageUsed 1 = false := by decide +kernel

/-- A table of one dimension: two int16 values, from 0 by steps of 1. -/
def tableBytes : List Byte :=
  leBytes 2 3 ++ [1, 0, 0, 0] ++ leBytes 2 2 ++ leBytes 2 1 ++ leBytes 2 0 ++ leBytes 4 12 ++ leBytes 4 0 ++ leBytes 4 1 ++ leBytes 2 5 ++ leBytes 2 6

theorem witness_GraphCommandsComplete_table :
    let s := asks 0 (command 0x0103 20 1 5 [(0x18, 28), (0x22, 3)]) based
    let r := asks 0 (command 0x0103 20 0 5 [(0x20, 1), (0x22, 1)]) { based with aux := [(5, { clmap := [0], tables := [tbl 1] })] }
    s.accepts 0 0x0103 = true ∧ s.serves 0 = true ∧ (s.ctx 5).cls = 0 ∧ s.arg 0 0x20 1 = 0 ∧ s.argDma 0 = true ∧
    tableBytes.length = s.arg 0 0x18 4 ∧ ((parseTable tableBytes).any fun t => t.2 == 28) = true ∧ s.imageRoom 28 = true ∧
    r.accepts 0 0x0103 = true ∧ r.serves 0 = true ∧ r.arg 0 0x20 1 = 1 ∧ ((r.caux 5).tables.any (·.handle == BitVec.ofNat 16 (r.arg 0 0x22 2))) = true := by
  decide +kernel

theorem witness_GraphCommandsComplete_admit :
    let m := { img with csize := 1, pos := [⟨8, 0, 0, 0⟩] }
    let s := asks 0 (command 0x0201 8 0 2 [(0x10, 10)]) { based with fw := { based.fw with images := [(2, m)] } }
    s.accepts 0 0x0201 = true ∧ s.image 2 = some m ∧ m.owner = 0 ∧ (s.faultRing m.owner).isSome = true ∧ 10 ≤ s.arg 0 0x10 4 ∧ s.arg 0 0x10 4 ≤ 1000000 ∧
    m.cls ≠ 1 ∧ s.budgetFor m.owner m.use = true ∧ (s.choose m).isSome = true ∧ (s.freeNumber).isSome = true ∧ (s.flowRun m.flowcnt).isSome = true := by
  decide +kernel
theorem witness_GraphCommandsComplete_startStop :
    let s (op : Nat) (st : BitVec 3) := asks 0 (command op 0 0 5 []) (ctxIn { ctx5 with state := st })
    ([ADMITTED, STOPPED, RUNNING].all fun st => (s 0x0202 st).accepts 0 0x0202 && (s 0x0202 st).serves 0 && ((s 0x0202 st).ctx 5).state == st) = true ∧
    ([RUNNING, STOPPED].all fun st => (s 0x0203 st).accepts 0 0x0203 && (s 0x0203 st).serves 0) = true ∧
    (s 0x0204 RUNNING).accepts 0 0x0204 = true ∧ (s 0x0204 RUNNING).serves 0 = true ∧ (s 0x0204 RUNNING).dying 5 = false ∧
    ((s 0x0204 RUNNING).caux 5).move = none := by decide +kernel
theorem witness_GraphCommandsComplete_update :
    let m := { img with nodecnt := 7 }
    let s := asks 0 (command 0x0205 16 0 5 [(0x10, 2), (0x14, 60000), (0x18, 7)]) { based with fw := { based.fw with images := [(1, img), (2, m)] } }
    s.accepts 0 0x0205 = true ∧ s.serves 0 = true ∧ s.arg 0 0x10 2 ≠ 0 ∧ (s.ctx 5).state = RUNNING ∧ s.arg 0 0x14 4 ≤ 60000 ∧
    s.arg 0 0x18 1 % 2 = 1 ∧ 0 = s.hub.admin ∧ s.image (BitVec.ofNat 16 (s.arg 0 0x10 2)) = some m ∧ s.imageOf 5 = some img ∧ m.owner = (s.ctx 5).owner ∧
    m.cls = (s.ctx 5).cls ∧ m.csize = (s.ctx 5).csize.toNat ∧ m.taskBytes = img.taskBytes ∧ m.taskcnt = img.taskcnt ∧
    m.flowcnt ≤ (s.ctx 5).flowcnt.toNat ∧ m.cls ≠ 1 ∧ s.withinReserved 5 m = true ∧ (s.loadNodes 5 2 m).isSome = true := by decide +kernel
theorem witness_GraphCommandsComplete_policyAndQuery :
    let s := asks 0 (command 0x0205 16 0 5 [(0x18, 7)]) based
    let q := asks 0 (command 0x0206 16 0 5 []) based
    s.accepts 0 0x0205 = true ∧ s.serves 0 = true ∧ s.arg 0 0x10 2 = 0 ∧ s.arg 0 0x18 1 = 7 ∧ 0 = s.hub.admin ∧ q.accepts 0 0x0206 = true ∧
    q.serves 0 = true ∧ q.argDma 0 = false := by decide +kernel

theorem witness_HostCommandsComplete_flow :
    let s := asks 0 (command 0x0301 8 0 5 [(0x12, 2), (0x14, 256)])
      { based with ctxs := [(5, { ctx5 with flowcnt := 1 })], hub := { based.hub with rings := [(2, reelRing)] } }
    let r : RingId := BitVec.ofNat 6 (s.arg 0 0x12 1)
    s.accepts 0 0x0301 = true ∧ s.serves 0 = true ∧ (s.ctx 5).state = RUNNING ∧ s.arg 0 0x10 2 < (s.ctx 5).flowcnt.toNat ∧
    (s.flow ((s.ctx 5).flowbase + BitVec.ofNat 14 (s.arg 0 0x10 2))).valid = false ∧ s.arg 0 0x12 1 < 64 ∧ s.flowOf 0 r = none ∧
    s.ring 0 r = some reelRing ∧ reelRing.kind = 1 ∧ reelRing.fault = false ∧ s.arg 0 0x14 2 ≤ 256 ∧ s.quotas + 256 ≤ 262144 ∧
    s.budgetFor 0 { reorder := 256 } = true := by decide +kernel
theorem witness_HostCommandsComplete_ringCreate :
    let s := asks 0 (command 0x0302 32 0 63 [(0x10, 1), (0x11, 15), (0x12, 63), (0x17, 64), (0x18, 4096), (0x28, 1)]) based
    let h := asks 0 (command 0x0302 32 0 63 [(0x11, 6), (0x12, 1), (0x14, 5), (0x18, 4096)]) based
    s.accepts 0 0x0302 = true ∧ s.ring 0 (s.argRing 0) = none ∧ s.claimed 0 (s.argRing 0) = false ∧
    firstBad (s.ringChecks 0 (s.arg 0 0x10 1)) = none ∧ s.arg 0 0x10 1 = 1 ∧ s.arg 0 0x13 1 / 2 % 2 ≠ 1 ∧ s.stagingUsed + 64 ≤ 16384 ∧
    h.accepts 0 0x0302 = true ∧ h.ring 0 (h.argRing 0) = none ∧ firstBad (h.ringChecks 0 (h.arg 0 0x10 1)) = none ∧ h.arg 0 0x10 1 = 0 ∧
    h.arg 0 0x14 2 < 8192 ∧ (h.ctx (h.argCtx 0 0x14)).state ≠ FREE ∧ (h.ctx (h.argCtx 0 0x14)).owner = 0 := by decide +kernel
theorem witness_HostCommandsComplete_ringEnd :
    let s := asks 0 (command 0x0303 0 0 0 []) based
    let w (v : Bool) := asks 0 (command 0x0304 0 0 0 []) (ringed { hbRing with markSet := true, markv := v })
    s.accepts 0 0x0303 = true ∧ s.ring 0 (s.argRing 0) = some hbRing ∧ hbRing.fault = false ∧ hbRing.kind ≠ 1 ∧
    hbRing.kind = 0 ∧ hbRing.rfault = false ∧ hbRing.waiting = none ∧ (w true).accepts 0 0x0304 = true ∧ (w true).ring 0 ((w true).argRing 0) = some { hbRing with markSet := true, markv := true } ∧
    (w false).accepts 0 0x0304 = true ∧ (w false).ring 0 ((w false).argRing 0) = some { hbRing with markSet := true, markv := false } := by
  decide +kernel
theorem witness_HostCommandsComplete_banks :
    let b (k y : Nat) (e : Bank) := asks 0 (command 0x0401 8 0 0 [(0x10, 0), (0x11, k), (0x12, y)]) { based with banks := [(0, e)] }
    ([(1, 0, ({ assigned := true } : Bank)), (2, 5, { assigned := true }), (1, 0, { kind := 2, ctx := 5 })].all fun q =>
      let s := b q.1 q.2.1 q.2.2
      s.accepts 0 0x0401 && !(s.mbox 0).begun && !s.bankShut (BitVec.ofNat 8 (s.arg 0 0x10 1)) && s.arg 0 0x11 1 == q.1 && s.arg 0 0x12 2 == q.2.1 &&
        s.bank 0 == q.2.2 && !(s.bank 0).clring && (s.bank 0).taken == none && (s.bank 0).takenB == none && (s.ctx 5).state != FREE) = true := by
  decide +kernel
theorem witness_HostCommandsComplete_windows :
    let w := asks 0 (command 0x0402 24 0 5 [(0x10, 63), (0x18, (winAt bankBase 8).raw.toNat)]) based
    let g := asks 0 (command 0x0403 24 0 0 [(0x10, 63), (0x11, 7), (0x18, 1)]) based
    w.accepts 0 0x0402 = true ∧ w.serves 0 = true ∧ w.arg 0 0x10 1 ≤ 63 ∧ (BitVec.ofNat 128 (w.arg 0 0x18 16)).getLsbD 48 = true ∧
    winWellFormed (BitVec.ofNat 128 (w.arg 0 0x18 16)) = true ∧ 0 = w.hub.admin ∧
    g.accepts 0 0x0403 = true ∧ g.arg 0 0x10 1 ≤ 63 ∧ g.arg 0 0x11 1 ≤ 7 := by decide +kernel
theorem witness_HostCommandsComplete_functions :
    let s := asks 0 (command 0x0501 32 0 1 [(0x11, 0x0D), (0x18, 0x2000), (0x20, 0), (0x28, 0)]) based
    let m := asks 0 (command 0x0501 32 0 0 [(0x10, 1), (0x12, 5)]) based
    s.accepts 0 0x0501 = true ∧ s.arg 0 0x10 1 = 0 ∧ s.arg 0 0x11 1 % 2 = 1 ∧
    firstBad (budgetOk (BitVec.ofNat 64 (s.arg 0 0x18 8)) (BitVec.ofNat 64 (s.arg 0 0x20 8)) (BitVec.ofNat 64 (s.arg 0 0x28 8))) = none ∧
    m.accepts 0 0x0501 = true ∧ m.arg 0 0x10 1 = 1 ∧ m.arg 0 0x12 2 = 5 ∧ (m.ctx 5).state ≠ FREE ∧ (m.caux 5).deckle = false ∧
    (m.faultRing 0).isSome = true ∧ (m.hub.flows.anyV fun _ w => w.valid && w.ctx == 5) = false ∧
    (m.ctxs.anyV fun n c => n != 5 && c.state != FREE && c.owner == (m.ctx 5).owner && c.image == (m.ctx 5).image) = false ∧
    BitVec.ofNat 7 (m.arg 0 8 1) = (m.ctx 5).owner := by decide +kernel
theorem witness_HostCommandsComplete_role :
    let s := asks 0 (command 0x0502 0 0 1 []) based
    let o : State := { based with hub := { based.hub with admin := 32, offer := some (0, 0) } }
    let t := asks 0 (command 0x0502 0 0 0 []) o
    s.accepts 0 0x0502 = true ∧ s.arg 0 8 8 ≤ 127 ∧ 0 = s.hub.admin ∧ BitVec.ofNat 7 (s.arg 0 8 8) ≠ (0 : FuncId) ∧ t.accepts 0 0x0502 = true ∧
    0 ≠ t.hub.admin ∧ t.arg 0 8 8 ≤ 127 ∧ BitVec.ofNat 7 (t.arg 0 8 8) = (0 : FuncId) ∧ t.hub.offer = some (0, 0) ∧ t.scnt ≤ 0 := by decide +kernel

theorem witness_HostCommandsComplete_sealKeys :
    let s := asks 0 (command 0x0503 104 0 0 [(0x10, 7), (0x18, 0xb70a7672385e543a6c2955bf5df20255382a5482e041f759989ba78b623b1d6e74ad20f31ec7b18e37058bbe22ca87aa), (0x48, 0x5f0eea907c1d437a9d817e1dceb1600ac0b8f0b51331dae97c149a28bd1df4f829dc9292bf989e5d6f2c26964ade1736)]) based
    let c := asks 0 (command 0x0503 104 0 0 [(0x10, 7), (0x11, 1)]) based
    s.accepts 0 0x0503 = true ∧ s.arg 0 0x10 1 ≤ 7 ∧ s.arg 0 0x11 1 = 0 ∧ onCurve (s.argKey 0).1 (s.argKey 0).2 = true ∧
    c.accepts 0 0x0503 = true ∧ c.arg 0 0x11 1 = 1 ∧ c.argKey 0 = (0, 0) := by decide +kernel

/-- The caller owns context 5, which CTX names and no deckle encloses. -/
def mine (s : State) : Bool :=
  s.arg 0 0x12 2 == 5 && (s.ctx 5).state != FREE && (s.ctx 5).owner == 0 && !(s.caux 5).deckle

theorem witness_EthernetCommandsComplete_rule :
    let s := asks 0 (command 0x0701 72 0 4095 [(0x12, 5), (0x18, (rule false 14).raw.toNat)]) based
    mine s = true ∧ s.argRule 0 = none ∧ s.accepts 0 0x0701 = true ∧ s.arg 0 0x10 1 = 0 ∧
    firstBad (s.ruleChecks 5 { raw := BitVec.ofNat 512 (s.arg 0 0x18 64), owner := 5, lastSc := s.scnt }) = none := by decide +kernel
theorem witness_EthernetCommandsComplete_clear :
    let s := asks 0 (command 0x0701 72 0 4095 [(0x10, 1), (0x12, 5)]) { based with eth := { rules := [(4095, rule false 14)] } }
    let t := asks 0 (command 0x0702 136 0 2047 [(0x10, 1), (0x12, 5)]) { based with eth := { templates := [(2047, template false)] } }
    mine s = true ∧ s.accepts 0 0x0701 = true ∧ s.arg 0 0x10 1 = 1 ∧ (s.argRule 0).map (·.owner) = some 5 ∧
    mine t = true ∧ t.accepts 0 0x0702 = true ∧ t.arg 0 0x10 1 = 1 ∧ (t.argTemplate 0).map (·.owner) = some 5 := by decide +kernel
theorem witness_EthernetCommandsComplete_template :
    let s := asks 0 (command 0x0702 136 0 2047 [(0x12, 5), (0x18, (template false).raw.toNat)]) based
    mine s = true ∧ s.accepts 0 0x0702 = true ∧ s.arg 0 0x10 1 = 0 ∧ s.argTemplate 0 = none ∧
    firstBad (s.templateChecks (s.arg 0 8 2) { raw := BitVec.ofNat 1024 (s.arg 0 0x18 128), owner := 5 }) = none := by decide +kernel

/-- Gate entries: all gates for 600 ns, none for 400 ns. -/
def gateBytes : List Byte := [0xFF] ++ leBytes 7 600 ++ [0] ++ leBytes 7 400

theorem witness_EthernetCommandsComplete_gates :
    let s := asks 0 (command 0x0703 32 1 3 [(0x18, 16), (0x28, 1000), (0x2C, 2)]) based
    s.accepts 0 0x0703 = true ∧ gateBytes.length = s.arg 0 0x18 4 ∧ 1000 ≤ s.arg 0 0x28 4 ∧ s.arg 0 0x28 4 ≤ 1000000000 ∧
    1 ≤ s.arg 0 0x2C 2 ∧ s.arg 0 0x2C 2 ≤ 256 ∧ gateBytes.length = 8 * s.arg 0 0x2C 2 ∧ (∀ k, k < s.arg 0 0x2C 2 → gateEntryOk gateBytes k = true) ∧
    (((List.range (s.arg 0 0x2C 2)).map (gateEntry gateBytes)).map fun e => e.2.toNat).sum = s.arg 0 0x28 4 := by decide +kernel

theorem witness_ObservationAndRepairCommandsComplete_read :
    let m := asks 0 (command 0x0901 0 0 0 []) based
    let r := asks 0 (command 0x0902 24 1 0 [(0x20, 2), (0x22, 63)]) based
    let p := asks 0 (command 0x0903 32 0 31 [(0x10, 0x3FFD)]) based
    let t := asks 0 (command 0x0904 24 1 0 [(0x18, 64), (0x21, 31), (0x24, 1)]) based
    let d := asks 0 (command 0x0905 32 1 0 [(0x18, 8), (0x20, 0x400000000 - 8), (0x28, 1)]) based
    m.accepts 0 0x0901 = true ∧ r.accepts 0 0x0902 = true ∧ r.arg 0 0x20 1 = 2 ∧ r.arg 0 8 2 = 0 ∧ r.arg 0 0x22 2 ≤ 63 ∧
    p.accepts 0 0x0903 = true ∧ p.arg 0 0x10 4 < 2 ^ 14 ∧ p.arg 0 0x10 4 / 2 % 4 ≠ 3 ∧
    t.accepts 0 0x0904 = true ∧ t.arg 0 0x20 1 = 0 ∧ t.arg 0 0x21 1 ≤ 31 ∧ t.mon.traceOn = false ∧
    d.accepts 0 0x0905 = true ∧ rangeEnd (d.arg 0 0x20 8) = some 0x400000000 ∧ d.arg 0 0x20 8 % 8 = 0 ∧ 1 ≤ d.arg 0 0x28 4 ∧
    d.arg 0 0x28 4 ≤ 8192 ∧ d.arg 0 0x20 8 + 8 * d.arg 0 0x28 4 ≤ 0x400000000 := by decide +kernel
theorem witness_ObservationAndRepairCommandsComplete_repair :
    let s (op : Nat) (svc pst : BitVec 3) := asks 0 (command op 0 0 15 []) (sectioned { sectOn with svc := svc, pstate := pst } false)
    let b := asks 0 (command 0x0804 16 0 0 [(0x10, 65536), (0x14, 1000000), (0x18, 0xFF)]) based
    (s 0x0801 0 3).accepts 0 0x0801 = true ∧ ((s 0x0801 0 3).sect 15).svc = 0 ∧ (s 0x0801 0 3).fw.fenceJob = none ∧
    (((s 0x0801 0 3).leaveAdmission 15).planMoves (sectClusters 15)).failed = [] ∧
    (s 0x0802 1 0).accepts 0 0x0802 = true ∧ ((s 0x0802 1 0).mbox 0).begun = false ∧ ((s 0x0802 1 0).sect 15).svc = 1 ∧
    (s 0x0802 1 0).fw.fenceJob = none ∧ ((s 0x0802 1 0).sect 15).pstate = 0 ∧
    (s 0x0803 3 3).accepts 0 0x0803 = true ∧ ((s 0x0803 3 3).sect 15).svc = 3 ∧
    b.accepts 0 0x0804 = true ∧ b.arg 0 0x10 4 ≤ 65536 ∧ b.arg 0 0x14 4 ≤ 1000000 ∧ b.arg 0 0x18 1 = 0xFF := by decide +kernel

/-- Function 0 asks about task 9 of context 5, which it debugs, in state `st`. -/
def debugs (op len flags : Nat) (fs : List (Nat × Nat)) (dbg : Option FuncId) (st : BitVec 3) : State :=
  asks 0 (command op len flags 5 fs)
    { based with aux := [(5, { clmap := [0], debugger := dbg })], clusters := [(0, taskOn { state := st })] }

theorem witness_DebuggersAttachStopReadAndResume :
    let a := debugs 0x0B01 8 0 [] none READY
    let z := debugs 0x0B01 8 0 [(0x10, 1)] (some 0) READY
    let p := debugs 0x0B02 8 0 [(0x12, 9)] (some 0) READY
    let r := debugs 0x0B03 8 0 [(0x12, 9)] (some 0) STOPPEDT
    let d := debugs 0x0B04 36 1 [(0x18, 256), (0x22, 9)] (some 0) STOPPEDT
    a.accepts 0 0x0B01 = true ∧ a.serves 0 = true ∧ a.arg 0 0x10 1 = 0 ∧ (a.caux 5).debugger = none ∧
    z.accepts 0 0x0B01 = true ∧ z.arg 0 0x10 1 = 1 ∧ (z.caux 5).debugger = some 0 ∧
    p.accepts 0 0x0B02 = true ∧ p.serves 0 = true ∧ p.arg 0 0x10 1 = 0 ∧ p.findTask 5 (BitVec.ofNat 16 (p.arg 0 0x12 2)) = some (0, 2) ∧
    p.threadOfTask 0 2 = none ∧ ((p.cluster 0).task 2).state ≠ STOPPEDT ∧ ((p.cluster 0).task 2).state ≠ FAULTED ∧
    r.accepts 0 0x0B03 = true ∧ r.findTask 5 (BitVec.ofNat 16 (r.arg 0 0x12 2)) = some (0, 2) ∧ ((r.cluster 0).task 2).state = STOPPEDT ∧
    d.accepts 0 0x0B04 = true ∧ d.arg 0 0x20 1 = 0 ∧ d.findTask 5 (BitVec.ofNat 16 (d.arg 0 0x22 2)) = some (0, 2) ∧ d.taskStopped 0 2 = true := by
  decide +kernel

/-! ## Containment and time -/

/-- Context 5 in state `st` with `n` items in flight, nothing on threads, and what the firmware keeps of it. -/
def quiet (st : BitVec 3) (n : Word) (a : CtxAux) : State :=
  { withCl cl1 with ctxs := [(5, { ctx5 with state := st, inflight := n })], aux := [(5, { a with clmap := [0] })] }

theorem witness_ContextsDrainUpdateDieAndAreFenced_update :
    let s := quiet UPDATING 0 { update := some ⟨1, 0⟩ }
    (s.caux 5).update = some ⟨1, 0⟩ ∧ (s.ctx 5).state = UPDATING ∧ s.fwRuns = true ∧ s.drained 5 = true ∧
    s.hub.order = [] ∧ (quiet QUIESCING 0 {}).drained 5 = true ∧ (quiet QUIESCING 0 {}).hub.order = [] ∧ ((quiet QUIESCING 0 {}).ctx 5).state = QUIESCING ∧
    ({ quiet QUIESCING 0 {} with fw := (paused 1).fw }).fwRuns = false ∧ ({ quiet QUIESCING 0 {} with fw := (paused 1).fw }).drained 5 = true := by decide
theorem witness_ContextsDrainUpdateDieAndAreFenced_purge :
    let one := quiet RUNNING 0 { kill := some ⟨[0], none, false⟩ }
    let two := quiet RUNNING 0 { kill := some ⟨[0, 1], none, false⟩ }
    one.fwRuns = true ∧ (one.caux 5).kill = some ⟨[0], none, false⟩ ∧ [(0 : ClusterId)].filter (· != 0) = [] ∧
    (two.caux 5).kill = some ⟨[0, 1], none, false⟩ ∧ [(0 : ClusterId), 1].filter (· != 0) ≠ [] := by decide
theorem witness_ContextsDrainUpdateDieAndAreFenced_scan :
    let s := quiet RUNNING 0 { fenceReq := some 0 }
    let o := { up with hub := { up.hub with offer := some (32, 0) } }
    s.fwRuns = true ∧ (s.ctx 5).state = RUNNING ∧ s.dying 5 = false ∧ (s.caux 5).move = none ∧ (s.caux 5).fenceReq = some 0 ∧
    (s.ctx 5).inflight = 0 ∧ s.sumAct 5 = 0 ∧ ((quiet RUNNING 1 { fenceReq := some 0 }).ctx 5).inflight ≠ 0 ∧ (s.ctx 5).state ≠ FREE ∧
    (s.ctx 5).state ≠ FENCED ∧ ((quiet FENCED 0 { deckle := true }).caux 5).deckle = true ∧ (quiet FENCED 0 { deckle := true }).fenceDone 5 = true ∧
    o.hub.offer.isSome = true := by decide
theorem test_fence : (after (.contextFence 5 UNDELIVERABLE) fabric).map (fun s => ((s.ctx 5).state, (s.caux 5).deckle)) =
    some (FENCED, true) := by decide

theorem witness_ClustersAreFencedMovedAndRepaired_cluster :
    let s := { withCl { cl1 with refused := [{ entry := ent1, since := 0 }] } with fw := { up.fw with ueLog := List.replicate 16 (0, 0), reserveSet := [5] } }
    s.fwRuns = true ∧ s.fw.fencedClusters.contains 0 = false ∧ (s.sect (clusterSection 0)).svc = 0 ∧ 16 ≤ s.recent s.fw.ueLog 0 scDay ∧
    (s.cluster 0).refusedSince = some 0 ∧ s.fw.reserveSet ≠ [] ∧ up.fw.reserveSet = [] := by decide
theorem witness_ClustersAreFencedMovedAndRepaired_moves :
    let m : Move := { position := 0, source := 0, target := 5, startSc := 0 }
    let s := { withCl cl1 with fw := { up.fw with plan := [(5, 0, 5)] } }
    let c := { s with fw := { s.fw with images := [] } }
    let t := { withCl cl1 with aux := [(5, { clmap := [0], move := some m })] }
    let u := { fabric with aux := [(5, { clmap := [0], move := some m })] }
    (s.caux 5).move = none ∧ (s.fw.plan.find? fun e => e.1 == 5 && e.2.1 == 0) = some (5, 0, 5) ∧ (s.ctx 5).state ≠ FREE ∧ (s.ctx 5).state ≠ FENCED ∧
    s.dying 5 = false ∧ s.moves.length < 4 ∧ (∀ m ∈ s.moves, m.source ≠ s.clusterAt 5 (0 : BitVec 6).toNat) ∧
    s.canTake 5 0 0 1 = true ∧ s.canTake 5 0 0 5 = false ∧ s.target 5 0 0 = some 1 ∧ (c.fw.plan.find? fun e => e.1 == 5 && e.2.1 == 0) = some (5, 0, 5) ∧
    c.canTake 5 0 0 5 = false ∧ c.target 5 0 0 = none ∧
    (t.caux 5).move = some m ∧ m.position = 0 ∧ t.threadsAt m.source 5 = [] ∧ (t.followCode 5 0 m.source m.target).isSome = true ∧ u.fwRuns = true ∧ (u.caux 5).move = some m ∧ u.threadsAt m.source 5 ≠ [] := by
  decide
theorem witness_ClustersAreFencedMovedAndRepaired_banks :
    let w : Fwd := { target := 5, valid := true }
    let s := { withCl { cl1 with fwd := [(0, w)] } with banks := [(0, { kind := 2, ctx := 5 }), (20, { kind := 0 })] }
    s.bankWaits 0 = true ∧ (s.cluster (bankCluster 0)).forward (s.bank 0).ctx = some (0, w) ∧
    s.freeBank w.target 0 = some 20 ∧ s.freeBank w.target 1 = some 20 ∧ s.memWf = true ∧
    ({ s with banks := (List.range 4).map fun i => (20 + i, { kind := 1 }) } : State).freeBank w.target 0 = none := by decide
theorem witness_ClustersAreFencedMovedAndRepaired_sections :
    let s := { sectioned { sectOn with svc := 1 } false with fw := { up.fw with fenceJob := some (15, none) } }
    s.fwRuns = true ∧ s.leaving 15 ≠ [] ∧ s.evacuated (s.leaving 15) = true ∧ ((sectioned { sectOn with svc := 2 } true).sect 15).svc = 2 ∧
    (7 : Byte).toNat ≤ 7 := by decide

/-- The time source `n`. -/
def sourced (n : BitVec 2) : State := { up with tb := { up.tb with src := n } }

theorem witness_TimeStepsSlewsAndHolds :
    (sourced 2).fwRuns = true ∧ (sourced 2).tb.src ≠ 0 ∧ (sourced 2).tb.stepth.toNat < (100001 : DWord).toInt.natAbs ∧
    (-100000 : DWord).toInt.natAbs ≤ (sourced 2).tb.stepth.toNat ∧ (sourced 2).tb.holdover = false ∧ (sourced 2).tb.src = 2 ∧
    ((sourced 2).port (sourced 2).tb.port).linkUp = true := by decide
theorem test_tb_step_back : (after (.tbStep (-5)) { up with tb := { up.tb with now := 1000, tc := 1 } }).map
    (fun s => (s.tb.now, s.tb.tc)) = some (995, 1) := by decide

theorem witness_AStepTakesTheFrontCommand :
    { up with pending := [.nop 0] }.pending = [Instr.nop 0] ∧ up.pending = [] := by decide
theorem test_step_pops : (match step { up with pending := [.registerWrite .readOnly 0 0, .nop 0] } with | .next s => s.pending.length | _ => 9) = 1 := by
  decide
theorem witness_EveryStepKeepsMemoryCanonical : (mapped bankBase 0).memWf = true ∧
    (match step { mapped bankBase 0 with pending := [.sw 0 3 3 0] } with | .next _ => true | _ => false) = true := by decide

theorem witness_DuplicatesLeaveTheFirstItem :
    let p := packetOf 0 (tokenFlits { tok4 with tag := mkTag 5 0xFFFC0 1 0 0 0 })
    let s := { flowed 1 0 with hub := { (flowed 1 0).hub with reelIn := [p] } }
    s.hub.reelIn = [p] ∧ s.reelAccepts 5 = true ∧ s.claimed 0 0 = false ∧ s.ring 0 0 = some reelRing ∧ reelRing.kind = 1 ∧ reelRing.rfault = false ∧
    s.flowOf 0 0 = some 0 ∧ (s.flow 0).ahead (tagInst (packetToken p).tag) < 32768 ∧
    ((s.flow 0).items.find (tagInst (packetToken p).tag).toNat).isSome = true := by decide
theorem witness_TimeCommandsAreAdministrative :
    let s (op len : Nat) := asks 0 (command op len 0 0 []) { based with hub := { based.hub with admin := 32 } }
    ([(0x0601, 8), (0x0602, 16), (0x0603, 4)].all fun o =>
      ((s o.1 o.2).mbox 0).pend && (s o.1 o.2).fwRuns && (s o.1 o.2).arg 0 0 2 == o.1 && (s o.1 o.2).eligible 0 && !((s o.1 o.2).mbox 0).begun &&
        (cmdOf o.1).any (fun c => (c.check1 ((s o.1 o.2).mbox 0)).isNone) && 0 != (s o.1 o.2).hub.admin) = true := by decide +kernel

end Sys2Proof.Tests
end

section
/-! PROOFS. A register write stores, clears or ignores each field as its access code says (00 R12-R15), and a write to a
register of a section wakes its clock (15 R422). -/

namespace Sys2Proof.Machine

/-! ## Waking a section's clock -/

@[simp] theorem State.sect_wakeSect_same (s : State) (n : BitVec 4) :
    (s.wakeSect n).sect n = { s.sect n with gated := false } := by
  unfold State.wakeSect
  split
  · simp
  · next running =>
    have hg : (s.sect n).gated = false := by simpa using running
    rw [← hg]

@[simp] theorem State.wakeSect_clusters (s : State) (n : BitVec 4) : (s.wakeSect n).clusters = s.clusters := by
  unfold State.wakeSect
  split <;> rfl

/-- Waking a clock reaches nothing but the clocks. -/
theorem State.wakeSect_frame (s : State) (n : BitVec 4) : { s.wakeSect n with clk := s.clk } = s := by
  unfold State.wakeSect
  split <;> rfl

/-! ## An entry of the function table after a change -/

@[simp] theorem State.func_updFunc_same (s : State) (f : FuncId) (g : Func → Func) :
    (s.updFunc f g).func f = g (s.func f) := by simp [State.func, State.updFunc]

theorem State.func_updFunc_other (s : State) {f h : FuncId} (n : h ≠ f) (g : Func → Func) :
    (s.updFunc f g).func h = s.func h := by simp [State.func, State.updFunc, Map.getD_upd_other _ (toNat_ne n)]

/-! ## What a write does to the registers of each kind -/

/-- A field of RW1C flags that starts at bit 0 follows `rw1c` flag by flag. -/
theorem getLsbD_rw1cField {w i : Nat} (old : BitVec w) (v hw : DWord) (h : i < w) :
    ((old &&& ~~~(bits v 0 w)) ||| bits hw 0 w).getLsbD i = rw1c (old.getLsbD i) (v.getLsbD i) (hw.getLsbD i) := by
  simp [bits, rw1c, h]

/-- A write to a register of a cluster that changes the cluster by `g`: its clock runs, and nothing else changes. -/
theorem State.wake_updCluster_spec (s : State) (c : ClusterId) (g : Cluster → Cluster) :
    let s' := (s.wakeSect (clusterSection c)).updCluster c g
    s'.cluster c = g (s.cluster c) ∧ (∀ d, d ≠ c → s'.cluster d = s.cluster d) ∧
      s'.sect (clusterSection c) = { s.sect (clusterSection c) with gated := false } ∧
      { s' with clusters := s.clusters, clk := s.clk } = s := by
  have kept (d : ClusterId) : (s.wakeSect (clusterSection c)).cluster d = s.cluster d := by simp [State.cluster]
  refine ⟨?_, fun d hd => ?_, ?_, ?_⟩
  · rw [State.cluster_updCluster_same, kept]
  · rw [State.cluster_updCluster_other _ hd, kept]
  · rw [State.sect_updCluster, State.sect_wakeSect_same]
  · calc { (s.wakeSect (clusterSection c)).updCluster c g with clusters := s.clusters, clk := s.clk }
        = { s.wakeSect (clusterSection c) with clusters := s.clusters, clk := s.clk } := rfl
      _ = { s.wakeSect (clusterSection c) with clk := s.clk } := by rw [← State.wakeSect_clusters s (clusterSection c)]
      _ = s := s.wakeSect_frame _

theorem answers_write_cdCfg (v hw : DWord) (s : State) (c : ClusterId) :
    Answers (.registerWrite (.cdCfg c) v hw) s fun s' =>
      (s'.cluster c).evictDly = bits v 0 8 ∧ (s'.cluster c).actPrio = bits v 8 5 ∧ (∀ d, d ≠ c → s'.cluster d = s.cluster d) ∧
      s'.sect (clusterSection c) = { s.sect (clusterSection c) with gated := false } ∧
      { s' with clusters := s.clusters, clk := s.clk } = s := by
  obtain ⟨written, others, woken, frame⟩ :=
    s.wake_updCluster_spec c fun cl => { cl with evictDly := bits v 0 8, actPrio := bits v 8 5 }
  exact ⟨_, rfl, congrArg Cluster.evictDly written, congrArg Cluster.actPrio written, others, woken, frame⟩

theorem answers_write_rstCause (v hw : DWord) (s : State) :
    Answers (.registerWrite .rstCause v hw) s fun s' =>
      (∀ i, i < 5 → s'.clk.rstCause.getLsbD i = ((s.clk.rstCause.getLsbD i && !v.getLsbD i) || hw.getLsbD i)) ∧
      s'.clk = { s.clk with rstCause := s'.clk.rstCause } ∧ { s' with clk := s.clk } = s :=
  ⟨_, rfl, fun _ hi => getLsbD_rw1cField s.clk.rstCause v hw hi, rfl, rfl⟩

theorem answers_write_hbFuncCfg (v hw : DWord) (s : State) (f : FuncId) :
    Answers (.registerWrite (.hbFuncCfg f) v hw) s fun s' =>
      s'.func f = { s.func f with en := v.getLsbD 0, dbg := v.getLsbD 2, pio := v.getLsbD 3 } ∧
      (∀ g, g ≠ f → s'.func g = s.func g) ∧ { s' with hub := s.hub } = s :=
  ⟨_, rfl, s.func_updFunc_same f _, fun _ hg => s.func_updFunc_other hg _, rfl⟩

/-- A window whose CRIT lies below its WARN is ignored whole (17 R463). -/
theorem State.writeVwin_of_crit_lt_warn (s : State) (n : Nat) {v : DWord}
    (h : (bits v 8 8 : Byte).toNat < (bits v 0 8 : Byte).toNat) : s.writeVwin n v = s := if_pos (.inr h)

theorem answers_write_lckGrpF0 (v hw : DWord) (s : State) (g : BitVec 6) :
    Answers (.registerWrite (.lckGrpF0 g) v hw) s fun s' =>
      (s'.locks.groups.getD g.toNat {}).f0 = v ∧ s'.locks.words = s.locks.words ∧ { s' with locks := s.locks } = s :=
  ⟨_, rfl, congrArg LckGrp.f0 (Map.getD_upd_same s.locks.groups g.toNat {} fun r => { r with f0 := v }), rfl, rfl⟩

/-- The route bank that CUR names takes no write (11 R328). -/
theorem State.writeShared_nocRtBank_cur (s : State) (r : BitVec 4) (v : DWord) :
    s.writeShared (.nocRtBank r s.spine.cur) v = s := if_pos rfl

/-- Settles O37, register by register. -/
theorem registerWritesFollowTheirAccessCodes : Obligations.RegisterWritesFollowTheirAccessCodes := by
  intro v hw s
  refine ⟨rfl, answers_write_cdCfg v hw s, answers_write_rstCause v hw s, answers_write_hbFuncCfg v hw s,
    fun n _ crit_lt_warn => ?vwin, answers_write_lckGrpF0 v hw s, fun r b is_cur => ?route⟩
  case vwin => exact congrArg Host.Outcome.next (s.writeVwin_of_crit_lt_warn n.toNat crit_lt_warn)
  case route =>
    subst is_cur
    exact congrArg Host.Outcome.next (s.writeShared_nocRtBank_cur r v)

end Sys2Proof.Machine
end

section
/-! PROOFS. A credit that a consumer owes comes back to the producer of its boundary (01 R28, R29). -/

namespace Sys2Proof.Machine

/-- A producer that holds fewer credits than the consumer's `cap` places takes one that is owed; `Credits.back` keeps the
credits as they are otherwise, so that the count never exceeds the queue (01 R29). -/
theorem Credits.back_of_owed {cap : Nat} {k : Credits} (owed : 0 < k.owed) (room : k.avail < cap) :
    k.back cap = ⟨k.avail + 1, k.owed - 1⟩ := if_neg (by omega)

/-- The couch of a cluster takes its credit in its own cluster's entry, and no other part of the state changes. -/
theorem State.updCluster_couchIn_back (s : State) (c : ClusterId) (owed : 0 < (s.cluster c).couchIn.owed)
    (room : (s.cluster c).couchIn.avail < 16) :
    let s' := s.updCluster c fun cl => { cl with couchIn := cl.couchIn.back 16 }
    (s'.cluster c).couchIn = ⟨(s.cluster c).couchIn.avail + 1, (s.cluster c).couchIn.owed - 1⟩ ∧
      { s' with clusters := s.clusters } = s := by
  refine ⟨?_, rfl⟩
  rw [State.cluster_updCluster_same]
  exact Credits.back_of_owed owed room

/-- Settles O19, boundary by boundary: the four that only count take an owed credit by `Credits.back_of_owed`, and the two
whose producer may wait for it (dispatch, outbound couch) go on by the model's own operation. -/
theorem creditsComeBack : Obligations.CreditsComeBack := by
  intro s c
  refine ⟨fun owed room => ?linkA, fun owed room => ?linkB, fun owed room => ?couchIn, fun owed room => ?processIo,
    ?dispatch, ?couchOut⟩
  case linkA => exact ⟨_, rfl, Credits.back_of_owed owed room, rfl⟩
  case linkB => exact ⟨_, rfl, Credits.back_of_owed owed room, rfl⟩
  case couchIn => exact ⟨_, rfl, s.updCluster_couchIn_back c owed room⟩
  case processIo => exact ⟨_, rfl, Credits.back_of_owed owed room, rfl⟩
  case dispatch => exact ⟨_, rfl, rfl⟩
  case couchOut => exact ⟨_, rfl, rfl⟩

end Sys2Proof.Machine
end

section
/-! PROOFS. What the host hub's shared operations change of a ring and of the part: interrupt messages, event records, a
ring's new form, faults of a ring, and the step past a head entry (12 R345-R358). -/

namespace Sys2Proof.Machine

/-! ## The part outside the hub -/

/-- The part without its host hub and without what has left it: what a transfer or an interrupt message leaves as it is. -/
def State.offHub (s : State) : State := { s with hub := {}, out := [] }

/-- Where nothing changed outside the hub, the old hub and the old transfers give the old state back. -/
theorem State.frame_of_offHub {s s' : State} (same : s'.offHub = s.offHub) : { s' with hub := s.hub, out := s.out } = s := by
  calc { s' with hub := s.hub, out := s.out }
      = { s'.offHub with hub := s.hub, out := s.out } := rfl
    _ = { s.offHub with hub := s.hub, out := s.out } := by rw [same]
    _ = s := rfl

@[simp] theorem State.offHub_updHub (s : State) (g : Hub → Hub) : (s.updHub g).offHub = s.offHub := rfl

@[simp] theorem State.offHub_emit (s : State) (o : Output) : (s.emit o).offHub = s.offHub := rfl

@[simp] theorem State.offHub_setRing (s : State) (f : FuncId) (r : RingId) (g : Ring) : (s.setRing f r g).offHub = s.offHub := rfl

@[simp] theorem State.offHub_updRing (s : State) (f : FuncId) (r : RingId) (u : Ring → Ring) :
    (s.updRing f r u).offHub = s.offHub := by
  unfold State.updRing; split <;> rfl

@[simp] theorem State.offHub_emitFor (s : State) (f : FuncId) (o : Output) : (s.emitFor f o).offHub = s.offHub := by
  unfold State.emitFor; split <;> rfl

@[simp] theorem State.offHub_covered (s : State) (f : FuncId) (v : BitVec 6) : (s.covered f v).offHub = s.offHub := rfl

@[simp] theorem State.offHub_raise (s : State) (f : FuncId) (v : BitVec 6) : (s.raise f v).offHub = s.offHub := by
  unfold State.raise
  dsimp only
  split
  · simp
  · split <;> rfl

@[simp] theorem State.offHub_stageItem (s : State) (f : FuncId) (r : RingId) (i : ReelItem) :
    (s.stageItem f r i).offHub = s.offHub := by simp [State.stageItem]

@[simp] theorem State.offHub_event (s : State) (f : FuncId) (code : BitVec 16) (object : Nat) (value : DWord) :
    (s.event f code object value).offHub = s.offHub := by
  unfold State.event; split <;> simp

@[simp] theorem State.offHub_aerReport (s : State) (f : FuncId) (e : AerErr) : (s.aerReport f e).offHub = s.offHub := rfl

@[simp] theorem State.offHub_toBroke (s : State) (tok : Token) (cause : Byte) (x : CtxId) (counted poison : Bool) :
    (s.toBroke tok cause x counted poison).offHub = s.offHub := rfl

@[simp] theorem State.offHub_ringTo (s : State) (f : FuncId) (r : RingId) (g g' : Ring) (cause : Bool) :
    (s.ringTo f r g g' cause).offHub = s.offHub := by
  unfold State.ringTo
  dsimp only
  split <;> simp

@[simp] theorem State.offHub_ringFault (s : State) (f : FuncId) (r : RingId) (cause : BitVec 4) :
    (s.ringFault f r cause).offHub = s.offHub := by
  unfold State.ringFault
  split
  · rfl
  · split <;> simp

@[simp] theorem State.offHub_shadowF (s : State) (f : FuncId) (g : Ring) (r : RingId) : (s.shadowF f g r).offHub = s.offHub := by
  unfold State.shadowF
  dsimp only
  split
  · rfl
  · split <;> simp

@[simp] theorem State.offHub_ringNext (s : State) (f : FuncId) (r : RingId) (notify : Bool) :
    (s.ringNext f r notify).offHub = s.offHub := by
  unfold State.ringNext; split <;> simp

@[simp] theorem State.offHub_hbReject (s : State) (f : FuncId) (r : RingId) (x : CtxId) (e : BitVec 256) (cause : Byte) :
    (s.hbReject f r x e cause).offHub = s.offHub := by simp [State.hbReject]

/-! ## The queue toward the broke queue -/

@[simp] theorem State.brokeIn_updRing (s : State) (f : FuncId) (r : RingId) (u : Ring → Ring) :
    (s.updRing f r u).hub.brokeIn = s.hub.brokeIn := by
  unfold State.updRing; split <;> rfl

@[simp] theorem State.brokeIn_emitFor (s : State) (f : FuncId) (o : Output) : (s.emitFor f o).hub.brokeIn = s.hub.brokeIn := by
  unfold State.emitFor; split <;> rfl

@[simp] theorem State.brokeIn_covered (s : State) (f : FuncId) (v : BitVec 6) :
    (s.covered f v).hub.brokeIn = s.hub.brokeIn := rfl

@[simp] theorem State.brokeIn_raise (s : State) (f : FuncId) (v : BitVec 6) : (s.raise f v).hub.brokeIn = s.hub.brokeIn := by
  unfold State.raise
  dsimp only
  split
  · simp
  · split <;> rfl

@[simp] theorem State.brokeIn_ringTo (s : State) (f : FuncId) (r : RingId) (g g' : Ring) (cause : Bool) :
    (s.ringTo f r g g' cause).hub.brokeIn = s.hub.brokeIn := by
  unfold State.ringTo
  dsimp only
  split
  · rw [State.brokeIn_raise]; rfl
  · rfl

@[simp] theorem State.brokeIn_shadowF (s : State) (f : FuncId) (g : Ring) (r : RingId) :
    (s.shadowF f g r).hub.brokeIn = s.hub.brokeIn := by
  unfold State.shadowF
  dsimp only
  split
  · rfl
  · split <;> simp

@[simp] theorem State.brokeIn_ringNext (s : State) (f : FuncId) (r : RingId) (notify : Bool) :
    (s.ringNext f r notify).hub.brokeIn = s.hub.brokeIn := by
  unfold State.ringNext; split <;> simp

/-! ## One ring -/

/-- A ring but for what the reel's staging, the moderation of its vector, its watermark and the writes of its shadow keep. -/
def Ring.core (g : Ring) : Ring := { g with items := [], uncovered := 0, wm := {}, sinceShadow := 0 }

/-- The core of ring `r` of function `f`, when it exists. -/
def State.ringCore (s : State) (f : FuncId) (r : RingId) : Option Ring := (s.ring f r).map Ring.core

theorem State.ringCore_of_ring {s : State} {f : FuncId} {r : RingId} {g : Ring} (ring : s.ring f r = some g) :
    s.ringCore f r = some g.core := by rw [State.ringCore, ring]; rfl

theorem State.ring_of_ringCore {s : State} {f : FuncId} {r : RingId} {g : Ring} (core : s.ringCore f r = some g.core) :
    ∃ g', s.ring f r = some g' ∧ g'.core = g.core := by
  simpa only [State.ringCore, Option.map_eq_some_iff] using core

theorem Map.find_mapV {α β : Type} (u : Nat → α → β) (m : Map α) (k : Nat) :
    (m.mapV u).find k = (m.find k).map (u k) := by
  induction m with
  | nil => rfl
  | cons e m ih =>
    obtain ⟨j, w⟩ := e
    simp only [Map.mapV, Map.find]
    split
    case isTrue same => rw [same]; rfl
    case isFalse => exact ih

@[simp] theorem State.ringCore_setRing_same (s : State) (f : FuncId) (r : RingId) (g : Ring) :
    (s.setRing f r g).ringCore f r = some g.core := by simp [State.ringCore]

/-- A change of a ring that its core does not show changes no ring's core. -/
theorem State.ringCore_updRing (s : State) (f h : FuncId) (r q : RingId) {u : Ring → Ring} (keeps : ∀ g, (u g).core = g.core) :
    (s.updRing f r u).ringCore h q = s.ringCore h q := by
  unfold State.updRing
  split
  case h_1 => rfl
  case h_2 g found =>
    by_cases same : h = f ∧ q = r
    · obtain ⟨rfl, rfl⟩ := same
      rw [State.ringCore_setRing_same, keeps, State.ringCore_of_ring found]
    · rw [State.ringCore, State.ring_setRing_other s same, State.ringCore]

@[simp] theorem State.ringCore_emitFor (s : State) (f h : FuncId) (q : RingId) (o : Output) :
    (s.emitFor f o).ringCore h q = s.ringCore h q := by
  unfold State.emitFor; split <;> rfl

@[simp] theorem State.ringCore_covered (s : State) (f h : FuncId) (q : RingId) (v : BitVec 6) :
    (s.covered f v).ringCore h q = s.ringCore h q := by
  simp only [State.ringCore, State.ring, State.covered, State.updHub_hub, Map.find_mapV, Option.map_map]
  congr 1
  funext g
  simp only [Function.comp]
  split <;> rfl

@[simp] theorem State.ringCore_raise (s : State) (f h : FuncId) (q : RingId) (v : BitVec 6) :
    (s.raise f v).ringCore h q = s.ringCore h q := by
  unfold State.raise
  dsimp only
  split
  · simp
  · split <;> rfl

@[simp] theorem State.ringCore_stageItem (s : State) (f h : FuncId) (r q : RingId) (i : ReelItem) :
    (s.stageItem f r i).ringCore h q = s.ringCore h q := s.ringCore_updRing f h r q fun _ => rfl

@[simp] theorem State.ringCore_event (s : State) (f h : FuncId) (q : RingId) (code : BitVec 16) (object : Nat) (value : DWord) :
    (s.event f code object value).ringCore h q = s.ringCore h q := by
  unfold State.event; split <;> simp

@[simp] theorem State.ringCore_aerReport (s : State) (f h : FuncId) (q : RingId) (e : AerErr) :
    (s.aerReport f e).ringCore h q = s.ringCore h q := rfl

@[simp] theorem State.ringCore_shadowF (s : State) (f h : FuncId) (g : Ring) (r q : RingId) :
    (s.shadowF f g r).ringCore h q = s.ringCore h q := by
  unfold State.shadowF
  dsimp only
  split
  · rfl
  · split
    · rw [State.ringCore_emitFor]
      exact s.ringCore_updRing f h r q fun _ => rfl
    · rfl

/-- A ring takes the new form, but for its watermark. -/
@[simp] theorem State.ringCore_ringTo (s : State) (f : FuncId) (r : RingId) (g g' : Ring) (cause : Bool) :
    (s.ringTo f r g g' cause).ringCore f r = some g'.core := by
  unfold State.ringTo
  dsimp only
  split
  · rw [State.ringCore_raise, State.ringCore_setRing_same]; rfl
  · rw [State.ringCore_setRing_same]; rfl

/-- A ring that has not failed enters RING_FAULT with the cause. -/
theorem State.ringCore_ringFault {s : State} {f : FuncId} {r : RingId} {g : Ring} (ring : s.ring f r = some g)
    (sound : g.rfault = false) (cause : BitVec 4) :
    (s.ringFault f r cause).ringCore f r = some ({ g with rfault := true, fcause := cause } : Ring).core := by
  simp [State.ringFault, ring, sound]

/-- A ring past its head entry: D has moved on and nothing waits there. -/
def Ring.passed (g : Ring) : Ring := { g with d := g.d + 1, waiting := none, held := false }

/-- The step past the head entry leaves the ring passed, but for what its core does not show. -/
theorem State.ringCore_ringNext {s : State} {f : FuncId} {r : RingId} {g : Ring} (ring : s.ring f r = some g) (notify : Bool) :
    (s.ringNext f r notify).ringCore f r = some g.passed.core := by
  simp only [State.ringNext, ring, State.ringCore_shadowF, State.ringCore_ringTo]
  rfl

end Sys2Proof.Machine
end

section
/-! PROOFS. Doorbells publish entries, and the headbox injects or refuses the entry at the head of a ring (02 R46, 12 R346-R349). -/

namespace Sys2Proof.Machine

/-! ## Doorbells -/

/-- A doorbell where the function's BARs answer moves the index of a REEL ring within its entries, or of another ring within its
free places. -/
theorem exec_ringDoorbell {s : State} {f : FuncId} {r : RingId} {g : Ring} (answers : s.barsAnswer f = true)
    (ring : s.ring f r = some g) (v : Word) :
    exec (.ringDoorbell f r v) s =
      .next (if g.kind = 1 then s.consumed f r g (bits v 0 16) else s.publish f r g (bits v 0 16)) := by
  show execRingDoorbell f r v s = _
  simp only [execRingDoorbell, answers, ring, not_true_eq_false, if_false]

/-- A state in which the ring's index is `p` and everything else of the ring and of the part outside the hub is as before. -/
def State.movedTo (s : State) (f : FuncId) (r : RingId) (g : Ring) (p : BitVec 16) (s' : State) : Prop :=
  ∃ ahead, s'.ringCore f r = some ({ g with h := p, overrun := ahead } : Ring).core ∧ s'.offHub = s.offHub

/-- A state in which the ring has failed with the cause, and everything else of it and of the part outside the hub is as before. -/
def State.faultedWith (s : State) (f : FuncId) (r : RingId) (g : Ring) (cause : BitVec 4) (s' : State) : Prop :=
  s'.ringCore f r = some ({ g with rfault := true, fcause := cause } : Ring).core ∧ s'.offHub = s.offHub

theorem State.ringFault_faultedWith {s : State} {f : FuncId} {r : RingId} {g : Ring} (ring : s.ring f r = some g)
    (sound : g.rfault = false) (cause : BitVec 4) : s.faultedWith f r g cause (s.ringFault f r cause) :=
  ⟨State.ringCore_ringFault ring sound cause, s.offHub_ringFault f r cause⟩

theorem State.consumed_moved {s : State} {f : FuncId} {r : RingId} {g : Ring} {p : BitVec 16}
    (within : (p - g.h).toNat ≤ (g.d - g.h).toNat) : s.movedTo f r g p (s.consumed f r g p) := by
  rw [State.consumed, if_neg (Nat.not_lt.mpr within)]
  exact ⟨g.overrun, s.ringCore_ringTo f r g _ false, s.offHub_ringTo f r g _ false⟩

theorem State.consumed_faulted {s : State} {f : FuncId} {r : RingId} {g : Ring} {p : BitVec 16} (ring : s.ring f r = some g)
    (sound : g.rfault = false) (beyond : (g.d - g.h).toNat < (p - g.h).toNat) :
    s.faultedWith f r g 1 (s.consumed f r g p) := by
  rw [State.consumed, if_pos beyond]
  exact State.ringFault_faultedWith ring sound 1

/-- Without a mark a doorbell within the free places covers nothing: the index moves, or stands already where it points. -/
theorem State.publish_moved {s : State} {f : FuncId} {r : RingId} {g : Ring} {p : BitVec 16} (ring : s.ring f r = some g)
    (unmarked : g.markv = false) (within : (p - g.h).toNat ≤ g.size - (g.h - g.d).toNat) :
    s.movedTo f r g p (s.publish f r g p) := by
  by_cases stands : p = g.h
  · refine ⟨g.overrun, ?_, ?_⟩ <;> rw [State.publish, if_neg (Nat.not_lt.mpr within), if_pos stands]
    rw [State.ringCore_of_ring ring, stands]
  · have nothing (a b : Bool) : (g.markv && a && b) = false := by rw [unmarked]; rfl
    simp only [State.publish, if_neg (Nat.not_lt.mpr within), stands, nothing, Bool.false_eq_true, if_false, ring]
    exact ⟨_, s.ringCore_ringTo f r g _ false, s.offHub_ringTo f r g _ false⟩

theorem State.publish_faulted {s : State} {f : FuncId} {r : RingId} {g : Ring} {p : BitVec 16} (ring : s.ring f r = some g)
    (sound : g.rfault = false) (beyond : g.size - (g.h - g.d).toNat < (p - g.h).toNat) :
    s.faultedWith f r g 1 (s.publish f r g p) := by
  rw [State.publish, if_pos beyond]
  exact State.ringFault_faultedWith ring sound 1

/-- The ring after a doorbell that moved its index. -/
theorem State.movedTo.ring {s s' : State} {f : FuncId} {r : RingId} {g : Ring} {p : BitVec 16} (moved : s.movedTo f r g p s') :
    (∃ g', s'.ring f r = some g' ∧ g'.h = p ∧ g'.d = g.d ∧ g'.mark = g.mark ∧ g'.rfault = g.rfault) ∧
      { s' with hub := s.hub, out := s.out } = s := by
  obtain ⟨_, core, frame⟩ := moved
  obtain ⟨g', ring, same⟩ := State.ring_of_ringCore core
  have index := congrArg Ring.h same
  have done := congrArg Ring.d same
  have mark := congrArg Ring.mark same
  have fault := congrArg Ring.rfault same
  exact ⟨⟨g', ring, index, done, mark, fault⟩, State.frame_of_offHub frame⟩

/-- The ring after a fault: its indices stand. -/
theorem State.faultedWith.ring {s s' : State} {f : FuncId} {r : RingId} {g : Ring} {cause : BitVec 4}
    (faulted : s.faultedWith f r g cause s') :
    (∃ g', s'.ring f r = some g' ∧ g'.h = g.h ∧ g'.d = g.d ∧ g'.rfault = true ∧ g'.fcause = cause) ∧
      { s' with hub := s.hub, out := s.out } = s := by
  obtain ⟨core, frame⟩ := faulted
  obtain ⟨g', ring, same⟩ := State.ring_of_ringCore core
  have index := congrArg Ring.h same
  have done := congrArg Ring.d same
  have fault := congrArg Ring.rfault same
  have told := congrArg Ring.fcause same
  exact ⟨⟨g', ring, index, done, fault, told⟩, State.frame_of_offHub frame⟩

/-! ## Reading an entry -/

/-- A ring that is read has not failed. -/
theorem State.rfault_of_ringReads {s : State} {f : FuncId} {g : Ring} (reads : s.ringReads f g = true) : g.rfault = false := by
  simp only [State.ringReads, Bool.and_eq_true, Bool.not_eq_true'] at reads
  obtain ⟨⟨⟨_, sound⟩, _⟩, _⟩ := reads
  exact sound

/-- The state in which the headbox checks the entry that it has read. -/
def State.hbRead (s : State) (f : FuncId) (r : RingId) (g : Ring) : State := (s.hbTake f r).setRing f r g

/-- An unmarked entry of a ring whose turn it is, is checked as it comes. -/
theorem exec_headboxEntry_read {s : State} {f : FuncId} {r : RingId} {g : Ring} {e : BitVec 256} (ring : s.ring f r = some g)
    (kind : g.kind = 0) (free : g.waiting = none) (reads : s.ringReads f g = true) (turn : s.hbServes f r = true)
    (unmarked : hbMark e = false) : exec (.headboxEntry f r e) s = .next ((s.hbRead f r g).hbEntry f r g e false) := by
  show execHeadboxEntry f r e s = _
  simp only [execHeadboxEntry, ring, kind, free, reads, turn, unmarked, ne_eq, not_true_eq_false, or_self, Bool.false_eq_true, if_false]
  rfl

/-- A ring whose turn in the rotation has not come is not read (12 R349). -/
theorem exec_headboxEntry_noTurn {s : State} {f : FuncId} {r : RingId} {g : Ring} (ring : s.ring f r = some g)
    (kind : g.kind = 0) (free : g.waiting = none) (waits : s.hbServes f r = false) (e : BitVec 256) :
    exec (.headboxEntry f r e) s = .next s := by
  show execHeadboxEntry f r e s = _
  simp only [execHeadboxEntry, ring, kind, free, waits, ne_eq, not_true_eq_false, not_false_eq_true, or_true, Bool.false_eq_true,
    if_false, if_true]

/-- The ring after its head entry has been dealt with. -/
theorem State.ring_passed {s : State} {f : FuncId} {r : RingId} {g : Ring} (sound : g.rfault = false)
    (core : s.ringCore f r = some g.passed.core) :
    ∃ g', s.ring f r = some g' ∧ g'.d = g.d + 1 ∧ g'.h = g.h ∧ g'.waiting = none ∧ g'.rfault = false := by
  obtain ⟨g', ring, same⟩ := State.ring_of_ringCore core
  have done := congrArg Ring.d same
  have index := congrArg Ring.h same
  have waits := congrArg Ring.waiting same
  have fault := (congrArg Ring.rfault same).trans sound
  exact ⟨g', ring, done, index, waits, fault⟩

/-- A refused entry goes to the broke queue and the ring goes on (02 R46). -/
theorem State.hbReject_spec {s : State} {f : FuncId} {r : RingId} {g : Ring} (x : CtxId) (e : BitVec 256) (cause : Byte) :
    let s' := (s.hbRead f r g).hbReject f r x e cause
    s'.ringCore f r = some g.passed.core ∧
      s'.hub.brokeIn = s.hub.brokeIn ++ [⟨hbToken e, cause, x, false, tagKind (hbTag e) == 6⟩] ∧ s'.offHub = s.offHub := by
  refine ⟨?_, ?_, ?_⟩
  · exact State.ringCore_ringNext (s := (s.hbRead f r g).toBroke (hbToken e) cause x false) (s.hbTake f r |>.ring_setRing_same f r g) _
  · rw [State.hbReject, State.brokeIn_ringNext]
    simp only [State.toBroke, State.updHub_hub, Bool.false_or]
    rfl
  · rw [State.offHub_hbReject]; rfl

/-! ## A good data entry enters the spine -/

/-- An entry that keeps the rules of the first stage names the context its ring is bound to. -/
theorem tagCtx_of_hbStage1 {x : CtxId} {e : BitVec 256} (stage1 : hbStage1 x e = true) : tagCtx (hbTag e) = x := by
  simp only [hbStage1, Bool.and_eq_true, beq_iff_eq] at stage1
  obtain ⟨⟨_, bound⟩, _⟩ := stage1
  exact bound

theorem hbToken_of_no_tick {e : BitVec 256} (tick : hbTick e = 0) :
    hbToken e = { tag := hbTag e, value := hbValue e, tick := none } := by
  rw [hbToken, if_pos tick]

/-- A token without a tick leaves a ring at once where its link has a place. -/
theorem State.hbData_injects {s : State} {f : FuncId} {e : BitVec 256} (r : RingId) (g : Ring) (tick : hbTick e = 0)
    (place : 1 ≤ (s.linkOf f).avail) :
    s.hbData f r g e = (s.hubInject f (hbToken e)).ringNext f r (hbNotify e) := by
  rw [State.hbData, hbToken_of_no_tick tick]
  exact if_pos place

/-- An entry that passes the three stages of 02 R46 and that no update holds is a data or control token's. -/
theorem State.hbEntry_data {s : State} {f : FuncId} {r : RingId} {g : Ring} {e : BitVec 256} {ask : Bool}
    (stage1 : hbStage1 g.ctx e = true) (accepts : s.entryAccepts g.ctx = true) (owner : (s.ctx g.ctx).owner = f)
    (ringRow : g.refuse = false) (funcRow : (s.func f).refuse = false) (stage3 : s.hbStage3 (hbTag e) = true)
    (kind : tagKind (hbTag e) = 0 ∨ tagKind (hbTag e) = 4) (free : s.entryHeld (hbTag e) = false) :
    s.hbEntry f r g e ask = s.hbData f r g e := by
  have notSkip : tagKind (hbTag e) ≠ 5 := by rcases kind with k | k <;> rw [k] <;> decide
  have notChan : ¬ (tagKind (hbTag e) = 2 ∨ tagKind (hbTag e) = 3) := by rcases kind with k | k <;> rw [k] <;> decide
  simp only [State.hbEntry, stage1, accepts, owner, ringRow, funcRow, stage3, free, notSkip, notChan, bne_self_eq_false,
    Bool.not_true, Bool.or_self, Bool.false_eq_true, if_false]

/-- The packet of a token without a tick carries that token (11 R317). -/
theorem packetToken_of_flits {p : Packet} {tag value : DWord} (flits : p.flits = [value ++ tag]) (type : p.type = 0) :
    packetToken p = { tag := tag, value := value, tick := none } := by
  have head : p.head = value ++ tag := by rw [Packet.head, flits]; rfl
  have low : (bits (value ++ tag) 0 64 : DWord) = tag := BitVec.extractLsb'_append_eq_right
  have high : (bits (value ++ tag) 64 64 : DWord) = value := BitVec.extractLsb'_append_eq_left
  simp [packetToken, head, type, low, high]

/-- A VC0 packet that joins an input stands behind those that are there. -/
theorem State.buf_pushBuf_vc0 (s : State) (r : BitVec 4) (port : Nat) {p : Packet} (vc : p.vc = 0) :
    (s.pushBuf r port p).buf r port 0 = s.buf r port 0 ++ [p] := by
  simp [State.buf, State.pushBuf, Spine.push, vc]

/-- The packet of a token of function `f` without a tick, toward endpoint `de` of router `dr`. -/
def hubPacket (f : FuncId) (dr de : BitVec 4) (tok : Token) : Packet :=
  { dr := dr, de := de, vc := 0, type := 0, epoch := false, sr := (hubLink f).1, se := (hubLink f).2, pri := false,
    flits := tokenFlits tok }

/-- A token without a tick is noted in the entry of its context, takes a place of the hub link and enters its input there. -/
theorem State.hubInject_no_tick {s : State} (f : FuncId) {tok : Token} (tick : tok.tick = none) :
    s.hubInject f tok = ((((s.accepted tok.tag).inflightAdd (tagCtx tok.tag) 1).takeLink f (tokenFlits tok).length).pushBuf (hubLink f).1
      (4 + (hubLink f).2.toNat) (hubPacket f (s.tokenDest tok.tag).1 (s.tokenDest tok.tag).2 tok)) := by
  simp only [State.hubInject, tick]
  rfl

@[simp] theorem State.takeLink_rings (s : State) (f : FuncId) (n : Nat) : (s.takeLink f n).hub.rings = s.hub.rings := by
  simp only [State.takeLink, State.updHub_hub]; split <;> rfl

@[simp] theorem State.takeLink_brokeIn (s : State) (f : FuncId) (n : Nat) :
    (s.takeLink f n).hub.brokeIn = s.hub.brokeIn := by
  simp only [State.takeLink, State.updHub_hub]; split <;> rfl

/-- The entry of a token's context once the token has been accepted and counts in INFLIGHT (02 R47, 06 R181). -/
theorem State.ctx_injected (s : State) (tag : DWord) :
    ((s.accepted tag).inflightAdd (tagCtx tag) 1).ctx (tagCtx tag) =
      { s.ctx (tagCtx tag) with instb := tagInst tag, inflight := (s.ctx (tagCtx tag)).inflight + 1 } := by
  rw [State.inflightAdd, State.ctx_updCtx_same, State.accepted, State.ctx_updCtx_same]
  rfl

theorem State.ctx_injected_other (s : State) (tag : DWord) {x : CtxId} (other : x ≠ tagCtx tag) :
    ((s.accepted tag).inflightAdd (tagCtx tag) 1).ctx x = s.ctx x := by
  rw [State.inflightAdd, State.ctx_updCtx_other _ other, State.accepted, State.ctx_updCtx_other _ other]

/-- What an injection from a ring does: INSTB and INFLIGHT of the context, and one packet at the hub link. -/
structure State.Injected (s : State) (f : FuncId) (tok : Token) (s' : State) : Prop where
  entry : (s'.ctx (tagCtx tok.tag)).inflight = (s.ctx (tagCtx tok.tag)).inflight + 1 ∧
    (s'.ctx (tagCtx tok.tag)).instb = tagInst tok.tag
  others : ∀ x, x ≠ tagCtx tok.tag → s'.ctx x = s.ctx x
  packet : ∃ p, s'.buf (hubLink f).1 (4 + (hubLink f).2.toNat) 0 = s.buf (hubLink f).1 (4 + (hubLink f).2.toNat) 0 ++ [p] ∧
    p.vc = 0 ∧ packetToken p = tok
  frame : { s' with hub := s.hub, out := s.out, ctxs := s.ctxs, spine := s.spine } = s

/-- Outside the hub nothing more is asked of the state after an injection. -/
theorem State.Injected.of_offHub {s a s' : State} {f : FuncId} {tok : Token} (done : s.Injected f tok a)
    (same : s'.offHub = a.offHub) : s.Injected f tok s' where
  entry := by
    have entries : s'.offHub.ctx = a.offHub.ctx := congrArg State.ctx same
    exact entries ▸ done.entry
  others := by
    have entries : s'.offHub.ctx = a.offHub.ctx := congrArg State.ctx same
    exact entries ▸ done.others
  packet := by
    have inputs : s'.offHub.buf = a.offHub.buf := congrArg State.buf same
    exact inputs ▸ done.packet
  frame := by
    calc { s' with hub := s.hub, out := s.out, ctxs := s.ctxs, spine := s.spine }
        = { s'.offHub with hub := s.hub, out := s.out, ctxs := s.ctxs, spine := s.spine } := rfl
      _ = { a.offHub with hub := s.hub, out := s.out, ctxs := s.ctxs, spine := s.spine } := by rw [same]
      _ = { a with hub := s.hub, out := s.out, ctxs := s.ctxs, spine := s.spine } := rfl
      _ = s := done.frame

/-- Reading the entry changed the hub alone, so the injection counts from the state before it. -/
theorem State.Injected.of_hbRead {s a : State} {f : FuncId} {r : RingId} {g : Ring} {tok : Token}
    (done : (s.hbRead f r g).Injected f tok a) : s.Injected f tok a :=
  ⟨done.entry, done.others, done.packet, congrArg (fun t : State => { t with hub := s.hub }) done.frame⟩

theorem State.hubInject_injected {s : State} (f : FuncId) {tok : Token} (tick : tok.tick = none) :
    s.Injected f tok (s.hubInject f tok) := by
  rw [State.hubInject_no_tick f tick]
  have flits : tokenFlits tok = [tok.value ++ tok.tag] := by rw [tokenFlits, tick]
  have token : tok = { tag := tok.tag, value := tok.value, tick := none } := by rw [← tick]
  refine ⟨⟨?_, ?_⟩, fun x other => ?_, ⟨_, State.buf_pushBuf_vc0 _ _ _ rfl, rfl, ?_⟩, rfl⟩
  · exact congrArg Ctx.inflight (s.ctx_injected tok.tag)
  · exact congrArg Ctx.instb (s.ctx_injected tok.tag)
  · exact s.ctx_injected_other tok.tag other
  · exact (packetToken_of_flits flits rfl).trans token.symm

/-- An entry without a tick that its ring injects: the ring is past it, and its token is in the spine. -/
theorem State.hbData_spec {s : State} {f : FuncId} {r : RingId} {g : Ring} {e : BitVec 256} (tick : hbTick e = 0)
    (place : 1 ≤ (s.linkOf f).avail) :
    let s' := (s.hbRead f r g).hbData f r g e
    s'.ringCore f r = some g.passed.core ∧
      s'.hub.brokeIn = s.hub.brokeIn ∧ s.Injected f (hbToken e) s' := by
  have noTick : (hbToken e).tick = none := by rw [hbToken_of_no_tick tick]
  have taken : ((s.hbRead f r g).hubInject f (hbToken e)).ring f r = some g := by
    rw [State.hubInject_no_tick f noTick]
    exact (congrArg (Map.find · (ringKey f r)) (State.takeLink_rings _ f _)).trans ((s.hbTake f r).ring_setRing_same f r g)
  have injected : (s.hbRead f r g).Injected f (hbToken e) ((s.hbRead f r g).hubInject f (hbToken e)) :=
    State.hubInject_injected f noTick
  rw [State.hbData_injects (s := s.hbRead f r g) r g tick place]
  refine ⟨State.ringCore_ringNext taken _, ?_, ?_⟩
  · rw [State.brokeIn_ringNext, State.hubInject_no_tick f noTick]
    exact State.takeLink_brokeIn _ f _
  · exact injected.of_hbRead.of_offHub (State.offHub_ringNext _ f r _)

/-! ## A read that fails -/

/-- The error that a failed read of ring memory reports and the cause it gives the ring (12 R339, R346). -/
theorem exec_ringReadFailure {s : State} {f : FuncId} {r : RingId} {g : Ring} (ring : s.ring f r = some g)
    (reads : s.ringReads f g = true) (kind : g.kind ≠ 1) :
    exec (.ringReadFailure f r .timeout) s = .next ((s.ringFault f r 2).aerReport f .timeout) ∧
    exec (.ringReadFailure f r .poisoned) s = .next ((s.ringFault f r 3).aerReport f .poisoned) ∧
    exec (.ringReadFailure f r .urca) s = .next ((s.ringFault f r 4).aerReport f .unsupportedOrAbort) := by
  have arm (err : DmaIn) : exec (.ringReadFailure f r err) s = execRingReadFailure f r err s := rfl
  simp only [arm, execRingReadFailure, ring, reads, kind, not_true_eq_false, or_self, if_false, and_self]

theorem State.ringFault_aerReport {s : State} {f : FuncId} {r : RingId} {g : Ring} (ring : s.ring f r = some g)
    (sound : g.rfault = false) (cause : BitVec 4) (err : AerErr) :
    s.faultedWith f r g cause ((s.ringFault f r cause).aerReport f err) := by
  obtain ⟨core, frame⟩ := State.ringFault_faultedWith ring sound cause
  exact ⟨(State.ringCore_aerReport _ f f r err).trans core, (State.offHub_aerReport _ f err).trans frame⟩

/-- Settles O32: doorbells by `State.movedTo` and `State.faultedWith`, entries by `State.hbReject_spec` and
`State.hbData_spec`, failed reads by `State.ringFault_aerReport`. -/
theorem headboxRingsTakeEntries : Obligations.HeadboxRingsTakeEntries := by
  refine ⟨fun f r v s g answers ring => ?doorbell, fun f r s g ring reads => ?entry⟩
  case doorbell =>
    intro p moved faulted
    have bell := exec_ringDoorbell answers ring v
    refine ⟨fun kind within => ?_, fun kind sound beyond => ?_, fun kind unmarked within => ?_, fun kind sound beyond => ?_⟩
    · exact ⟨_, by rw [bell, if_pos kind], (State.consumed_moved within).ring⟩
    · exact ⟨_, by rw [bell, if_pos kind], (State.consumed_faulted ring sound beyond).ring⟩
    · exact ⟨_, by rw [bell, if_neg kind], (State.publish_moved ring unmarked within).ring⟩
    · exact ⟨_, by rw [bell, if_neg kind], (State.publish_faulted ring sound beyond).ring⟩
  case entry =>
    have sound := State.rfault_of_ringReads reads
    refine ⟨fun kind free waits e => exec_headboxEntry_noTurn ring kind free waits e,
      fun e kind free unmarked turn => ⟨fun bad => ?refused, ?injected⟩, fun k kind => ?failed⟩
    case refused =>
      obtain ⟨core, broke, frame⟩ := State.hbReject_spec (s := s) (f := f) (r := r) (g := g) g.ctx e RESERVED_FIELD
      have read := exec_headboxEntry_read ring kind free reads turn unmarked
      rw [State.hbEntry, bad] at read
      exact ⟨_, read, State.ring_passed sound core, broke, State.frame_of_offHub frame⟩
    case injected =>
      intro stage1 accepts owner ringRow funcRow stage3 kinds tick notHeld place
      have read := exec_headboxEntry_read ring kind free reads turn unmarked
      rw [State.hbEntry_data (s := s.hbRead f r g) stage1 accepts owner ringRow funcRow stage3 kinds notHeld] at read
      obtain ⟨core, broke, injected⟩ := State.hbData_spec (s := s) (f := f) (r := r) (g := g) tick place
      have bound : tagCtx (hbToken e).tag = g.ctx := tagCtx_of_hbStage1 stage1
      obtain ⟨⟨inflight, instb⟩, others, packet, frame⟩ := injected
      rw [bound] at inflight instb others
      exact ⟨_, read, State.ring_passed sound core, broke, inflight, instb, others, packet, frame⟩
    case failed =>
      obtain ⟨timeout, poisoned, urca⟩ := exec_ringReadFailure ring reads kind
      have faulted (err : AerErr) := (State.ringFault_aerReport ring sound k err).ring
      refine ⟨fun cause => ⟨_, timeout, ?_⟩, fun cause => ⟨_, poisoned, ?_⟩, fun cause => ⟨_, urca, ?_⟩⟩ <;> subst cause
      · obtain ⟨⟨g', ring', index, done, fault, told⟩, frame⟩ := faulted .timeout
        exact ⟨⟨g', ring', fault, told, done, index⟩, frame⟩
      · obtain ⟨⟨g', ring', index, done, fault, told⟩, frame⟩ := faulted .poisoned
        exact ⟨⟨g', ring', fault, told, done, index⟩, frame⟩
      · obtain ⟨⟨g', ring', index, done, fault, told⟩, frame⟩ := faulted .unsupportedOrAbort
        exact ⟨⟨g', ring', fault, told, done, index⟩, frame⟩

end Sys2Proof.Machine
end

section
/-! PROOFS. What stands of a context in the control plane: its entry but for the counts and INSTB, and what the firmware keeps
of it. The operations of the hub, of threads, tasks and channels leave it alone (02 R47, 16 R437). -/

namespace Sys2Proof.Machine

/-! ## The control view -/

/-- A context-table entry but for INFLIGHT and INSTB, which every token moves. -/
def Ctx.lasting (e : Ctx) : Ctx := { e with inflight := 0, instb := 0 }

/-- What the control plane decides of every context. -/
def State.control (s : State) : (CtxId → Ctx) × Map CtxAux := (fun x => (s.ctx x).lasting, s.aux)

theorem State.lasting_of_control {s s' : State} (same : s'.control = s.control) (x : CtxId) :
    (s'.ctx x).lasting = (s.ctx x).lasting := congrFun (congrArg Prod.fst same) x

theorem State.state_of_control {s s' : State} (same : s'.control = s.control) (x : CtxId) : (s'.ctx x).state = (s.ctx x).state :=
  show (s'.ctx x).lasting.state = (s.ctx x).lasting.state by rw [State.lasting_of_control same]

theorem State.image_of_control {s s' : State} (same : s'.control = s.control) (x : CtxId) : (s'.ctx x).image = (s.ctx x).image :=
  show (s'.ctx x).lasting.image = (s.ctx x).lasting.image by rw [State.lasting_of_control same]

theorem State.lastfault_of_control {s s' : State} (same : s'.control = s.control) (x : CtxId) :
    (s'.ctx x).lastfault = (s.ctx x).lastfault :=
  show (s'.ctx x).lasting.lastfault = (s.ctx x).lasting.lastfault by rw [State.lasting_of_control same]

theorem State.caux_of_control {s s' : State} (same : s'.control = s.control) (x : CtxId) : s'.caux x = s.caux x :=
  congrArg (fun m : Map CtxAux => m.getD x.toNat {}) (congrArg Prod.snd same)

theorem State.control_of_offHub {s s' : State} (same : s'.offHub = s.offHub) : s'.control = s.control :=
  show s'.offHub.control = s.offHub.control by rw [same]

theorem foldl_keeps_control {α : Type} (f : State → α → State) (keeps : ∀ s a, (f s a).control = s.control) (l : List α)
    (s : State) : (l.foldl f s).control = s.control := by
  induction l generalizing s with
  | nil => rfl
  | cons a l ih => rw [List.foldl_cons, ih, keeps]

/-- A change of INFLIGHT and INSTB is no decision of the control plane. -/
theorem State.control_updCtx (s : State) (x : CtxId) {u : Ctx → Ctx} (keeps : ∀ e, (u e).lasting = e.lasting) :
    (s.updCtx x u).control = s.control := by
  refine Prod.ext (funext fun y => ?_) rfl
  show ((s.updCtx x u).ctx y).lasting = (s.ctx y).lasting
  by_cases same : y = x
  · rw [same, State.ctx_updCtx_same, keeps]
  · rw [State.ctx_updCtx_other s same]

@[simp] theorem State.control_updCluster (s : State) (c : ClusterId) (u : Cluster → Cluster) :
    (s.updCluster c u).control = s.control := rfl
@[simp] theorem State.control_updTask (s : State) (c : ClusterId) (d : BitVec 10) (u : Task → Task) :
    (s.updTask c d u).control = s.control := rfl
@[simp] theorem State.control_updChan (s : State) (c : ClusterId) (d : BitVec 10) (ch : BitVec 3) (u : Channel → Channel) :
    (s.updChan c d ch u).control = s.control := rfl
@[simp] theorem State.control_updThread (s : State) (t : Tid) (u : Thread → Thread) : (s.updThread t u).control = s.control := rfl
@[simp] theorem State.control_updHub (s : State) (u : Hub → Hub) : (s.updHub u).control = s.control := rfl
@[simp] theorem State.control_dropStaged (s : State) (x : CtxId) : (s.dropStaged x).control = s.control := rfl
@[simp] theorem State.control_abandon (s : State) (p : Holder → Bool) : (s.abandon p).control = s.control := rfl
@[simp] theorem State.control_toBroke (s : State) (tok : Token) (cause : Byte) (x : CtxId) (counted poison : Bool) :
    (s.toBroke tok cause x counted poison).control = s.control := rfl
@[simp] theorem State.control_act (s : State) (c : ClusterId) (x : CtxId) : (s.act c x).control = s.control := rfl
@[simp] theorem State.control_emptySlots (s : State) (c : ClusterId) (p : Work → Bool) : (s.emptySlots c p).control = s.control := rfl
@[simp] theorem State.control_makeReady (s : State) (c : ClusterId) (d : BitVec 10) : (s.makeReady c d).control = s.control := rfl

@[simp] theorem State.control_updRing (s : State) (f : FuncId) (r : RingId) (u : Ring → Ring) :
    (s.updRing f r u).control = s.control := State.control_of_offHub (s.offHub_updRing f r u)
@[simp] theorem State.control_stageItem (s : State) (f : FuncId) (r : RingId) (i : ReelItem) :
    (s.stageItem f r i).control = s.control := State.control_of_offHub (s.offHub_stageItem f r i)
@[simp] theorem State.control_event (s : State) (f : FuncId) (code : BitVec 16) (object : Nat) (value : DWord) :
    (s.event f code object value).control = s.control := State.control_of_offHub (s.offHub_event f code object value)
@[simp] theorem State.control_adminEvent (s : State) (code : BitVec 16) (object : Nat) (value : DWord) :
    (s.adminEvent code object value).control = s.control := s.control_event s.hub.admin code object value
@[simp] theorem State.control_ringNext (s : State) (f : FuncId) (r : RingId) (notify : Bool) :
    (s.ringNext f r notify).control = s.control := State.control_of_offHub (s.offHub_ringNext f r notify)
@[simp] theorem State.control_hbReject (s : State) (f : FuncId) (r : RingId) (x : CtxId) (e : BitVec 256) (cause : Byte) :
    (s.hbReject f r x e cause).control = s.control := State.control_of_offHub (s.offHub_hbReject f r x e cause)
@[simp] theorem State.control_ringWait (s : State) (f : FuncId) (r : RingId) (e : BitVec 256) (held : Bool) :
    (s.ringWait f r e held).control = s.control := s.control_updRing f r _

@[simp] theorem State.control_inflightAdd (s : State) (x : CtxId) (n : Nat) : (s.inflightAdd x n).control = s.control :=
  s.control_updCtx x fun _ => rfl
@[simp] theorem State.control_inflightSub (s : State) (x : CtxId) (n : Nat) : (s.inflightSub x n).control = s.control :=
  s.control_updCtx x fun _ => rfl
@[simp] theorem State.control_accepted (s : State) (tag : DWord) : (s.accepted tag).control = s.control :=
  s.control_updCtx (tagCtx tag) fun _ => rfl

/-! ## Time -/

@[simp] theorem State.passTo_ctxs (s : State) (due : Nat) : (s.passTo due).ctxs = s.ctxs := by
  unfold State.passTo State.pass; split <;> rfl
@[simp] theorem State.passTo_threads (s : State) (due : Nat) : (s.passTo due).threads = s.threads := by
  unfold State.passTo State.pass; split <;> rfl
@[simp] theorem State.passTo_admin (s : State) (due : Nat) : (s.passTo due).hub.admin = s.hub.admin := by
  unfold State.passTo State.pass; split <;> rfl
@[simp] theorem State.passTo_ctx (s : State) (due : Nat) (x : CtxId) : (s.passTo due).ctx x = s.ctx x := by
  rw [State.ctx, State.passTo_ctxs, ← State.ctx]

/-! ## Threads, tasks and channels of a fenced context -/

@[simp] theorem State.control_freeThread (s : State) (t : Tid) : (s.freeThread t).control = s.control := by
  unfold State.freeThread
  dsimp only
  split <;> rfl

@[simp] theorem State.control_toDormant (s : State) (c : ClusterId) (d : BitVec 10) : (s.toDormant c d).control = s.control := by
  unfold State.toDormant
  dsimp only
  split <;> rfl

@[simp] theorem State.control_endThread (s : State) (t : Tid) : (s.endThread t).control = s.control := by
  unfold State.endThread
  split <;> simp

@[simp] theorem State.control_stopWork (s : State) (t : Tid) (a : AfterSave) : (s.stopWork t a).control = s.control := by
  unfold State.stopWork
  dsimp only
  split
  · rfl
  · split
    · simp
    · split <;> simp

@[simp] theorem State.control_tear (s : State) (who : Sender) (x : CtxId) (task : BitVec 16) (ch : BitVec 3) (granted : Bool) :
    (s.tear who x task ch granted).control = s.control := by
  unfold State.tear
  split <;> rfl

@[simp] theorem State.control_tearTrap (s : State) (t : Tid) : (s.tearTrap t).control = s.control := by
  unfold State.tearTrap
  dsimp only
  split <;> simp

@[simp] theorem State.control_tearOutbox (s : State) (t : Tid) : (s.tearOutbox t).control = s.control := by
  unfold State.tearOutbox
  dsimp only
  split <;> simp

@[simp] theorem State.control_haltThread (s : State) (a : AfterSave) (t : Tid) : (s.haltThread a t).control = s.control := by
  unfold State.haltThread
  dsimp only
  split
  · simp
  · split
    · split <;> simp
    · simp
    · simp

@[simp] theorem State.control_tearSaved (s : State) (c : ClusterId) (d : BitVec 10) : (s.tearSaved c d).control = s.control := by
  unfold State.tearSaved
  dsimp only
  split <;> simp

@[simp] theorem State.control_tearRings (s : State) (x : CtxId) : (s.tearRings x).control = s.control := by
  refine foldl_keeps_control _ (fun s e => ?_) _ s
  dsimp only
  split
  · split <;> simp
  · rfl

@[simp] theorem State.control_tearAll (s : State) (x : CtxId) : (s.tearAll x).control = s.control := by
  unfold State.tearAll
  rw [State.control_tearRings]
  refine foldl_keeps_control _ (fun s e => foldl_keeps_control _ (fun s k => ?_) _ s) _ s
  split <;> simp

@[simp] theorem State.control_dropActivations (s : State) (x : CtxId) (c : ClusterId) :
    (s.dropActivations x c).control = s.control := by simp [State.dropActivations]

@[simp] theorem State.control_dropParked (s : State) (x : CtxId) (c : ClusterId) : (s.dropParked x c).control = s.control :=
  foldl_keeps_control (fun s (k : Parked) => s.toBroke k.token UNDELIVERABLE x true)
    (fun s k => s.control_toBroke k.token UNDELIVERABLE x true false) _ (s.updCluster c _)

/-- The marks that a fence leaves in the control plane, before the context's work is stopped (16 R436). -/
def State.fenceMarks (s : State) (x : CtxId) : State :=
  (s.updCtx x fun e => { e with state := FENCED }).updAux x fun a =>
    { a with deckle := true, update := none, move := none, debugger := none, kill := a.kill.map fun k => { k with fenced := true } }

/-- Stopping the context's work decides nothing beyond the marks of the fence. -/
theorem State.control_fence {s : State} {x : CtxId} (taken : (s.ctx x).state ≠ FREE) (unfenced : (s.ctx x).state ≠ FENCED)
    (cause : Byte) : (s.fence x cause).control = (s.fenceMarks x).control := by
  have stopped (a : State) : ((a.threadsOf x).foldl (State.haltThread · .fenced) a).control = a.control :=
    foldl_keeps_control _ (fun s t => s.control_haltThread .fenced t) _ a
  have dropped (l : List ClusterId) (a : State) : (l.foldl (State.dropActivations · x) a).control = a.control :=
    foldl_keeps_control _ (fun s c => s.control_dropActivations x c) l a
  have parked (l : List ClusterId) (a : State) : (l.foldl (State.dropParked · x) a).control = a.control :=
    foldl_keeps_control _ (fun s c => s.control_dropParked x c) l a
  rw [State.fence, if_neg (not_or.mpr ⟨taken, unfenced⟩)]
  dsimp only
  split <;> simp only [State.control_adminEvent, State.control_event, State.control_abandon, State.control_dropStaged, parked, dropped,
    State.control_tearAll, stopped] <;> rfl

/-- A context that is fenced: its state and its deckle, and what a fence ends (16 R436). -/
theorem State.fence_spec {s : State} {x : CtxId} (taken : (s.ctx x).state ≠ FREE) (unfenced : (s.ctx x).state ≠ FENCED) (cause : Byte) :
    ((s.fence x cause).ctx x).state = FENCED ∧ ((s.fence x cause).ctx x).lastfault = (s.ctx x).lastfault ∧
      ((s.fence x cause).caux x).deckle = true ∧ ((s.fence x cause).caux x).update = none ∧
      ((s.fence x cause).caux x).move = none := by
  have control := State.control_fence taken unfenced cause
  have entry : (s.fenceMarks x).ctx x = { s.ctx x with state := FENCED } := by
    rw [State.fenceMarks, State.ctx_updAux, State.ctx_updCtx_same]
  rw [State.state_of_control control, State.lastfault_of_control control, State.caux_of_control control, entry, State.fenceMarks,
    State.caux_updAux_same]
  exact ⟨rfl, rfl, rfl, rfl, rfl⟩

/-! ## Head entries that an update held -/

@[simp] theorem State.control_takeLink (s : State) (f : FuncId) (n : Nat) : (s.takeLink f n).control = s.control := rfl

@[simp] theorem State.control_hubInject (s : State) (f : FuncId) (tok : Token) : (s.hubInject f tok).control = s.control :=
  calc (s.hubInject f tok).control = ((s.accepted tok.tag).inflightAdd (tagCtx tok.tag) 1).control := rfl
    _ = s.control := by simp

theorem State.control_hbData (s : State) (f : FuncId) (r : RingId) (g : Ring) (e : BitVec 256) :
    (s.hbData f r g e).control = s.control := by
  simp only [State.hbData, apply_ite State.control, State.control_hbReject, State.control_ringNext, State.control_hubInject,
    State.control_ringWait, ite_self]

/-- An entry that is looked at without asking for its credit is injected, refused or waits; whatever it becomes, the control
plane has decided nothing. -/
theorem State.control_hbChan (s : State) (f : FuncId) (r : RingId) (g : Ring) (e : BitVec 256) :
    (s.hbChan f r g e false).control = s.control := by
  have word (c : ClusterId) (d : BitVec 10) (ch : BitVec 3) : s.hbWord f r e c d ch false = s.ringWait f r e false := rfl
  have endWord (o : Outbox) (c : ClusterId) (d : BitVec 10) (ch : BitVec 3) :
    s.hbEnd f r g o e c d ch false = s.ringWait f r e false := rfl
  have asked (c : ClusterId) (d : BitVec 10) (ch : BitVec 3) : (s.requestChan c d ch (.ring f r)).control = s.control := rfl
  unfold State.hbChan
  dsimp only
  split
  case h_1 => exact s.control_hbReject f r g.ctx e RESERVED_FIELD
  case h_2 =>
    split
    case isTrue => exact s.control_hbReject f r g.ctx e RESERVED_FIELD
    case isFalse =>
      split <;> simp only [word, endWord, asked, apply_ite State.control, State.control_ringNext, State.control_updRing,
        State.control_hbReject, State.control_ringWait, ite_self]

theorem State.control_hbEntry (s : State) (f : FuncId) (r : RingId) (g : Ring) (e : BitVec 256) :
    (s.hbEntry f r g e false).control = s.control := by
  have skip : s.hbSkip f r g e false = s.ringWait f r e false := rfl
  simp only [State.hbEntry, skip, apply_ite State.control, State.control_hbReject, State.control_ringWait, State.control_hbChan,
    State.control_hbData, ite_self]

theorem State.control_releaseHeld (s : State) (x : CtxId) : (s.releaseHeld x).control = s.control := by
  refine foldl_keeps_control _ (fun s e => ?_) _ s
  dsimp only
  split
  · split
    · split
      · exact State.control_hbEntry _ _ _ _ _
      · rfl
    · rfl
  · rfl

end Sys2Proof.Machine
end

section
/-! PROOFS. The timeouts and conditions of a context: updates, drains, kills, the quiescence scan and the fence (02 R50-R58, 06
R183-R186, 16 R435-R437). -/

namespace Sys2Proof.Machine

/-! ## Updates and drains -/

/-- An update whose time is over: the codelets of the new image go, and the context runs on (02 R54). -/
def State.updateDropped (s : State) (x : CtxId) (u : Update) : State :=
  let a := s.passTo u.dueSc
  ((if (a.ctx x).image = u.image then a else a.freeNodes x u.image).updCtx x fun e => { e with state := RUNNING }).updAux x
    fun b => { b with update := none }

theorem exec_updateTimeout {s : State} {x : CtxId} {u : Update} (update : (s.caux x).update = some u)
    (updating : (s.ctx x).state = UPDATING) (runs : s.fwRuns = true) :
    let t := s.updateDropped x u
    exec (.updateTimeout x) s = .next ((t.event (t.ctx x).owner 0x0003 x.toNat 0).releaseHeld x) := by
  show execUpdateTimeout x s = _
  simp only [execUpdateTimeout, update, updating, runs, ne_eq, not_true_eq_false, or_self, if_false]
  rfl

theorem State.updateDropped_spec (s : State) (x : CtxId) (u : Update) :
    ((s.updateDropped x u).ctx x) = { s.ctx x with state := RUNNING } ∧ ((s.updateDropped x u).caux x).update = none ∧
      (s.updateDropped x u).mem = s.mem := by
  have entries (a : State) : (if (a.ctx x).image = u.image then a else a.freeNodes x u.image).ctx x = a.ctx x := by split <;> rfl
  have bytes (a : State) : (if (a.ctx x).image = u.image then a else a.freeNodes x u.image).mem = a.mem := by split <;> rfl
  refine ⟨?_, ?_, ?_⟩
  · rw [State.updateDropped, State.ctx_updAux, State.ctx_updCtx_same, entries, State.passTo_ctx]
  · rw [State.updateDropped, State.caux_updAux_same]
  · rw [State.updateDropped, State.updAux_mem, State.updCtx_mem, bytes, State.passTo_mem]

/-- The drain of a QUIESCING or UPDATING context is judged. -/
theorem State.drain_judged {s : State} {x : CtxId} (drained : s.drained x = true)
    (st : (s.ctx x).state = QUIESCING ∨ (s.ctx x).state = UPDATING) :
    ¬ (¬ s.drained x = true ∨ (s.ctx x).state ≠ QUIESCING ∧ (s.ctx x).state ≠ UPDATING) := by
  rintro (undrained | ⟨notQuiescing, notUpdating⟩)
  · exact undrained drained
  · exact st.elim notQuiescing notUpdating

/-- A drained context whose commands have all been handled is what `State.drainAct` makes of it (02 R50, R53). -/
theorem exec_drainCondition_handled {s : State} {x : CtxId} (drained : s.drained x = true)
    (handled : ∀ g ∈ s.hub.order, s.ctxWaits x g = false) (st : (s.ctx x).state = QUIESCING ∨ (s.ctx x).state = UPDATING)
    (runs : s.fwRuns = true) : exec (.drainCondition x) s = .next (s.drainAct x) := by
  have noneWaits : s.hub.order.filter (s.ctxWaits x) = [] := List.filter_eq_nil_iff.mpr fun g mem => by simp [handled g mem]
  have noOne : s.hub.order.any (s.ctxWaits x) = false := List.any_eq_false.mpr fun g mem => by simp [handled g mem]
  have judged := State.drain_judged drained st
  show execDrainCondition x s = _
  simp only [execDrainCondition, judged, runs, noneWaits, noOne, List.foldl_nil, Bool.false_eq_true, if_true, if_false]

/-- While the firmware does not run, the record of a drain waits (02 R50). -/
theorem exec_drainCondition_waits {s : State} {x : CtxId} (drained : s.drained x = true)
    (st : (s.ctx x).state = QUIESCING ∨ (s.ctx x).state = UPDATING) (held : s.fwRuns = false) :
    exec (.drainCondition x) s = .next (s.mgmtRecord recDrain 0 (BitVec.setWidth 64 x)) := by
  have judged := State.drain_judged drained st
  show execDrainCondition x s = _
  simp only [execDrainCondition, judged, held, Bool.false_eq_true, if_false]

theorem State.drainAct_quiescing {s : State} {x : CtxId} (drained : s.drained x = true) (st : (s.ctx x).state = QUIESCING) :
    s.drainAct x = (s.updCtx x fun e => { e with state := STOPPED }).event (s.ctx x).owner 0x0001 x.toNat 0 := by
  simp only [State.drainAct, drained, st, not_true_eq_false, if_false, if_true]

theorem State.drainAct_updating {s : State} {x : CtxId} {u : Update} (drained : s.drained x = true)
    (st : (s.ctx x).state = UPDATING) (update : (s.caux x).update = some u) : s.drainAct x = s.switchImage x u := by
  have other : ¬ UPDATING = QUIESCING := by decide
  simp only [State.drainAct, drained, st, update, other, not_true_eq_false, if_false, if_true]

/-! ## The end of a kill -/

theorem Map.find_erase_same {α : Type} (m : Map α) (k : Nat) : (m.erase k).find k = none := by
  induction m with
  | nil => rfl
  | cons e m ih =>
    obtain ⟨j, w⟩ := e
    unfold Map.erase
    split
    case isTrue => exact ih
    case isFalse differs => rw [Map.find, if_neg differs, ih]

theorem Map.getD_erase_same {α : Type} (m : Map α) (k : Nat) (d : α) : (m.erase k).getD k d = d := by
  rw [Map.getD, Map.find_erase_same]; rfl

theorem Map.pred_of_mem_keep {α : Type} {p : Nat → α → Bool} {m : Map α} {e : Nat × α} (kept : e ∈ m.keep p) :
    p e.1 e.2 = true := by
  induction m with
  | nil => cases kept
  | cons a m ih =>
    obtain ⟨j, w⟩ := a
    unfold Map.keep at kept
    split at kept
    case isTrue holds =>
      rcases List.mem_cons.mp kept with rfl | later
      · exact holds
      · exact ih later
    case isFalse => exact ih kept

/-- The end of a kill zeroes the entry of the context and forgets what was kept of it and its rules (02 R56). -/
theorem State.killEnd_spec (s : State) (x : CtxId) :
    (s.killEnd x).ctx x = {} ∧ (s.killEnd x).caux x = {} ∧ ∀ e ∈ (s.killEnd x).eth.rules, e.2.owner ≠ x := by
  have io (a : State) (f : FuncId) : (a.event f 0x0004 x.toNat 0).eth = a.eth :=
    show (a.event f 0x0004 x.toNat 0).offHub.eth = a.offHub.eth by rw [State.offHub_event]
  rw [State.killEnd, State.ctx, State.caux]
  dsimp only
  rw [io, State.updEth_eth]
  refine ⟨Map.getD_erase_same _ _ _, Map.getD_erase_same _ _ _, fun e listed => ?_⟩
  dsimp only at listed
  have kept := Map.pred_of_mem_keep listed
  exact bne_iff_ne.mp kept

/-- The purge of one cluster of a kill. -/
theorem exec_purgeComplete {s : State} {x : CtxId} {c : ClusterId} {k : Kill} (runs : s.fwRuns = true)
    (kill : (s.caux x).kill = some k) (asked : c ∈ k.clusters) (more : k.clusters.filter (· != c) ≠ []) :
    exec (.purgeComplete x c) s =
      .next ((s.purge x c).updAux x fun a => { a with kill := some { k with clusters := k.clusters.filter (· != c) } }) := by
  show execPurgeComplete x c s = _
  simp only [execPurgeComplete, runs, if_true, State.purgeDone, kill, List.contains_iff_mem.mpr asked, not_true_eq_false, if_false,
    List.isEmpty_eq_false_iff.mpr more, Bool.false_eq_true]

/-- The last purge of a kill that no fence has met, and that no command waits for, ends it. -/
theorem exec_purgeComplete_last {s : State} {x : CtxId} {c : ClusterId} {k : Kill} (runs : s.fwRuns = true)
    (kill : (s.caux x).kill = some k) (asked : c ∈ k.clusters) (last : k.clusters.filter (· != c) = []) (by_ : k.by_ = none)
    (unfenced : k.fenced = false) : exec (.purgeComplete x c) s = .next ((s.purge x c).killEnd x) := by
  show execPurgeComplete x c s = _
  simp only [execPurgeComplete, runs, if_true, State.purgeDone, kill, List.contains_iff_mem.mpr asked, not_true_eq_false, if_false,
    last, List.isEmpty_nil, unfenced, by_, Bool.false_eq_true]

/-! ## The scan and the fences -/

/-- The scan of a RUNNING context that neither dies nor moves, at the end of its period (06 R183, R184). -/
theorem exec_quiescenceScan {s : State} {x : CtxId} (runs : s.fwRuns = true) (running : (s.ctx x).state = RUNNING)
    (alive : s.dying x = false) (stands : (s.caux x).move = none) :
    let a := s.caux x
    let b := s.passTo (a.lastScan + scNs a.scanp)
    exec (.quiescenceScan x) s = .next (b.updAux x fun a' =>
      { a' with prevCand := b.candidate x, prevAct := b.sumAct x, lastScan := b.scnt
                fenceReq := if (b.candidate x && a.prevCand && b.sumAct x == a.prevAct && !b.outstanding x) = true then some (b.sumAct x)
                  else none }) := by
  show execQuiescenceScan x s = _
  simp only [execQuiescenceScan, runs, running, alive, stands, ne_eq, not_true_eq_false, Option.isSome_none, Bool.false_eq_true, or_self,
    if_false]

/-- The state at which the hub judges a fence that was asked for: the request is taken. -/
def State.requestTaken (s : State) (x : CtxId) : State := s.updAux x fun a => { a with fenceReq := none }

theorem State.requestTaken_sumAct (s : State) (x : CtxId) : (s.requestTaken x).sumAct x = s.sumAct x := by
  have placement : (s.requestTaken x).placement x = s.placement x := by
    simp [State.requestTaken, State.placement, State.clusterAt]
  rw [State.sumAct, placement]
  rfl

/-- A fence that was asked for is judged by INFLIGHT and ACT as they stand (06 R185, R186). -/
theorem exec_conditionalFence {s : State} {x : CtxId} {act : Word} (asked : (s.caux x).fenceReq = some act) :
    exec (.conditionalFence x) s = .next
      (if (s.ctx x).state = RUNNING ∧ (s.ctx x).inflight = 0 ∧ s.sumAct x = act then
        (((s.requestTaken x).deadlockRecord x).updCtx x fun e => { e with lastfault := GRAPH_DEADLOCK }).fence x GRAPH_DEADLOCK
       else s.requestTaken x) := by
  show execConditionalFence x s = _
  simp only [execConditionalFence, asked]
  rw [← State.requestTaken, State.requestTaken_sumAct]
  exact (apply_ite Host.Outcome.next _ _ _).symm

/-- The record of a deadlock goes to a fault ring and nowhere else. -/
@[simp] theorem State.offHub_deadlockRecord (s : State) (x : CtxId) : (s.deadlockRecord x).offHub = s.offHub := by
  unfold State.deadlockRecord
  split <;> simp

/-- The entry of a context at which the hub fences it for a deadlock. -/
theorem State.ctx_deadlocked (s : State) (x : CtxId) :
    (((s.requestTaken x).deadlockRecord x).updCtx x fun e => { e with lastfault := GRAPH_DEADLOCK }).ctx x =
      { s.ctx x with lastfault := GRAPH_DEADLOCK } := by
  have recorded : ((s.requestTaken x).deadlockRecord x).ctx x = s.ctx x :=
    show ((s.requestTaken x).deadlockRecord x).offHub.ctx x = s.ctx x by rw [State.offHub_deadlockRecord]; rfl
  rw [State.ctx_updCtx_same, recorded]

/-- A deadlocked context is fenced, and its cause stands in LASTFAULT. -/
theorem State.fence_deadlocked {s : State} {x : CtxId} (running : (s.ctx x).state = RUNNING) :
    let s' := (((s.requestTaken x).deadlockRecord x).updCtx x fun e => { e with lastfault := GRAPH_DEADLOCK }).fence x GRAPH_DEADLOCK
    (s'.ctx x).state = FENCED ∧ (s'.ctx x).lastfault = GRAPH_DEADLOCK ∧ (s'.caux x).deckle = true ∧ s'.mem = s.mem := by
  let t := ((s.requestTaken x).deadlockRecord x).updCtx x fun e => { e with lastfault := GRAPH_DEADLOCK }
  have entry : t.ctx x = { s.ctx x with lastfault := GRAPH_DEADLOCK } := s.ctx_deadlocked x
  have state : (t.ctx x).state = RUNNING := (congrArg Ctx.state entry).trans running
  have taken : (t.ctx x).state ≠ FREE := by rw [state]; decide
  have unfenced : (t.ctx x).state ≠ FENCED := by rw [state]; decide
  obtain ⟨fenced, kept, deckle, _, _⟩ := State.fence_spec taken unfenced GRAPH_DEADLOCK
  refine ⟨fenced, kept.trans (congrArg Ctx.lastfault entry), deckle, ?_⟩
  rw [State.fence_mem, State.updCtx_mem, State.deadlockRecord_mem, State.requestTaken, State.updAux_mem]

theorem exec_deckleLower {s : State} {x : CtxId} (runs : s.fwRuns = true) (raised : (s.caux x).deckle = true)
    (done : s.fenceDone x = true) : exec (.deckleLower x) s = .next (s.updAux x fun a => { a with deckle := false }) := by
  show execDeckleLower x s = _
  rw [execDeckleLower, if_pos ⟨runs, raised, done⟩]

theorem exec_adminOfferLapse {s : State} {g : FuncId} {due : Nat} (offer : s.hub.offer = some (g, due)) :
    exec .adminOfferLapse s = .next ((s.passTo due).updHub fun h => { h with offer := none }) := by
  show execAdminOfferLapse s = _
  simp only [execAdminOfferLapse, offer]

/-- Settles O52: what fences and released entries leave of a context by `State.control`, the rest by what each row's command
answers. -/
theorem contextsDrainUpdateDieAndAreFenced : Obligations.ContextsDrainUpdateDieAndAreFenced := by
  intro x s
  refine ⟨fun u update updating runs => ?update, fun drained handled => ?drain, fun c k runs kill asked => ?kill,
    fun runs running alive stands => ?scan, fun act asked running => ?fence, fun cause taken unfenced _ => ?deckle,
    fun runs raised done => exec_deckleLower runs raised done, fun o offer => ?offer⟩
  case update =>
    obtain ⟨entry, dropped, mem⟩ := s.updateDropped_spec x u
    let t := (s.updateDropped x u).event ((s.updateDropped x u).ctx x).owner 0x0003 x.toNat 0
    have control : (t.releaseHeld x).control = (s.updateDropped x u).control := by
      rw [State.control_releaseHeld, State.control_event]
    refine ⟨t.releaseHeld x, exec_updateTimeout update updating runs, ?_, ?_, ?_, ?_⟩
    · rw [State.state_of_control control, entry]
    · rw [State.image_of_control control, entry]
    · rw [State.caux_of_control control, dropped]
    · rw [State.releaseHeld_mem, State.event_mem, mem]
  case drain =>
    refine ⟨fun st runs => ?_, fun u st runs update => ?_, fun st held => exec_drainCondition_waits drained st held⟩
    · rw [exec_drainCondition_handled drained handled (.inl st) runs, State.drainAct_quiescing drained st]
    · rw [exec_drainCondition_handled drained handled (.inr st) runs, State.drainAct_updating drained st update]
  case kill =>
    refine ⟨fun more => exec_purgeComplete runs kill asked more, fun last noAsker unfenced => ?_⟩
    exact ⟨_, exec_purgeComplete_last runs kill asked last noAsker unfenced, rfl, (s.purge x c).killEnd_spec x⟩
  case scan =>
    intro b
    refine ⟨_, exec_quiescenceScan runs running alive stands, ?_⟩
    dsimp only
    rw [State.caux_updAux_same]
    refine ⟨rfl, rfl, rfl, ?_, s.passTo_ctxs _, s.passTo_mem _, s.passTo_threads _⟩
    exact Bool.eq_iff_iff.mpr Option.isSome_ite
  case fence =>
    refine ⟨fun quiet same _ => ?_, fun busy => ?_⟩
    · refine ⟨_, ?_, State.fence_deadlocked running⟩
      rw [exec_conditionalFence asked, if_pos ⟨running, quiet, same⟩]
    · rw [exec_conditionalFence asked, if_neg fun no => busy no.2.1]
      rfl
  case deckle =>
    obtain ⟨fenced, _, raised, update, move⟩ := State.fence_spec taken unfenced cause
    exact ⟨_, rfl, fenced, raised, update, move, s.fence_mem x cause⟩
  case offer =>
    obtain ⟨g, due⟩ := o
    exact ⟨_, exec_adminOfferLapse offer, rfl, s.passTo_admin due, s.passTo_ctxs due, s.passTo_mem due⟩

end Sys2Proof.Machine
end

section
/-! PROOFS. Cluster ingress and event messages at the cluster where the position of the context stands (02 R45, R46, 04 R132). -/

namespace Sys2Proof.Machine

/-! ## What the steps of ingress leave alone -/

/-- Counting in CD_RES_ACT changes one table of the cluster (06 R182). -/
theorem State.cluster_act_same (s : State) (c : ClusterId) (x : CtxId) :
    ∃ m, (s.act c x).cluster c = { s.cluster c with cdRes := m } := by
  rw [State.act, State.cluster_updCluster_same]
  cases (s.cluster c).slotOf x with
  | none => exact ⟨(s.cluster c).cdRes, rfl⟩
  | some n => exact ⟨_, rfl⟩

@[simp] theorem State.act_task (s : State) (c : ClusterId) (x : CtxId) (d : BitVec 10) :
    ((s.act c x).cluster c).task d = (s.cluster c).task d := by
  obtain ⟨m, same⟩ := s.cluster_act_same c x
  rw [same]
  rfl

@[simp] theorem State.act_couchIn (s : State) (c : ClusterId) (x : CtxId) :
    ((s.act c x).cluster c).couchIn = (s.cluster c).couchIn := by
  obtain ⟨m, same⟩ := s.cluster_act_same c x
  rw [same]

@[simp] theorem State.act_chanIn (s : State) (c : ClusterId) (x : CtxId) :
    ((s.act c x).cluster c).chanIn = (s.cluster c).chanIn := by
  obtain ⟨m, same⟩ := s.cluster_act_same c x
  rw [same]

@[simp] theorem State.act_ingress (s : State) (c : ClusterId) (x : CtxId) :
    ((s.act c x).cluster c).ingress = (s.cluster c).ingress := by
  obtain ⟨m, same⟩ := s.cluster_act_same c x
  rw [same]

/-! ## The three ways of a token whose position stands here -/

section Ingress
variable {s : State} {c : ClusterId} {p : Packet} {r : List Packet}

/-- A token of an input that the cluster has goes to the lookups or where its node takes it. -/
theorem exec_clusterIngress_node (head : s.inbox c 0 = p :: r) (type : p.type ≠ 2)
    (home : (s.cluster c).forward (tagCtx (packetToken p).tag) = none) (opened : s.shut c (tagCtx (packetToken p).tag) = false)
    (kind : ¬ (tagKind (packetToken p).tag = 2 ∨ tagKind (packetToken p).tag = 3))
    (placed : s.ingressNode c (packetToken p).tag = true) :
    exec (.clusterIngress c) s = .next ((s.readInbox c 0).acceptNode c (packetToken p)) := by
  have opened' : (s.readInbox c 0).shut c (tagCtx (packetToken p).tag) = false := opened
  have placed' : (s.readInbox c 0).ingressNode c (packetToken p).tag = true := placed
  show execClusterIngress c s = _
  simp only [execClusterIngress, head, type, home, opened', kind, placed', Bool.false_eq_true, if_false, if_true]

/-- A token whose node is not placed at the cluster is undeliverable (02 R46). -/
theorem exec_clusterIngress_noNode (head : s.inbox c 0 = p :: r) (type : p.type ≠ 2)
    (home : (s.cluster c).forward (tagCtx (packetToken p).tag) = none) (opened : s.shut c (tagCtx (packetToken p).tag) = false)
    (kind : ¬ (tagKind (packetToken p).tag = 2 ∨ tagKind (packetToken p).tag = 3))
    (absent : s.ingressNode c (packetToken p).tag = false) :
    exec (.clusterIngress c) s = .next (((s.readInbox c 0).toBroke (packetToken p) RESERVED_FIELD
      (tagCtx (packetToken p).tag) true).couchFreed c (packetToken p).flits) := by
  have opened' : (s.readInbox c 0).shut c (tagCtx (packetToken p).tag) = false := opened
  have absent' : (s.readInbox c 0).ingressNode c (packetToken p).tag = false := absent
  show execClusterIngress c s = _
  simp only [execClusterIngress, head, type, home, opened', kind, absent', Bool.false_eq_true, if_false]

/-- A channel word of a task that the cluster has, on a channel of its mask, waits for its stage. -/
theorem exec_clusterIngress_channel {d : BitVec 10} (head : s.inbox c 0 = p :: r) (type : p.type ≠ 2)
    (home : (s.cluster c).forward (tagCtx (packetToken p).tag) = none) (opened : s.shut c (tagCtx (packetToken p).tag) = false)
    (kind : tagKind (packetToken p).tag = 2 ∨ tagKind (packetToken p).tag = 3)
    (task : (s.cluster c).findTask (tagCtx (packetToken p).tag) (bits (tagNode (packetToken p).tag) 0 16) = some d)
    (chan : ((s.cluster c).task d).chmask.getLsbD (bits (tagInst (packetToken p).tag) 0 3).toNat = true) :
    exec (.clusterIngress c) s = .next ((((s.readInbox c 0).updCluster c fun cl =>
      { cl with chanIn := cl.chanIn ++ [(packetToken p, p.sr ++ p.se)] }).act c (tagCtx (packetToken p).tag)).couchFreed c 1) := by
  have opened' : (s.readInbox c 0).shut c (tagCtx (packetToken p).tag) = false := opened
  have task' : ((s.readInbox c 0).cluster c).findTask (tagCtx (packetToken p).tag) (bits (tagNode (packetToken p).tag) 0 16) =
    some d := task
  have chan' : (((s.readInbox c 0).cluster c).task d).chmask.getLsbD (bits (tagInst (packetToken p).tag) 0 3).toNat = true := chan
  show execClusterIngress c s = _
  simp only [execClusterIngress, head, type, home, opened', kind, task', chan', Bool.false_eq_true, if_false, if_true]

/-- An event for a software flag of a task that the cluster has sets it (08 R250). -/
theorem exec_eventMessage_flag {d : BitVec 10} {meet : Bool} (head : s.inbox c 0 = p :: r) (type : p.type = 2)
    (home : (s.cluster c).forward p.ctx = none) (opened : s.shut c p.ctx = false)
    (task : (s.cluster c).findTask p.ctx (bits p.head 13 16) = some d) (software : (bits p.head 29 5 : BitVec 5).toNat < 30) :
    exec (.eventMessage c meet) s =
      .next (((((s.readInbox c 0).couchFreed c 1).inflightSub p.ctx 1).act c p.ctx).flagEvent c d (bits p.head 29 5)) := by
  have notCancel : (bits p.head 29 5 : BitVec 5) ≠ 30 := fun e => by rw [e] at software; exact absurd software (by decide)
  have notRestart : (bits p.head 29 5 : BitVec 5) ≠ 31 := fun e => by rw [e] at software; exact absurd software (by decide)
  show execEventMessage c meet s = _
  simp only [execEventMessage, head, type, home, opened, task, notCancel, notRestart, ne_eq, not_true_eq_false, false_and,
    Bool.false_eq_true, if_false]

end Ingress

/-- A token without a tick, of a node that takes more than one input, joins the lookups. -/
theorem State.acceptNode_lookups {s : State} {c : ClusterId} {tok : Token} (tick : tok.tick = none)
    (inputs : ∀ q, s.requiredOf (tagCtx tok.tag) (tagNode tok.tag) ≠ some [q]) :
    s.acceptNode c tok = (s.act c (tagCtx tok.tag)).updCluster c fun cl => { cl with ingress := cl.ingress ++ [tok] } := by
  have inputs' : ∀ q, (s.act c (tagCtx tok.tag)).requiredOf (tagCtx tok.tag) (tagNode tok.tag) ≠ some [q] := inputs
  simp only [State.acceptNode, tick]

@[simp] theorem State.task_updTask_same (s : State) (c : ClusterId) (d : BitVec 10) (f : Task → Task) :
    ((s.updTask c d f).cluster c).task d = f ((s.cluster c).task d) := by
  simp [State.updTask, Cluster.task]

/-- A flag that comes to a task which neither starts by it nor waits is set, and nothing more (04 R120). -/
theorem State.flagEvent_quiet {s : State} {c : ClusterId} {d : BitVec 10} (f : BitVec 5)
    (notDormant : ((s.cluster c).task d).state ≠ DORMANT) (notBlocked : ((s.cluster c).task d).state ≠ BLOCKED) :
    s.flagEvent c d f = s.updTask c d fun k => { k with evflags := k.evflags ||| ((1 : Word) <<< f.toNat) } := by
  have state : (((s.updTask c d fun k => { k with evflags := k.evflags ||| ((1 : Word) <<< f.toNat) }).cluster c).task d).state =
      ((s.cluster c).task d).state := by
    rw [State.task_updTask_same]
  simp only [State.flagEvent, State.wakeTask, state, notDormant, notBlocked, if_false]

/-- Settles O18: each way of a token by the clause of ingress it takes, the event by `State.flagEvent_quiet`. -/
theorem clustersTakeTokensAndEvents : Obligations.ClustersTakeTokensAndEvents := by
  refine ⟨fun c s p r head type => ?token, fun c meet s p r d head type home opened task => ?event⟩
  case token =>
    intro tok x home opened owed
    refine ⟨fun notWord notEnd placed tick inputs => ?lookups, fun notWord notEnd absent => ?broke, fun kind d task chan => ?channel⟩
    case lookups =>
      refine ⟨_, exec_clusterIngress_node head type home opened (not_or.mpr ⟨notWord, notEnd⟩) placed, ?_⟩
      rw [State.acceptNode_lookups (s := s.readInbox c 0) tick inputs]
      refine ⟨?_, ?_, rfl, rfl, rfl⟩
      · rw [State.cluster_updCluster_same, State.act_ingress]; rfl
      · rw [State.cluster_updCluster_same, State.act_couchIn]; rfl
    case broke =>
      refine ⟨_, exec_clusterIngress_noNode head type home opened (not_or.mpr ⟨notWord, notEnd⟩) absent, rfl, ?_, rfl, rfl, rfl⟩
      rw [State.couchFreed, State.cluster_updCluster_same]; rfl
    case channel =>
      refine ⟨_, exec_clusterIngress_channel head type home opened kind task chan, ?_, ?_, rfl, rfl, rfl⟩
      · rw [State.couchFreed, State.cluster_updCluster_same, State.act_chanIn, State.cluster_updCluster_same]; rfl
      · rw [State.couchFreed, State.cluster_updCluster_same, State.act_couchIn, State.cluster_updCluster_same]; rfl
  case event =>
    intro f _ software notDormant notBlocked
    let s₀ := (((s.readInbox c 0).couchFreed c 1).inflightSub p.ctx 1).act c p.ctx
    have kept : (s₀.cluster c).task d = (s.cluster c).task d := by
      rw [State.act_task]
      simp [State.inflightSub, State.couchFreed, Cluster.task, State.readInbox]
    refine ⟨_, exec_eventMessage_flag head type home opened task software, ?_⟩
    rw [State.flagEvent_quiet f (by rwa [kept]) (by rwa [kept])]
    refine ⟨?_, ?_, ?_, rfl, rfl⟩
    · rw [State.task_updTask_same, kept]
    · rw [State.task_updTask_same, kept]
    · exact congrArg Ctx.inflight (((s.readInbox c 0).couchFreed c 1).ctx_updCtx_same p.ctx fun e =>
        { e with inflight := BitVec.ofNat 32 (e.inflight.toNat - 1) })

end Sys2Proof.Machine
end

section
/-! PROOFS. The commands of the graph family (13 R385-R388): what the mailbox answers where every check of a row passes, and
what it answers where the state of the object is the wrong one. -/

namespace Sys2Proof.Machine

/-! ## The envelope -/

/-- A command that is accepted, and whose row the command's own fields select, is its body, settled. -/
theorem State.perform_selected {s : State} {f : FuncId} {op : Nat} {sel : Bool} (accepted : s.accepts f op = true)
    (selected : sel = true) (body : Reply) : s.perform f op sel body = s.settle f body := by
  rw [selected, State.perform_accepts accepted]

/-- The context of TARGET exists where the command on it is served. -/
theorem State.state_of_serves {s : State} {f : FuncId} (served : s.serves f = true) : (s.ctx (s.argCtx f 8)).state ≠ FREE := by
  simp only [State.serves, Bool.and_eq_true, bne_iff_ne] at served
  obtain ⟨⟨taken, _⟩, _⟩ := served
  exact taken

/-- A command on the context of TARGET that is accepted and served is its body, settled. -/
theorem State.perform_served {s : State} {f : FuncId} {op : Nat} (accepted : s.accepts f op = true)
    (served : s.serves f = true) (body : Reply) :
    s.perform f op true (s.ctxTarget f (s.argCtx f 8) body) = s.settle f body := by
  rw [State.perform_accepts accepted, State.ctxTarget_serves served]

/-- TABLE_LOAD's own checks of its context pass where the context is served. -/
theorem State.tableTarget_serves {s : State} {f : FuncId} (served : s.serves f = true) (k : Reply) :
    s.tableTarget f (s.argCtx f 8) k = k := by
  rw [State.tableTarget, if_neg (State.state_of_serves served), State.ctxTarget_serves served]

/-- Data of the length the descriptor names are the data of the command. -/
theorem State.dmaIn_data {s : State} {f : FuncId} {b : List Byte} (len : b.length = s.arg f 0x18 4) (k : List Byte → Reply) :
    s.dmaIn f (.data b) k = k b := if_pos len

/-- A caller that owns the image, or is the administrator, is not denied it. -/
theorem State.not_denied {s : State} {m : Image} {f : FuncId} (may : m.owner = f ∨ f = s.hub.admin) :
    ¬ (m.owner ≠ f ∧ f ≠ s.hub.admin) := fun no => may.elim no.1 no.2

/-- An image that needs no seal, or has a good one, passes the check of 02 R70. -/
theorem Image.seal_passes {m : Image} {keys : Map (BitVec 768)} (sealed : m.cls = 1 → m.sealOk keys = true) :
    ¬ (m.cls = 1 ∧ (!m.sealOk keys) = true) := fun no => by simp [sealed no.1] at no

/-! ## Images and tables -/

/-- An image that parses takes the lowest free handle where the image region has room for it. -/
theorem State.graphLoad_ok {s : State} {f : FuncId} {b : List Byte} {m : Image} {k : Nat} (parsed : parseImage f b = .inl m)
    (room : s.imageRoom b.length = true) (handle : (least 65534 fun k => (s.fw.images.find (k + 1)).isNone) = some k) :
    s.graphLoad f b = .ok (s.updFw fun w => { w with images := w.images.set (k + 1) m })
      (leBytes 2 (k + 1) ++ leBytes 1 m.cls.toNat ++ [0] ++ leBytes 4 m.nodecnt) none := by
  simp only [State.graphLoad, parsed, room, handle, not_true_eq_false, if_false]

theorem exec_graphLoad_ok {s : State} {f : FuncId} {b : List Byte} {m : Image} {k : Nat} (accepted : s.accepts f 0x0101 = true)
    (len : b.length = s.arg f 0x18 4) (parsed : parseImage f b = .inl m) (room : s.imageRoom b.length = true)
    (handle : (least 65534 fun k => (s.fw.images.find (k + 1)).isNone) = some k) :
    exec (.graphLoad f (.data b)) s = .next ((s.updFw fun w => { w with images := w.images.set (k + 1) m }).completes f
      (leBytes 2 (k + 1) ++ leBytes 1 m.cls.toNat ++ [0] ++ leBytes 4 m.nodecnt) none) := by
  show execGraphLoad f (.data b) s = _
  rw [execGraphLoad, State.perform_accepts accepted, State.dmaIn_data len, State.graphLoad_ok parsed room handle, State.settle_ok]

/-- GRAPH_UNLOAD of an image the caller may take away: it goes where nothing names it. -/
theorem exec_graphUnload_owned {s : State} {f : FuncId} {m : Image} (accepted : s.accepts f 0x0102 = true)
    (loaded : s.image (BitVec.ofNat 16 (s.arg f 8 2)) = some m) (may : m.owner = f ∨ f = s.hub.admin) :
    exec (.graphUnload f) s = .next (s.settle f
      (if s.imageUsed (BitVec.ofNat 16 (s.arg f 8 2)) then .bad WRONG_STATE 0x08
       else .done (s.updFw fun w => { w with images := w.images.erase (BitVec.ofNat 16 (s.arg f 8 2)).toNat }))) := by
  show execGraphUnload f s = _
  simp only [execGraphUnload, State.perform_accepts accepted, loaded, State.not_denied may, if_false]

/-- TABLE_LOAD with OP 0 into a class-0 context that has room for the table. -/
theorem exec_tableLoad_ok {s : State} {f : FuncId} {b : List Byte} {t : Table} (accepted : s.accepts f 0x0103 = true)
    (served : s.serves f = true) (cls : (s.ctx (s.argCtx f 8)).cls = 0) (op : s.arg f 0x20 1 = 0) (dma : s.argDma f = true)
    (len : b.length = s.arg f 0x18 4) (parsed : parseTable b = some (t, b.length))
    (room : s.imageRoom (b.length - (((s.caux (s.argCtx f 8)).tables.find? (·.handle == t.handle)).map (·.size)).getD 0) = true) :
    exec (.tableLoad f (.data b)) s = .next ((s.updAux (s.argCtx f 8) fun a =>
      { a with tables := putTable a.tables { t with size := b.length } }).completes f [] none) := by
  show execTableLoad f (.data b) s = _
  rw [execTableLoad, State.perform_selected accepted (by rw [op]; rfl), State.tableTarget_serves served, if_pos dma,
    State.dmaIn_data len]
  simp only [op, cls, parsed, room, ne_eq, not_true_eq_false, if_false]
  rfl

/-- TABLE_LOAD with OP 1 of a handle that the class-0 context has. -/
theorem exec_tableRemove_ok {s : State} {f : FuncId} (accepted : s.accepts f 0x0103 = true) (served : s.serves f = true)
    (cls : (s.ctx (s.argCtx f 8)).cls = 0) (op : s.arg f 0x20 1 = 1)
    (listed : ((s.caux (s.argCtx f 8)).tables.any (·.handle == BitVec.ofNat 16 (s.arg f 0x22 2))) = true) :
    exec (.tableRemove f) s = .next ((s.updAux (s.argCtx f 8) fun a =>
      { a with tables := a.tables.filter (·.handle != BitVec.ofNat 16 (s.arg f 0x22 2)) }).completes f [] none) := by
  show execTableRemove f s = _
  rw [execTableRemove, State.perform_selected accepted (by rw [op]; rfl), State.tableTarget_serves served]
  simp only [cls, listed, ne_eq, not_true_eq_false, Bool.not_true, Bool.false_eq_true, if_false]
  rfl

/-! ## Admission, start, stop and kill -/

/-- CTX_ADMIT where every check of 02 R68 passes. -/
theorem State.ctxAdmit_ok {s : State} {f : FuncId} {m : Image} {cs : List ClusterId} {y : CtxId} {base : Nat}
    (loaded : s.image (BitVec.ofNat 16 (s.arg f 8 2)) = some m) (may : m.owner = f ∨ f = s.hub.admin)
    (ring : (s.faultRing m.owner).isSome = true) (scan : s.arg f 0x10 4 = 0 ∨ 10 ≤ s.arg f 0x10 4 ∧ s.arg f 0x10 4 ≤ 1000000)
    (sealed : m.cls = 1 → m.sealOk s.fw.seals = true) (budget : s.budgetFor m.owner m.use = true) (placed : s.choose m = some cs)
    (number : s.freeNumber = some y) (flows : s.flowRun m.flowcnt = some base) :
    s.ctxAdmit f =
      .ok (s.admitAt y (BitVec.ofNat 16 (s.arg f 8 2)) m cs base (if s.arg f 0x10 4 = 0 then 100000 else 1000 * s.arg f 0x10 4)
          (s.arg f 0x14 1 % 2 == 1) (s.arg f 0x14 1 / 2 % 2 == 1))
        (leBytes 2 y.toNat ++ leBytes 1 m.csize ++ leBytes 5 0 ++ (List.range 64).map fun k => BitVec.setWidth 8 (cs.getD k 0)) none := by
  have hasRing : (s.faultRing m.owner).isNone = false := Option.isNone_eq_false_iff.mpr ring
  have inRange : ¬ (s.arg f 0x10 4 ≠ 0 ∧ (s.arg f 0x10 4 < 10 ∨ 1000000 < s.arg f 0x10 4)) := by omega
  simp only [State.ctxAdmit, loaded, State.not_denied may, hasRing, inRange, Image.seal_passes sealed, budget, placed, number,
    flows, not_true_eq_false, Bool.false_eq_true, if_false]

/-- CTX_START by the state of the context (02 R52, R53). -/
theorem exec_ctxStart_served {s : State} {f : FuncId} (accepted : s.accepts f 0x0202 = true) (served : s.serves f = true) :
    let x := s.argCtx f 8
    let st := (s.ctx x).state
    exec (.ctxStart f) s = .next (s.settle f
      (if st ≠ ADMITTED ∧ st ≠ STOPPED then .bad WRONG_STATE 0x08
       else if st = ADMITTED then .done ((s.updCtx x fun e => { e with state := RUNNING }).startTasks x)
       else .done ((s.updCtx x fun e => { e with state := RUNNING }).lateFrozen x))) :=
  congrArg Host.Outcome.next (State.perform_served accepted served _)

/-- CTX_STOP by the state of the context (02 R52, R53). -/
theorem exec_ctxStop_served {s : State} {f : FuncId} (accepted : s.accepts f 0x0203 = true) (served : s.serves f = true) :
    let x := s.argCtx f 8
    exec (.ctxStop f) s = .next (s.settle f
      (if (s.ctx x).state ≠ RUNNING then .bad WRONG_STATE 0x08
       else .done (s.updCtx x fun e => { e with state := QUIESCING }))) :=
  congrArg Host.Outcome.next (State.perform_served accepted served _)

/-- CTX_KILL of a context that is not killed already and does not move: the kill begins (02 R56). -/
theorem exec_ctxKill_begins {s : State} {f : FuncId} (accepted : s.accepts f 0x0204 = true) (served : s.serves f = true)
    (alive : s.dying (s.argCtx f 8) = false) (stands : (s.caux (s.argCtx f 8)).move = none) :
    exec (.ctxKill f) s = .next ((s.killBegin (s.argCtx f 8) (some f)).goesOn f) := by
  show Host.Outcome.next (s.ctxKill f) = _
  simp only [State.ctxKill, State.perform_accepts accepted, alive, Bool.false_eq_true, if_false, State.ctxTarget_serves served,
    stands, Option.isSome_none, State.settle_later]

/-! ## Updates and queries -/

/-- SETPOL by the administrator, or a policy that is kept (02 R59). -/
theorem State.policyFault_none {s : State} {f : FuncId} {pol : Nat} (may : pol % 2 = 1 → f = s.hub.admin) :
    s.policyFault f pol = none := if_neg fun no => no.2 (may no.1)

/-- CTX_UPDATE to an image that keeps every rule of 02 R55. -/
theorem State.ctxUpdate_ok {s t : State} {f : FuncId} {x : CtxId} {m old : Image} (running : (s.ctx x).state = RUNNING)
    (due : s.arg f 0x14 4 ≤ 60000) (may : s.arg f 0x18 1 % 2 = 1 → f = s.hub.admin)
    (loaded : s.image (BitVec.ofNat 16 (s.arg f 0x10 2)) = some m) (runs : s.imageOf x = some old)
    (owner : m.owner = (s.ctx x).owner) (cls : m.cls = (s.ctx x).cls) (csize : m.csize = (s.ctx x).csize.toNat)
    (tasks : m.taskBytes = old.taskBytes) (count : m.taskcnt = old.taskcnt) (flows : m.flowcnt ≤ (s.ctx x).flowcnt.toNat)
    (sealed : m.cls = 1 → m.sealOk s.fw.seals = true) (reserved : s.withinReserved x m = true)
    (code : s.loadNodes x (BitVec.ofNat 16 (s.arg f 0x10 2)) m = some t) :
    s.ctxUpdate f x =
      .done (((t.setPolicy x (s.arg f 0x18 1)).updCtx x fun e =>
          { e with state := UPDATING, updb := BitVec.ofNat 16 (s.arg f 0x12 2) }).updAux x fun a =>
        { a with update := some { image := BitVec.ofNat 16 (s.arg f 0x10 2)
                                  dueSc := s.scnt + scMs (if s.arg f 0x14 4 = 0 then 1000 else s.arg f 0x14 4) } }) := by
  have same : ¬ (m.cls ≠ (s.ctx x).cls ∨ m.csize ≠ (s.ctx x).csize.toNat ∨ m.taskBytes ≠ old.taskBytes ∨
      m.taskcnt ≠ old.taskcnt ∨ (s.ctx x).flowcnt.toNat < m.flowcnt) := by
    simp [cls, csize, tasks, count, flows]
  simp only [State.ctxUpdate, running, Nat.not_lt.mpr due, State.policyFault_none may, loaded, runs, owner, same,
    Image.seal_passes sealed, reserved, code, ne_eq, not_true_eq_false, if_false]

theorem exec_ctxUpdate_served {s : State} {f : FuncId} (accepted : s.accepts f 0x0205 = true) (served : s.serves f = true)
    (image : s.arg f 0x10 2 ≠ 0) : exec (.ctxUpdate f) s = .next (s.settle f (s.ctxUpdate f (s.argCtx f 8))) := by
  show Host.Outcome.next (s.updateImage f) = _
  rw [State.updateImage, State.perform_selected accepted (bne_iff_ne.mpr image), State.ctxTarget_serves served]

theorem exec_ctxUpdatePolicy_ok {s : State} {f : FuncId} (accepted : s.accepts f 0x0205 = true) (served : s.serves f = true)
    (image : s.arg f 0x10 2 = 0) (due : s.arg f 0x14 4 ≤ 60000) (may : s.arg f 0x18 1 % 2 = 1 → f = s.hub.admin) :
    exec (.ctxUpdatePolicy f) s = .next ((s.setPolicy (s.argCtx f 8) (s.arg f 0x18 1)).completes f [] none) := by
  show Host.Outcome.next (s.updatePolicy f) = _
  rw [State.updatePolicy, State.perform_selected accepted (beq_iff_eq.mpr image), State.ctxTarget_serves served,
    if_neg (Nat.not_lt.mpr due), State.policyFault_none may]
  rfl

@[simp] theorem length_leBytes (n v : Nat) : (leBytes n v).length = n := by
  induction n generalizing v with
  | zero => rfl
  | succ n ih => rw [leBytes, List.length_cons, ih]

/-- A context-table entry is 64 bytes (02 R47). -/
@[simp] theorem Ctx.length_pack (e : Ctx) : e.pack.length = 64 := by simp [Ctx.pack]

/-- CTX_QUERY without DMA answers 16 bytes of zero, the entry, and the clusters of its positions (13 R388). -/
theorem exec_ctxQuery_answers {s : State} {f : FuncId} (accepted : s.accepts f 0x0206 = true) (served : s.serves f = true)
    (dma : s.argDma f = false) :
    ∃ p : List Byte, exec (.ctxQuery f) s = .next (s.completes f p none) ∧ p.length = 144 ∧
      (p.drop 16).take 64 = (s.ctx (s.argCtx f 8)).pack := by
  let e := s.ctx (s.argCtx f 8)
  let map := (List.range 64).map fun k => if k < e.csize.toNat then (s.caux (s.argCtx f 8)).clmap.getD k 0 else 0
  refine ⟨leBytes 16 0 ++ e.pack ++ map, ?answer, ?length, ?entry⟩
  case answer =>
    show Host.Outcome.next (s.ctxQuery f) = _
    rw [State.ctxQuery, State.perform_served accepted served, dma, State.settle_ok]
    rfl
  case length => simp [map]
  case entry =>
    rw [List.append_assoc, List.drop_left' (length_leBytes 16 0), List.take_left' e.length_pack]

/-- Settles O47, command by command: each clause is the row's body at the checks that the hypotheses pass. -/
theorem graphCommandsComplete : Obligations.GraphCommandsComplete := by
  intro f s x h us
  refine ⟨fun b m k acc len parsed room handle => exec_graphLoad_ok acc len parsed room handle, ?unload, ?tables, ?admission, ?start,
    ?stop, fun acc served alive stands => exec_ctxKill_begins acc served alive stands, ?update,
    fun acc served image due may => exec_ctxUpdatePolicy_ok acc served image due may,
    fun acc served dma => exec_ctxQuery_answers acc served dma⟩
  case unload =>
    intro m acc loaded may
    rw [exec_graphUnload_owned acc loaded may]
    exact ⟨fun unused => by rw [if_neg (by simpa using unused)]; rfl, fun used => by rw [if_pos used]⟩
  case tables =>
    exact fun acc served cls => ⟨fun b t op dma len parsed room => exec_tableLoad_ok acc served cls op dma len parsed room,
      fun op listed => exec_tableRemove_ok acc served cls op listed⟩
  case admission =>
    intro m cs y base acc loaded may ring scan sealed budget placed number flows
    show Host.Outcome.next (s.perform f 0x0201 true (s.ctxAdmit f)) = _
    rw [State.perform_accepts acc, State.ctxAdmit_ok loaded may ring scan sealed budget placed number flows, State.settle_ok]
  case start =>
    intro acc served
    rw [exec_ctxStart_served acc served]
    refine ⟨fun admitted => ?_, fun stopped => ?_, fun notAdmitted notStopped => ?_⟩
    · rw [if_neg fun no => no.1 admitted, if_pos admitted]; rfl
    · have notAdmitted : (s.ctx x).state ≠ ADMITTED := by rw [stopped]; decide
      rw [if_neg fun no => no.2 stopped, if_neg notAdmitted]; rfl
    · rw [if_pos ⟨notAdmitted, notStopped⟩]
  case stop =>
    intro acc served
    rw [exec_ctxStop_served acc served]
    exact ⟨fun running => by rw [if_neg fun no => no running]; rfl, fun other => by rw [if_pos other]⟩
  case update =>
    intro m old t acc served image running due may loaded runs owner cls csize tasks count flows sealed reserved code
    rw [exec_ctxUpdate_served acc served image, State.ctxUpdate_ok running due may loaded runs owner cls csize tasks count flows sealed
      reserved code]
    rfl

end Sys2Proof.Machine
end

section
/-! PROOFS. Channel words: the credit request that lets one leave, the reservation of a channel, and the word that reaches its
stage (04 R128-R131). -/

namespace Sys2Proof.Machine

/-! ## What a change of one cluster leaves of every cluster -/

/-- What a change of one cluster keeps of that cluster, it keeps of every cluster. -/
theorem State.cluster_updCluster_keeps {α : Type} (s : State) (c d : ClusterId) {g : Cluster → Cluster} (view : Cluster → α)
    (keeps : view (g (s.cluster c)) = view (s.cluster c)) : view ((s.updCluster c g).cluster d) = view (s.cluster d) := by
  by_cases same : d = c
  · rw [same, State.cluster_updCluster_same, keeps]
  · rw [State.cluster_updCluster_other s same]

@[simp] theorem State.chan_updChan_same (s : State) (c : ClusterId) (d : BitVec 10) (ch : BitVec 3) (f : Channel → Channel) :
    ((s.updChan c d ch f).cluster c).chan d ch = f ((s.cluster c).chan d ch) := by
  simp [State.updChan, Cluster.chan]

@[simp] theorem State.chan_updTask (s : State) (e c : ClusterId) (k d : BitVec 10) (ch : BitVec 3) (f : Task → Task) :
    ((s.updTask e k f).cluster c).chan d ch = (s.cluster c).chan d ch :=
  s.cluster_updCluster_keeps e c (fun cl => cl.chan d ch) rfl

@[simp] theorem State.couchOut_updTask (s : State) (e c : ClusterId) (k : BitVec 10) (f : Task → Task) :
    ((s.updTask e k f).cluster c).couchOut = (s.cluster c).couchOut :=
  s.cluster_updCluster_keeps e c Cluster.couchOut rfl

@[simp] theorem State.couchOut_updChan (s : State) (e c : ClusterId) (d : BitVec 10) (ch : BitVec 3) (f : Channel → Channel) :
    ((s.updChan e d ch f).cluster c).couchOut = (s.cluster c).couchOut :=
  s.cluster_updCluster_keeps e c Cluster.couchOut rfl

/-! ## A thread goes on -/

/-- A wake that counts in no ACT ends the wait of its thread and marks the thread's task as running. -/
theorem State.wake_unblocked {s : State} {t : Tid} (unblocked : (s.thread t).wait.blocks = false) :
    s.wake t = (s.hold t .none).updTaskOf t fun d => { d with state := RUNNINGT, wait := 0 } := by
  simp only [State.wake, unblocked, Bool.false_eq_true, if_false]

/-- A change of the descriptor of a thread's task is a change of one descriptor, or none at all. -/
theorem State.updTaskOf_cases (s : State) (t : Tid) (f : Task → Task) :
    s.updTaskOf t f = s ∨ ∃ d, s.updTaskOf t f = s.updTask (tCluster t) d f := by
  rw [State.updTaskOf]
  cases s.taskOf t with
  | none => exact .inl rfl
  | some d => exact .inr ⟨d, rfl⟩

/-- A thread whose wait blocked no work, and of which no stop is asked, goes on with the next word: the channels, the couches and the
contexts stay as they are. -/
theorem State.finish_unblocked {s : State} {t : Tid} (unblocked : (s.thread t).wait.blocks = false)
    (noStop : (s.thread t).dbgReq = false) (noMove : (s.thread t).moveReq = false) :
    (s.finish t).thread t = ({ s.thread t with wait := .none } : Thread).advance ∧
      (∀ c d ch, ((s.finish t).cluster c).chan d ch = (s.cluster c).chan d ch) ∧
      (∀ c, ((s.finish t).cluster c).couchOut = (s.cluster c).couchOut) ∧ (s.finish t).ctxs = s.ctxs := by
  let held := s.hold t .none
  have waits : held.thread t = { s.thread t with wait := .none } := s.thread_updThread_same t _
  obtain ⟨woken, wake, thread, chan, couch, ctxs⟩ : ∃ w, s.wake t = w ∧ w.thread t = held.thread t ∧
      (∀ c d ch, (w.cluster c).chan d ch = (s.cluster c).chan d ch) ∧ (∀ c, (w.cluster c).couchOut = (s.cluster c).couchOut) ∧
      w.ctxs = s.ctxs := by
    refine ⟨_, State.wake_unblocked unblocked, ?_⟩
    obtain same | ⟨d, task⟩ := held.updTaskOf_cases t fun d => { d with state := RUNNINGT, wait := 0 }
    · rw [same]
      exact ⟨rfl, fun _ _ _ => rfl, fun _ => rfl, rfl⟩
    · rw [task]
      exact ⟨rfl, fun c e ch => held.chan_updTask _ c d e ch _, fun c => held.couchOut_updTask _ c d _, rfl⟩
  rw [waits] at thread
  rw [State.finish, wake, State.retire_quiet (by rw [thread]; exact noStop) (by rw [thread]; exact noMove),
    State.thread_updThread_same, thread]
  exact ⟨rfl, chan, couch, ctxs⟩

/-! ## A word leaves -/

/-- CTX is the highest field of a tag. -/
@[simp] theorem tagCtx_mkTag (x : CtxId) (node : BitVec 20) (inst : BitVec 16) (port : BitVec 2) (kind : BitVec 3)
    (place : BitVec 6) : tagCtx (mkTag x node inst port kind place) = x := by
  refine BitVec.eq_of_getLsbD_eq fun i within => ?_
  simp only [tagCtx, mkTag, bits, BitVec.getLsbD_extractLsb', BitVec.getLsbD_append, within, decide_true, Bool.true_and]
  iterate 6 rw [if_neg (by omega)]
  congr 1
  omega

@[simp] theorem State.chan_injectFrom (s : State) (c e : ClusterId) (tok : Token) (ev counted : Bool) (d : BitVec 10)
    (ch : BitVec 3) : ((s.injectFrom c tok ev counted).cluster e).chan d ch = (s.cluster e).chan d ch := by
  have couch := s.cluster_updCluster_keeps c e (fun cl => cl.chan d ch)
    (g := fun cl => { cl with couchOut := { cl.couchOut with avail := cl.couchOut.avail - tok.flits } }) rfl
  cases counted <;> simpa [State.injectFrom, State.sendFrom, State.inflightAdd] using couch

/-- A token or an event takes the credits of its flits from the couch of its cluster. -/
@[simp] theorem State.couchOut_injectFrom (s : State) (c : ClusterId) (tok : Token) (ev counted : Bool) :
    ((s.injectFrom c tok ev counted).cluster c).couchOut =
      { (s.cluster c).couchOut with avail := (s.cluster c).couchOut.avail - tok.flits } := by
  cases counted <;> simp [State.injectFrom, State.sendFrom, State.inflightAdd]

@[simp] theorem State.threads_injectFrom (s : State) (c : ClusterId) (tok : Token) (ev counted : Bool) :
    (s.injectFrom c tok ev counted).threads = s.threads := by
  cases counted <;> rfl

/-- A token that did not count in INFLIGHT counts there as it leaves. -/
theorem State.inflight_injectFrom_uncounted (s : State) (c : ClusterId) (tok : Token) (ev : Bool) :
    ((s.injectFrom c tok ev false).ctx (tagCtx tok.tag)).inflight = (s.ctx (tagCtx tok.tag)).inflight + 1 := by
  simp [State.injectFrom, State.sendFrom, State.inflightAdd]

/-- One channel word on its way takes a stage of its channel and a credit of its cluster's couch, and counts in INFLIGHT. -/
theorem State.sendWords_one (s : State) (c dc : ClusterId) (d : BitVec 10) (ch : BitVec 3) {tok : Token} (tick : tok.tick = none)
    (single : Bool) :
    let s' := s.sendWords c dc d ch [tok] single
    ((s'.cluster dc).chan d ch).coming = ((s.cluster dc).chan d ch).coming + 1 ∧
      (s'.cluster c).couchOut.avail = (s.cluster c).couchOut.avail - 1 ∧ s'.threads = s.threads ∧
      (s'.ctx (tagCtx tok.tag)).inflight = (s.ctx (tagCtx tok.tag)).inflight + 1 := by
  have flits : tok.flits = 1 := by simp [Token.flits, tick]
  simp only [State.sendWords, List.foldl_cons, List.foldl_nil]
  refine ⟨?coming, ?credit, ?threads, ?inflight⟩
  case coming => rw [State.chan_injectFrom, State.chan_updChan_same]; rfl
  case credit => rw [State.couchOut_injectFrom, State.couchOut_updChan, flits]
  case threads => rw [State.threads_injectFrom]; rfl
  case inflight => rw [State.inflight_injectFrom_uncounted]; rfl

/-- The word of a SENDC leaves where the channel admits its thread and a stage and a VC0 credit are free. -/
theorem exec_channelCreditRequest_word {s : State} {t : Tid} {task : BitVec 16} {ch : BitVec 3} {v : DWord} {last : Bool}
    {dc : ClusterId} {d : BitVec 10} (wf : t.wf = true) (waits : (s.thread t).wait = .chan task ch v last)
    (declared : s.declared (s.threadCtx t) task ch = some (dc, d)) (up : s.epShut dc = false)
    (opened : ((s.cluster dc).chan d ch).openTo ((s.thread t).outbox.grant && !(s.thread t).outbox.words.isEmpty) = true)
    (stage : 1 ≤ ((s.cluster dc).chan d ch).free) (credit : 1 ≤ (s.cluster (tCluster t)).couchOut.avail) :
    ∃ tok : Token, tagCtx tok.tag = s.threadCtx t ∧ tok.tick = none ∧
      exec (.channelCreditRequest (.thread t)) s = .next ((s.sendWords (tCluster t) dc d ch [tok] true).finish t) := by
  refine ⟨{ tag := chanTag (s.threadCtx t) task ch last (s.placeOfTask (s.threadCtx t) task), value := v, tick := none },
    tagCtx_mkTag .., rfl, ?_⟩
  show execChannelCreditRequest (.thread t) s = _
  simp only [execChannelCreditRequest, wf, State.threadCredit, waits, State.chanCredit, declared, up, opened, stage, credit,
    decide_true, Bool.and_self, not_true_eq_false, Bool.false_eq_true, if_false, if_true]

/-! ## Reservations and arrivals -/

@[simp] theorem State.cluster_updRing (s : State) (f : FuncId) (r : RingId) (u : Ring → Ring) (c : ClusterId) :
    (s.updRing f r u).cluster c = s.cluster c := by
  rw [State.updRing]
  cases s.ring f r <;> rfl

/-- The first requester of a channel that no message holds takes the reservation, and leaves the queue. -/
theorem exec_channelReservationGrant_first {s : State} {c : ClusterId} {d : BitVec 10} {ch : BitVec 3} {who : Sender}
    {r : List Sender} (unheld : ((s.cluster c).chan d ch).holder = none) (asked : ((s.cluster c).chan d ch).queue = who :: r) :
    Answers (.channelReservationGrant c d ch) s fun s' =>
      (s'.cluster c).chan d ch = { (s.cluster c).chan d ch with holder := some who, queue := r } ∧ s'.mem = s.mem := by
  have grants : exec (.channelReservationGrant c d ch) s = execChannelReservationGrant c d ch s := rfl
  simp only [Answers, grants, execChannelReservationGrant, unheld, asked]
  refine ⟨_, rfl, ?_, by split <;> simp⟩
  cases who <;> simp

/-- The state in which a channel word stands in its stage, and its task has not been woken yet. -/
def State.arrived (s : State) (c : ClusterId) (tok : Token) (src : Byte) (r : List (Token × Byte)) (d : BitVec 10)
    (ecc : Ecc) : State :=
  let s := s.updCluster c fun cl => { cl with chanIn := r }
  let s := if ecc = .corrected then s.countCe c else s
  (s.updChan c d (bits (tagInst tok.tag) 0 3) (·.put (stageWord c tok ecc) src)).inflightSub (tagCtx tok.tag) 1

/-- A word for a task that the cluster has is written to its stage, and wakes the task. -/
theorem exec_channelWordArrival_task {s : State} {c : ClusterId} {tok : Token} {src : Byte} {r : List (Token × Byte)}
    {d : BitVec 10} (ecc : Ecc) (head : (s.cluster c).chanIn = (tok, src) :: r) (home : (s.cluster c).forward (tagCtx tok.tag) = none)
    (opened : s.shut c (tagCtx tok.tag) = false)
    (task : (s.cluster c).findTask (tagCtx tok.tag) (bits (tagNode tok.tag) 0 16) = some d) :
    exec (.channelWordArrival c ecc) s = .next ((s.arrived c tok src r d ecc).wakeTask c d) := by
  let taken := s.updCluster c fun cl => { cl with chanIn := r }
  have same : taken.cluster c = { s.cluster c with chanIn := r } := s.cluster_updCluster_same c _
  have opened' : taken.shut c (tagCtx tok.tag) = false := by rw [← opened]; simp only [State.shut, same]; rfl
  have task' : (taken.cluster c).findTask (tagCtx tok.tag) (bits (tagNode tok.tag) 0 16) = some d := by rw [← task, same]; rfl
  show execChannelWordArrival c s ecc = _
  simp only [execChannelWordArrival, head, home]
  simp only [taken] at opened' task'
  simp only [opened', task', State.arrived, Bool.false_eq_true, if_false]

/-- A word that has arrived is the last of its channel; what else the machine holds stays as it is. -/
theorem State.arrived_spec (s : State) (c : ClusterId) (tok : Token) (src : Byte) (r : List (Token × Byte)) (d : BitVec 10)
    (ecc : Ecc) :
    let b := s.arrived c tok src r d ecc
    (b.cluster c).chanIn = r ∧ (b.cluster c).chan d (bits (tagInst tok.tag) 0 3) =
      ((s.cluster c).chan d (bits (tagInst tok.tag) 0 3)).put (stageWord c tok ecc) src ∧ b.threads = s.threads ∧ b.mem = s.mem := by
  cases ecc <;> simp [State.arrived, State.inflightSub, State.updChan, State.countCe, Cluster.chan]

/-- Settles O17: the word by what a credit request sends and how its thread goes on, the grant and the arrival by what each command
makes of the channel. -/
theorem channelWordsMove : Obligations.ChannelWordsMove := by
  refine ⟨?credit, ?grant, ?arrival⟩
  case credit =>
    intro t s task ch v last dc d wf waits declared up opened stage credit noStop noMove
    obtain ⟨tok, sender, tick, sends⟩ := exec_channelCreditRequest_word wf waits declared up opened stage credit
    obtain ⟨coming, taken, threads, inflight⟩ := s.sendWords_one (tCluster t) dc d ch tick true
    have thread : (s.sendWords (tCluster t) dc d ch [tok] true).thread t = s.thread t := by rw [State.thread, threads]; rfl
    obtain ⟨advanced, chans, couches, ctxs⟩ := State.finish_unblocked (s := s.sendWords (tCluster t) dc d ch [tok] true) (t := t)
      (by rw [thread, waits]; rfl) (by rw [thread, noStop]) (by rw [thread, noMove])
    refine ⟨_, sends, ?_, ?_, ?_, ?_⟩
    · rw [chans, coming]
    · rw [couches, taken]
    · rw [advanced, thread]
    · rw [← sender, ← inflight, State.ctx, ctxs]; rfl
  case grant =>
    intro c d ch s who r unheld asked
    obtain ⟨s', granted, chan, mem⟩ := exec_channelReservationGrant_first unheld asked
    exact ⟨s', granted, by rw [chan], by rw [chan], by rw [chan], mem⟩
  case arrival =>
    intro c ecc s tok src r d head home opened task
    exact ⟨_, exec_channelWordArrival_task ecc head home opened task, _, rfl, s.arrived_spec c tok src r d ecc⟩

end Sys2Proof.Machine
end

section
/-! PROOFS. The matching store: a lookup that forms an activation or stores its operand, the return of a spill search, the ledger,
tombstones, and key errors (03 R78-R93, 05 R158). -/

namespace Sys2Proof.Machine

/-! ## Reads that meet no error -/

/-- A read of a set whose ways hold good check codes changes nothing. -/
theorem State.readSet_sound {s : State} {c : ClusterId} {st : Nat} (sound : ((s.cluster c).set st).bad = []) (way : BitVec 3) :
    s.readSet c st .clean way = s := by
  have unmet : (((s.cluster c).set st).ways.filter fun w => ((s.cluster c).set st).bad.contains w.1) = [] := by
    rw [List.filter_eq_nil_iff, sound]
    exact fun w _ => Bool.false_ne_true
  simp only [State.readSet, State.readBad, unmet, List.foldl_nil]

/-- A read of a spill slot whose words hold no error changes nothing. -/
theorem State.readSlot_sound {s : State} {c : ClusterId} {i : Nat} (value : s.bad (slotAddr c i) = false)
    (key : s.bad (slotAddr c i + 8) = false) : s.readSlot c i .clean = s := by
  simp [State.readSlot, value, key]

/-- A search of a run changes nothing where memory holds no uncorrected error. -/
theorem State.readRun_sound {s : State} (sound : s.uecc = []) (c : ClusterId) (k j : Nat) : s.readRun c k .clean j = s := by
  have good (a : Nat) : s.bad a = false := by rw [State.bad, sound]; rfl
  rw [State.readRun]
  refine List.foldlRecOn (motive := (· = s)) _ _ rfl fun t same i _ => ?_
  rw [same, ite_self, State.readSlot_sound (good _) (good _)]

theorem lt_of_leastFrom_eq_some {p : Nat → Bool} {n i k : Nat} (found : leastFrom p n i = some k) : k < i + n := by
  induction n generalizing i with
  | zero => cases found
  | succ n ih =>
    rw [leastFrom] at found
    split at found
    · cases found; omega
    · have := ih found; omega

theorem Cluster.probed_le (cl : Cluster) (h : Nat) : cl.probed h ≤ 16 := by
  rw [Cluster.probed]
  split
  · rename_i i found
    have : i < 0 + 64 := lt_of_leastFrom_eq_some found
    omega
  · exact Nat.le_refl 16

/-- A write that probes slots without errors reads them and changes nothing. -/
theorem State.readProbe_sound {s : State} {c : ClusterId} {h : Nat} (sound : ∀ j, j < 64 →
    s.bad (slotAddr c (probeSlot h j)) = false ∧ s.bad (slotAddr c (probeSlot h j) + 8) = false) : s.readProbe c h = s := by
  rw [State.readProbe]
  split
  · rfl
  · refine List.foldlRecOn (motive := (· = s)) _ _ rfl fun t same j member => ?_
    have within : j < 64 := by
      have := (s.cluster c).probed_le h
      have := List.mem_range.mp member
      omega
    obtain ⟨value, key⟩ := sound j within
    rw [same, State.readSlot_sound value key]

/-! ## Activations -/

/-- A cluster without its waiting operands: what their leaving the set, the spill write buffer and the spill region leaves. -/
def Cluster.offOperands (cl : Cluster) : Cluster := { cl with sets := [], msRes := [], spill := [], ledger := [], refused := [] }

theorem foldl_keeps_view {α β : Type} (view : State → β) {f : State → α → State} (keeps : ∀ s a, view (f s a) = view s)
    (l : List α) (s : State) : view (l.foldl f s) = view s :=
  List.foldlRecOn (motive := fun t => view t = view s) l f rfl fun t same a _ => (keeps t a).trans same

@[simp] theorem State.cluster_setBad (s : State) (a : Nat) (b : Bool) (c : ClusterId) : (s.setBad a b).cluster c = s.cluster c := rfl

theorem State.cluster_setSlot_same (s : State) (c : ClusterId) (i : Nat) (q : SpillSlot) :
    (s.setSlot c i q).cluster c = { s.cluster c with spill := (s.cluster c).spill.set i q } := by
  rw [State.setSlot, State.cluster_setBad, State.cluster_setBad, State.cluster_updCluster_same]

@[simp] theorem State.ctx_setSlot (s : State) (c : ClusterId) (i : Nat) (q : SpillSlot) (x : CtxId) :
    (s.setSlot c i q).ctx x = s.ctx x := rfl

theorem State.cluster_msCount_same (s : State) (c : ClusterId) (f : MsCnt → MsCnt) :
    (s.msCount c f).cluster c = { s.cluster c with msCnt := f (s.cluster c).msCnt } := s.cluster_updCluster_same c _

/-- A change of a cluster that reaches waiting operands alone. -/
theorem State.offOperands_updCluster (s : State) (c : ClusterId) {g : Cluster → Cluster}
    (keeps : ∀ cl, (g cl).offOperands = cl.offOperands) :
    ((s.updCluster c g).cluster c).offOperands = (s.cluster c).offOperands := by
  rw [State.cluster_updCluster_same, keeps]

@[simp] theorem State.offOperands_updSet (s : State) (c : ClusterId) (st : Nat) (f : MSet → MSet) :
    ((s.updSet c st f).cluster c).offOperands = (s.cluster c).offOperands := s.offOperands_updCluster c fun _ => rfl

@[simp] theorem State.offOperands_updMsRes (s : State) (c : ClusterId) (n : Nat) (f : MsRes → MsRes) :
    ((s.updMsRes c n f).cluster c).offOperands = (s.cluster c).offOperands := s.offOperands_updCluster c fun _ => rfl

@[simp] theorem State.offOperands_setSlot (s : State) (c : ClusterId) (i : Nat) (q : SpillSlot) :
    ((s.setSlot c i q).cluster c).offOperands = (s.cluster c).offOperands := by
  rw [State.cluster_setSlot_same]
  rfl

@[simp] theorem State.offOperands_runFreed (s : State) (c : ClusterId) (b : Nat) :
    ((s.runFreed c b).cluster c).offOperands = (s.cluster c).offOperands := s.offOperands_updCluster c fun _ => rfl

@[simp] theorem State.offOperands_unrefused (s : State) (c : ClusterId) (e : MEntry) :
    ((s.unrefused c e).cluster c).offOperands = (s.cluster c).offOperands := s.offOperands_updCluster c fun _ => rfl

@[simp] theorem State.offOperands_giveBack (s : State) (c : ClusterId) (x : CtxId) :
    ((s.giveBack c x).cluster c).offOperands = (s.cluster c).offOperands := s.offOperands_updCluster c fun _ => rfl

@[simp] theorem State.offOperands_leaveBuffer (s : State) (c : ClusterId) (n : Nat) (x : CtxId) (es : List MEntry) :
    ((s.leaveBuffer c n x es).cluster c).offOperands = (s.cluster c).offOperands :=
  foldl_keeps_view (fun s => (s.cluster c).offOperands) (fun s e => by
    rw [State.inflightSub, State.cluster_updCtx, State.offOperands_unrefused]
    exact s.offOperands_updCluster c fun _ => rfl) es s

@[simp] theorem State.offOperands_leaveSpill (s : State) (c : ClusterId) (f : Nat × MEntry × Bool) (keep : Bool) :
    ((s.leaveSpill c f keep).cluster c).offOperands = (s.cluster c).offOperands := by
  unfold State.leaveSpill
  dsimp only
  split
  · refine (State.offOperands_giveBack _ c f.2.1.ctx).trans ?_
    rw [State.offOperands_updSet, State.offOperands_runFreed, State.offOperands_setSlot]
  · rw [State.offOperands_updMsRes, State.offOperands_updSet, State.offOperands_runFreed, State.offOperands_setSlot]

theorem Cluster.noteDepths_eq (cl : Cluster) : ∃ m, cl.noteDepths = { cl with pes := m } := by
  refine List.foldlRecOn (motive := fun k : Cluster => ∃ m, k = { cl with pes := m }) _ _ ⟨cl.pes, rfl⟩ ?_
  rintro _ ⟨m, rfl⟩ p _
  rw [Cluster.noteDepth]
  split
  · exact ⟨_, rfl⟩
  · exact ⟨m, rfl⟩

/-- `cl'` is `cl` with an activation from the operands `es` at the end of its ready queue: the match is counted, and what waits for a
lookup stays. -/
structure Cluster.Formed (cl cl' : Cluster) (x : CtxId) (node : BitVec 20) (inst : BitVec 16) (es : List MEntry) : Prop where
  ready : ∃ (item : Item) (a : Activation), cl'.ready = cl.ready ++ [item] ∧ item.work = .activation a ∧
    a.ctx = x ∧ a.node = node ∧ a.inst = inst ∧ a.ops = es.map (fun e => (e.port, e.value)) ∧ a.poison = es.any (·.poison)
  ingress : cl'.ingress = cl.ingress
  searching : cl'.searching = cl.searching
  spillRet : cl'.spillRet = cl.spillRet
  counts : cl'.msCnt = { cl.msCnt with matched := satInc cl.msCnt.matched }

/-- What an activation that forms finds in a cluster stands apart from the waiting operands. -/
theorem Cluster.stands_of_offOperands {k k' : Cluster} (same : k'.offOperands = k.offOperands) :
    k'.ready = k.ready ∧ k'.readyCr = k.readyCr ∧ k'.ingress = k.ingress ∧ k'.searching = k.searching ∧
      k'.spillRet = k.spillRet ∧ k'.msCnt = k.msCnt :=
  ⟨(congrArg Cluster.ready same :), (congrArg Cluster.readyCr same :), (congrArg Cluster.ingress same :),
    (congrArg Cluster.searching same :), (congrArg Cluster.spillRet same :), (congrArg Cluster.msCnt same :)⟩

/-- Operands that leave a cluster afterwards change nothing of an activation that has formed. -/
theorem Cluster.Formed.of_offOperands {cl k k' : Cluster} {x : CtxId} {node : BitVec 20} {inst : BitVec 16} {es : List MEntry}
    (formed : cl.Formed k x node inst es) (same : k'.offOperands = k.offOperands) : cl.Formed k' x node inst es := by
  obtain ⟨ready, _, ingress, searching, spillRet, counts⟩ := Cluster.stands_of_offOperands same
  exact ⟨by rw [ready]; exact formed.ready, ingress.trans formed.ingress, searching.trans formed.searching,
    spillRet.trans formed.spillRet, counts.trans formed.counts⟩

/-- An activation for which the store holds a ready-queue credit enters the ready queue at once (03 R80). -/
theorem State.deliver_credit {s : State} {c : ClusterId} (credit : 0 < (s.cluster c).readyCr.avail) (a : Activation) :
    s.deliver c a = s.readyAct c a := if_pos credit

/-- An activation enters the ready queue at its end, and takes a credit; the depths of the PEs are noted. -/
theorem State.cluster_readyAct (s : State) (c : ClusterId) (a : Activation) :
    ∃ (item : Item) (pes : Map Pe), item.work = .activation a ∧ (s.readyAct c a).cluster c =
      { s.cluster c with
        readyCr := { (s.cluster c).readyCr with avail := (s.cluster c).readyCr.avail - 1 }
        ready := (s.cluster c).ready ++ [item], age := (s.cluster c).age + 1, pes := pes } := by
  rw [State.readyAct, State.enqueue, State.cluster_updCluster_same, State.cluster_updCluster_same]
  obtain ⟨pes, depths⟩ := Cluster.noteDepths_eq _
  exact ⟨_, pes, rfl, depths⟩

/-- Operands that form an activation leave the store, and it enters the ready queue under a credit. -/
theorem State.formFound_formed {s : State} {c : ClusterId} (credit : 0 < (s.cluster c).readyCr.avail) (n : Nat) (a : Arrival)
    (es ws : List MEntry) (found : List (Nat × MEntry × Bool)) :
    (s.cluster c).Formed ((s.formFound c n a es ws found).cluster c) a.ctx a.node a.inst es := by
  unfold State.formFound
  extract_lets used out s₁ s₂ s₃ s₄
  have left : (s₃.cluster c).offOperands = (s.cluster c).offOperands :=
    calc (s₃.cluster c).offOperands = (s₂.cluster c).offOperands :=
          foldl_keeps_view (fun s => (s.cluster c).offOperands) (fun s f => s.offOperands_leaveSpill c f false) out s₂
      _ = (s₁.cluster c).offOperands := s₁.offOperands_leaveBuffer ..
      _ = (s.cluster c).offOperands := by rw [State.offOperands_updMsRes, State.offOperands_updSet]
  obtain ⟨ready, readyCr, ingress, searching, spillRet, counts⟩ := Cluster.stands_of_offOperands left
  have counted : s₄.cluster c = _ := s₃.cluster_msCount_same c _
  rw [State.deliver_credit (by rw [counted, readyCr]; exact credit)]
  obtain ⟨item, pes, work, entered⟩ := s₄.cluster_readyAct c (s₄.mkAct c a.ctx a.node a.inst es)
  rw [entered, counted]
  exact ⟨⟨item, _, by rw [ready], work, rfl, rfl, rfl, rfl, rfl⟩, ingress, searching, spillRet, by rw [counts]⟩

/-- Operands of every required port form their activation where the arrival is one of them; its own place in INFLIGHT or the ledger is
all that is left to settle. -/
theorem State.form_formed {s : State} {c : ClusterId} {n : Nat} {a : Arrival} {es : List MEntry}
    (credit : 0 < (s.cluster c).readyCr.avail) (used : es.contains (a.entry n s.free) = true) (ws : List MEntry)
    (found : List (Nat × MEntry × Bool)) :
    ∃ t, s.form c n a es ws found = .done t ∧ (s.cluster c).Formed (t.cluster c) a.ctx a.node a.inst es := by
  have formed := State.formFound_formed credit n a es ws found
  simp only [State.form, used, if_true]
  refine ⟨_, rfl, ?_⟩
  cases a with
  | token tok => exact formed
  | moved r =>
    refine formed.of_offOperands ?_
    dsimp only
    rw [State.inflightAdd, State.cluster_updCtx]
    split
    · exact State.offOperands_giveBack _ c _
    · rfl

/-! ## A lookup slot -/

/-- An arrival that comes to the lookup of its set: its position stands here and takes tokens, residency slot `n` is its context's and
`req` are the ports its node requires, and the ways of its set hold good check codes. -/
structure State.MayLook (s : State) (c : ClusterId) (a : Arrival) (n : Nat) (req : List (BitVec 2)) : Prop where
  home : (s.cluster c).forward a.ctx = none
  opened : s.shut c a.ctx = false
  slot : (s.cluster c).slotOf a.ctx = some n
  node : s.requiredOf a.ctx a.node = some req
  sound : ((s.cluster c).set (setOf a.key)).bad = []

/-- A running lookup slot for which no arrival waits takes the head of the next source, and the rotation goes on behind it. -/
theorem State.lookSlot_source {s : State} {c : ClusterId} {k : Nat} (runs : (s.cluster c).slotsStopped = false)
    (idle : (s.cluster c).pendBuf = []) (next : s.nextSource c = some k) (err : EntryErr) (way : BitVec 3) :
    s.lookSlot c err way =
      (s.lookSource c k err way).updCluster c fun cl => { cl with rotation := BitVec.ofNat 2 ((k + 1) % 3) } := by
  simp [State.lookSlot, State.pendNext, takePend, runs, idle, next]

theorem Cluster.slotsStopped_eq_false {cl : Cluster} (output : cl.output = none) (room : cl.writeBuf < 16) :
    cl.slotsStopped = false := by
  simp [Cluster.slotsStopped, output, room]

section Ingress
variable {s : State} {c : ClusterId} {tok : Token} {r : List Token} {n : Nat} {req : List (BitVec 2)}

/-- A token at the head of the ingress, whose turn it is, takes the slot where no search is out and no write is refused. -/
theorem State.nextSource_ingress (head : (s.cluster c).ingress = tok :: r) (turn : (s.cluster c).rotation = 0)
    (unsearched : (s.cluster c).searching = []) (unrefused : (s.cluster c).refused = []) (looks : s.MayLook c (.token tok) n req) :
    s.nextSource c = some 0 := by
  have servable : s.servable c (.token tok) = true := by
    simp [State.servable, looks.home, Cluster.blocked, unrefused, unsearched]
  have takes : s.takesSource c 0 = true := by
    simp [State.takesSource, Cluster.headOf, head, State.takes, State.waitsForSet, Cluster.pendingSet, unsearched, servable]
  simp [State.nextSource, turn, takes]

/-- The head of the ingress whose lookup is done leaves it, and frees a place of the couch. -/
theorem State.lookSource_ingress {t : State} (head : (s.cluster c).ingress = tok :: r) (unsearched : (s.cluster c).searching = [])
    (looks : s.MayLook c (.token tok) n req) (done : s.lookup c (.token tok) n req = .done t) (way : BitVec 3) :
    s.lookSource c 0 .clean way = (t.unrefused c (Arrival.token tok).mark).dropHead c 0 := by
  have served : s.serve c (.token tok) .clean way = .done t := by
    simp only [State.serve, looks.home, looks.opened, State.readSet_sound looks.sound, looks.slot, looks.node, done,
      Bool.false_eq_true, if_false]
  simp [State.lookSource, Cluster.headOf, head, State.lookHead, State.waitsForSet, Cluster.pendingSet, unsearched, served]

/-- The state in which a lookup that made `t` is over: its token has left the ingress, and the release queue is next. -/
def State.ingressTaken (t : State) (c : ClusterId) (tok : Token) : State :=
  ((t.unrefused c (Arrival.token tok).mark).dropHead c 0).updCluster c fun cl => { cl with rotation := 1 }

theorem State.cluster_ingressTaken (t : State) (c : ClusterId) (tok : Token) :
    (t.ingressTaken c tok).cluster c =
      { t.cluster c with
        refused := (t.cluster c).refused.filter fun q => q.entry != (Arrival.token tok).mark
        ingress := (t.cluster c).ingress.tail
        couchIn := { (t.cluster c).couchIn with owed := (t.cluster c).couchIn.owed + 1 }
        rotation := 1 } := by
  simp only [State.ingressTaken, State.dropHead, State.couchFreed, State.unrefused, State.cluster_updCluster_same]

@[simp] theorem State.ctx_ingressTaken (t : State) (c : ClusterId) (tok : Token) (x : CtxId) :
    (t.ingressTaken c tok).ctx x = t.ctx x := rfl

/-- The lookup of the head of the ingress, in a cluster where nothing is pending. -/
theorem exec_matchingLookup_ingress {t : State} (output : (s.cluster c).output = none) (room : (s.cluster c).writeBuf < 16)
    (idle : (s.cluster c).pendBuf = []) (unsearched : (s.cluster c).searching = []) (unrefused : (s.cluster c).refused = [])
    (turn : (s.cluster c).rotation = 0) (head : (s.cluster c).ingress = tok :: r) (looks : s.MayLook c (.token tok) n req)
    (done : s.lookup c (.token tok) n req = .done t) (way : BitVec 3) :
    exec (.matchingLookup c .clean way) s = .next (t.ingressTaken c tok) := by
  show Host.Outcome.next (s.lookSlot c .clean way) = _
  rw [State.lookSlot_source (Cluster.slotsStopped_eq_false output room) idle
    (State.nextSource_ingress head turn unsearched unrefused looks), State.lookSource_ingress head unsearched looks done]
  rfl

end Ingress

theorem Arrival.key_token (tok : Token) : (Arrival.token tok).key = tok.key := rfl

/-- A lookup that retries no refused write is counted. -/
theorem State.countLookup_first {s : State} {c : ClusterId} (unrefused : (s.cluster c).refused = []) (a : Arrival) :
    s.countLookup c a = s.msCount c fun k => { k with lookup := satInc k.lookup } := by
  simp [State.countLookup, unrefused]

/-- A lookup that finds an operand for every required port forms the activation. -/
theorem State.lookup_formed {s : State} {c : ClusterId} {a : Arrival} {n : Nat} {req : List (BitVec 2)} {es : List MEntry}
    (unrefused : (s.cluster c).refused = []) (credit : 0 < (s.cluster c).readyCr.avail)
    (chosen : choosePorts req (((s.cluster c).set (setOf a.key)).matching a.key ++ (s.cluster c).waiting a.key n ++
      [a.entry n s.free]) = some es) (used : es.contains (a.entry n s.free) = true) :
    ∃ t, s.lookup c a n req = .done t ∧
      Cluster.Formed { s.cluster c with msCnt := { (s.cluster c).msCnt with lookup := satInc (s.cluster c).msCnt.lookup } }
        (t.cluster c) a.ctx a.node a.inst es := by
  have counted := s.cluster_msCount_same c fun k => { k with lookup := satInc k.lookup }
  obtain ⟨t, done, formed⟩ := State.form_formed (s := s.msCount c fun k => { k with lookup := satInc k.lookup }) (n := n) (a := a)
    (by rw [counted]; exact credit) used (((s.cluster c).set (setOf a.key)).matching a.key) []
  refine ⟨t, ?_, by rwa [counted] at formed⟩
  simp only [State.lookup, chosen, State.countLookup_first unrefused, done]

/-- A free way takes the operand under the reservation of its slot. -/
theorem State.cluster_storeWay (s : State) (c : ClusterId) (n st : Nat) (e : MEntry) :
    (s.storeWay c n st e).cluster c =
      { s.cluster c with
        sets := (s.cluster c).sets.upd st {} (·.put e)
        msRes := (s.cluster c).msRes.upd n {} fun r => { r with held := r.held + 1 } } := by
  simp only [State.storeWay, State.updMsRes, State.updSet, State.cluster_updCluster_same]

/-- A token that has been stored counts in flight no more. -/
theorem State.inflight_settled_token (s : State) (tok : Token) :
    ((s.settled (.token tok)).ctx (tagCtx tok.tag)).inflight =
      BitVec.ofNat 32 ((s.ctx (tagCtx tok.tag)).inflight.toNat - 1) := by
  simp [State.settled, State.inflightSub, Arrival.ctx]

/-- A duplicate is counted in the store's counters, and nothing else changes. -/
theorem State.countDup_spec (s : State) (c : ClusterId) (e : MEntry) (es : List MEntry) :
    (∃ cnt, (s.countDup c e es).cluster c = { s.cluster c with msCnt := cnt }) ∧ (s.countDup c e es).ctxs = s.ctxs := by
  rw [State.countDup]
  split
  · exact ⟨⟨_, s.cluster_msCount_same c _⟩, rfl⟩
  · exact ⟨⟨_, rfl⟩, rfl⟩

/-- A free way of its set takes a reserved operand whose activation is not complete, where no operand of the set is displaced. -/
theorem State.lookup_stored {s : State} {c : ClusterId} {a : Arrival} {n : Nat} {req : List (BitVec 2)}
    (unrefused : (s.cluster c).refused = [])
    (missing : choosePorts req (((s.cluster c).set (setOf a.key)).matching a.key ++ (s.cluster c).waiting a.key n ++
      [a.entry n s.free]) = none) (undisplaced : ((s.cluster c).set (setOf a.key)).spc = 0)
    (way : ((s.cluster c).set (setOf a.key)).ways.length < 8) (reserved : a.reserved ((s.cluster c).msRes.getD n {}) = true) :
    ∃ (t : State) (cnt : MsCnt), s.lookup c a n req = .done ((t.storeWay c n (setOf a.key) (a.entry n s.free)).settled a) ∧
      t.cluster c = { s.cluster c with msCnt := cnt } ∧ t.ctxs = s.ctxs := by
  let u := s.msCount c fun k => { k with lookup := satInc k.lookup }
  have counted : u.cluster c = _ := s.cluster_msCount_same c fun k => { k with lookup := satInc k.lookup }
  have looked : s.lookup c a n req = u.storeOp c n a false [] := by
    simp only [State.lookup, missing, undisplaced, if_true, State.countLookup_first unrefused, u]
  have reserved' : a.reserved ((u.cluster c).msRes.getD n {}) = true := by rw [counted]; exact reserved
  have way' : ((u.cluster c).set (setOf a.key)).ways.length < 8 := by rw [counted]; exact way
  obtain ⟨⟨cnt, cluster⟩, ctxs⟩ := u.takeFree.countDup_spec c (a.entry n u.free)
    (((u.cluster c).set (setOf a.key)).matching a.key ++ (u.cluster c).waiting a.key n ++ [])
  refine ⟨_, cnt, ?_, ?_, ctxs⟩
  · simp only [looked, State.storeOp, reserved', way', Bool.false_eq_true, not_false_eq_true, and_self, if_true]
    rfl
  · rw [cluster, State.cluster_takeFree, counted]

/-! ## Spill searches -/

section Search
variable {s : State} {c : ClusterId} {p : Pending} {n : Nat} {req : List (BitVec 2)}

/-- A change of the spill-return source is none of what an arrival comes to. -/
theorem State.MayLook.of_spillRet {a : Arrival} (looks : s.MayLook c a n req) (f : List Returned → List Returned) :
    (s.updCluster c fun cl => { cl with spillRet := f cl.spillRet }).MayLook c a n req := by
  have same := s.cluster_updCluster_same c fun cl => { cl with spillRet := f cl.spillRet }
  constructor
  case home => rw [same]; exact looks.home
  case opened => rw [← looks.opened]; simp only [State.shut, same]; rfl
  case slot => rw [same]; exact looks.slot
  case node => exact looks.node
  case sound => rw [same]; exact looks.sound

/-- The result of the only search, alone in the spill-return source whose turn it is, takes the slot. -/
theorem State.nextSource_search (returned : (s.cluster c).spillRet = [.search p.set]) (out : (s.cluster c).searching = [p])
    (turn : (s.cluster c).rotation = 2) (unrefused : (s.cluster c).refused = []) (home : (s.cluster c).forward p.arr.ctx = none) :
    s.nextSource c = some 2 := by
  have takes : s.takesSource c 2 = true := by
    simp only [State.takesSource, Cluster.headOf, returned, out, List.find?_cons, beq_self_eq_true, Option.map_some, home]
    cases p.arr <;> simp [Cluster.blocked, unrefused]
  simp [State.nextSource, turn, takes]

/-- The state in which the search that made `t` is over: its result has left the spill return. -/
def State.searchTaken (t : State) (c : ClusterId) (p : Pending) : State :=
  ((t.updCluster c fun cl => { cl with searching := cl.searching.filter fun q => q.set != p.set }).unrefused c p.arr.mark).dropHead
    c 2

theorem State.cluster_searchTaken (t : State) (c : ClusterId) (p : Pending) :
    (t.searchTaken c p).cluster c =
      { t.cluster c with
        searching := (t.cluster c).searching.filter fun q => q.set != p.set
        refused := (t.cluster c).refused.filter fun q => q.entry != p.arr.mark
        spillRet := (t.cluster c).spillRet.tail } := by
  simp only [State.searchTaken, State.dropHead, State.unrefused, State.cluster_updCluster_same]

/-- A search that completes the operands of its arrival forms the activation: the search is over and its result gone. -/
theorem State.lookSource_search {es : List MEntry} (returned : (s.cluster c).spillRet = [.search p.set])
    (out : (s.cluster c).searching = [p]) (set : p.set.toNat = setOf p.arr.key) (looks : s.MayLook c p.arr n req)
    (credit : 0 < (s.cluster c).readyCr.avail)
    (chosen : choosePorts req (((s.cluster c).set (setOf p.arr.key)).matching p.arr.key ++ (s.cluster c).waiting p.arr.key n ++
      ((s.cluster c).spillFind p.arr.key).map (·.2.1) ++ [p.arr.entry n s.free]) = some es)
    (used : es.contains (p.arr.entry n s.free) = true) (way : BitVec 3) :
    ∃ t : State, (s.cluster c).Formed (t.cluster c) p.arr.ctx p.arr.node p.arr.inst es ∧
      s.lookSource c 2 .clean way = t.searchTaken c p := by
  obtain ⟨t, done, formed⟩ := State.form_formed credit used (((s.cluster c).set (setOf p.arr.key)).matching p.arr.key)
    ((s.cluster c).spillFind p.arr.key)
  refine ⟨t, formed, ?_⟩
  have served : s.serveSearch c p .clean way =
      .done (t.updCluster c fun cl => { cl with searching := cl.searching.filter fun q => q.set != p.set }) := by
    simp only [State.serveSearch, looks.home, looks.opened, set, State.readSet_sound looks.sound, looks.slot, looks.node,
      State.searchDone, chosen, done, Option.isSome_none, Bool.or_self, Bool.false_eq_true, if_false]
  simp [State.lookSource, Cluster.headOf, returned, out, served, State.searchTaken]

/-- The result of a search that meets no error joins the spill-return source, behind what stands there. -/
theorem exec_spillSearchReturn_behind {i : BitVec 2} (out : (s.cluster c).searching[i.toNat]? = some p) (sound : s.uecc = [])
    (others : (s.cluster c).spillRet ≠ []) (absent : (s.cluster c).spillRet.contains (.search p.set) = false) (j : BitVec 6) :
    exec (.spillSearchReturn c i .clean j) s =
      .next (s.updCluster c fun cl => { cl with spillRet := cl.spillRet ++ [.search p.set] }) := by
  have behind : ((s.cluster c).spillRet ++ [Returned.search p.set] == [.search p.set]) = false := by simpa using others
  show execSpillSearchReturn c i s .clean j = _
  simp only [execSpillSearchReturn, out, absent, State.readRun_sound sound, State.cluster_updCluster_same, behind, Bool.false_and,
    Bool.false_eq_true, if_false]

/-- The result of the only search, alone in the spill-return source whose turn it is, completes its activation at once. -/
theorem exec_spillSearchReturn_forms {es : List MEntry} (out : (s.cluster c).searching = [p]) (set : p.set.toNat = setOf p.arr.key)
    (sound : s.uecc = []) (empty : (s.cluster c).spillRet = []) (idle : (s.cluster c).pendBuf = [])
    (unrefused : (s.cluster c).refused = []) (room : (s.cluster c).writeBuf < 16) (turn : (s.cluster c).rotation = 2)
    (output : (s.cluster c).output = none) (credit : 0 < (s.cluster c).readyCr.avail) (looks : s.MayLook c p.arr n req)
    (chosen : choosePorts req (((s.cluster c).set (setOf p.arr.key)).matching p.arr.key ++ (s.cluster c).waiting p.arr.key n ++
      ((s.cluster c).spillFind p.arr.key).map (·.2.1) ++ [p.arr.entry n s.free]) = some es)
    (used : es.contains (p.arr.entry n s.free) = true) (j : BitVec 6) :
    ∃ t : State, Cluster.Formed { s.cluster c with spillRet := [.search p.set] } (t.cluster c) p.arr.ctx p.arr.node p.arr.inst es ∧
      exec (.spillSearchReturn c 0 .clean j) s =
        .next ((t.searchTaken c p).updCluster c fun cl => { cl with rotation := 0 }) := by
  let u := s.updCluster c fun cl => { cl with spillRet := cl.spillRet ++ [.search p.set] }
  have same : u.cluster c = { s.cluster c with spillRet := [.search p.set] } := by
    rw [State.cluster_updCluster_same, empty]
    rfl
  have looks' : u.MayLook c p.arr n req := looks.of_spillRet (· ++ [.search p.set])
  have next : u.nextSource c = some 2 := State.nextSource_search (p := p) (by rw [same]) (by rw [same]; exact out)
    (by rw [same]; exact turn) (by rw [same]; exact unrefused) looks'.home
  have idle' : (u.cluster c).pendBuf = [] := by rw [same]; exact idle
  have runs : (u.cluster c).slotsStopped = false := by rw [same]; exact Cluster.slotsStopped_eq_false output room
  obtain ⟨t, formed, done⟩ := State.lookSource_search (s := u) (by rw [same]) (by rw [same]; exact out) set looks'
    (by rw [same]; exact credit) (by rw [same]; exact chosen) used 0
  refine ⟨t, by rwa [same] at formed, ?_⟩
  have returned : (u.cluster c).spillRet = [.search p.set] := by rw [same]
  have now : ((u.cluster c).spillRet == [.search p.set] && (u.pendNext c).isNone && u.nextSource c == some 2) = true := by
    simp [State.pendNext, takePend, returned, idle', next]
  have first : (s.cluster c).searching[(0 : BitVec 2).toNat]? = some p := by rw [out]; rfl
  have absent : (s.cluster c).spillRet.contains (.search p.set) = false := by rw [empty]; rfl
  show execSpillSearchReturn c 0 s .clean j = _
  simp only [execSpillSearchReturn, first, absent, State.readRun_sound sound, Bool.false_eq_true, if_false]
  refine congrArg Host.Outcome.next ((if_pos now).trans ?_)
  rw [State.lookSlot_source runs idle' next, done]
  rfl

end Search

/-! ## The ledger -/

/-- The state whose first ledger request has been made. -/
def State.requestMade (s : State) (c : ClusterId) : State := s.updCluster c fun cl => { cl with ledger := dropAt cl.ledger 0 }

theorem State.cluster_requestMade {s : State} {c : ClusterId} {q : LedgerReq} {r : List LedgerReq}
    (head : (s.cluster c).ledger = q :: r) : (s.requestMade c).cluster c = { s.cluster c with ledger := r } := by
  rw [State.requestMade, State.cluster_updCluster_same, head]
  rfl

@[simp] theorem State.hub_requestMade (s : State) (c : ClusterId) : (s.requestMade c).hub = s.hub := rfl

@[simp] theorem State.ctx_requestMade (s : State) (c : ClusterId) (x : CtxId) : (s.requestMade c).ctx x = s.ctx x := rfl

/-- A place that comes first in the ledger's requests is given back. -/
theorem exec_ledgerReservation_give {s : State} {c : ClusterId} {x : CtxId} {r : List LedgerReq}
    (head : (s.cluster c).ledger = .give x :: r) :
    exec (.ledgerReservation c) s = .next ((s.requestMade c).updHub fun h =>
      { h with spledger := h.spledger.upd x.toNat 0 fun n => if n = 0 then 0 else n - 1 }) := by
  have first : (s.cluster c).ledger.findIdx? (s.ledgerReady c) = some 0 := by
    rw [head, List.findIdx?_cons]
    rfl
  show execLedgerReservation c s = _
  simp only [execLedgerReservation, first]
  rw [head]
  rfl

/-- A count that falls by one, but not below 0. -/
theorem toNat_pred (n : BitVec 27) : (if n = 0 then 0 else n - 1).toNat = n.toNat - 1 := by
  split
  · subst n; simp
  · bv_omega

/-- A write that finds a free slot in its run fills it; its probes meet no error. -/
theorem State.spillWrite_free {s : State} {c : ClusterId} {e : MEntry} {i : Nat} (sound : ∀ j, j < 64 →
    s.bad (slotAddr c (probeSlot (homeBucket e.key) j)) = false ∧ s.bad (slotAddr c (probeSlot (homeBucket e.key) j) + 8) = false)
    (free : (least 64 fun j => ((s.cluster c).spillAt (probeSlot (homeBucket e.key) j)).free) = some i) (allowance : Bool) :
    s.spillWrite c e allowance = some (s.setSlot c (probeSlot (homeBucket e.key) i) (.full e allowance)) := by
  rw [State.spillWrite, State.readProbe_sound sound, free]
  rfl

/-- The state in which the operand `e` of a token has a place of its context's ledger and stands in spill slot `i` as an allowance. -/
def State.allowanceTaken (s : State) (c : ClusterId) (tok : Token) (e : MEntry) (i : Nat) : State :=
  (((s.setSlot c i (.full e true)).updSet c (setOf tok.key) fun m => { m with spc := m.spc + 1 }).inflightSub (tagCtx tok.tag) 1).updHub
    fun h => { h with spledger := h.spledger.upd (tagCtx tok.tag).toNat 0 (· + 1) }

theorem State.cluster_allowanceTaken (s : State) (c : ClusterId) (tok : Token) (e : MEntry) (i : Nat) :
    (s.allowanceTaken c tok e i).cluster c =
      { s.cluster c with
        spill := (s.cluster c).spill.set i (.full e true)
        sets := (s.cluster c).sets.upd (setOf tok.key) {} fun m => { m with spc := m.spc + 1 } } := by
  rw [State.allowanceTaken, State.cluster_updHub, State.inflightSub, State.cluster_updCtx, State.updSet, State.cluster_updCluster_same,
    State.cluster_setSlot_same]

theorem State.spledger_allowanceTaken (s : State) (c : ClusterId) (tok : Token) (e : MEntry) (i : Nat) :
    (s.allowanceTaken c tok e i).hub.spledger.getD (tagCtx tok.tag).toNat 0 = s.hub.spledger.getD (tagCtx tok.tag).toNat 0 + 1 := by
  rw [State.allowanceTaken, State.updHub_hub, Map.getD_upd_same]
  rfl

theorem State.ctx_allowanceTaken (s : State) (c : ClusterId) (tok : Token) (e : MEntry) (i : Nat) :
    (s.allowanceTaken c tok e i).ctx (tagCtx tok.tag) =
      { s.ctx (tagCtx tok.tag) with inflight := BitVec.ofNat 32 ((s.ctx (tagCtx tok.tag)).inflight.toNat - 1) } := by
  rw [State.allowanceTaken, State.ctx_updHub, State.inflightSub, State.ctx_updCtx_same, State.updSet, State.ctx_updCluster,
    State.ctx_setSlot]

/-- The operand that comes first in the ledger's requests takes a place of its context, and is written as an allowance. -/
theorem exec_ledgerReservation_take {s : State} {c : ClusterId} {tok : Token} {rank n i : Nat} {r : List LedgerReq}
    (head : (s.cluster c).ledger = .take tok rank :: r) (unrefused : (s.cluster c).refused = [])
    (home : (s.cluster c).forward (tagCtx tok.tag) = none) (opened : s.shut c (tagCtx tok.tag) = false)
    (slot : (s.cluster c).slotOf (tagCtx tok.tag) = some n)
    (room : (s.hub.spledger.getD (tagCtx tok.tag).toNat 0).toNat < (s.ctx (tagCtx tok.tag)).spillres.toNat)
    (free : (least 64 fun j => ((s.cluster c).spillAt (probeSlot (homeBucket tok.key) j)).free) = some i)
    (sound : ∀ j, j < 64 → s.bad (slotAddr c (probeSlot (homeBucket tok.key) j)) = false ∧
      s.bad (slotAddr c (probeSlot (homeBucket tok.key) j) + 8) = false) :
    exec (.ledgerReservation c) s =
      .next (((s.requestMade c).allowanceTaken c tok (tok.entry n rank) (probeSlot (homeBucket tok.key) i)).unrefused c
        (Arrival.token tok).mark) := by
  have first : (s.cluster c).ledger.findIdx? (s.ledgerReady c) = some 0 := by
    rw [head, List.findIdx?_cons]
    simp [State.ledgerReady, Cluster.blocked, unrefused]
  let u := s.requestMade c
  have same : u.cluster c = { s.cluster c with ledger := r } := State.cluster_requestMade head
  have home' : (u.cluster c).forward (tagCtx tok.tag) = none := by rw [same]; exact home
  have opened' : u.shut c (tagCtx tok.tag) = false := by rw [← opened]; simp only [State.shut, same]; rfl
  have slot' : (u.cluster c).slotOf (tagCtx tok.tag) = some n := by rw [same]; exact slot
  have room' : ¬ (u.ctx (tagCtx tok.tag)).spillres.toNat ≤ (u.hub.spledger.getD (tagCtx tok.tag).toNat 0).toNat :=
    Nat.not_le_of_lt room
  have key : (tok.entry n rank).key = tok.key := rfl
  have written : u.spillWrite c (tok.entry n rank) true =
      some (u.setSlot c (probeSlot (homeBucket tok.key) i) (.full (tok.entry n rank) true)) := by
    rw [← key]
    exact State.spillWrite_free (s := u) (by rw [key]; exact sound) (by rw [key, same]; exact free) true
  have reserved : u.reserveSpill c tok rank = 
      .done (u.allowanceTaken c tok (tok.entry n rank) (probeSlot (homeBucket tok.key) i)) := by
    simp only [State.reserveSpill, home', opened', slot', room', State.spillAllowance, Arrival.entry, written, Option.map_some,
      State.written, Bool.false_eq_true, if_false]
    rfl
  show execLedgerReservation c s = _
  simp only [execLedgerReservation, first]
  rw [head]
  simp only [List.getElem?_cons_zero]
  rw [show (s.updCluster c fun cl => { cl with ledger := dropAt cl.ledger 0 }).reserveSpill c tok rank = _ from reserved]

/-! ## Tombstones -/

theorem Map.find_erase_other {α : Type} (m : Map α) {k j : Nat} (other : j ≠ k) : (m.erase k).find j = m.find j := by
  induction m with
  | nil => rfl
  | cons e m ih =>
    obtain ⟨i, w⟩ := e
    rw [Map.erase]
    split
    · rename_i same
      rw [ih, Map.find, if_neg (by omega)]
    · rw [Map.find, Map.find, ih]

/-- A slot that is no tombstone is kept by a reclaim. -/
theorem Cluster.spillAt_reclaim_of_ne_tomb {cl : Cluster} {k : Nat} (kept : cl.spillAt k ≠ .tomb) (b j : Nat) :
    (cl.reclaim b j).spillAt k = cl.spillAt k := by
  rw [Cluster.reclaim]
  split
  · rename_i tomb
    have other : k ≠ probeSlot b j := by
      rintro rfl
      simp [kept] at tomb
    simp only [Cluster.spillAt, Map.getD, Map.find_erase_other _ other]
  · rfl

/-- A reclaim of a slot reaches no other. -/
theorem Cluster.spillAt_reclaim_other (cl : Cluster) {b j k : Nat} (other : k ≠ probeSlot b j) :
    (cl.reclaim b j).spillAt k = cl.spillAt k := by
  rw [Cluster.reclaim]
  split
  · simp only [Cluster.spillAt, Map.getD, Map.find_erase_other _ other]
  · rfl

/-- A tombstone that no later operand of its run needs becomes EMPTY. -/
theorem Cluster.spillAt_reclaim_tomb {cl : Cluster} {b j : Nat} (tomb : cl.spillAt (probeSlot b j) = .tomb)
    (unneeded : cl.tombNeeded b j = false) : (cl.reclaim b j).spillAt (probeSlot b j) = .empty := by
  simp only [Cluster.reclaim, tomb, unneeded, beq_self_eq_true, Bool.not_false, Bool.and_self, if_true]
  exact Map.getD_erase_same _ _ _

/-- The four slots of a bucket are reclaimed, the last one first. -/
def Cluster.reclaimBucket (cl : Cluster) (b : Nat) : Cluster := (List.range 4).foldl (fun cl j => cl.reclaim b (3 - j)) cl

theorem Cluster.reclaimBucket_eq (cl : Cluster) (b : Nat) :
    cl.reclaimBucket b = (((cl.reclaim b 3).reclaim b 2).reclaim b 1).reclaim b 0 := by
  simp only [Cluster.reclaimBucket, show List.range 4 = [0, 1, 2, 3] from rfl, List.foldl_cons, List.foldl_nil, Nat.reduceSub]

theorem Cluster.spillAt_reclaimBucket_of_ne_tomb {cl : Cluster} {k : Nat} (kept : cl.spillAt k ≠ .tomb) (b : Nat) :
    (cl.reclaimBucket b).spillAt k = cl.spillAt k := by
  have step {cl' : Cluster} (same : cl'.spillAt k = cl.spillAt k) (j : Nat) : (cl'.reclaim b j).spillAt k = cl.spillAt k :=
    (Cluster.spillAt_reclaim_of_ne_tomb (same ▸ kept) b j).trans same
  rw [Cluster.reclaimBucket_eq]
  exact step (step (step (step rfl 3) 2) 1) 0

theorem Cluster.spillAt_reclaimBucket_other (cl : Cluster) {b k : Nat} (other : ∀ j, j < 4 → k ≠ probeSlot b j) :
    (cl.reclaimBucket b).spillAt k = cl.spillAt k := by
  simp only [Cluster.reclaimBucket_eq, Cluster.spillAt_reclaim_other _ (other 0 (by decide)),
    Cluster.spillAt_reclaim_other _ (other 1 (by decide)), Cluster.spillAt_reclaim_other _ (other 2 (by decide)),
    Cluster.spillAt_reclaim_other _ (other 3 (by decide))]

/-- The last slot of a bucket is looked at first, so a tombstone there that is not needed becomes EMPTY and stays so. -/
theorem Cluster.spillAt_reclaimBucket_last {cl : Cluster} {b : Nat} (tomb : cl.spillAt (probeSlot b 3) = .tomb)
    (unneeded : cl.tombNeeded b 3 = false) : (cl.reclaimBucket b).spillAt (probeSlot b 3) = .empty := by
  have step {cl' : Cluster} (empty : cl'.spillAt (probeSlot b 3) = .empty) (j : Nat) :
      (cl'.reclaim b j).spillAt (probeSlot b 3) = .empty := by
    rw [Cluster.spillAt_reclaim_of_ne_tomb (by rw [empty]; decide), empty]
  rw [Cluster.reclaimBucket_eq]
  exact step (step (step (Cluster.spillAt_reclaim_tomb tomb unneeded) 2) 1) 0

@[simp] theorem State.spillAt_runFreed (s : State) (c : ClusterId) (b k : Nat) :
    ((s.runFreed c b).cluster c).spillAt k = (s.cluster c).spillAt k := by
  rw [State.runFreed, State.cluster_updCluster_same]
  rfl

/-- The spill region after a reclaim is that of the reclaimed bucket. -/
theorem exec_tombstoneReclaim (c : ClusterId) (b : BitVec 18) (s : State) : Answers (.tombstoneReclaim c b) s fun s' =>
    ∀ k, (s'.cluster c).spillAt k = ((s.cluster c).reclaimBucket b.toNat).spillAt k := by
  let t := s.updCluster c (·.reclaimBucket b.toNat)
  have region : t.cluster c = (s.cluster c).reclaimBucket b.toNat := s.cluster_updCluster_same c _
  have runs : exec (.tombstoneReclaim c b) s =
      .next (if (t.cluster c).spill.length = (s.cluster c).spill.length then t else t.runFreed c b.toNat) := rfl
  refine ⟨_, runs, fun k => ?_⟩
  split
  · rw [region]
  · rw [State.spillAt_runFreed, region]

/-! ## Key errors -/

@[simp] theorem State.cluster_mgmtRecord (s : State) (code : BitVec 16) (cause : Byte) (detail : DWord) (c : ClusterId) :
    (s.mgmtRecord code cause detail).cluster c = s.cluster c := by
  rw [State.mgmtRecord]
  (repeat' split) <;> rfl

@[simp] theorem State.ctxs_mgmtRecord (s : State) (code : BitVec 16) (cause : Byte) (detail : DWord) :
    (s.mgmtRecord code cause detail).ctxs = s.ctxs := by
  rw [State.mgmtRecord]
  (repeat' split) <;> rfl

@[simp] theorem State.fwRuns_mgmtRecord (s : State) (code : BitVec 16) (cause : Byte) (detail : DWord) :
    (s.mgmtRecord code cause detail).fwRuns = s.fwRuns := by
  rw [State.mgmtRecord]
  (repeat' split) <;> rfl

/-- A key error of the matching store is counted and recorded, and the running firmware then compares the counts. -/
theorem State.keyError_spec (s : State) (c : ClusterId) (place : Nat) :
    ∃ b : State, s.keyError c place = (if s.fwRuns then b.keyCheck c else b) ∧ b.cluster c =
      { s.cluster c with msCnt := { (s.cluster c).msCnt with ueKey := satInc (s.cluster c).msCnt.ueKey } } ∧
      b.ctxs = s.ctxs ∧ b.mem = s.mem := by
  let b := ((s.msCount c fun k => { k with ueKey := satInc k.ueKey }).countUe c).mgmtRecord recKeyError ECC_UNCORRECTED
    (BitVec.ofNat 64 (c.toNat + 64 * place))
  have runs : b.fwRuns = s.fwRuns := State.fwRuns_mgmtRecord ..
  refine ⟨b, by rw [← runs]; rfl, ?_, ?_, by simp [b]⟩
  · rw [State.cluster_mgmtRecord, State.countUe, State.cluster_updFw, State.cluster_msCount_same]
  · rw [State.ctxs_mgmtRecord]
    rfl

/-- A level of the delay list that its watermark sees changes the watermark, and may be recorded. -/
theorem State.dlLevel_spec (s : State) (c : ClusterId) (old : Nat) :
    (∃ w, (s.dlLevel c old).cluster c = { s.cluster c with dlWm := w }) ∧ (s.dlLevel c old).fwRuns = s.fwRuns ∧
      (s.dlLevel c old).ctxs = s.ctxs := by
  unfold State.dlLevel
  dsimp only
  split
  · refine ⟨⟨((s.cluster c).dlWm.change old (s.cluster c).dl.length).1, ?_⟩, ?_, ?_⟩
    · rw [State.cluster_mgmtRecord, State.cluster_updCluster_same]
    · rw [State.fwRuns_mgmtRecord]; rfl
    · rw [State.ctxs_mgmtRecord]; rfl
  · exact ⟨⟨_, s.cluster_updCluster_same c _⟩, rfl, rfl⟩

/-- A key error of the delay list removes its entry, is counted and recorded, and the running firmware then compares the counts. -/
theorem State.dlKeyError_spec (s : State) (c : ClusterId) (i : Nat) :
    ∃ b : State, s.dlKeyError c i = (if s.fwRuns then b.keyCheck c else b) ∧ (b.cluster c).dl = dropAt (s.cluster c).dl i ∧
      (b.cluster c).dlCnt.ue = satInc (s.cluster c).dlCnt.ue ∧ b.ctxs = s.ctxs ∧ b.mem = s.mem := by
  let t := s.updCluster c fun cl => { cl with dl := dropAt cl.dl i, dlCnt := { cl.dlCnt with ue := satInc cl.dlCnt.ue } }
  let b := (t.dlLevel c (s.cluster c).dl.length).mgmtRecord recKeyError ECC_UNCORRECTED (BitVec.setWidth 64 c)
  obtain ⟨⟨w, cluster⟩, runs, ctxs⟩ := t.dlLevel_spec c (s.cluster c).dl.length
  have runs' : b.fwRuns = s.fwRuns := (State.fwRuns_mgmtRecord ..).trans runs
  have same : b.cluster c = _ := (State.cluster_mgmtRecord ..).trans cluster
  have removed : t.cluster c = _ := s.cluster_updCluster_same c _
  refine ⟨b, by rw [← runs']; rfl, by rw [same, removed], by rw [same, removed], ?_, by simp [b, t]⟩
  rw [State.ctxs_mgmtRecord, ctxs]
  rfl

/-! ## Memory -/

theorem mem_of_exec_matchingLookup {c : ClusterId} {err : EntryErr} {way : BitVec 3} {s s' : State}
    (runs : exec (.matchingLookup c err way) s = .next s') : s'.mem = s.mem := by
  have looked : Host.Outcome.next (s.lookSlot c err way) = .next s' := runs
  cases looked
  exact s.lookSlot_mem c err way

theorem mem_of_exec_spillSearchReturn {c : ClusterId} {i : BitVec 2} {err : EntryErr} {j : BitVec 6} {s s' : State}
    (runs : exec (.spillSearchReturn c i err j) s = .next s') : s'.mem = s.mem := by
  have returned : execSpillSearchReturn c i s err j = .next s' := runs
  unfold execSpillSearchReturn at returned
  dsimp only at returned
  (repeat' split at returned) <;> cases returned <;> simp

/-! ## Every clause -/

/-- Settles O21: lookups and searches by the activation that `State.form_formed` gives and the way that `State.lookup_stored` fills, the
ledger and the tombstones by what each command makes of the spill region, the key errors by what is left to compare. -/
theorem operandsMeetInTheStore : Obligations.OperandsMeetInTheStore := by
  refine ⟨?lookup, ⟨?behind, ?search, ?give, ?take, ?tombstone⟩, ?msKey, ?dlKey⟩
  case lookup =>
    intro c way s tok r n req cl x m output idle unsearched room unrefused turn head sound home opened slot node
    have looks : s.MayLook c (.token tok) n req := ⟨home, opened, slot, node, sound⟩
    refine ⟨fun es chosen used credit => ?forms, fun missing undisplaced ways held => ?stores⟩
    case forms =>
      obtain ⟨t, done, ready, ingress, -, -, counts⟩ := State.lookup_formed (a := .token tok) unrefused credit
        (by rw [Arrival.key_token]; exact chosen) used
      have taken := t.cluster_ingressTaken c tok
      have runs := exec_matchingLookup_ingress output room idle unsearched unrefused turn head looks done way
      refine ⟨_, runs, ?_, ?_, ?_, ?_, mem_of_exec_matchingLookup runs⟩
      · rw [taken]
        exact ready
      · rw [taken, ingress]
        exact congrArg List.tail head
      · rw [taken, counts]
      · rw [taken, counts]
    case stores =>
      obtain ⟨t, cnt, done, cluster, ctxs⟩ := State.lookup_stored (a := .token tok) (n := n) (req := req) unrefused
        (by rw [Arrival.key_token]; exact missing) (by rw [Arrival.key_token]; exact undisplaced)
        (by rw [Arrival.key_token]; exact ways) (by simpa [Arrival.reserved] using held)
      let u := (t.storeWay c n (setOf tok.key) (tok.entry n s.free)).settled (.token tok)
      have runs : exec (.matchingLookup c .clean way) s = .next (u.ingressTaken c tok) :=
        exec_matchingLookup_ingress output room idle unsearched unrefused turn head looks done way
      have taken := u.cluster_ingressTaken c tok
      have stored : u.cluster c = _ := t.cluster_storeWay c n (setOf tok.key) (tok.entry n s.free)
      rw [cluster] at stored
      refine ⟨_, runs, ?_, ?_, ?_, ?_, mem_of_exec_matchingLookup runs⟩
      · simp only [Cluster.set, taken, stored, Map.getD_upd_same]
        rfl
      · rw [taken, stored]
        exact congrArg List.tail head
      · simp only [taken, stored, Map.getD_upd_same]
        rfl
      · have kept : (t.storeWay c n (setOf tok.key) (tok.entry n s.free)).ctx x = s.ctx x := 
          congrArg (fun m : Map Ctx => m.getD x.toNat {}) ctxs
        rw [State.ctx_ingressTaken, State.inflight_settled_token, kept]
  case behind =>
    intro c i j s p out sound others absent
    exact ⟨_, exec_spillSearchReturn_behind out sound others absent j, rfl⟩
  case search =>
    intro c j s p n req es cl x found ws out set sound empty idle unrefused room turn output credit bad home opened slot node chosen
      used
    have looks : s.MayLook c p.arr n req := ⟨home, opened, slot, node, by rw [← set]; exact bad⟩
    obtain ⟨t, formed, runs⟩ := exec_spillSearchReturn_forms out set sound empty idle unrefused room turn output credit looks chosen
      used j
    obtain ⟨ready, -, searching, spillRet, counts⟩ := formed
    have taken := t.cluster_searchTaken c p
    refine ⟨_, runs, ?_, ?_, ?_, ?_, mem_of_exec_spillSearchReturn runs⟩
    · rw [State.cluster_updCluster_same, taken]
      exact ready
    · rw [State.cluster_updCluster_same, taken, searching]
      simp [show (s.cluster c).searching = [p] from out]
    · rw [State.cluster_updCluster_same, taken, spillRet]
      rfl
    · rw [State.cluster_updCluster_same, taken, counts]
  case give =>
    intro c s x r head
    refine ⟨_, exec_ledgerReservation_give head, ?_, ?_, rfl⟩
    · rw [State.cluster_updHub, State.cluster_requestMade head]
    · rw [State.updHub_hub, Map.getD_upd_same, toNat_pred, State.hub_requestMade]
  case take =>
    intro c s tok rank r n i cl x head unrefused home opened slot room free sound
    have stands := (s.requestMade c).cluster_allowanceTaken c tok (tok.entry n rank) (probeSlot (homeBucket tok.key) i)
    rw [State.cluster_requestMade head] at stands
    refine ⟨_, exec_ledgerReservation_take head unrefused home opened slot room free sound, ?_, ?_, ?_, ?_⟩
    · rw [State.unrefused, State.cluster_updCluster_same, stands]
      exact (Map.getD_set ..).trans (if_pos rfl)
    · rw [State.unrefused, State.cluster_updCluster_same, stands]
    · rw [State.unrefused, State.updCluster_hub, State.spledger_allowanceTaken, State.hub_requestMade]
    · rw [State.unrefused, State.ctx_updCluster, State.ctx_allowanceTaken, State.ctx_requestMade]
  case tombstone =>
    intro c b s
    obtain ⟨s', reclaims, region⟩ := exec_tombstoneReclaim c b s
    refine ⟨s', reclaims, fun k other => ?_, fun tomb unneeded => ?_, fun j _ kept => ?_⟩
    · rw [region, Cluster.spillAt_reclaimBucket_other _ other]
    · rw [region, Cluster.spillAt_reclaimBucket_last tomb unneeded]
    · rw [region, Cluster.spillAt_reclaimBucket_of_ne_tomb kept]
  case msKey =>
    intro c set way s
    let dropped := s.updSet c set.toNat fun m => { m with ways := m.ways.filter fun w => w.1 != way }
    obtain ⟨b, recorded, cluster, ctxs, mem⟩ := dropped.keyError_spec c (8 * set.toNat + way.toNat)
    refine ⟨b, congrArg Host.Outcome.next recorded, ?_, ?_, ctxs, by rw [mem, State.updSet_mem]⟩
    · simp [cluster, dropped, State.updSet, Cluster.set]
    · simp [cluster, dropped, State.updSet]
  case dlKey =>
    intro c i s within
    obtain ⟨b, recorded, entries, counts, ctxs, mem⟩ := s.dlKeyError_spec c i.toNat
    refine ⟨b, ?_, entries, counts, ctxs, mem⟩
    show execDlKeyErrorRecord c i s = _
    rw [execDlKeyErrorRecord, if_neg (Nat.not_le_of_lt within), recorded]

end Sys2Proof.Machine
end

section
/-! PROOFS. Instruction lines come into the cache of a PE or leave it, and the firmware rewrites a code word (04 R115, 16 R441). -/

namespace Sys2Proof.Machine

/-! ## What a fetch changes -/

@[simp] theorem Pe.head?_icache_addLine (p : Pe) (line : Nat) : (p.addLine line).icache.head? = some line := rfl

@[simp] theorem State.cluster_hold (s : State) (t : Tid) (w : Wait) (c : ClusterId) : (s.hold t w).cluster c = s.cluster c := rfl

@[simp] theorem State.thread_hold_same (s : State) (t : Tid) (w : Wait) :
    (s.hold t w).thread t = { s.thread t with wait := w } := s.thread_updThread_same t _

theorem State.thread_hold_other (s : State) {t u : Tid} (other : u ≠ t) (w : Wait) : (s.hold t w).thread u = s.thread u :=
  s.thread_updThread_other other _

@[simp] theorem State.threads_mgmtRecord (s : State) (code : BitVec 16) (cause : Byte) (detail : DWord) :
    (s.mgmtRecord code cause detail).threads = s.threads := by
  rw [State.mgmtRecord]
  split
  · rfl
  · split <;> rfl

/-! ## A line that was waited for -/

/-- The code word at the PC of a thread is read without an error; one that was corrected is counted. -/
def State.wordRead (s : State) (t : Tid) (ecc : Ecc) : State :=
  if ecc = .corrected then (s.hold t .none).countCe (tCluster t) else s.hold t .none

/-- Reading a code word changes the wait of its thread, and neither a context nor memory. -/
theorem State.wordRead_spec (s : State) (t : Tid) (ecc : Ecc) :
    (s.wordRead t ecc).threads = (s.hold t .none).threads ∧ (s.wordRead t ecc).ctxs = s.ctxs ∧ (s.wordRead t ecc).mem = s.mem := by
  rw [State.wordRead]
  split <;> exact ⟨rfl, rfl, rfl⟩

/-- A line that comes without an error enters the cache of the thread's PE. -/
theorem exec_instructionCacheFill_sound {t : Tid} {ecc : Ecc} {s : State} (wf : t.wf = true) (waits : (s.thread t).wait = .icache)
    (corrected : ecc ≠ .uncorrected)
    (sound : ∀ x, (s.cluster (tCluster t)).code.find ((s.thread t).pc.toNat / 4) = some x → x.ue = false) :
    exec (.instructionCacheFill t ecc) s =
      .next ((s.wordRead t ecc).updPe (tCluster t) (tPe t) fun p => p.addLine ((s.thread t).pc.toNat / 64)) := by
  show execInstructionCacheFill t ecc s = _
  cases word : (s.cluster (tCluster t)).code.find ((s.thread t).pc.toNat / 4) with
  | none => simp [execInstructionCacheFill, State.wordRead, wf, waits, corrected, word]
  | some x => simp [execInstructionCacheFill, State.wordRead, wf, waits, corrected, word, sound x word]

/-- A code word that cannot be corrected faults the thread that fetches it. -/
theorem exec_instructionCacheFill_uncorrected {t : Tid} {s : State} (wf : t.wf = true) (waits : (s.thread t).wait = .icache) :
    ∃ a : State, exec (.instructionCacheFill t .uncorrected) s = .next (a.takeFault t ECC_UNCORRECTED) ∧
      a.thread t = { s.thread t with wait := .none } ∧ a.ctxs = s.ctxs := by
  have faults : ∃ g, execInstructionCacheFill t .uncorrected s =
      .next (((((s.hold t .none).updCluster (tCluster t) g).countUe (tCluster t)).mgmtRecord recCode ECC_UNCORRECTED
        (BitVec.ofNat 64 (4 * ((s.thread t).pc.toNat / 4)))).takeFault t ECC_UNCORRECTED) :=
    ⟨_, by simp only [execInstructionCacheFill, wf, waits]; rfl⟩
  obtain ⟨g, faults⟩ := faults
  refine ⟨_, faults, ?_, State.ctxs_mgmtRecord ..⟩
  rw [State.thread, State.threads_mgmtRecord]
  exact s.thread_hold_same t .none

/-- The line in which a ready thread finds a parity error leaves the cache, and the thread waits for it. -/
theorem exec_instructionCacheFill_parity {t : Tid} {s : State} (wf : t.wf = true) (parity : s.lineParity t = true) (ecc : Ecc) :
    exec (.instructionCacheFill t ecc true) s =
      .next ((s.updPe (tCluster t) (tPe t) fun p =>
        { p with icache := p.icache.filter (· != (s.thread t).pc.toNat / 64) }).hold t .icache) := by
  show execInstructionCacheFill t ecc s true = _
  simp only [execInstructionCacheFill, wf, parity, not_true_eq_false, if_false, Bool.and_self, if_true]

/-! ## Code words -/

/-- The running firmware writes a code word of a cluster again. -/
theorem exec_codeWordRewrite_running {c : ClusterId} {off : BitVec 18} {s : State} {x : CodeWord} (runs : s.fwRuns = true)
    (word : (s.cluster c).code.find (off.toNat / 4) = some x) :
    ∃ g, exec (.codeWordRewrite c off) s = .next (s.updCluster c g) ∧
      g (s.cluster c) = { s.cluster c with code := (s.cluster c).code.set (off.toNat / 4) { x with ue := false } } := by
  refine ⟨_, if_pos runs, ?_⟩
  simp only [word]

/-- Settles O23: the line, the parity error and the code word each by the state that its command answers. -/
theorem codeIsFetchedAndRepaired : Obligations.CodeIsFetchedAndRepaired := by
  refine ⟨fun t ecc s wf waits => ⟨?sound, ?uncorrected⟩, ?parity, ?rewrite⟩
  case sound =>
    intro corrected sound
    obtain ⟨threads, ctxs, mem⟩ := s.wordRead_spec t ecc
    refine ⟨_, exec_instructionCacheFill_sound wf waits corrected sound, ?_, ?_, fun u other => ?_, ctxs, mem⟩
    · rw [State.thread_updPe, State.thread, threads]
      exact s.thread_hold_same t .none
    · rw [State.pe_updPe_same, Pe.head?_icache_addLine]
    · rw [State.thread_updPe, State.thread, threads]
      exact s.thread_hold_other other .none
  case uncorrected =>
    rintro rfl
    exact exec_instructionCacheFill_uncorrected wf waits
  case parity =>
    intro t ecc s wf parity
    refine ⟨_, exec_instructionCacheFill_parity wf parity ecc, ?_, ?_, fun u other => ?_, rfl, rfl⟩
    · rw [State.thread_hold_same, State.thread_updPe]
    · rw [State.cluster_hold, State.pe_updPe_same]
    · rw [State.thread_hold_other _ other, State.thread_updPe]
  case rewrite =>
    intro c off s x runs word
    obtain ⟨g, rewrites, code⟩ := exec_codeWordRewrite_running runs word
    refine ⟨_, rewrites, ?_, fun w other => ?_, rfl⟩
    · rw [State.cluster_updCluster_same, code, Map.find_set_same]
    · rw [State.cluster_updCluster_same, code, Map.find_set_other _ other]

end Sys2Proof.Machine
end

section
/-! PROOFS. Words that take flags or a channel word, or block their task (04 R131-R133, 08 R250-R252). -/

namespace Sys2Proof.Machine

/-! ## A word that also changes the cluster of its thread -/

/-- A cluster with other PEs and other busy units: what an issue may change of it. -/
def Cluster.withUnits (cl : Cluster) (ps : Map Pe) (dec interp : Nat) : Cluster :=
  { cl with pes := ps, decBusy := dec, interpBusy := interp }

/-- A change of a thread's cluster that neither reads nor changes what an issue may change goes beside the issue. -/
theorem OnlyThread.cluster_both {s a : State} {t : Tid} {th : Thread} (only : OnlyThread s a t th) {g : Cluster → Cluster}
    (apart : ∀ cl ps i j, g (cl.withUnits ps i j) = (g cl).withUnits ps i j) :
    OnlyThread (s.updCluster (tCluster t) g) (a.updCluster (tCluster t) g) t th := by
  have units (cl : Cluster) : (g cl).withUnits cl.pes cl.decBusy cl.interpBusy = g cl := (apart cl _ _ _).symm
  have pes (cl : Cluster) : (g cl).pes = cl.pes := by rw [← units]; rfl
  have pe (cl : Cluster) (p : BitVec 3) : (g cl).pe p = cl.pe p := congrArg (fun m : Map Pe => m.getD p.toNat {}) (pes cl)
  have decBusy (cl : Cluster) : (g cl).decBusy = cl.decBusy := by rw [← units]; rfl
  have interpBusy (cl : Cluster) : (g cl).interpBusy = cl.interpBusy := by rw [← units]; rfl
  refine ⟨only.thread, only.others, ?rest, fun c apartFrom => ?away, ?cluster, fun p other => ?pes, ?pe⟩
  case rest => exact congrArg (fun x : State => { x with clusters := s.clusters.upd (tCluster t).toNat {} g }) only.rest
  case away =>
    by_cases home : c = tCluster t
    · subst home
      simp only [State.cluster_updCluster_same, only.away _ apartFrom]
    · simp only [State.cluster_updCluster_other _ home, only.away c apartFrom]
  case cluster =>
    simp only [State.cluster_updCluster_same, pes, decBusy, interpBusy]
    exact (apart (a.cluster (tCluster t)) _ _ _).symm.trans (congrArg g only.cluster)
  case pes => simp only [State.cluster_updCluster_same, pe, only.pes p other]
  case pe =>
    simp only [State.cluster_updCluster_same, pe]
    exact only.pe

/-- What of its cluster no issue changes, is as before the issue. -/
theorem OnlyThread.view_cluster {α : Type} {s a : State} {t : Tid} {th : Thread} (only : OnlyThread s a t th) (view : Cluster → α)
    (apart : ∀ cl ps i j, view (cl.withUnits ps i j) = view cl) :
    view (a.cluster (tCluster t)) = view (s.cluster (tCluster t)) :=
  (apart (a.cluster (tCluster t)) _ _ _).symm.trans (congrArg view only.cluster)

theorem OnlyThread.mem {s a : State} {t : Tid} {th : Thread} (only : OnlyThread s a t th) : a.mem = s.mem := by
  have same := congrArg State.mem only.rest
  exact same

section Armed
variable (s : State) (t : Tid) (w : Word)

@[simp] theorem State.task_armed (d : BitVec 10) :
    ((s.armed t w).cluster (tCluster t)).task d = (s.cluster (tCluster t)).task d :=
  (OnlyThread.armed s t w).view_cluster (fun cl => cl.task d) fun _ _ _ _ => rfl

@[simp] theorem State.chan_armed (d : BitVec 10) (ch : BitVec 3) :
    ((s.armed t w).cluster (tCluster t)).chan d ch = (s.cluster (tCluster t)).chan d ch :=
  (OnlyThread.armed s t w).view_cluster (fun cl => cl.chan d ch) fun _ _ _ _ => rfl

@[simp] theorem State.flags_armed (d : BitVec 10) :
    ((s.armed t w).cluster (tCluster t)).flags d = (s.cluster (tCluster t)).flags d :=
  (OnlyThread.armed s t w).view_cluster (fun cl => cl.flags d) fun _ _ _ _ => rfl

@[simp] theorem State.cancelPending_armed : (s.armed t w).cancelPending t = s.cancelPending t := by
  simp only [State.cancelPending, State.taskOf_armed, State.task_armed]

theorem OnlyThread.armed_updTask (d : BitVec 10) (f : Task → Task) :
    OnlyThread (s.updTask (tCluster t) d f) ((s.armed t w).updTask (tCluster t) d f) t (s.seen t w) :=
  (OnlyThread.armed s t w).cluster_both fun _ _ _ _ => rfl

theorem OnlyThread.armed_updTaskOf (f : Task → Task) :
    OnlyThread (s.updTaskOf t f) ((s.armed t w).updTaskOf t f) t (s.seen t w) := by
  rw [State.updTaskOf, State.updTaskOf, State.taskOf_armed]
  cases s.taskOf t with
  | none => exact OnlyThread.armed s t w
  | some d => exact OnlyThread.armed_updTask s t w d f

theorem OnlyThread.armed_updChan (d : BitVec 10) (ch : BitVec 3) (f : Channel → Channel) :
    OnlyThread (s.updChan (tCluster t) d ch f) ((s.armed t w).updChan (tCluster t) d ch f) t (s.seen t w) :=
  (OnlyThread.armed s t w).cluster_both fun _ _ _ _ => rfl

end Armed

/-! ## A mask of flags -/

/-- Bits 30 and 31 are those above the flags that a task may name. -/
theorem getLsbD_reserved_iff (m : Word) : (m.getLsbD 30 = true ∨ m.getLsbD 31 = true) ↔ 2 ^ 30 ≤ m.toNat := by
  constructor
  · intro reserved
    refine Nat.le_of_not_lt fun small => ?_
    have clear (i : Nat) (above : 30 ≤ i) : m.getLsbD i = false :=
      Nat.testBit_lt_two_pow (Nat.lt_of_lt_of_le small (Nat.pow_le_pow_right (by decide) above))
    rw [clear 30 (by decide), clear 31 (by decide)] at reserved
    exact absurd reserved (by decide)
  · intro large
    refine Decidable.byContradiction fun clear => ?_
    obtain ⟨clear30, clear31⟩ := not_or.mp clear
    refine absurd (Nat.lt_pow_two_of_testBit m.toNat fun i above => ?_) (Nat.not_lt.mpr large)
    show m.getLsbD i = false
    obtain rfl | rfl | beyond : i = 30 ∨ i = 31 ∨ 32 ≤ i := by omega
    · exact Bool.eq_false_iff.mpr clear30
    · exact Bool.eq_false_iff.mpr clear31
    · exact BitVec.getLsbD_of_ge m i beyond

/-! ## CLREV -/

section Clrev
variable {t : Tid} {rs1 : GReg} {meet : Word} {s : State}

theorem exec_clrev_clears (runs : s.runs t (wLT 0x30 0 rs1 0 0 7) = true)
    (small : ((s.seen t (wLT 0x30 0 rs1 0 0 7)).read s.free rs1).toNat < 2 ^ 30) :
    let th := s.seen t (wLT 0x30 0 rs1 0 0 7)
    ∃ s', exec (.clrev t rs1 meet) s = .next s' ∧
      OnlyThread (s.updTaskOf t fun d =>
        { d with evflags := d.evflags &&& ~~~(th.read s.free rs1 &&& 0x3FFFFF00 &&& ~~~meet) }) s' t th.advance := by
  obtain ⟨noStop, noMove⟩ := State.runs_quiet runs
  refine issue_ok (body := clrevBody t rs1 meet) runs ?_ (OnlyThread.armed_updTaskOf s t _ _) (by simp [noStop]) (by simp [noMove])
  simp only [clrevBody, State.thread_armed, getLsbD_reserved_iff, if_neg (Nat.not_le.mpr small)]

theorem exec_clrev_reserved (runs : s.runs t (wLT 0x30 0 rs1 0 0 7) = true)
    (large : 2 ^ 30 ≤ ((s.seen t (wLT 0x30 0 rs1 0 0 7)).read s.free rs1).toNat) :
    ∃ a, exec (.clrev t rs1 meet) s = .next (a.takeFault t RESERVED_FIELD) ∧
      OnlyThread s a t (s.seen t (wLT 0x30 0 rs1 0 0 7)) := by
  refine ⟨_, issue_fault (body := clrevBody t rs1 meet) runs ?_, OnlyThread.armed s t _⟩
  simp only [clrevBody, State.thread_armed, getLsbD_reserved_iff, if_pos large]

end Clrev

/-! ## A word that blocks its task -/

theorem State.stopReq_quiet {s : State} {t : Tid} (noStop : (s.thread t).dbgReq = false) (noMove : (s.thread t).moveReq = false) :
    s.stopReq t = s := by
  simp [State.stopReq, noStop, noMove]

@[simp] theorem State.threads_updTaskOf (s : State) (t : Tid) (f : Task → Task) : (s.updTaskOf t f).threads = s.threads := by
  unfold State.updTaskOf; split <;> rfl

@[simp] theorem State.threads_actOf (s : State) (t : Tid) : (s.actOf t).threads = s.threads := by
  unfold State.actOf; split <;> rfl

@[simp] theorem State.task_actOf (s : State) (t : Tid) (d : BitVec 10) :
    ((s.actOf t).cluster (tCluster t)).task d = (s.cluster (tCluster t)).task d := by
  unfold State.actOf; split
  · rfl
  · exact s.act_task _ _ d

/-- Task `d` of thread `t` is BLOCKED with WAIT `code`, the thread waits, and neither another thread nor memory has changed. -/
def State.Blocked (s : State) (t : Tid) (d : BitVec 10) (w : Wait) (code : BitVec 3) (s' : State) : Prop :=
  (s'.thread t).wait = w ∧ ((s'.cluster (tCluster t)).task d).state = BLOCKED ∧
    ((s'.cluster (tCluster t)).task d).wait = code ∧ s'.mem = s.mem ∧ ∀ u, u ≠ t → s'.thread u = s.thread u

/-- A task whose word blocks, with no cancel pending and no stop asked for, is BLOCKED. -/
theorem State.block_blocked {s : State} {t : Tid} {d : BitVec 10} (task : s.taskOf t = some d) (alive : s.cancelPending t = false)
    (noStop : (s.thread t).dbgReq = false) (noMove : (s.thread t).moveReq = false) (w : Wait) (code ch : BitVec 3) (mask : Word) :
    s.Blocked t d w code (s.block t w code ch mask) := by
  let waiting := s.updThread t fun th => { th with wait := w, blockedAt := s.threadClock t }
  let marked := waiting.updTaskOf t fun k => { k with state := BLOCKED, wait := code, wch := ch, evmask := mask }
  have threads : (marked.actOf t).threads = waiting.threads := by rw [State.threads_actOf, State.threads_updTaskOf]
  have thread (u : Tid) : (marked.actOf t).thread u = waiting.thread u :=
    congrArg (fun m : Map Thread => m.getD u.toNat {}) threads
  have same : waiting.thread t = { s.thread t with wait := w, blockedAt := s.threadClock t } := s.thread_updThread_same t _
  have blocks : s.block t w code ch mask = marked.actOf t := by
    have quiet : (marked.actOf t).stopReq t = marked.actOf t :=
      State.stopReq_quiet (by rw [thread, same]; exact noStop) (by rw [thread, same]; exact noMove)
    simp only [State.block, alive, Bool.false_eq_true, if_false]
    exact (ite_congr rfl (fun _ => quiet) fun _ => rfl).trans (ite_self _)
  have marks : marked = waiting.updTask (tCluster t) d fun k =>
      { k with state := BLOCKED, wait := code, wch := ch, evmask := mask } := by
    have task' : waiting.taskOf t = some d := by rw [State.taskOf, same]; exact task
    simp only [marked, State.updTaskOf, task']
  have descriptor : ((marked.actOf t).cluster (tCluster t)).task d =
      { (s.cluster (tCluster t)).task d with state := BLOCKED, wait := code, wch := ch, evmask := mask } := by
    rw [State.task_actOf, marks, State.task_updTask_same]; rfl
  rw [State.Blocked, blocks, descriptor, thread, same]
  refine ⟨rfl, rfl, rfl, by simp [marked, waiting], fun u other => ?_⟩
  rw [thread]
  exact s.thread_updThread_other other _

/-- The issue of a word whose body blocks its task. -/
theorem issue_blocks {s : State} {t : Tid} {d : BitVec 10} {w : Word} {body : State → Iss → Eff} {wait : Wait} {code ch : BitVec 3}
    {mask : Word} (task : s.taskOf t = some d) (runs : s.runs t w = true) (alive : s.cancelPending t = false)
    (stays : body (s.armed t w) { n := s.free, k := s.issueClock t w, x := s.threadCtx t } =
      .stay ((s.armed t w).block t wait code ch mask)) :
    ∃ s', issue t w body s = .next s' ∧ s.Blocked t d wait code s' := by
  obtain ⟨noStop, noMove⟩ := State.runs_quiet runs
  have only := OnlyThread.armed s t w
  obtain ⟨waits, state, blocked, mem, others⟩ := State.block_blocked (s := s.armed t w) (t := t) (d := d)
    (by rw [State.taskOf_armed, task]) (by rw [State.cancelPending_armed, alive])
    (by rw [State.thread_armed, State.seen_dbgReq, noStop]) (by rw [State.thread_armed, State.seen_moveReq, noMove]) wait code ch mask
  exact ⟨_, issue_stay runs stays, waits, state, blocked, mem.trans only.mem,
    fun u other => (others u other).trans (only.others u other)⟩

/-! ## RECV and TRYRECV -/

/-- A thread that receives: the word of the channel goes to the pair rd, and its status to rt. -/
def Thread.receive (th : Thread) (n : Nat) (due : Option Nat) (rd rt : GReg) (h : ChWord) (status : Word) : Thread :=
  let a := if rt = rd then th else th.write n due rd (bits h.value 0 32)
  let b := if rt = rd + 1 then a else a.write n due (rd + 1) (bits h.value 32 32)
  b.write n due rt status

theorem Thread.receive_requests (th : Thread) (n : Nat) (due : Option Nat) (rd rt : GReg) (h : ChWord) (status : Word) :
    (th.receive n due rd rt h status).dbgReq = th.dbgReq ∧ (th.receive n due rd rt h status).moveReq = th.moveReq := by
  unfold Thread.receive
  split <;> split <;> simp

/-- The head word of a channel leaves it for the registers of the thread. -/
theorem State.takeWord_cons {s : State} {t : Tid} {d : BitVec 10} {ch : BitVec 3} {h : ChWord} {r : List ChWord}
    (head : ((s.cluster (tCluster t)).chan d ch).words = h :: r) (rd rt : GReg) (n k : Nat) :
    s.takeWord t d ch rd rt n k =
      (s.updChan (tCluster t) d ch fun c =>
        { c with words := r, visible := ((s.cluster (tCluster t)).chan d ch).visible - 1 }).updThread t fun th =>
          th.receive n (some (k + 2)) rd rt h (recvStatus ch h (((s.cluster (tCluster t)).chan d ch).visible - 1)) := by
  simp only [State.takeWord, head]
  rfl

theorem exec_recv_eq_issue (t : Tid) (rd rt : GReg) (dsel : BitVec 7) (try_ : Bool) (s : State) :
    exec (if try_ then .tryrecv t rd rt dsel else .recv t rd rt dsel) s =
      issue t (wLT 0x31 rd rt 0 dsel (if try_ then 1 else 0)) (recvBody t rd rt dsel try_) s := by
  cases try_ <;> rfl

section Recv
variable {t : Tid} {rd rt : GReg} {dsel : BitVec 7} {s : State} {try_ : Bool} {d : BitVec 10}
  (task : s.taskOf t = some d)
  (declared : ((s.cluster (tCluster t)).task d).chmask.getLsbD (bits dsel 0 3 : BitVec 3).toNat = true)
include task declared

/-- What RECV and TRYRECV do with a declared channel of their task: it holds a visible word, or none. -/
theorem recvBody_declared (w : Word) (i : Iss) :
    recvBody t rd rt dsel try_ (s.armed t w) i =
      if 0 < ((s.cluster (tCluster t)).chan d (bits dsel 0 3)).visible then
        .ok ((s.armed t w).takeWord t d (bits dsel 0 3) rd rt i.n i.k)
      else if try_ then .ok ((s.armed t w).updThread t fun th => th.write i.n (some (i.k + 2)) rt 0)
      else .stay ((s.armed t w).block t (.recv (bits dsel 0 3)) 1 (bits dsel 0 3)) := by
  simp only [recvBody, State.taskOf_armed, task, State.task_armed, declared, State.chan_armed, not_true_eq_false, if_false,
    gt_iff_lt]

variable (runs : s.runs t (wLT 0x31 rd rt 0 dsel (if try_ then 1 else 0)) = true)
include runs

theorem exec_recv_takes {h : ChWord} {r : List ChWord}
    (head : ((s.cluster (tCluster t)).chan d (bits dsel 0 3)).words = h :: r)
    (visible : 0 < ((s.cluster (tCluster t)).chan d (bits dsel 0 3)).visible) :
    let w := wLT 0x31 rd rt 0 dsel (if try_ then 1 else 0)
    let left := ((s.cluster (tCluster t)).chan d (bits dsel 0 3)).visible - 1
    ∃ s', exec (if try_ then .tryrecv t rd rt dsel else .recv t rd rt dsel) s = .next s' ∧
      OnlyThread (s.updChan (tCluster t) d (bits dsel 0 3) fun c => { c with words := r, visible := left }) s' t
        ((s.seen t w).receive s.free (some (s.issueClock t w + 2)) rd rt h (recvStatus (bits dsel 0 3) h left)).advance := by
  intro w left
  let receive (th : Thread) : Thread := th.receive s.free (some (s.issueClock t w + 2)) rd rt h (recvStatus (bits dsel 0 3) h left)
  obtain ⟨noStop, noMove⟩ := State.runs_quiet runs
  obtain ⟨dbgReq, moveReq⟩ : (receive (s.seen t w)).dbgReq = (s.seen t w).dbgReq ∧ _ := Thread.receive_requests ..
  rw [exec_recv_eq_issue]
  refine issue_ok runs ?_ ((OnlyThread.armed_updChan s t w d _ _).thread_upd receive) (by rw [dbgReq, State.seen_dbgReq, noStop])
    (by rw [moveReq, State.seen_moveReq, noMove])
  rw [recvBody_declared task declared, if_pos visible, State.takeWord_cons (by rw [State.chan_armed, head]), State.chan_armed]

theorem exec_tryrecv_empty (empty : ((s.cluster (tCluster t)).chan d (bits dsel 0 3)).visible = 0) (tries : try_ = true) :
    let w := wLT 0x31 rd rt 0 dsel (if try_ then 1 else 0)
    ∃ s', exec (if try_ then .tryrecv t rd rt dsel else .recv t rd rt dsel) s = .next s' ∧
      OnlyThread s s' t ((s.seen t w).write s.free (some (s.issueClock t w + 2)) rt 0).advance := by
  intro w
  obtain ⟨noStop, noMove⟩ := State.runs_quiet runs
  rw [exec_recv_eq_issue]
  refine issue_ok runs ?_ ((OnlyThread.armed s t w).thread_upd (·.write s.free (some (s.issueClock t w + 2)) rt 0)) (by simp [noStop])
    (by simp [noMove])
  rw [recvBody_declared task declared, if_neg (by simp [empty]), if_pos tries]

theorem exec_recv_blocks (empty : ((s.cluster (tCluster t)).chan d (bits dsel 0 3)).visible = 0) (waits : try_ = false)
    (alive : s.cancelPending t = false) :
    ∃ s', exec (if try_ then .tryrecv t rd rt dsel else .recv t rd rt dsel) s = .next s' ∧
      s.Blocked t d (.recv (bits dsel 0 3)) 1 s' := by
  rw [exec_recv_eq_issue]
  refine issue_blocks (ch := bits dsel 0 3) (mask := 0) task runs alive ?_
  rw [recvBody_declared task declared, if_neg (by simp [empty]), if_neg (by simp [waits])]

end Recv

/-! ## WAITEV -/

/-- Does a WAITEV of all or of any flags find those of its mask? -/
theorem evSatisfied_iff (all : Bool) (flags m : Word) :
    evSatisfied all flags m = true ↔ m ≠ 0 ∧ if all then flags &&& m = m else flags &&& m ≠ 0 := by
  cases all <;> simp [evSatisfied]

theorem exec_waitev_eq_issue (t : Tid) (rd rs1 : GReg) (all : Bool) (s : State) :
    exec (if all then .waitevAll t rd rs1 else .waitevAny t rd rs1) s =
      issue t (wLT 0x31 rd rs1 0 0 (if all then 3 else 2)) (waitevBody t rd rs1 all) s := by
  cases all <;> rfl

section Waitev
variable {t : Tid} {rd rs1 : GReg} {s : State} {all : Bool} {d : BitVec 10} {m : Word} (task : s.taskOf t = some d)
  (runs : s.runs t (wLT 0x31 rd rs1 0 0 (if all then 3 else 2)) = true)
  (mask : (s.seen t (wLT 0x31 rd rs1 0 0 (if all then 3 else 2))).read s.free rs1 = m) (small : m.toNat < 2 ^ 30)
include task mask small

/-- What WAITEV does with a mask that it may have: its flags satisfy the mask, or do not. -/
theorem waitevBody_allowed (x : CtxId) :
    let w := wLT 0x31 rd rs1 0 0 (if all then 3 else 2)
    waitevBody t rd rs1 all (s.armed t w) { n := s.free, k := s.issueClock t w, x := x } =
      if evSatisfied all ((s.cluster (tCluster t)).flags d) m then .ok ((s.armed t w).evReturn t d m rd s.free (s.issueClock t w))
      else .stay ((s.armed t w).block t (.event all m) (if all then 3 else 2) 0 m) := by
  simp only [waitevBody, State.thread_armed, mask, State.taskOf_armed, task, getLsbD_reserved_iff, if_neg (Nat.not_le.mpr small),
    State.flags_armed]

include runs

theorem exec_waitev_returns (satisfied : evSatisfied all ((s.cluster (tCluster t)).flags d) m = true) :
    let w := wLT 0x31 rd rs1 0 0 (if all then 3 else 2)
    let v := (s.cluster (tCluster t)).flags d &&& m
    ∃ s', exec (if all then .waitevAll t rd rs1 else .waitevAny t rd rs1) s = .next s' ∧
      OnlyThread (s.updTask (tCluster t) d fun k => { k with evflags := k.evflags &&& ~~~v }) s' t
        ((s.seen t w).write s.free (some (s.issueClock t w + 2)) rd v).advance := by
  intro w v
  obtain ⟨noStop, noMove⟩ := State.runs_quiet runs
  rw [exec_waitev_eq_issue]
  refine issue_ok runs ?_ ((OnlyThread.armed_updTask s t w d _).thread_upd (·.write s.free (some (s.issueClock t w + 2)) rd v))
    (by simp [noStop]) (by simp [noMove])
  rw [waitevBody_allowed task mask small, if_pos satisfied, State.evReturn, State.flags_armed]

theorem exec_waitev_blocks (unsatisfied : ¬ evSatisfied all ((s.cluster (tCluster t)).flags d) m = true)
    (alive : s.cancelPending t = false) :
    ∃ s', exec (if all then .waitevAll t rd rs1 else .waitevAny t rd rs1) s = .next s' ∧
      s.Blocked t d (.event all m) (if all then 3 else 2) s' := by
  rw [exec_waitev_eq_issue]
  refine issue_blocks (ch := 0) (mask := m) task runs alive ?_
  rw [waitevBody_allowed task mask small, if_neg unsatisfied]

end Waitev

/-- Settles O14: each word by its body at the state in which it issues, where it faults, completes or blocks. -/
theorem eventsAndChannelsAreReceived : Obligations.EventsAndChannelsAreReceived := by
  refine ⟨?clrev, ?recv, ?waitev⟩
  case clrev =>
    intro t rs1 meet s w runs
    exact ⟨exec_clrev_clears runs, exec_clrev_reserved runs⟩
  case recv =>
    intro t rd rt dsel s try_ d w i ch runs task declared
    exact ⟨fun h r => exec_recv_takes task declared runs, exec_tryrecv_empty task declared runs,
      exec_recv_blocks task declared runs⟩
  case waitev =>
    intro t rd rs1 s all d w i runs task th m v small satisfied
    have judged : evSatisfied all ((s.cluster (tCluster t)).flags d) m = true ↔ satisfied := evSatisfied_iff ..
    exact ⟨fun met => exec_waitev_returns task runs rfl small (judged.mpr met),
      fun unmet => exec_waitev_blocks task runs rfl small (unmet ∘ judged.mp)⟩

end Sys2Proof.Machine
end

section
/-! PROOFS. The dispatcher places ready items in slots, and a free thread starts the activation of its PE's slot (04 R105-R115). -/

namespace Sys2Proof.Machine

/-! ## Time -/

/-- Waiting changes of a cluster only the counts of its delay list. -/
theorem State.holdPass_eq (s : State) (c : Nat) (cl : Cluster) (n : Nat) : ∃ cnt, s.holdPass c cl n = { cl with dlCnt := cnt } := by
  rw [State.holdPass]
  split
  · exact ⟨cl.dlCnt, rfl⟩
  · split
    · exact ⟨_, rfl⟩
    · exact ⟨cl.dlCnt, rfl⟩

theorem State.clusters_pass (s : State) (n : Nat) : (s.pass n).clusters = s.clusters.mapV fun c cl => s.holdPass c cl n := by
  rw [State.pass]
  split <;> rfl

theorem State.cluster_pass (s : State) (n : Nat) (c : ClusterId) :
    ∃ cnt, (s.pass n).cluster c = { s.cluster c with dlCnt := cnt } := by
  rw [State.cluster, State.clusters_pass, Map.getD, Map.find_mapV, State.cluster, Map.getD]
  cases s.clusters.find c.toNat with
  | none => exact ⟨_, rfl⟩
  | some cl => exact s.holdPass_eq c.toNat cl n

theorem State.cluster_passFc (s : State) (n : BitVec 4) (due : Nat) (c : ClusterId) :
    ∃ cnt, (s.passFc n due).cluster c = { s.cluster c with dlCnt := cnt } := by
  unfold State.passFc
  dsimp only
  split
  · exact ⟨_, rfl⟩
  · exact s.cluster_pass _ c

@[simp] theorem State.passFc_threads (s : State) (n : BitVec 4) (due : Nat) : (s.passFc n due).threads = s.threads := by
  unfold State.passFc State.pass
  dsimp only
  split
  · rfl
  · split <;> rfl

@[simp] theorem State.passFc_fw (s : State) (n : BitVec 4) (due : Nat) : (s.passFc n due).fw = s.fw := by
  unfold State.passFc State.pass
  dsimp only
  split
  · rfl
  · split <;> rfl

@[simp] theorem State.passFc_thread (s : State) (n : BitVec 4) (due : Nat) (t : Tid) : (s.passFc n due).thread t = s.thread t := by
  rw [State.thread, State.passFc_threads, ← State.thread]

/-! ## Placement -/

/-- The item that goes first does not depend on when the dispatcher placed items last. -/
theorem State.pick_dispClock (s : State) (c : ClusterId) (k : Nat) :
    (s.updCluster c fun cl => { cl with dispClock := k }).pick c = s.pick c := by
  let a := s.updCluster c fun cl => { cl with dispClock := k }
  have same : a.cluster c = { s.cluster c with dispClock := k } := s.cluster_updCluster_same c _
  have workCtx (d : ClusterId) (w : Work) : (a.cluster d).workCtx w = (s.cluster d).workCtx w :=
    s.cluster_updCluster_keeps c d (fun cl => cl.workCtx w) rfl
  have threadCtx (t : Tid) : a.threadCtx t = s.threadCtx t := by simp only [State.threadCtx, workCtx]; rfl
  have stalled (x : CtxId) : a.stalled c x = s.stalled c x := by simp only [State.stalled, threadCtx]; rfl
  have passOver (w : Work) : a.passOver c w = s.passOver c w := by simp only [State.passOver, stalled, same]; rfl
  show a.pick c = s.pick c
  simp only [State.pick, passOver, same]
  rfl

theorem State.slot_toSlot (s : State) (c : ClusterId) (k : Nat) (p : BitVec 3) (i : Item) :
    (((s.toSlot c k p i).cluster c).pe p).slot =
      some { item := i, due := k + (s.cluster c).preload i.work, startable := false } := by
  rw [State.toSlot, State.pe_updPe_same]

/-- Item `i` has left the ready lists of cluster `c` and entered the slot of PE `p` in fc `k`. -/
def State.placed (s : State) (c : ClusterId) (k : Nat) (p : BitVec 3) (i : Item) : State := (s.unqueue c i).toSlot c k p i

theorem State.placed_spec (s : State) (c : ClusterId) (k : Nat) (p : BitVec 3) (i : Item) :
    let s' := s.placed c k p i
    ((s'.cluster c).pe p).slot = some { item := i, due := k + (s.cluster c).preload i.work, startable := false } ∧
      (s'.cluster c).ready = (s.cluster c).ready.filter (· != i) ∧ s'.threads = s.threads ∧ s'.mem = s.mem := by
  have left : ((s.unqueue c i).cluster c).preload i.work = (s.cluster c).preload i.work := by
    rw [State.unqueue, State.cluster_updCluster_same]; rfl
  refine ⟨?slot, ?ready, rfl, rfl⟩
  case slot => rw [State.placed, State.slot_toSlot, left]
  case ready => rw [State.placed, State.toSlot, State.updPe, State.cluster_updCluster_same, State.unqueue, State.cluster_updCluster_same]

/-- With no item held, the item that goes first and prefers no PE enters the lowest-numbered slot that is offered. -/
theorem State.placeOne_unpreferred {s : State} {c : ClusterId} {k : Nat} {i : Item} {p : BitVec 3} (unheld : (s.cluster c).holds = [])
    (first : s.pick c = some i) (unpreferred : (s.cluster c).prefer i.work = none) (slot : (s.cluster c).emptySlot k = some p) :
    s.placeOne c k = s.placed c k p i := by
  have unserved : s.serveHold c k = none := by rw [State.serveHold, unheld]; rfl
  simp only [State.placeOne, unserved, first, unpreferred, slot]
  rfl

/-- The first placement of an fc takes that item. -/
theorem exec_dispatchPlace_first {c : ClusterId} {s : State} {i : Item} {p : BitVec 3} (unheld : (s.cluster c).holds = [])
    (first : s.pick c = some i) (unpreferred : (s.cluster c).prefer i.work = none)
    (slot : (s.cluster c).emptySlot (s.dispNext c) = some p) :
    exec (.dispatchPlace c) s =
      .next (((s.updCluster c fun cl => { cl with dispClock := s.dispNext c }).placed c (s.dispNext c) p i).placeOne c (s.dispNext c)) := by
  have same := s.cluster_updCluster_same c fun cl => { cl with dispClock := s.dispNext c }
  have places := State.placeOne_unpreferred (s := s.updCluster c fun cl => { cl with dispClock := s.dispNext c })
    (by rw [same, unheld]) (by rw [State.pick_dispClock, first]) (by rw [same]; exact unpreferred) (by rw [same]; exact slot)
  rw [← places]
  rfl

/-- An item whose hold has lasted its time enters the lowest-numbered slot that is offered. -/
theorem exec_affinityHoldTimeout_places {c : ClusterId} {i : BitVec 2} {s : State} {h : Hold} {p : BitVec 3}
    (held : (s.cluster c).holds[i.toNat]? = some h)
    (next : (s.passFc (clusterSection c) h.until_).passOver c h.item.work = false)
    (slot : ((s.passFc (clusterSection c) h.until_).cluster c).emptySlot
      (max ((s.passFc (clusterSection c) h.until_).dispNext c) h.until_) = some p) :
    let b := s.passFc (clusterSection c) h.until_
    let k := max (b.dispNext c) h.until_
    exec (.affinityHoldTimeout c i) s =
      .next ((b.updCluster c fun cl => { cl with holds := dropAt cl.holds i.toNat, dispClock := k }).toSlot c k p h.item) := by
  show execAffinityHoldTimeout c i s = _
  simp only [execAffinityHoldTimeout, held, next, slot, Bool.false_eq_true, if_false]

/-- The image that holds the code of an item: an activation names it. -/
def State.imageFor (s : State) : Work → Option Image
  | .activation a => s.image a.image
  | .task _ => none

/-- The item of a slot becomes startable, where it is no task whose descriptor holds an uncorrected error. -/
theorem exec_preloadComplete_startable {c : ClusterId} {p : BitVec 3} {s : State} {k : Slot}
    (slot : ((s.cluster c).pe p).slot = some k) (sound : ∀ d, k.item.work = .task d → ((s.cluster c).task d).ue = false) :
    exec (.preloadComplete c p) s = .next ((s.passFc (clusterSection c) k.due).updPe c p fun e =>
      { e.addLine (((s.cluster c).startPc (s.imageFor k.item.work) k.item.work).toNat / 64) with
        slot := some { k with startable := true } }) := by
  obtain ⟨cnt, passed⟩ := s.cluster_passFc (clusterSection c) k.due c
  have image (h : BitVec 16) : (s.passFc (clusterSection c) k.due).image h = s.image h := by
    rw [State.image, State.passFc_fw, ← State.image]
  show execPreloadComplete c p s = _
  cases work : k.item.work with
  | activation a => simp only [execPreloadComplete, slot, work, State.imageFor, image, passed]; rfl
  | task d =>
    have same : ({ s.cluster c with dlCnt := cnt } : Cluster).task d = (s.cluster c).task d := rfl
    simp only [execPreloadComplete, slot, work, State.imageFor, passed, same, sound d work, Bool.false_eq_true, if_false]
    rfl

/-! ## Registers of an activation -/

/-- g1 of an activation holds INST, whatever its operands are (04 R113). -/
theorem Activation.getD_regs_one (a : Activation) : a.regs.getD 1 0 = BitVec.setWidth 32 a.inst := by
  refine List.foldlRecOn (motive := fun m : Map Word => m.getD 1 0 = BitVec.setWidth 32 a.inst) _ _ rfl fun m inst o _ => ?_
  rw [Map.getD_set, if_neg (by omega), Map.getD_set, if_neg (by omega), inst]

/-- The only operand of an activation stands in the pair of its port. -/
theorem Activation.getD_regs_single {a : Activation} {q : BitVec 2} {v : DWord} (single : a.ops = [(q, v)]) :
    a.regs.getD (2 + 2 * q.toNat) 0 = bits v 0 32 ∧ a.regs.getD (2 + 2 * q.toNat + 1) 0 = bits v 32 32 := by
  simp only [Activation.regs, single, List.foldl_cons, List.foldl_nil]
  exact ⟨by rw [Map.getD_set, if_neg (by omega), Map.getD_set, if_pos rfl], by rw [Map.getD_set, if_pos rfl]⟩

/-- The registers of a port's pair are a pair of g2 to g9. -/
theorem toNat_portReg (q : BitVec 2) :
    (2 + 2 * BitVec.setWidth 5 q : GReg).toNat = 2 + 2 * q.toNat ∧
      (3 + 2 * BitVec.setWidth 5 q : GReg).toNat = 2 + 2 * q.toNat + 1 := by
  constructor <;> bv_omega

theorem Thread.reg_of_toNat {th : Thread} {r : GReg} {n : Nat} (number : r.toNat = n) (positive : 0 < n) :
    th.reg r = th.regs.getD n 0 := by
  have general : r ≠ 0 := by
    rintro rfl
    exact Nat.ne_of_lt positive number
  rw [Thread.reg, if_neg general, number]

/-! ## Starting an activation -/

/-- Noting the depths of the ready lists leaves every slot as it is. -/
theorem Cluster.slot_noteDepths (cl : Cluster) (p : BitVec 3) : (cl.noteDepths.pe p).slot = (cl.pe p).slot := by
  refine List.foldlRecOn (motive := fun k : Cluster => (k.pe p).slot = (cl.pe p).slot) _ _ rfl fun k same q _ => ?_
  rw [Cluster.noteDepth]
  split
  · by_cases here : p.toNat = (BitVec.ofNat 3 q).toNat
    · rw [← same]
      simp only [Cluster.pe, here, Map.getD_upd_same]
    · rw [Cluster.pe, Map.getD_upd_other _ here]
      exact same
  · exact same

/-- The counters of a start leave the slots of the PEs, the threads and the contexts as they are. -/
theorem State.noteStart_activation {i : Item} {a : Activation} (work : i.work = .activation a) (s : State) (c : ClusterId) (p : BitVec 3) :
    (((s.noteStart c p i).cluster c).pe p).slot = ((s.cluster c).pe p).slot ∧ (s.noteStart c p i).threads = s.threads ∧
      (s.noteStart c p i).ctxs = s.ctxs := by
  simp only [State.noteStart, work]
  refine ⟨?_, rfl, rfl⟩
  let counted := s.updPe c p fun e => { e with starts := satInc e.starts, waitSum := satAdd e.waitSum (s.fc c - i.since) }
  have slot : ((counted.cluster c).pe p).slot = ((s.cluster c).pe p).slot := by rw [State.pe_updPe_same]
  rw [State.cluster_updCluster_same, Cluster.slot_noteDepths]
  exact slot

/-- Thread `t` has the activation in its start state, and the tokens that formed it have left INFLIGHT. -/
def State.handed (s : State) (c : ClusterId) (t : Tid) (a : Activation) (now : Nat) : State :=
  ((s.inflightSub a.ctx 1).updThread t fun th =>
    startThread th (.activation a) ((s.cluster c).startPc (s.image a.image) (.activation a)) a.regs now).act c a.ctx

theorem State.start_activation {i : Item} {a : Activation} (work : i.work = .activation a) (s : State) (c : ClusterId) (p : BitVec 3)
    (t : Tid) :
    let b := (s.noteStart c p i).handed c t a (s.fc c)
    s.start c p t i = if a.poison then b.takeFault t POISON_CONSUMED else b := by
  simp only [State.start, State.handed, work]

theorem State.handed_spec (s : State) (c : ClusterId) (t : Tid) (a : Activation) (now : Nat) :
    let b := s.handed c t a now
    (∃ pc, b.thread t = startThread (s.thread t) (.activation a) pc a.regs now) ∧
      (∀ p, (b.cluster c).pe p = (s.cluster c).pe p) ∧
      (b.ctx a.ctx).inflight = BitVec.ofNat 32 ((s.ctx a.ctx).inflight.toNat - 1) ∧ b.mem = s.mem := by
  let starts := (s.inflightSub a.ctx 1).updThread t fun th =>
    startThread th (.activation a) ((s.cluster c).startPc (s.image a.image) (.activation a)) a.regs now
  have thread : starts.thread t = _ := State.thread_updThread_same ..
  obtain ⟨m, cluster⟩ := starts.cluster_act_same c a.ctx
  have pe (p : BitVec 3) : ((starts.act c a.ctx).cluster c).pe p = (s.cluster c).pe p := by rw [cluster]; rfl
  have inflight : ((s.inflightSub a.ctx 1).ctx a.ctx).inflight = BitVec.ofNat 32 ((s.ctx a.ctx).inflight.toNat - 1) := by
    rw [State.inflightSub, State.ctx_updCtx_same]
  exact ⟨⟨_, thread⟩, pe, inflight, by simp [State.handed]⟩

/-- The slot of a PE is emptied. -/
theorem State.slot_emptySlot1 (s : State) (c : ClusterId) (p : BitVec 3) : (((s.emptySlot1 c p).cluster c).pe p).slot = none := by
  rw [State.emptySlot1, State.pe_updPe_same]

/-- A free thread starts the startable activation of its PE's slot, whose context is not fenced and has fewer than 8 threads
stalled. -/
theorem exec_slotTake_starts {c : ClusterId} {p : BitVec 3} {s : State} {k : Slot} {t : Tid} {a : Activation}
    (slot : ((s.cluster c).pe p).slot = some k) (startable : k.startable = true) (work : k.item.work = .activation a)
    (free : s.freeThreadOf c p = some t) (unfenced : (s.ctx a.ctx).state ≠ FENCED) (goes : s.stalled c a.ctx < 8) :
    exec (.slotTake c p) s = .next ((s.emptySlot1 c p).start c p t k.item) := by
  have ctx : (s.cluster c).workCtx (.activation a) = a.ctx := rfl
  show execSlotTake c p s = _
  simp only [execSlotTake, slot, free, startable, work, ctx, unfenced, Nat.not_le.mpr goes, not_true_eq_false, and_false, if_false]

end Sys2Proof.Machine
end

section
/-! PROOFS. The only evictable thread of a PE gives its task up, and the save of its registers ends (04 R126, R127, 07 R216). -/

namespace Sys2Proof.Machine

/-! ## Results that land -/

@[simp] theorem Thread.land_splits (th : Thread) (l : Land) : (th.land l).splits = th.splits := by
  unfold Thread.land
  split
  · split <;> rfl
  all_goals rfl

@[simp] theorem Thread.land_lands (th : Thread) (l : Land) : (th.land l).lands = th.lands := by
  unfold Thread.land
  split
  · split <;> rfl
  all_goals rfl

@[simp] theorem Thread.landAll_work (th : Thread) : th.landAll.work = th.work := Thread.foldl_land_keeps _ Thread.land_work ..

@[simp] theorem Thread.landAll_splits (th : Thread) : th.landAll.splits = th.splits :=
  Thread.foldl_land_keeps _ Thread.land_splits ..

@[simp] theorem Thread.landAll_lands (th : Thread) : th.landAll.lands = [] := Thread.foldl_land_keeps _ Thread.land_lands ..

theorem Thread.landAll_of_landed {th : Thread} (landed : th.lands = []) : th.landAll = th := by
  cases th
  cases landed
  rfl

/-! ## Eviction -/

/-- Where one entry alone of a list without duplicates has a value, that value is all that is found. -/
theorem filterMap_eq_singleton {α β : Type} {f : α → Option β} {k : α} {v : β} {l : List α} (nodup : l.Nodup) (mem : k ∈ l)
    (value : f k = some v) (others : ∀ j, j ≠ k → f j = none) : l.filterMap f = [v] := by
  induction l with
  | nil => exact absurd mem List.not_mem_nil
  | cons x l ih =>
    obtain ⟨fresh, nodup⟩ := List.nodup_cons.mp nodup
    by_cases here : x = k
    · subst here
      have rest : l.filterMap f = [] := List.filterMap_eq_nil_iff.mpr fun j within => others j fun e => fresh (e ▸ within)
      rw [List.filterMap_cons_some value, rest]
    · rw [List.filterMap_cons_none (others x here), ih nodup ((List.mem_cons.mp mem).resolve_left (Ne.symm here))]

/-- The threads of a PE by number. -/
theorem map_mkTid_range (c : ClusterId) (p : BitVec 3) :
    (List.range 8).map (fun k => mkTid c p (BitVec.ofNat 3 k)) = ((List.range 8).map (BitVec.ofNat 3)).map (mkTid c p) := by
  rw [List.map_map]; rfl

/-- A thread that may be evicted holds a task. -/
theorem State.taskOf_of_evictable {s : State} {t : Tid} {b : Nat} (evictable : s.evictable t = some b) : ∃ d, s.taskOf t = some d := by
  cases task : s.taskOf t with
  | none => simp [State.evictable, task] at evictable
  | some d => exact ⟨d, rfl⟩

theorem State.work_of_taskOf {s : State} {t : Tid} {d : BitVec 10} (task : s.taskOf t = some d) :
    (s.thread t).work = some (.task d) := by
  unfold State.taskOf at task
  split at task
  · rename_i e work
    rw [work, Option.some.inj task]
  · cases task

/-- The only thread of a PE that may be evicted, gives its task up for the startable work of the slot. -/
theorem exec_eviction_only {c : ClusterId} {p k : BitVec 3} {s : State} {q : Slot} {b : Nat}
    (slot : ((s.cluster c).pe p).slot = some q) (startable : q.startable = true)
    (noneEvicting : ∀ j : BitVec 3, (s.thread (mkTid c p j)).evicting = false) (evictable : s.evictable (mkTid c p k) = some b)
    (only : ∀ j : BitVec 3, j ≠ k → s.evictable (mkTid c p j) = none) :
    exec (.eviction c p) s =
      .next ((s.passFc (clusterSection c) (b + (s.cluster c).evictDly.toNat)).stopWork (mkTid c p k) .evicted) := by
  have idle : (((List.range 8).map (BitVec.ofNat 3)).map (mkTid c p)).any (fun t => (s.thread t).evicting) = false := by
    simp [noneEvicting]
  have found : (((List.range 8).map (BitVec.ofNat 3)).map (mkTid c p)).filterMap (fun t => (s.evictable t).map fun b => (b, t)) =
      [(b, mkTid c p k)] := by
    rw [List.filterMap_map]
    refine filterMap_eq_singleton (k := k) (by decide) ?_ (by simp [evictable]) fun j other => by simp [only j other]
    exact List.mem_map.mpr ⟨k.toNat, List.mem_range.mpr k.isLt, BitVec.ofNat_toNat 3 k⟩
  show execEviction c p s = _
  simp only [execEviction, map_mkTid_range, slot, startable, idle, found, List.foldl_cons, List.foldl_nil, Bool.not_true, Bool.or_self,
    Bool.false_eq_true, if_false]

/-- A thread that gives up a task with no access outstanding has its registers saved, every result landed. -/
theorem State.stopWork_saving {s : State} {t : Tid} {d : BitVec 10} (task : s.taskOf t = some d) (complete : (s.thread t).splits = [])
    {a : AfterSave} (goesOn : a ≠ .ended) :
    (∃ due, (s.stopWork t a).thread t = { (s.thread t).landAll with after := a, wait := .saving due }) ∧
      ∀ u, u ≠ t → (s.stopWork t a).thread u = s.thread u := by
  let landed := s.updThread t fun _ => { (s.thread t).landAll with after := a }
  have thread : landed.thread t = { (s.thread t).landAll with after := a } := s.thread_updThread_same t _
  have saves : s.stopWork t a = landed.updThread t fun th => { th with wait := .saving (landed.threadClock t + 40) } := by
    have splits : (s.thread t).landAll.splits = [] := by rw [Thread.landAll_splits, complete]
    have work : (s.thread t).landAll.work = some (.task d) := by rw [Thread.landAll_work, State.work_of_taskOf task]
    unfold State.stopWork
    dsimp only
    rw [if_neg (fun unfinished => unfinished splits), if_neg goesOn]
    split
    · rfl
    · rename_i noTask
      exact absurd work (noTask d)
  rw [saves]
  refine ⟨⟨_, by rw [State.thread_updThread_same, thread]⟩, fun u other => ?_⟩
  rw [State.thread_updThread_other _ other, State.thread_updThread_other _ other]

/-! ## The end of a register save -/

/-- Only channels change where a message's sender takes another name. -/
theorem State.renameSender_spec (s : State) (x : CtxId) (o : Outbox) (old new : Sender) (c : ClusterId) (d : BitVec 10) :
    ((s.renameSender x o old new).cluster c).task d = (s.cluster c).task d ∧ (s.renameSender x o old new).threads = s.threads := by
  rw [State.renameSender]
  split
  · exact ⟨rfl, rfl⟩
  · split
    · exact ⟨rfl, rfl⟩
    · exact ⟨s.cluster_updCluster_keeps _ c (fun cl => cl.task d) rfl, rfl⟩

/-- A thread that is freed holds no work; its cluster keeps its tasks. -/
theorem State.freeThread_spec (s : State) (t : Tid) :
    ((s.freeThread t).thread t).work = none ∧ (∀ u, u ≠ t → (s.freeThread t).thread u = s.thread u) ∧
      ∀ d, ((s.freeThread t).cluster (tCluster t)).task d = (s.cluster (tCluster t)).task d := by
  let th : Thread := { trapSeq := (s.thread t).trapSeq, splitSeq := (s.thread t).splitSeq, lastIssue := (s.thread t).lastIssue }
  let freed := s.updThread t fun _ => th
  have work : (freed.thread t).work = none := congrArg Thread.work (s.thread_updThread_same t fun _ => th)
  have others (u : Tid) (other : u ≠ t) : freed.thread u = s.thread u := s.thread_updThread_other other _
  rw [State.freeThread]
  dsimp only
  split
  · exact ⟨work, others, fun _ => rfl⟩
  · exact ⟨work, others, fun d => freed.cluster_updCluster_keeps _ _ (fun cl => cl.task d) rfl⟩

/-- A descriptor but for the state of its task: what is kept while the task waits or becomes READY. -/
def Task.kept (k : Task) : Task := { k with state := 0, wait := 0 }

theorem State.makeReady_spec (s : State) (c : ClusterId) (d : BitVec 10) :
    (((s.makeReady c d).cluster c).task d).kept = ((s.cluster c).task d).kept ∧ (s.makeReady c d).threads = s.threads := by
  let marked := s.updTask c d fun k => { k with state := READY, wait := 0 }
  refine ⟨?_, rfl⟩
  obtain ⟨m, depths⟩ := Cluster.noteDepths_eq
    { marked.cluster c with
      ready := (marked.cluster c).ready ++ [{ work := .task d, age := (marked.cluster c).age, since := marked.fc c }]
      age := (marked.cluster c).age + 1 }
  have queued : ((marked.enqueue c (.task d)).cluster c).task d = (marked.cluster c).task d := by
    rw [State.enqueue, State.cluster_updCluster_same, depths]; rfl
  rw [State.makeReady, State.act_task, queued, State.task_updTask_same]
  rfl

/-- `s'` is `s` with thread `t` freed and its task `d` out of it, its registers in the descriptor. -/
structure State.Saved (s : State) (t : Tid) (d : BitVec 10) (s' : State) : Prop where
  work : (s'.thread t).work = none
  others : ∀ u, u ≠ t → s'.thread u = s.thread u
  task : ((s'.cluster (tCluster t)).task d).kept =
    Task.kept { ((s.cluster (tCluster t)).task d).saveFrom (s.thread t) with resident := false }

/-- What leaves the threads and the descriptor of the task as they are, leaves its registers saved. -/
theorem State.Saved.of_kept {s a s' : State} {t : Tid} {d : BitVec 10} (saved : s.Saved t d a) (threads : s'.threads = a.threads)
    (task : ((s'.cluster (tCluster t)).task d).kept = ((a.cluster (tCluster t)).task d).kept) : s.Saved t d s' := by
  have thread (u : Tid) : s'.thread u = a.thread u := congrArg (fun m : Map Thread => m.getD u.toNat {}) threads
  exact ⟨by rw [thread, saved.work], fun u other => (thread u).trans (saved.others u other), task.trans saved.task⟩

theorem State.Saved.makeReady {s a : State} {t : Tid} {d : BitVec 10} (saved : s.Saved t d a) :
    s.Saved t d (a.makeReady (tCluster t) d) := by
  obtain ⟨task, threads⟩ := a.makeReady_spec (tCluster t) d
  exact saved.of_kept threads task

/-- The register save of a task that has not ended frees its thread and leaves the registers in the descriptor, whatever state the
task goes on in. -/
theorem State.saveDone_saved {s : State} {t : Tid} {d : BitVec 10} (goesOn : (s.thread t).after ≠ .ended) :
    s.Saved t d (s.saveDone t d) := by
  let renamed := s.renameSender ((s.cluster (tCluster t)).task d).ctx (s.thread t).outbox (.thread t) (.task (tCluster t) d)
  let written := renamed.updTask (tCluster t) d fun k => { k.saveFrom (s.thread t) with resident := false }
  obtain ⟨task, threads⟩ : (renamed.cluster (tCluster t)).task d = _ ∧ renamed.threads = _ := State.renameSender_spec ..
  obtain ⟨work, others, tasks⟩ := written.freeThread_spec t
  have freed : s.Saved t d (written.freeThread t) := by
    refine ⟨work, fun u other => (others u other).trans ?_, ?_⟩
    · exact congrArg (fun m : Map Thread => m.getD u.toNat {}) threads
    · rw [tasks, State.task_updTask_same, task]
  have again {a : State} (saved : s.Saved t d a) : s.Saved t d
      (if ((a.cluster (tCluster t)).task d).state = BLOCKED ∧ (a.cluster (tCluster t)).waitDone d then a.makeReady (tCluster t) d
        else a) := by
    split
    · exact saved.makeReady
    · exact saved
  unfold State.saveDone
  dsimp only
  split
  case h_1 =>
    refine again (freed.of_kept rfl ?_)
    exact (written.freeThread t).cluster_updCluster_keeps _ _ (fun cl => (cl.task d).kept) rfl
  case h_2 =>
    split
    · exact freed.makeReady
    · exact again freed
  case h_3 => exact again freed
  case h_4 ended => exact absurd ended goesOn
  case h_5 => exact freed

/-- The end of a register save comes in its time. -/
theorem exec_registerSaveComplete_saving {t : Tid} {s : State} {due : Nat} {d : BitVec 10} (wf : t.wf = true)
    (saving : (s.thread t).wait = .saving due) (task : s.taskOf t = some d) :
    exec (.registerSaveComplete t) s = .next ((s.passFc (clusterSection (tCluster t)) due).saveDone t d) := by
  show execRegisterSaveComplete t s = _
  simp only [execRegisterSaveComplete, wf, saving, task, not_true_eq_false, if_false]

/-! ## Every clause -/

/-- Settles O22: a placement by the slot that the item enters, a start by the thread in its start state, an eviction and the end of a
save by what becomes of the thread and the descriptor. -/
theorem theDispatcherStartsAndEvicts : Obligations.TheDispatcherStartsAndEvicts := by
  refine ⟨⟨?place, ?hold, ?preload⟩, ?take, ?evict, ?save⟩
  case place =>
    intro c s i p k unheld first unpreferred slot
    let a := s.updCluster c fun cl => { cl with dispClock := k }
    have same : a.cluster c = { s.cluster c with dispClock := k } := s.cluster_updCluster_same c _
    obtain ⟨entered, ready, threads, mem⟩ := a.placed_spec c k p i
    refine ⟨_, exec_dispatchPlace_first unheld first unpreferred slot, _, rfl, ?_, ?_, threads, mem⟩
    · exact entered.trans (by rw [same]; rfl)
    · exact ready.trans (by rw [same])
  case hold =>
    intro c i s h p b held next slot
    obtain ⟨cnt, passed⟩ : ∃ cnt, b.cluster c = { s.cluster c with dlCnt := cnt } := s.cluster_passFc ..
    refine ⟨_, exec_affinityHoldTimeout_places held next slot, ⟨_, State.slot_toSlot ..⟩, ?_, s.passFc_threads _ _,
      s.passFc_mem _ _⟩
    rw [State.toSlot, State.updPe, State.cluster_updCluster_same, State.cluster_updCluster_same, passed]
  case preload =>
    intro c p s k slot sound
    refine ⟨_, exec_preloadComplete_startable slot sound, ?_, ?_, s.passFc_threads _ _, s.passFc_mem _ _⟩
    · rw [State.pe_updPe_same]
    · rw [State.pe_updPe_same, Pe.head?_icache_addLine]
      rfl
  case take =>
    intro c p s k t a slot startable work free unfenced goes
    let noted := (s.emptySlot1 c p).noteStart c p k.item
    obtain ⟨emptied, threads, ctxs⟩ := State.noteStart_activation work (s.emptySlot1 c p) c p
    obtain ⟨⟨pc, started⟩, pe, inflight, mem⟩ := noted.handed_spec c t a ((s.emptySlot1 c p).fc c)
    refine ⟨_, (exec_slotTake_starts slot startable work free unfenced goes).trans
      (congrArg Host.Outcome.next (State.start_activation work _ c p t)), ?_⟩
    refine ⟨by rw [started]; rfl, by rw [started]; rfl, by rw [started]; rfl, ?inst, fun q v single => ?ops, ?slot, ?inflight, ?mem⟩
    case inst => rw [started]; exact a.getD_regs_one
    case ops =>
      obtain ⟨low, high⟩ := a.getD_regs_single single
      obtain ⟨lowReg, highReg⟩ := toNat_portReg q
      rw [started]
      exact ⟨(Thread.reg_of_toNat lowReg (by omega)).trans low, (Thread.reg_of_toNat highReg (by omega)).trans high⟩
    case slot => rw [pe, emptied, State.slot_emptySlot1]
    case inflight => rw [inflight, State.ctx, ctxs]; rfl
    case mem => rw [mem]; simp [noted]
  case evict =>
    intro c p k s q b slot startable noneEvicting evictable only complete
    let waited := s.passFc (clusterSection c) (b + (s.cluster c).evictDly.toNat)
    obtain ⟨d, task⟩ := State.taskOf_of_evictable evictable
    have thread : waited.thread (mkTid c p k) = s.thread (mkTid c p k) := s.passFc_thread ..
    obtain ⟨⟨due, saving⟩, others⟩ := State.stopWork_saving (s := waited) (t := mkTid c p k) (d := d) (a := .evicted)
      (by rw [State.taskOf, thread]; exact task) (by rw [thread, complete]) (by decide)
    refine ⟨_, exec_eviction_only slot startable noneEvicting evictable only, ?_, ⟨due, ?_⟩, ?_, fun u other => ?_, ?_⟩
    · rw [saving]
    · rw [saving]
    · rw [saving, Thread.landAll_lands]
    · rw [others u other, State.passFc_thread]
    · rw [State.stopWork_mem, State.passFc_mem]
  case save =>
    intro t s due d wf fabric saving task goesOn landed
    let waited := s.passFc (clusterSection (tCluster t)) due
    have thread : waited.thread t = s.thread t := s.passFc_thread ..
    have kept : (s.thread t).landAll = s.thread t := Thread.landAll_of_landed landed
    obtain ⟨work, others, descriptor⟩ := State.saveDone_saved (s := waited) (t := t) (d := d) (by rw [thread]; exact goesOn)
    rw [thread, Task.saveFrom, kept] at descriptor
    exact ⟨_, exec_registerSaveComplete_saving wf saving task, work, congrArg Task.saved descriptor, congrArg Task.resident descriptor,
      congrArg Task.regs descriptor, congrArg Task.pc descriptor, fun u other => (others u other).trans (s.passFc_thread _ _ u),
      (waited.saveDone_mem t d).trans (s.passFc_mem _ _)⟩

end Sys2Proof.Machine
end

section
/-! PROOFS. The timebase: TB_STEP, offset samples, holdover and the PTM exchange (05 R141-R148), and the commands that set it
(05 R144, 13 R393). -/

namespace Sys2Proof.Machine

/-! ## What the passing of time leaves alone -/

/-- The part without what time changes by itself: TB and TC, SCNT, the counts of waits, the gap timers and the clocks. -/
def State.untimed (s : State) : State :=
  { s with
    tb := { s.tb with now := 0, frac := 0, tc := 0 }
    scnt := 0
    clusters := []
    banks := []
    hub := { s.hub with flows := [] }
    clk := {}
    mon := { s.mon with last := [] } }

@[simp] theorem State.untimed_pass (s : State) (n : Nat) : (s.pass n).untimed = s.untimed := by
  unfold State.pass
  split <;> rfl

@[simp] theorem State.untimed_passTo (s : State) (due : Nat) : (s.passTo due).untimed = s.untimed := s.untimed_pass _

@[simp] theorem State.untimed_every (s : State) (key n : Nat) : (s.every key n).untimed = s.untimed := by
  unfold State.every
  split
  case h_1 last _ => exact s.untimed_passTo (last + n)
  case h_2 => rfl

/-! ## TC -/

/-- TC never goes back (05 R145). -/
theorem le_tcFor (tb : TimeBase) (now : DWord) : tb.tc.toNat ≤ (tcFor tb now).toNat := by
  unfold tcFor
  dsimp only
  split
  case isTrue later => exact Nat.le_of_lt later
  case isFalse => exact Nat.le_refl _

/-- TC stands where TB has not passed it. -/
theorem tcFor_of_le {tb : TimeBase} {now : DWord} (behind : now.toNat / (5 * tb.tk.toNat) ≤ tb.tc.toNat) :
    tcFor tb now = tb.tc := by
  have fits := Nat.lt_of_le_of_lt (Nat.div_le_self now.toNat (5 * tb.tk.toNat)) now.isLt
  refine if_neg (Nat.not_lt.mpr ?_)
  rwa [BitVec.toNat_ofNat, Nat.mod_eq_of_lt fits]

/-! ## Events -/

/-- An event stages an item at a ring, and no more. -/
theorem State.event_eq (s : State) (f : FuncId) (code : BitVec 16) (object : Nat) (value : DWord) :
    ∃ rings, s.event f code object value = { s with hub := { s.hub with rings := rings } } := by
  unfold State.event
  split
  case h_1 => exact ⟨s.hub.rings, rfl⟩
  case h_2 r _ =>
    unfold State.stageItem State.updRing
    split
    case h_1 => exact ⟨s.hub.rings, rfl⟩
    case h_2 => exact ⟨_, rfl⟩

/-! ## Samples -/

/-- What an offset sample taken at SCNT `at_` makes of the timebase: holdover ends, and TB steps by an offset beyond the
threshold, while any other changes the rate (05 R143). -/
def TimeBase.sampled (tb : TimeBase) (at_ : Nat) (off : DWord) : TimeBase :=
  if tb.stepth.toNat < off.toInt.natAbs then
    { tb with holdover := false, lastSample := at_, now := tb.now + off, tc := tcFor tb (tb.now + off) }
  else { tb with holdover := false, lastSample := at_, rate := rateHeld (Config.servoRate off tb.rate) }

theorem TimeBase.sampled_beyond {tb : TimeBase} {off : DWord} (beyond : tb.stepth.toNat < off.toInt.natAbs) (at_ : Nat) :
    tb.sampled at_ off =
      { tb with holdover := false, lastSample := at_, now := tb.now + off, tc := tcFor tb (tb.now + off) } := if_pos beyond

theorem TimeBase.sampled_within {tb : TimeBase} {off : DWord} (within : off.toInt.natAbs ≤ tb.stepth.toNat) (at_ : Nat) :
    tb.sampled at_ off =
      { tb with holdover := false, lastSample := at_, rate := rateHeld (Config.servoRate off tb.rate) } :=
  if_neg (Nat.not_lt.mpr within)

@[simp] theorem TimeBase.holdover_sampled (tb : TimeBase) (at_ : Nat) (off : DWord) : (tb.sampled at_ off).holdover = false := by
  unfold TimeBase.sampled
  split <;> rfl

/-- A sample ends holdover, and tells the administrator where it ends: beside the timebase only the hub changes. -/
theorem State.lockTime_eq (s : State) :
    ∃ hub, s.lockTime = { s with tb := { s.tb with holdover := false, lastSample := s.scnt }, hub := hub } := by
  unfold State.lockTime
  dsimp only
  split
  case isTrue =>
    obtain ⟨rings, told⟩ := State.event_eq (s.updTb fun t => { t with holdover := false, lastSample := s.scnt })
      s.hub.admin 0x0021 0 0
    exact ⟨_, told⟩
  case isFalse => exact ⟨s.hub, rfl⟩

/-- Under a time source the running firmware takes the sample into the timebase, and beside it only the hub changes. -/
theorem State.sample_eq {s : State} (runs : s.fwRuns = true) (source : s.tb.src ≠ 0) (off : DWord) :
    ∃ hub, s.sample off = { s with tb := s.tb.sampled s.scnt off, hub := hub } := by
  obtain ⟨hub, locked⟩ := s.lockTime_eq
  simp only [State.sample, runs, source, not_true_eq_false, or_self, if_false, locked, TimeBase.sampled]
  split
  case isTrue => exact ⟨_, rfl⟩
  case isFalse => exact ⟨hub, rfl⟩

theorem answers_timeSample_beyond {s : State} (runs : s.fwRuns = true) (source : s.tb.src ≠ 0) {off : DWord}
    (beyond : s.tb.stepth.toNat < off.toInt.natAbs) : Answers (.timeSample off) s fun s' =>
      s'.tb.now = s.tb.now + off ∧ s'.tb.rate = s.tb.rate ∧ s'.tb.holdover = false ∧ s'.tb.lastSample = s.scnt ∧
      { s' with tb := s.tb, hub := s.hub } = s := by
  obtain ⟨hub, sampled⟩ := State.sample_eq runs source off
  rw [TimeBase.sampled_beyond beyond] at sampled
  exact ⟨_, congrArg Host.Outcome.next sampled, rfl, rfl, rfl, rfl, rfl⟩

theorem answers_timeSample_within {s : State} (runs : s.fwRuns = true) (source : s.tb.src ≠ 0) {off : DWord}
    (within : off.toInt.natAbs ≤ s.tb.stepth.toNat) : Answers (.timeSample off) s fun s' =>
      s'.tb.now = s.tb.now ∧ s'.tb.tc = s.tb.tc ∧ s'.tb.rate = rateHeld (Config.servoRate off s.tb.rate) ∧
      s'.tb.holdover = false ∧ { s' with tb := s.tb, hub := s.hub } = s := by
  obtain ⟨hub, sampled⟩ := State.sample_eq runs source off
  rw [TimeBase.sampled_within within] at sampled
  exact ⟨_, congrArg Host.Outcome.next sampled, rfl, rfl, rfl, rfl, rfl⟩

/-! ## Holdover and the PTM exchange -/

theorem exec_holdoverTimeout {s : State} (runs : s.fwRuns = true) (source : s.tb.src ≠ 0) (locked : s.tb.holdover = false) :
    exec .holdoverTimeout s = .next
      (((s.passTo (s.tb.lastSample + scMs 1000)).updTb fun t => { t with holdover := true }).adminEvent 0x0020 0 0) := by
  show execHoldoverTimeout s = _
  simp only [execHoldoverTimeout, runs, source, locked, not_true_eq_false, Bool.false_eq_true, or_self, if_false]

theorem answers_holdoverTimeout {s : State} (runs : s.fwRuns = true) (source : s.tb.src ≠ 0) (locked : s.tb.holdover = false) :
    Answers .holdoverTimeout s fun s' =>
      s'.tb.holdover = true ∧ s'.tb.rate = s.tb.rate ∧ s'.mem = s.mem ∧ s'.ctxs = s.ctxs ∧ s'.threads = s.threads := by
  let waited := s.passTo (s.tb.lastSample + scMs 1000)
  have rest : waited.untimed = s.untimed := s.untimed_passTo _
  obtain ⟨rings, told⟩ := State.event_eq (waited.updTb fun t => { t with holdover := true }) waited.hub.admin 0x0020 0 0
  exact ⟨_, (exec_holdoverTimeout runs source locked).trans (congrArg Host.Outcome.next told), rfl,
    (congrArg (·.tb.rate) rest :), (congrArg State.mem rest :), (congrArg State.ctxs rest :), (congrArg State.threads rest :)⟩

theorem exec_ptmExchange {s : State} (runs : s.fwRuns = true) (source : s.tb.src = 2)
    (up : (s.port s.tb.port).linkUp = true) (off : DWord) :
    exec (.ptmExchange off) s = .next (((s.every 161 (scMs 10)).emit (.ptm s.tb.port)).sample off) := by
  show execPtmExchange off s = _
  simp only [execPtmExchange, runs, source, up, ne_eq, not_true_eq_false, or_self, if_false]

theorem answers_ptmExchange {s : State} (runs : s.fwRuns = true) (source : s.tb.src = 2)
    (up : (s.port s.tb.port).linkUp = true) (off : DWord) : Answers (.ptmExchange off) s fun s' =>
      s'.out = .ptm s.tb.port :: s.out ∧ s'.tb.holdover = false ∧ s'.mem = s.mem ∧ s'.ctxs = s.ctxs ∧ s'.threads = s.threads := by
  let asked := (s.every 161 (scMs 10)).emit (.ptm s.tb.port)
  have rest : (s.every 161 (scMs 10)).untimed = s.untimed := s.untimed_every ..
  have runs' : asked.fwRuns = true := (congrArg State.fwRuns rest).trans runs
  have source' : asked.tb.src ≠ 0 := by
    have kept : asked.tb.src = s.tb.src := (congrArg (·.tb.src) rest :)
    rw [kept, source]
    decide
  obtain ⟨hub, sampled⟩ := State.sample_eq runs' source' off
  exact ⟨_, (exec_ptmExchange runs source up off).trans (congrArg Host.Outcome.next sampled),
    (congrArg (Output.ptm s.tb.port :: ·.out) rest :), TimeBase.holdover_sampled ..,
    (congrArg State.mem rest :), (congrArg State.ctxs rest :), (congrArg State.threads rest :)⟩

/-- Settles O54: a step by what TC does, samples by `TimeBase.sampled`, holdover and the PTM exchange by what passing time leaves
alone. -/
theorem timeStepsSlewsAndHolds : Obligations.TimeStepsSlewsAndHolds := by
  intro s
  refine ⟨fun v => ?step, fun off runs source => ⟨?beyond, ?within⟩, ?holdover, ?ptm⟩
  case step => exact ⟨_, rfl, rfl, le_tcFor .., tcFor_of_le, rfl, rfl, rfl, rfl⟩
  case beyond => exact answers_timeSample_beyond runs source
  case within => exact answers_timeSample_within runs source
  case holdover => exact answers_holdoverTimeout
  case ptm => exact fun off runs source up => answers_ptmExchange runs source up off

/-! ## The mailbox after a command -/

@[simp] theorem State.mbox_raise (s : State) (f : FuncId) (v : BitVec 6) (g : FuncId) : (s.raise f v).mbox g = s.mbox g := by
  unfold State.raise
  dsimp only
  split
  · unfold State.emitFor; split <;> rfl
  · split <;> rfl

/-- A mailbox once its command is answered with STATUS and a response (13 R371). -/
def Mbox.answered (m : Mbox) (status : BitVec 16) (rsp : BitVec 2048) : Mbox :=
  { m with rsp := rsp, done := true, pend := false, begun := false, status := status }

theorem State.tb_of_offHub {s s' : State} (same : s'.offHub = s.offHub) : s'.tb = s.tb := (congrArg State.tb same :)

/-- A command that waits is answered, and nothing outside the hub changes. -/
theorem State.answer_spec {s : State} {f : FuncId} (waits : (s.mbox f).pend = true) (status : BitVec 16) (detail : DWord)
    (payload : List Byte) :
    let s' := s.answer f status detail payload
    (∃ rsp, s'.mbox f = (s.mbox f).answered status rsp) ∧ s'.offHub = s.offHub := by
  let rsp := responseOf status (fld (s.mbox f).latched 2 2) detail payload
  let noted := (s.updMbox f (·.answered status rsp)).updHub fun h => { h with order := h.order.erase f }
  have answered : noted.mbox f = (s.mbox f).answered status rsp := s.mbox_updMbox_same f (·.answered status rsp)
  have same : s.answer f status detail payload = if (s.mbox f).latched.getLsbD 49 then noted.raise f 0 else noted := by
    rw [State.answer, if_neg (not_not_intro waits)]
    rfl
  rw [same]
  split
  case isTrue => exact ⟨⟨rsp, (noted.mbox_raise f 0 f).trans answered⟩, noted.offHub_raise f 0⟩
  case isFalse => exact ⟨⟨rsp, answered⟩, rfl⟩

/-- A command whose performance ends in the answer to its function shows STATUS and DONE there, and the answer leaves the timebase. -/
theorem answers_answer {s a : State} {i : Instr} {f : FuncId} {status : BitVec 16} {detail : DWord} {payload : List Byte}
    (answered : exec i s = .next (a.answer f status detail payload)) (waits : (a.mbox f).pend = true) :
    Answers i s fun s' => s'.tb = a.tb ∧ (s'.mbox f).status = status ∧ (s'.mbox f).done = true := by
  obtain ⟨⟨rsp, mbox⟩, rest⟩ := State.answer_spec waits status detail payload
  exact ⟨_, answered, State.tb_of_offHub rest, by rw [mbox]; rfl, by rw [mbox]; rfl⟩

/-! ## Who may set the time -/

/-- A command that is the administrator's alone is denied to any other function (13 R380). -/
theorem State.hasRight_adm {s : State} {f : FuncId} {c : CmdSpec} (right : c.right = .adm) (other : f ≠ s.hub.admin) :
    s.hasRight f c = false := by
  simp [State.hasRight, right, other]

/-- A command whose turn has come and whose envelope is in order, from a function without its right, is denied. -/
theorem State.perform_denied {s : State} {f : FuncId} {op : Nat} {c : CmdSpec} (named : cmdOf op = some c)
    (waits : (s.mbox f).pend = true) (runs : s.fwRuns = true) (asks : s.arg f 0 2 = op) (turn : s.eligible f = true)
    (unbegun : (s.mbox f).begun = false) (sound : c.check1 (s.mbox f) = none) (denied : s.hasRight f c = false) (body : Reply) :
    s.perform f op true body = s.answer f DENIED (failDetail 0xFFFF 0 0) [] := by
  have code : c.op = op := by simpa using List.find?_some named
  simp only [State.perform, waits, runs, asks, named, code, turn, unbegun, sound, denied, ne_eq, not_true_eq_false, or_self,
    Bool.false_eq_true, if_false]
  rfl

/-- The commands that set the time are the administrator's alone (05 R144). -/
theorem right_of_timeCommand {op : Nat} {c : CmdSpec} (time : op = 0x0601 ∨ op = 0x0602 ∨ op = 0x0603)
    (named : cmdOf op = some c) : c.right = .adm := by
  rcases time with rfl | rfl | rfl <;> cases named <;> rfl

/-- Every time command is performed by its opcode, with a body of its own. -/
theorem exec_timeCommand {f : FuncId} {i : Nat × Instr}
    (time : i ∈ [(0x0601, Instr.timeSet f), (0x0602, .timeSource f), (0x0603, .tickSet f)]) (s : State) :
    (i.1 = 0x0601 ∨ i.1 = 0x0602 ∨ i.1 = 0x0603) ∧ ∃ body, exec i.2 s = .next (s.perform f i.1 true body) := by
  simp only [List.mem_cons, List.not_mem_nil, or_false] at time
  rcases time with rfl | rfl | rfl
  · exact ⟨.inl rfl, _, rfl⟩
  · exact ⟨.inr (.inl rfl), _, rfl⟩
  · exact ⟨.inr (.inr rfl), _, rfl⟩

/-! ## TIME_SET -/

/-- The command waits where it is accepted. -/
theorem State.pend_of_accepts {s : State} {f : FuncId} {op : Nat} (accepted : s.accepts f op = true) :
    (s.mbox f).pend = true := by
  simp only [State.accepts, Bool.and_eq_true] at accepted
  obtain ⟨⟨⟨⟨waits, _⟩, _⟩, _⟩, _⟩ := accepted
  exact waits

theorem answers_timeSet_free {s : State} {f : FuncId} (accepted : s.accepts f 0x0601 = true) (free : s.tb.src = 0) :
    Answers (.timeSet f) s fun s' =>
      s'.tb.now = BitVec.ofNat 64 (s.arg f 0x10 8) ∧ (s'.mbox f).status = OK ∧ (s'.mbox f).done = true := by
  let v : DWord := BitVec.ofNat 64 (s.arg f 0x10 8)
  let stepped := s.stepTb (v - s.tb.now)
  have reached : s.tb.now + (v - s.tb.now) = v := by
    rw [BitVec.add_comm, BitVec.sub_add_cancel]
  have answered : exec (.timeSet f) s = .next (stepped.answer f OK 0 []) := by
    show Host.Outcome.next (s.perform f 0x0601 true (s.timeSet v)) = _
    rw [State.perform_accepts accepted, State.timeSet, if_neg (not_not_intro free)]
    rfl
  obtain ⟨s', next, tb, status, done⟩ := answers_answer answered (State.pend_of_accepts accepted)
  exact ⟨s', next, tb ▸ reached, status, done⟩

theorem answers_timeSet_disciplined {s : State} {f : FuncId} (accepted : s.accepts f 0x0601 = true) (source : s.tb.src ≠ 0) :
    Answers (.timeSet f) s fun s' => s'.tb = s.tb ∧ (s'.mbox f).status = WRONG_STATE ∧ (s'.mbox f).done = true := by
  have answered : exec (.timeSet f) s = .next (s.answer f WRONG_STATE (failDetail 0x08 0 0) []) := by
    show Host.Outcome.next (s.perform f 0x0601 true (s.timeSet (BitVec.ofNat 64 (s.arg f 0x10 8)))) = _
    rw [State.perform_accepts accepted, State.timeSet, if_pos source]
    rfl
  exact answers_answer answered (State.pend_of_accepts accepted)

/-- Settles O59: TIME_SET by the source, and the denial of all three by the right that their envelope asks for. -/
theorem timeCommandsAreAdministrative : Obligations.TimeCommandsAreAdministrative := by
  intro f s
  refine ⟨fun accepted => ⟨answers_timeSet_free accepted, answers_timeSet_disciplined accepted⟩, ?_⟩
  intro i time c named waits runs asks turn unbegun sound other
  obtain ⟨op, body, performed⟩ := exec_timeCommand time s
  have denied : s.hasRight f c = false := State.hasRight_adm (right_of_timeCommand op named) other
  rw [State.perform_denied named waits runs asks turn unbegun sound denied] at performed
  exact answers_answer performed waits

end Sys2Proof.Machine
end

section
/-! PROOFS. A second item for a sequence number that a flow holds (05 R164), and the entry that the reel writes while a rail of the
host's part is lost (12 R351, 16 R459). -/

namespace Sys2Proof.Machine

/-! ## Tokens at the reel -/

theorem State.updHub_updHub (s : State) (g h : Hub → Hub) : (s.updHub g).updHub h = s.updHub fun x => h (g x) := rfl

@[simp] theorem State.flow_updFlow_same (s : State) (n : BitVec 14) (g : Flow → Flow) : (s.updFlow n g).flow n = g (s.flow n) := by
  simp [State.flow, State.updFlow]

theorem State.state_of_reelAccepts {s : State} {x : CtxId} (accepts : s.reelAccepts x = true) : (s.ctx x).state ≠ FREE := by
  intro free
  rw [State.reelAccepts, free] at accepts
  exact absurd accepts (by simp [FREE, RUNNING, QUIESCING, UPDATING, STOPPED])

/-- A token at the reel, of a context that may send and for a sound REEL ring that no template claims, goes to the flow of its
ring. -/
theorem exec_reelTokenArrival_flow {s : State} {p : Packet} {rest : List Packet} {g : Ring} {n : BitVec 14}
    (head : s.hub.reelIn = p :: rest) (accepts : s.reelAccepts (tagCtx (packetToken p).tag) = true)
    (unclaimed : s.claimed (s.ctx (tagCtx (packetToken p).tag)).owner (bits (tagNode (packetToken p).tag) 0 6) = false)
    (ring : s.ring (s.ctx (tagCtx (packetToken p).tag)).owner (bits (tagNode (packetToken p).tag) 0 6) = some g)
    (kind : g.kind = 1) (sound : g.rfault = false)
    (flow : s.flowOf (s.ctx (tagCtx (packetToken p).tag)).owner (bits (tagNode (packetToken p).tag) 0 6) = some n) :
    exec .reelTokenArrival s = .next ((s.updHub fun h => { h with reelIn := rest }).flowArrive n (packetToken p)) := by
  show execReelTokenArrival s = _
  simp only [execReelTokenArrival, head, State.state_of_reelAccepts accepts, accepts, unclaimed, ring, kind, sound, flow, ne_eq,
    not_true_eq_false, Bool.not_true, Bool.false_eq_true, or_self, if_false]

/-- An arrival at a flow changes nothing but the hub. -/
theorem State.flowArrive_frame (s : State) (n : BitVec 14) (tok : Token) : { s.flowArrive n tok with hub := s.hub } = s := by
  have inHub : ∃ g, s.flowArrive n tok = s.updHub g := by
    simp only [State.flowArrive, State.reelReject, State.toBroke, State.updFlow, State.updHub_updHub]
    split
    case isTrue => exact ⟨_, rfl⟩
    case isFalse => split <;> exact ⟨_, rfl⟩
  obtain ⟨g, same⟩ := inHub
  rw [same]
  rfl

/-- A second item for a sequence number that the flow holds is counted there and goes to the broke queue (05 R164). -/
theorem State.flowArrive_duplicate {s : State} {n : BitVec 14} {tok : Token}
    (timely : (s.flow n).ahead (tagInst tok.tag) < 32768) (held : ((s.flow n).items.find (tagInst tok.tag).toNat).isSome = true) :
    let s' := s.flowArrive n tok
    s'.flow n = { s.flow n with granted := (s.flow n).granted.erase (tagInst tok.tag), dup := satInc (s.flow n).dup } ∧
      s'.hub.brokeIn = s.hub.brokeIn ++ [⟨tok, UNDELIVERABLE, tagCtx tok.tag, true, tagKind tok.tag == 6⟩] ∧
      s'.hub.reelIn = s.hub.reelIn := by
  let w : Flow := { s.flow n with granted := (s.flow n).granted.erase (tagInst tok.tag) }
  let taken := s.updFlow n fun _ => w
  have entry : taken.flow n = w := s.flow_updFlow_same n _
  have rejected : s.flowArrive n tok = (taken.updFlow n fun w => { w with dup := satInc w.dup }).reelReject tok := by
    have timely' : ¬ 32768 ≤ w.ahead (tagInst tok.tag) := Nat.not_le.mpr timely
    have held' : (w.items.find (tagInst tok.tag).toNat).isSome = true := held
    simp only [State.flowArrive]
    rw [if_neg timely', if_pos held']
  rw [rejected]
  refine ⟨?_, rfl, rfl⟩
  calc ((taken.updFlow n fun w => { w with dup := satInc w.dup }).reelReject tok).flow n
      = (taken.updFlow n fun w => { w with dup := satInc w.dup }).flow n := rfl
    _ = { taken.flow n with dup := satInc (taken.flow n).dup } := taken.flow_updFlow_same n _
    _ = { w with dup := satInc w.dup } := by rw [entry]

/-- Settles O58: the token reaches its flow, and the flow turns the second item away. -/
theorem duplicatesLeaveTheFirstItem : Obligations.DuplicatesLeaveTheFirstItem := by
  intro s p rest g n tok x f r head accepts unclaimed ring kind sound flow timely held
  let taken := s.updHub fun h => { h with reelIn := rest }
  obtain ⟨entry, broke, reelIn⟩ := State.flowArrive_duplicate (s := taken) (n := n) (tok := tok) timely held
  refine ⟨_, exec_reelTokenArrival_flow head accepts unclaimed ring kind sound flow, ?_, ?_, ?_, broke, reelIn, ?_⟩
  · rw [entry]; rfl
  · rw [entry]; rfl
  · rw [entry]; rfl
  · exact congrArg (fun a : State => { a with hub := s.hub }) (taken.flowArrive_frame n tok)

/-! ## The reel while the host is out of reach -/

/-- A part with a REEL ring and one entry to write to it, whose monitor 20 (VDD_PCIE) has lost its rail. -/
def State.reelOffHost : State :=
  { State.reset with
    hub := { State.reset.hub with
      rings := [(0, { kind := 1, lsize := 4,
                      items := [{ tag := 0, value := 3, type := 5, poison := false, cause := 0, tt := false, ctx := none }] })] }
    mon := { State.reset.mon with lost := [20] } }

/-- No transfer reaches a host while a rail of HOST is lost (16 R459), so the reel's entry counts in W but is not sent. -/
theorem exec_reelEntryWrite_offHost : ∃ s', exec (.reelEntryWrite 0 0) State.reelOffHost = .next s' ∧ s'.out = [] :=
  ⟨_, rfl, by decide⟩

/-- Refutes O34: its clause on the write of an entry asks for a host write, also where the lost rail of `State.reelOffHost` keeps
every transfer from the host. -/
theorem not_theReelStagesOrdersAndWrites : ¬ Obligations.TheReelStagesOrdersAndWrites := by
  unfold Obligations.TheReelStagesOrdersAndWrites
  rintro ⟨_, _, writes, _⟩
  obtain ⟨s', next, _, sent, _⟩ := writes 0 0 State.reelOffHost _ _ _ rfl rfl rfl rfl rfl (by decide) rfl
  obtain ⟨a, next', silent⟩ := exec_reelEntryWrite_offHost
  obtain rfl : s' = a := Host.Outcome.next.inj (next.symm.trans next')
  rw [silent] at sent
  exact List.not_mem_nil sent

end Sys2Proof.Machine
end

section
/-! PROOFS. A sleep entry leaves the delay list and its task becomes READY (05 R151-R154, 04 R120). -/

namespace Sys2Proof.Machine

/-! ## The release of an entry that is due -/

/-- No fabric cycle passes where the section has counted enough. -/
theorem State.passFc_of_le {s : State} {n : BitVec 4} {due : Nat} (reached : due ≤ (s.sect n).fc) : s.passFc n due = s :=
  if_pos (.inl reached)

/-- Where every due entry is eligible, the first releasable one goes at once, and with none left after it that is all. -/
theorem exec_delayListRelease_sole {c : ClusterId} {s : State} {i : Nat} {e : DlEntry}
    (eligible : ∀ q ∈ (s.cluster c).dl, s.dlDue q = true → q.elig ≤ s.fc c) (first : s.dlNext c = some (i, e))
    (sole : (s.releaseEntry c i e).dlNext c = none) :
    exec (.delayListRelease c .clean) s = .next (s.releaseEntry c i e) := by
  have now (k : Nat) (least : (((s.cluster c).dl.filter s.dlDue).map (·.elig)).min? = some k) :
      s.passFc (clusterSection c) k = s := by
    obtain ⟨q, found, rfl⟩ := List.mem_map.mp (List.min?_mem least)
    obtain ⟨listed, due⟩ := List.mem_filter.mp found
    exact State.passFc_of_le (eligible q listed due)
  show execDelayListRelease c s = _
  cases least : (((s.cluster c).dl.filter s.dlDue).map (·.elig)).min? with
  | none => simp only [execDelayListRelease, least, first, State.dlRead, sole]
  | some k => simp only [execDelayListRelease, least, now k least, first, State.dlRead, sole]

/-! ## What the release changes -/

@[simp] theorem State.threads_dlLevel (s : State) (c : ClusterId) (old : Nat) : (s.dlLevel c old).threads = s.threads := by
  unfold State.dlLevel
  dsimp only
  split
  · rw [State.threads_mgmtRecord]; rfl
  · rfl

/-- A cluster once entry `e` at place `i` has left its delay list. -/
def Cluster.unlisted (cl : Cluster) (i : Nat) (e : DlEntry) : Cluster :=
  { cl with
    dl := dropAt cl.dl i
    dlRes := match cl.slotOf e.ctx with
      | some n => cl.dlRes.upd n {} fun r => { r with held := r.held - 1 }
      | none => cl.dlRes
    dlCnt := { cl.dlCnt with rel := satInc cl.dlCnt.rel } }

/-- The reservation of the entry's context holds one entry less. -/
theorem Cluster.held_unlisted {cl : Cluster} {e : DlEntry} {n : Nat} (slot : cl.slotOf e.ctx = some n) (i : Nat) :
    ((cl.unlisted i e).dlRes.getD n {}).held = (cl.dlRes.getD n {}).held - 1 := by
  simp only [Cluster.unlisted, slot, Map.getD_upd_same]

/-- An entry leaves the list: its cluster loses it, and TIMERS of its context falls. -/
theorem State.dlRemove_spec (s : State) (c : ClusterId) (i : Nat) (e : DlEntry) :
    (∃ wm, (s.dlRemove c i e).cluster c = { (s.cluster c).unlisted i e with dlWm := wm }) ∧
      ((s.dlRemove c i e).ctx e.ctx).timers = BitVec.ofNat 32 ((s.ctx e.ctx).timers.toNat - 1) ∧
      (s.dlRemove c i e).threads = s.threads := by
  let left := s.updCluster c (·.unlisted i e)
  let counted := left.timersSub e.ctx
  have cluster : counted.cluster c = (s.cluster c).unlisted i e := s.cluster_updCluster_same c (·.unlisted i e)
  have entry : counted.ctx e.ctx = { left.ctx e.ctx with timers := BitVec.ofNat 32 ((left.ctx e.ctx).timers.toNat - 1) } :=
    left.ctx_updCtx_same e.ctx _
  have same : s.dlRemove c i e = counted.dlLevel c (s.cluster c).dl.length := rfl
  obtain ⟨⟨wm, levelled⟩, _, ctxs⟩ := counted.dlLevel_spec c (s.cluster c).dl.length
  rw [same]
  refine ⟨⟨wm, by rw [levelled, cluster]⟩, ?_, counted.threads_dlLevel ..⟩
  rw [State.ctx, ctxs, ← State.ctx, entry]
  rfl

/-- A task that becomes READY joins the ready list; of its cluster nothing changes but that, what the dispatcher counts, and the
activity of its context. -/
theorem State.cluster_makeReady (s : State) (c : ClusterId) (d : BitVec 10) :
    ∃ ready age pes cdRes, (s.makeReady c d).cluster c =
      { s.cluster c with
        tasks := (s.cluster c).tasks.upd d.toNat {} fun k => { k with state := READY, wait := 0 }
        ready := ready
        age := age
        pes := pes
        cdRes := cdRes } := by
  let marked := s.updTask c d fun k => { k with state := READY, wait := 0 }
  obtain ⟨cdRes, acted⟩ := (marked.enqueue c (.task d)).cluster_act_same c ((s.cluster c).task d).ctx
  obtain ⟨pes, depths⟩ := Cluster.noteDepths_eq
    { marked.cluster c with
      ready := (marked.cluster c).ready ++ [{ work := .task d, age := (marked.cluster c).age, since := marked.fc c }]
      age := (marked.cluster c).age + 1 }
  have task : marked.cluster c = _ := s.cluster_updCluster_same c _
  have queued : (marked.enqueue c (.task d)).cluster c = _ := (marked.cluster_updCluster_same c _).trans depths
  exact ⟨_, _, pes, cdRes, by rw [State.makeReady, acted, queued, task]⟩

@[simp] theorem State.ctx_makeReady (s : State) (c : ClusterId) (d : BitVec 10) (x : CtxId) : (s.makeReady c d).ctx x = s.ctx x := rfl

/-- A sleep entry that is released makes its DELAYED task READY. -/
theorem State.releaseEntry_sleep {s : State} {c : ClusterId} {e : DlEntry} {d : BitVec 10} (sleep : e.item = .inr d)
    (delayed : ((s.cluster c).task d).state = DELAYED) (i : Nat) :
    s.releaseEntry c i e = (s.dlRemove c i e).makeReady c d := by
  obtain ⟨⟨_, cluster⟩, _⟩ := s.dlRemove_spec c i e
  have delayed' : (((s.dlRemove c i e).cluster c).task d).state = DELAYED := by rw [cluster]; exact delayed
  simp only [State.releaseEntry, sleep, State.wakeSleep, delayed', if_true]

/-- Settles O20: the sole entry that can go is released; it leaves the list by `State.dlRemove_spec`, and its task becomes READY by
`State.cluster_makeReady`. -/
theorem delayListReleasesASleeper : Obligations.DelayListReleasesASleeper := by
  intro c s i e d n eligible first sleep delayed sole slot
  let removed := s.dlRemove c i e
  obtain ⟨⟨wm, left⟩, timers, threads⟩ := s.dlRemove_spec c i e
  obtain ⟨_, _, _, _, ready⟩ := removed.cluster_makeReady c d
  obtain ⟨_, kept⟩ := removed.makeReady_spec c d
  have released := exec_delayListRelease_sole eligible first sole
  rw [State.releaseEntry_sleep sleep delayed] at released
  refine ⟨removed.makeReady c d, released, ?list, ?task, ?held, ?timers, ?threads, ?mem⟩
  case list => rw [ready, left]; rfl
  case task => rw [ready, Cluster.task, Map.getD_upd_same]
  case held => rw [ready, left]; exact Cluster.held_unlisted slot i
  case timers => rw [State.ctx_makeReady, timers]
  case threads => exact kept.trans threads
  case mem => rw [State.makeReady_mem, State.dlRemove_mem]

end Sys2Proof.Machine
end

section
/-! PROOFS. Branches delay their target by one word, and a repeat word sets the count of the next one (07 R217-R222, 08 R244). -/

namespace Sys2Proof.Machine

/-! ## The PC -/

@[simp] theorem Thread.land_pc (th : Thread) (l : Land) : (th.land l).pc = th.pc := by
  unfold Thread.land
  split
  · split <;> rfl
  all_goals rfl

@[simp] theorem Thread.landTo_pc (th : Thread) (k : Nat) : (th.landTo k).pc = th.pc := by
  rw [Thread.landTo, Thread.foldl_land_keeps _ Thread.land_pc]

@[simp] theorem Thread.addLand_pc (th : Thread) (n : Nat) (due : Option Nat) (g : Target) (v : Word) :
    (th.addLand n due g v).pc = th.pc := by
  unfold Thread.addLand; split <;> rfl

@[simp] theorem Thread.write_pc (th : Thread) (n : Nat) (due : Option Nat) (r : GReg) (v : Word) :
    (th.write n due r v).pc = th.pc := by
  unfold Thread.write
  split
  · rfl
  · exact Thread.addLand_pc ..

@[simp] theorem State.seen_pc (s : State) (t : Tid) (w : Word) : (s.seen t w).pc = (s.thread t).pc :=
  Thread.landTo_pc (s.thread t) (s.issueClock t w)

/-! ## Words that set their own next PC -/

/-- The issue of a word whose body goes on by itself after a change that an issue may make. -/
theorem issue_stay_only {s a : State} {t : Tid} {w : Word} {th : Thread} {body : State → Iss → Eff} (runs : s.runs t w = true)
    (only : OnlyThread s a t th) (stays : body (s.armed t w) { n := s.free, k := s.issueClock t w, x := s.threadCtx t } = .stay a) :
    ∃ s', issue t w body s = .next s' ∧ OnlyThread s s' t th :=
  ⟨a, issue_stay runs stays, only⟩

/-- The issue of a word that faults before any effect. -/
theorem issue_fault_armed {s : State} {t : Tid} {w : Word} {c : Byte} {body : State → Iss → Eff} (runs : s.runs t w = true)
    (faults : body (s.armed t w) { n := s.free, k := s.issueClock t w, x := s.threadCtx t } = .fault (s.armed t w) c) :
    ∃ a, issue t w body s = .next (a.takeFault t c) ∧ OnlyThread s a t (s.seen t w) :=
  ⟨_, issue_fault runs faults, OnlyThread.armed s t w⟩

/-- A thread whose delay slot is next, and then `target` (07 R217). -/
def Thread.delayTo (th : Thread) (target : Word) : Thread := { th with pc := th.pc + 4, delay := some target }

theorem State.branchTo_eq (s : State) (t : Tid) (target : Word) :
    s.branchTo t target = .stay (s.updThread t (·.delayTo target)) := rfl

/-- The issue of a word that branches: its delay slot is next, then its target. -/
theorem issue_branches {s : State} {t : Tid} {w target : Word} {body : State → Iss → Eff} (runs : s.runs t w = true)
    (branches : body (s.armed t w) { n := s.free, k := s.issueClock t w, x := s.threadCtx t } = (s.armed t w).branchTo t target) :
    ∃ s', issue t w body s = .next s' ∧ OnlyThread s s' t ((s.seen t w).delayTo target) :=
  issue_stay_only runs ((OnlyThread.armed s t w).thread_upd (·.delayTo target)) (branches.trans (State.branchTo_eq ..))

theorem Thread.delayTo_write (th : Thread) (n : Nat) (due : Option Nat) (rd : GReg) (v target : Word) :
    (th.write n due rd v).delayTo target = { th.write n due rd v with pc := th.pc + 4, delay := some target } := by
  rw [Thread.delayTo, Thread.write_pc]

/-- The issue of a word that branches and links: PC + 8 is on its way to rd. -/
theorem issue_links {s : State} {t : Tid} {w target : Word} {rd : GReg} {body : State → Iss → Eff} (runs : s.runs t w = true)
    (links : body (s.armed t w) { n := s.free, k := s.issueClock t w, x := s.threadCtx t } =
      ((s.armed t w).updThread t (·.write s.free (some (s.issueClock t w + 2)) rd ((s.seen t w).pc + 8))).branchTo t target) :
    let th := s.seen t w
    ∃ s', issue t w body s = .next s' ∧ OnlyThread s s' t
      { th.write s.free (some (s.issueClock t w + 2)) rd (th.pc + 8) with pc := th.pc + 4, delay := some target } := by
  intro th
  rw [← Thread.delayTo_write]
  exact issue_stay_only runs (((OnlyThread.armed s t w).thread_upd
    (·.write s.free (some (s.issueClock t w + 2)) rd (th.pc + 8))).thread_upd (·.delayTo target))
    (links.trans (State.branchTo_eq ..))

/-! ## Branches and jumps -/

theorem branchOff_eq_mul (off : BitVec 20) : branchOff off = 4 * off.signExtend 32 := by
  rw [branchOff, BitVec.shiftLeft_eq_mul_twoPow, BitVec.mul_comm]
  rfl

section Branches
variable {t : Tid} {rd rs1 : GReg} {off : BitVec 20} {i : Instr} {w : Word} {target : Thread → Nat → Word}

/-- An instruction whose body branches to `target` of its thread runs as a branch without a link. -/
theorem runsAs_branchForm {body : State → Iss → Eff} (issues : ∀ s, exec i s = issue t w body s)
    (branches : ∀ s j, body s j = s.branchTo t (target (s.thread t) j.n)) : RunsAs i (branchForm t w none target) := by
  intro s runs
  rw [issues]
  refine issue_branches (w := w) runs ?_
  rw [branches, State.thread_armed]
  rfl

theorem runsAs_bz : RunsAs (.bz t rs1 off) (branchForm t (wLB 0x28 rs1 off) none fun th n =>
    if th.read n rs1 = 0 then th.pc + 4 * off.signExtend 32 else th.pc + 8) :=
  runsAs_branchForm (fun _ => rfl) fun s j => by simp only [branchIf, branchOff_eq_mul, beq_iff_eq]

theorem runsAs_bnz : RunsAs (.bnz t rs1 off) (branchForm t (wLB 0x29 rs1 off) none fun th n =>
    if th.read n rs1 = 0 then th.pc + 8 else th.pc + 4 * off.signExtend 32) :=
  runsAs_branchForm (fun _ => rfl) fun s j => by simp only [branchIf, branchOff_eq_mul, bne_iff_ne, ne_eq, ite_not]

theorem runsAs_jump : RunsAs (.jump t off) (branchForm t (wLB 0x2A 0 off) none fun th _ => th.pc + 4 * off.signExtend 32) :=
  runsAs_branchForm (fun _ => rfl) fun s j => by rw [branchOff_eq_mul]

theorem runsAs_jl :
    RunsAs (.jl t rd off) (branchForm t (wLB 0x2B rd off) (some rd) fun th _ => th.pc + 4 * off.signExtend 32) := by
  intro s runs
  refine issue_links (w := wLB 0x2B rd off) runs ?_
  simp only [branchOff_eq_mul, State.thread_armed]
  rfl

/-- What JR does where its word runs, by bits 1:0 of its register. -/
theorem exec_jr_eq_issue (t : Tid) (rd rs1 : GReg) (s : State) : exec (.jr t rd rs1) s =
    issue t (wL3 0x2C rd rs1 0 0) (fun s i =>
      if bits ((s.thread t).read i.n rs1) 0 2 ≠ (0 : BitVec 2) then .fault s ALIGN
      else (s.updThread t fun th => th.write i.n (some (i.k + 2)) rd (th.pc + 8)).branchTo t ((s.thread t).read i.n rs1)) s := rfl

section Jr
variable {s : State} (runs : s.runs t (wL3 0x2C rd rs1 0 0) = true)
include runs

theorem exec_jr_aligned (aligned : bits ((s.seen t (wL3 0x2C rd rs1 0 0)).read s.free rs1) 0 2 = (0 : BitVec 2)) :
    let w := wL3 0x2C rd rs1 0 0
    let th := s.seen t w
    ∃ s', exec (.jr t rd rs1) s = .next s' ∧ OnlyThread s s' t
      { th.write s.free (some (s.issueClock t w + 2)) rd (th.pc + 8) with pc := th.pc + 4, delay := some (th.read s.free rs1) } := by
  rw [exec_jr_eq_issue]
  refine issue_links runs ?_
  rw [State.thread_armed, if_neg (not_not_intro aligned), State.updThread_const, State.updThread_const _ _ (Thread.write · _ _ _ _),
    State.thread_armed]

theorem exec_jr_misaligned (misaligned : bits ((s.seen t (wL3 0x2C rd rs1 0 0)).read s.free rs1) 0 2 ≠ (0 : BitVec 2)) :
    ∃ a, exec (.jr t rd rs1) s = .next (a.takeFault t ALIGN) ∧ OnlyThread s a t (s.seen t (wL3 0x2C rd rs1 0 0)) := by
  rw [exec_jr_eq_issue]
  refine issue_fault_armed runs ?_
  rw [State.thread_armed, if_pos misaligned]

end Jr

end Branches

/-- Settles O4, word by word. -/
theorem branchesDelayTheirTarget : Obligations.BranchesDelayTheirTarget := by
  refine ⟨fun t rd rs1 off p form => ?offset, fun t rd rs1 s => ?register⟩
  case offset =>
    simp only [branchForms, List.mem_cons, List.not_mem_nil, or_false] at form
    obtain rfl | rfl | rfl | rfl := form
    · exact runsAs_bz
    · exact runsAs_bnz
    · exact runsAs_jump
    · exact runsAs_jl
  case register =>
    intro w runs
    exact ⟨exec_jr_aligned runs, exec_jr_misaligned runs⟩

/-! ## REP.I and REP.N -/

/-- What follows a word in the code store is the same after its issue is noted. -/
@[simp] theorem State.nextWord_armed (s : State) (t : Tid) (w : Word) : (s.armed t w).nextWord t = s.nextWord t := by
  have code := (OnlyThread.armed s t w).view_cluster Cluster.code fun _ _ _ _ => rfl
  simp only [State.nextWord, code, State.thread_armed, State.seen_pc, State.threadCtx_armed]

/-- The thread of a repeat word `w` with a count: the next word is repeated (07 R219). -/
def Thread.repeatNext (th : Thread) (w count : Word) (interruptible : Bool) : Thread :=
  { th with pc := th.pc + 4, repc := count
            rep := some { interruptible := interruptible, word := w, old := th.repc, begun := false } }

section Repeat
variable {t : Tid} {rs1 : GReg} {n : BitVec 15} {s : State}

/-- The issue of a repeat word that sets the count. -/
theorem issue_repeats {w count : Word} {interruptible : Bool} {body : State → Iss → Eff} (runs : s.runs t w = true)
    (repeats : body (s.armed t w) { n := s.free, k := s.issueClock t w, x := s.threadCtx t } =
      (s.armed t w).repeatNext t count interruptible) :
    ∃ s', issue t w body s = .next s' ∧ OnlyThread s s' t ((s.seen t w).repeatNext w count interruptible) := by
  refine issue_stay_only runs ((OnlyThread.armed s t w).thread_upd (·.repeatNext w count interruptible)) ?_
  rw [repeats, State.repeatNext, State.updThread_const, State.updThread_const _ _ fun th => th.repeatNext .., State.thread_armed]
  rfl

theorem exec_repI_eq_issue (t : Tid) (rs1 : GReg) (s : State) : exec (.repI t rs1) s = issue t (wLI 0x2D 0 rs1 0) (fun s i =>
      if (s.nextWord t).any repeatIllegal then .fault s REP_ILLEGAL
      else if (s.thread t).read i.n rs1 = 0 then .ok (s.updThread t fun th => { th with pc := th.pc + 4 })
      else s.repeatNext t ((s.thread t).read i.n rs1) true) s := rfl

theorem exec_repN_eq_issue (t : Tid) (n : BitVec 15) (s : State) : exec (.repN t n) s = issue t (wLI 0x2E 0 0 n) (fun s _ =>
      if (s.nextWord t).any repeatIllegal then .fault s REP_ILLEGAL
      else if n = 0 ∨ n.toNat > 64 then .fault s REP_LIMIT
      else s.repeatNext t (n.setWidth 32) false) s := rfl

section RepI
variable (runs : s.runs t (wLI 0x2D 0 rs1 0) = true)
include runs

theorem exec_repI_illegal (illegal : (s.nextWord t).any repeatIllegal = true) :
    ∃ a, exec (.repI t rs1) s = .next (a.takeFault t REP_ILLEGAL) ∧ OnlyThread s a t (s.seen t (wLI 0x2D 0 rs1 0)) := by
  rw [exec_repI_eq_issue]
  refine issue_fault_armed runs ?_
  rw [State.nextWord_armed, if_pos illegal]

variable (legal : (s.nextWord t).any repeatIllegal = false)
include legal

theorem exec_repI_zero (zero : (s.seen t (wLI 0x2D 0 rs1 0)).read s.free rs1 = 0) :
    let th := s.seen t (wLI 0x2D 0 rs1 0)
    ∃ s', exec (.repI t rs1) s = .next s' ∧ OnlyThread s s' t ({ th with pc := th.pc + 4 } : Thread).advance := by
  obtain ⟨noStop, noMove⟩ := State.runs_quiet runs
  rw [exec_repI_eq_issue]
  refine issue_ok runs ?_ ((OnlyThread.armed s t _).thread_upd fun th => { th with pc := th.pc + 4 }) (by simpa) (by simpa)
  rw [State.nextWord_armed, if_neg (Bool.eq_false_iff.mp legal), State.thread_armed, if_pos zero]

theorem exec_repI_counts (counts : (s.seen t (wLI 0x2D 0 rs1 0)).read s.free rs1 ≠ 0) :
    let w := wLI 0x2D 0 rs1 0
    let th := s.seen t w
    ∃ s', exec (.repI t rs1) s = .next s' ∧ OnlyThread s s' t (th.repeatNext w (th.read s.free rs1) true) := by
  rw [exec_repI_eq_issue]
  refine issue_repeats runs ?_
  rw [State.nextWord_armed, if_neg (Bool.eq_false_iff.mp legal), State.thread_armed, if_neg counts]

end RepI

section RepN
variable (runs : s.runs t (wLI 0x2E 0 0 n) = true)
include runs

theorem exec_repN_illegal (illegal : (s.nextWord t).any repeatIllegal = true) :
    ∃ a, exec (.repN t n) s = .next (a.takeFault t REP_ILLEGAL) ∧ OnlyThread s a t (s.seen t (wLI 0x2E 0 0 n)) := by
  rw [exec_repN_eq_issue]
  refine issue_fault_armed runs ?_
  rw [State.nextWord_armed, if_pos illegal]

variable (legal : (s.nextWord t).any repeatIllegal = false)
include legal

theorem exec_repN_limit (beyond : n = 0 ∨ 64 < n.toNat) :
    ∃ a, exec (.repN t n) s = .next (a.takeFault t REP_LIMIT) ∧ OnlyThread s a t (s.seen t (wLI 0x2E 0 0 n)) := by
  rw [exec_repN_eq_issue]
  refine issue_fault_armed runs ?_
  rw [State.nextWord_armed, if_neg (Bool.eq_false_iff.mp legal), if_pos beyond]

theorem exec_repN_counts (positive : 1 ≤ n.toNat) (within : n.toNat ≤ 64) :
    let w := wLI 0x2E 0 0 n
    ∃ s', exec (.repN t n) s = .next s' ∧ OnlyThread s s' t ((s.seen t w).repeatNext w (n.setWidth 32) false) := by
  have allowed : ¬ (n = 0 ∨ n.toNat > 64) := by
    rintro (rfl | beyond)
    · exact absurd positive (by decide)
    · exact absurd within (by omega)
  rw [exec_repN_eq_issue]
  refine issue_repeats runs ?_
  rw [State.nextWord_armed, if_neg (Bool.eq_false_iff.mp legal), if_neg allowed]

end RepN

end Repeat

/-- Settles O5: each repeat word by its body at the state in which it issues, where it faults, skips or sets the count. -/
theorem repeatPrefixesSetTheCount : Obligations.RepeatPrefixesSetTheCount := by
  intro t rs1 n s inter
  cases inter with
  | true =>
    intro w i runs th count illegal
    refine ⟨fun legal _ => exec_repI_zero runs legal, ?counts, fun _ not => absurd not (by decide), exec_repI_illegal runs⟩
    case counts =>
      rintro legal (⟨_, counts⟩ | ⟨not, _⟩)
      · exact exec_repI_counts runs legal counts
      · exact absurd not (by decide)
  | false =>
    intro w i runs th count illegal
    refine ⟨fun _ not => absurd not (by decide), ?counts, fun legal _ => exec_repN_limit runs legal, exec_repN_illegal runs⟩
    case counts =>
      rintro legal (⟨not, _⟩ | ⟨_, positive, within⟩)
      · exact absurd not (by decide)
      · exact exec_repN_counts runs legal positive within

end Sys2Proof.Machine
end

section
/-! PROOFS. Undefined encodings fault at the thread that issues them, and a fault is recorded and counted (04 R134-R137, 07
R206-R208). -/

namespace Sys2Proof.Machine

/-! ## A word that fails a check of 07 R207 -/

/-- Noting an issue at any clock changes no more than an issue may. -/
theorem OnlyThread.noted_at (s : State) (t : Tid) (w : Word) (k : Nat) :
    OnlyThread s (s.takeFree.noteIssue t w k) t { (s.thread t).landTo k with cur := w, lastIssue := k } := by
  have taken : OnlyThread s s.takeFree t (s.thread t) := ⟨rfl, fun _ _ => rfl, rfl, fun _ _ => rfl, rfl, fun _ _ => rfl, rfl⟩
  have landed := taken.thread_upd fun th => { th.landTo k with cur := w, lastIssue := k }
  unfold State.noteIssue
  dsimp only
  split
  · exact landed
  · next fabric => exact landed.pe_upd (by simpa using fabric) _ fun _ => rfl

@[simp] theorem State.seen_rep (s : State) (t : Tid) (w : Word) : (s.seen t w).rep = (s.thread t).rep :=
  Thread.landTo_rep (s.thread t) (s.issueClock t w)

/-- A word with the major opcode of a near access is defined (07 R204). -/
theorem longDefined_of_near {w : Word} (above : 0x18 ≤ wMaj w) (below : wMaj w ≤ 0x21) : longDefined w = true := by
  unfold longDefined
  split
  case h_13 => simp [above, below]
  all_goals omega

/-- An undefined word presents no near access. -/
theorem State.nearPa_of_undefined {w : Word} (undefined : wordDefined w = false) (s : State) (t : Tid) (k : Nat) :
    s.nearPa t w k = none := by
  refine if_pos ?_
  by_cases paired : isPaired w = true
  · simp [paired]
  · have long : longDefined w = false := by simpa [wordDefined, paired] using undefined
    have outside : ¬ (0x18 ≤ wMaj w ∧ wMaj w ≤ 0x21) := by
      rintro ⟨above, below⟩
      rw [longDefined_of_near above below] at long
      cases long
    simp only [Bool.or_eq_true, Bool.not_eq_true', Bool.and_eq_false_iff, decide_eq_false_iff_not]
    omega

theorem State.nearPa_of_steward {t : Tid} (steward : isSteward t = true) (s : State) (w : Word) (k : Nat) :
    s.nearPa t w k = none := if_pos (by simp [steward])

/-- A word that presents no near access loses no bank. -/
theorem State.bankLost_of_nearPa {s : State} {t : Tid} {w : Word} {k : Nat} (none : s.nearPa t w k = none) :
    s.bankLost t w k = .none := by
  simp only [State.bankLost, State.nearBank, none, Option.map_none]

/-- The issue of a word that is fetched, loses no bank and fails a check of 07 R207. -/
theorem issue_of_wordFault {s : State} {t : Tid} {w : Word} {body : State → Iss → Eff} {c : Byte} {inB : Bool} (wf : t.wf = true)
    (ready : s.ready t = true) (lineIn : s.lineIn t = true) (elected : s.elected t = true) (single : (s.thread t).rep = none)
    (fetched : s.fetched t w = .word w) (free : s.nearPa t w (s.issueClock t w) = none) (faults : s.wordFault t w = some (c, inB)) :
    issue t w body s = .next ((s.takeFree.noteIssue t w (s.issueClock t w)).takeFault t c inB) := by
  have single' : ((s.takeFree.noteIssue t w (s.issueClock t w)).thread t).rep = none := by
    rw [State.thread_noteIssue, State.seen_rep, single]
  simp only [issue, wf, ready, lineIn, elected, fetched, State.bankLost_of_nearPa free, not_true_eq_false, if_false,
    State.issueWord, single', Option.filter_none, State.wordFault_noteIssue, faults]

theorem exec_undefinedEncoding_noCode {s : State} {t : Tid} (wf : t.wf = true) (ready : s.ready t = true)
    (lineIn : s.lineIn t = true) (elected : s.elected t = true) (absent : isSteward t = true ∨ s.fetch t = none) (w : Word) :
    exec (.undefinedEncoding t w true) s = .next (s.noCode t) := by
  have nothing : ¬ (¬ s.elected t = true ∨ ¬ isSteward t = true ∧ (s.fetch t).isSome = true) := by
    rintro (other | ⟨fabric, code⟩)
    · exact other elected
    · obtain steward | none := absent
      · exact fabric steward
      · simp [none] at code
  show execUndefinedEncoding t w true s = _
  simp only [execUndefinedEncoding, if_true, wf, ready, lineIn, not_true_eq_false, if_false, if_neg nothing]

theorem exec_undefinedEncoding_eq_issue {t : Tid} {w : Word}
    (faulty : wordDefined w = false ∨ isSteward t = true ∧ wordReserved w = true) (s : State) :
    exec (.undefinedEncoding t w false) s = issue t w (fun s _ => .ok s) s := by
  have faulty' : (wordDefined w && !(isSteward t && wordReserved w)) = false := by
    obtain undefined | ⟨steward, reserved⟩ := faulty
    · rw [undefined, Bool.false_and]
    · rw [steward, reserved, Bool.and_self, Bool.not_true, Bool.and_false]
  show execUndefinedEncoding t w false s = _
  simp only [execUndefinedEncoding, Bool.false_eq_true, if_false, faulty']

theorem State.wordFault_undefined {w : Word} (undefined : wordDefined w = false) (s : State) (t : Tid) :
    s.wordFault t w = some (ILLEGAL_OP, undefinedInB w) := if_pos (by simp [undefined])

theorem State.wordFault_reserved {w : Word} (defined : wordDefined w = true) (reserved : wordReserved w = true) (s : State)
    (t : Tid) : s.wordFault t w = some (RESERVED_FIELD, reservedInB w) := by
  simp only [State.wordFault, defined, reserved, not_true_eq_false, if_false, if_true]

/-! ## What follows a fault beside its record -/

/-- `a` is `s` but for thread `t`, and in its cluster for what is neither a task nor a fault record. -/
structure State.KeepsTasks (s a : State) (t : Tid) : Prop where
  others : ∀ u, u ≠ t → a.thread u = s.thread u
  tasks : (a.cluster (tCluster t)).tasks = (s.cluster (tCluster t)).tasks
  faults : (a.cluster (tCluster t)).faults = (s.cluster (tCluster t)).faults

section Keeps
variable {s a b : State} {t : Tid}

theorem State.KeepsTasks.refl (s : State) (t : Tid) : s.KeepsTasks s t := ⟨fun _ _ => rfl, rfl, rfl⟩

theorem State.KeepsTasks.trans (first : s.KeepsTasks a t) (second : a.KeepsTasks b t) : s.KeepsTasks b t :=
  ⟨fun u other => (second.others u other).trans (first.others u other), second.tasks.trans first.tasks,
    second.faults.trans first.faults⟩

theorem State.KeepsTasks.updThread (keeps : s.KeepsTasks a t) (f : Thread → Thread) : s.KeepsTasks (a.updThread t f) t :=
  ⟨fun u other => (a.thread_updThread_other other f).trans (keeps.others u other), keeps.tasks, keeps.faults⟩

theorem State.KeepsTasks.updCluster (keeps : s.KeepsTasks a t) (c : ClusterId) {g : Cluster → Cluster}
    (tasks : ∀ cl, (g cl).tasks = cl.tasks) (faults : ∀ cl, (g cl).faults = cl.faults) : s.KeepsTasks (a.updCluster c g) t :=
  ⟨keeps.others, (a.cluster_updCluster_keeps c _ Cluster.tasks (tasks _)).trans keeps.tasks,
    (a.cluster_updCluster_keeps c _ Cluster.faults (faults _)).trans keeps.faults⟩

theorem State.KeepsTasks.tear (keeps : s.KeepsTasks a t) (who : Sender) (x : CtxId) (task : BitVec 16) (ch : BitVec 3)
    (granted : Bool) : s.KeepsTasks (a.tear who x task ch granted) t := by
  unfold State.tear
  split
  · exact keeps
  · exact keeps.updCluster _ (fun _ => rfl) fun _ => rfl

theorem State.KeepsTasks.freeThread (keeps : s.KeepsTasks a t) : s.KeepsTasks (a.freeThread t) t := by
  have freed := keeps.updThread fun _ =>
    { trapSeq := (a.thread t).trapSeq, splitSeq := (a.thread t).splitSeq, lastIssue := (a.thread t).lastIssue }
  unfold State.freeThread
  dsimp only
  split
  · exact freed
  · exact freed.updCluster _ (fun _ => rfl) fun _ => rfl

end Keeps

/-- Tearing the trap message of a thread changes of it only the wait. -/
theorem State.thread_tearTrap (s : State) (t : Tid) : ∃ w, (s.tearTrap t).thread t = { s.thread t with wait := w } := by
  unfold State.tearTrap
  dsimp only
  split
  · refine ⟨.trap [], ?_⟩
    rw [State.thread_updThread_same]
    unfold State.tear
    split <;> rfl
  · exact ⟨_, rfl⟩

theorem State.keepsTasks_tearTrap (s : State) (t : Tid) : s.KeepsTasks (s.tearTrap t) t := by
  unfold State.tearTrap
  dsimp only
  split
  · exact ((State.KeepsTasks.refl s t).tear ..).updThread _
  · exact .refl s t

/-- With no message open there is only a trap message to tear. -/
theorem State.tearOutbox_of_closed {s : State} {t : Tid} (closed : (s.thread t).outbox.words = []) :
    s.tearOutbox t = s.tearTrap t := by
  obtain ⟨w, thread⟩ := s.thread_tearTrap t
  have closed' : ((s.tearTrap t).thread t).outbox.words.isEmpty = true := by rw [thread, List.isEmpty_iff]; exact closed
  exact if_pos closed'

/-- A thread that leaves its work by a fault keeps the tasks and the records of its cluster. -/
theorem State.keepsTasks_leaveFaulted (s : State) (t : Tid) : s.KeepsTasks (s.leaveFaulted t) t := by
  have landed (a : AfterSave) := (State.KeepsTasks.refl s t).updThread fun _ => { (s.thread t).landAll with after := a }
  unfold State.leaveFaulted
  split
  · unfold State.stopWork
    dsimp only
    split
    · exact (landed _).updThread _
    · rw [if_neg (by decide)]
      split
      · exact (landed _).updThread _
      · exact (landed _).freeThread
  · next noTask =>
    unfold State.stopWork
    dsimp only
    split
    · exact (landed _).updThread _
    · rw [if_pos rfl]
      unfold State.endThread
      split
      · next d work =>
        rw [State.thread_updThread_same] at work
        have work' : (s.thread t).work = some (.task d) := (Thread.landAll_work _).symm.trans work
        rw [State.taskOf, work'] at noTask
        cases noTask
      · exact (landed _).freeThread

theorem State.control_leaveFaulted (s : State) (t : Tid) : (s.leaveFaulted t).control = s.control := by
  unfold State.leaveFaulted
  split <;> exact State.control_stopWork ..

/-! ## The record of a fault -/

/-- The record of a fault begins with its cause, then the word and its PC (04 R135). -/
theorem State.recordOf_eq (s : State) (t : Tid) (cause : Byte) :
    ∃ h rest, s.recordOf t cause = h :: ((s.thread t).cur ++ (s.thread t).pc) :: rest ∧ bits h 0 8 = cause := by
  have low {n : Nat} (x : BitVec n) : bits (x ++ cause) 0 8 = cause := BitVec.extractLsb'_append_eq_right
  unfold State.recordOf
  dsimp only
  split <;> exact ⟨_, _, rfl, low _⟩

/-- Thread `t` as a fault finds it: its TST holds the cause, and no stop is asked for any more (07 R196). -/
def State.marked (s : State) (t : Tid) (cause : Byte) (inB : Bool) : State :=
  s.updThread t fun th => { th with tst := th.faultTst cause inB, dbgReq := false, moveReq := false }

/-- The fault is counted in its context, and its task is FAULTED (04 R134). -/
def State.counted (s : State) (t : Tid) (x : CtxId) (cause : Byte) : State :=
  ((s.takeFree.tearOutbox t).countFault x cause).updTaskOf t fun d => { d with state := FAULTED, wait := 0, cancelp := false }

/-- The record of the fault of thread `t` in context `x`. -/
def State.faultRec (s : State) (t : Tid) (x : CtxId) (cause : Byte) : FaultRec :=
  { words := s.recordOf t cause, ctx := x, id := s.free }

/-- The fault is counted, its record stands behind the others of the cluster, and the thread leaves its work. -/
def State.recorded (s : State) (t : Tid) (x : CtxId) (cause : Byte) : State :=
  ((s.counted t x cause).updCluster (tCluster t) fun cl => { cl with faults := cl.faults ++ [s.faultRec t x cause] }).leaveFaulted t

@[simp] theorem State.ctxs_updTaskOf (s : State) (t : Tid) (f : Task → Task) : (s.updTaskOf t f).ctxs = s.ctxs := by
  unfold State.updTaskOf; split <;> rfl

theorem State.faults_updTaskOf (s : State) (t : Tid) (f : Task → Task) (c : ClusterId) :
    ((s.updTaskOf t f).cluster c).faults = (s.cluster c).faults := by
  unfold State.updTaskOf
  split
  · exact s.cluster_updCluster_keeps _ _ Cluster.faults rfl
  · rfl

theorem State.task_updTaskOf_same {s : State} {t : Tid} {d : BitVec 10} (task : s.taskOf t = some d) (f : Task → Task) :
    ((s.updTaskOf t f).cluster (tCluster t)).task d = f ((s.cluster (tCluster t)).task d) := by
  simp only [State.updTaskOf, task, State.task_updTask_same]

/-- What the control plane decides of a context holds its faults and FOF. -/
theorem State.faults_of_control {s s' : State} (same : s'.control = s.control) (x : CtxId) :
    (s'.ctx x).lastfault = (s.ctx x).lastfault ∧ (s'.ctx x).faultcnt = (s.ctx x).faultcnt ∧ (s'.ctx x).fof = (s.ctx x).fof := by
  have lasting := State.lasting_of_control same x
  refine ⟨?_, ?_, ?_⟩
  · show (s'.ctx x).lasting.lastfault = _
    rw [lasting]; rfl
  · show (s'.ctx x).lasting.faultcnt = _
    rw [lasting]; rfl
  · show (s'.ctx x).lasting.fof = _
    rw [lasting]; rfl

section TakeFault
variable {s : State} {t : Tid} {c : Byte} {x : CtxId} (closed : (s.thread t).outbox.words = [])
include closed

theorem State.counted_of_closed : s.counted t x c =
    ((s.takeFree.tearTrap t).countFault x c).updTaskOf t fun d => { d with state := FAULTED, wait := 0, cancelp := false } := by
  rw [State.counted, State.tearOutbox_of_closed (s := s.takeFree) closed]

/-- The fault is in the context's entry, whose FOF is as before. -/
theorem State.ctx_counted : ((s.counted t x c).ctx x).lastfault = c ∧
    ((s.counted t x c).ctx x).faultcnt = satInc (s.ctx x).faultcnt ∧ ((s.counted t x c).ctx x).fof = (s.ctx x).fof := by
  obtain ⟨_, faultcnt, fof⟩ := State.faults_of_control (State.control_tearTrap s.takeFree t) x
  rw [State.counted_of_closed closed, State.ctx, State.ctxs_updTaskOf, ← State.ctx, State.countFault, State.ctx_updCtx_same]
  exact ⟨rfl, congrArg satInc faultcnt, fof⟩

theorem State.others_counted {u : Tid} (other : u ≠ t) : (s.counted t x c).thread u = s.thread u := by
  rw [State.counted_of_closed closed, State.thread, State.threads_updTaskOf]
  exact (s.takeFree.keepsTasks_tearTrap t).others u other

theorem State.faults_counted : ((s.counted t x c).cluster (tCluster t)).faults = (s.cluster (tCluster t)).faults := by
  rw [State.counted_of_closed closed, State.faults_updTaskOf]
  exact (s.takeFree.keepsTasks_tearTrap t).faults

theorem State.task_counted {d : BitVec 10} (task : s.taskOf t = some d) :
    (((s.counted t x c).cluster (tCluster t)).task d).state = FAULTED := by
  obtain ⟨w, thread⟩ := s.takeFree.thread_tearTrap t
  have task' : ((s.takeFree.tearTrap t).countFault x c).taskOf t = some d := by
    rw [State.taskOf, State.countFault, State.thread_updCtx, thread]
    exact task
  rw [State.counted_of_closed closed, State.task_updTaskOf_same task']

/-- What the record of a fault leaves of the state, and what of it is new. -/
theorem State.recorded_spec :
    ((s.recorded t x c).ctx x).lastfault = c ∧ ((s.recorded t x c).ctx x).faultcnt = satInc (s.ctx x).faultcnt ∧
      ((s.recorded t x c).ctx x).fof = (s.ctx x).fof ∧
      ((s.recorded t x c).cluster (tCluster t)).faults = (s.cluster (tCluster t)).faults ++ [s.faultRec t x c] ∧
      (∀ d, s.taskOf t = some d → (((s.recorded t x c).cluster (tCluster t)).task d).state = FAULTED) ∧
      ∀ u, u ≠ t → (s.recorded t x c).thread u = s.thread u := by
  let listed := (s.counted t x c).updCluster (tCluster t) fun cl => { cl with faults := cl.faults ++ [s.faultRec t x c] }
  have leaves : listed.KeepsTasks (s.recorded t x c) t := listed.keepsTasks_leaveFaulted t
  obtain ⟨lastfault, faultcnt, fof⟩ := State.faults_of_control (listed.control_leaveFaulted t) x
  obtain ⟨lastfault', faultcnt', fof'⟩ : ((s.counted t x c).ctx x).lastfault = c ∧ _ ∧ _ := State.ctx_counted closed
  refine ⟨lastfault.trans lastfault', faultcnt.trans faultcnt', fof.trans fof', ?_, fun d task => ?_, fun u other => ?_⟩
  · rw [leaves.faults, State.cluster_updCluster_same, State.faults_counted closed]
  · have tasks : (listed.cluster (tCluster t)).tasks = ((s.counted t x c).cluster (tCluster t)).tasks :=
      (s.counted t x c).cluster_updCluster_keeps _ _ Cluster.tasks rfl
    rw [Cluster.task, leaves.tasks, tasks, ← Cluster.task, State.task_counted closed task]
  · rw [leaves.others u other]
    exact State.others_counted closed other

end TakeFault

/-- A fault of a fabric thread with no message open, where FOF is clear and the fault buffer has room. -/
theorem State.takeFault_eq_recorded {s : State} {t : Tid} (fabric : isSteward t = false)
    (closed : (s.thread t).outbox.words = []) (fof : (s.ctx (s.threadCtx t)).fof = false)
    (room : (s.cluster (tCluster t)).faults.length < 64) (c : Byte) (inB : Bool) :
    s.takeFault t c inB = (s.marked t c inB).recorded t (s.threadCtx t) c := by
  have same : (s.marked t c inB).threadCtx t = s.threadCtx t := by
    simp only [State.threadCtx, State.marked, State.thread_updThread_same, State.cluster_updThread]
  have closed' : ((s.marked t c inB).thread t).outbox.words = [] := by
    rw [State.marked, State.thread_updThread_same]; exact closed
  have room' : (((s.marked t c inB).counted t (s.threadCtx t) c).cluster (tCluster t)).faults.length < 64 := by
    rw [State.faults_counted closed']; exact room
  obtain ⟨_, _, fof', _⟩ :
    (((s.marked t c inB).recorded t (s.threadCtx t) c).ctx (s.threadCtx t)).lastfault = c ∧ _ ∧ _ ∧ _ := State.recorded_spec closed'
  have takes : s.takeFault t c inB =
      let m := s.marked t c inB
      let x := m.threadCtx t
      let a := if ((m.counted t x c).cluster (tCluster t)).faults.length < 64 then m.recorded t x c
        else (m.counted t x c).updThread t fun th => { th with heldRec := some (m.faultRec t x c), wait := .faulted }
      if (a.ctx x).fof then a.fence x c else a := if_neg (by simp [fabric])
  rw [takes]
  dsimp only
  rw [same, if_pos room', if_neg (by rw [fof']; exact Bool.eq_false_iff.mp fof)]

/-- Settles O11: an undefined encoding and a missing word fault at the state in which their issue is noted, and so does a reserved
field of a steward's word; the record of a fault is `State.recorded_spec`. -/
theorem faultsAreTakenAndRecorded : Obligations.FaultsAreTakenAndRecorded := by
  refine ⟨?undefined, ?reserved, ?taken⟩
  case undefined =>
    intro t w noCode s wf ready lineIn elected single absent undefined
    cases noCode with
    | true =>
      exact ⟨_, false, _, exec_undefinedEncoding_noCode wf ready lineIn elected (absent rfl) w, OnlyThread.noted_at ..,
        Thread.landTo_pc .., fun not => absurd not (by decide)⟩
    | false =>
      obtain ⟨undefined, fetched⟩ := undefined rfl
      have issues := issue_of_wordFault (body := fun s _ => .ok s) wf ready lineIn elected single fetched
        (s.nearPa_of_undefined undefined t _) (s.wordFault_undefined undefined t)
      exact ⟨_, _, _, (exec_undefinedEncoding_eq_issue (.inl undefined) s).trans issues, OnlyThread.noted s t w, s.seen_pc t w,
        fun _ => ⟨rfl, rfl⟩⟩
  case reserved =>
    intro t w s wf steward ready elected single defined reserved
    have lineIn : s.lineIn t = true := by rw [State.lineIn, steward, Bool.true_or]
    have issues := issue_of_wordFault (body := fun s _ => .ok s) wf ready lineIn elected single (if_pos steward)
      (s.nearPa_of_steward steward w _) (s.wordFault_reserved defined reserved t)
    exact ⟨_, _, (exec_undefinedEncoding_eq_issue (.inr ⟨steward, reserved⟩) s).trans issues, OnlyThread.noted s t w,
      s.seen_pc t w, rfl⟩
  case taken =>
    intro t c inB s fabric closed _ _ x fof room s'
    have closed' : ((s.marked t c inB).thread t).outbox.words = [] := by
      rw [State.marked, State.thread_updThread_same]; exact closed
    have takes : s' = (s.marked t c inB).recorded t x c := State.takeFault_eq_recorded fabric closed fof room c inB
    obtain ⟨lastfault, faultcnt, _, faults, tasks, others⟩ :
      (((s.marked t c inB).recorded t x c).ctx x).lastfault = c ∧ _ ∧ _ ∧ _ ∧ _ ∧ _ := State.recorded_spec closed'
    obtain ⟨h, rest, words, cause⟩ := (s.marked t c inB).recordOf_eq t c
    have marks : (s.marked t c inB).thread t = _ := s.thread_updThread_same t _
    rw [← takes] at lastfault faultcnt faults tasks others
    refine ⟨lastfault, faultcnt, ⟨_, faults, rfl, h, rest, ?record, cause⟩, fun d task => tasks d ?task, State.takeFault_mem ..,
      ?others⟩
    case record => rw [State.faultRec, words, marks]
    case task => rw [State.taskOf, marks]; exact task
    case others => exact fun u other => (others u other).trans (s.thread_updThread_other other _)

end Sys2Proof.Machine
end

section
/-! PROOFS. What a change beside an issue is, and what a near access does at its bank or, for a steward, elsewhere (07 R224, R225,
08 R239, 10 R290-R300). -/

namespace Sys2Proof.Machine

/-! ## What an issue may change, and what goes beside it -/

/-- A state with other threads, clusters and free values: what an issue may change of it. -/
def State.withIssue (s : State) (threads : Map Thread) (clusters : Map Cluster) (free : Nat) : State :=
  { s with threads := threads, clusters := clusters, free := free }

theorem OnlyThread.eq_withIssue {s a : State} {t : Tid} {th : Thread} (only : OnlyThread s a t th) :
    a = s.withIssue a.threads a.clusters a.free :=
  congrArg (fun x : State => { x with threads := a.threads, clusters := a.clusters, free := a.free }) only.rest

/-- What of the state no issue changes, is as before the issue. -/
theorem OnlyThread.view {α : Type} {s a : State} {t : Tid} {th : Thread} (only : OnlyThread s a t th) (view : State → α)
    (apart : ∀ x threads clusters free, view (State.withIssue x threads clusters free) = view x) : view a = view s := by
  rw [only.eq_withIssue, apart]

/-- A change that neither reads nor changes what an issue may change goes beside the issue. -/
theorem OnlyThread.beside {s a : State} {t : Tid} {th : Thread} (only : OnlyThread s a t th) {g : State → State}
    (apart : ∀ x threads clusters free, g (State.withIssue x threads clusters free) = (g x).withIssue threads clusters free) :
    OnlyThread (g s) (g a) t th := by
  have keeps (x : State) : g x = (g x).withIssue x.threads x.clusters x.free := apart x x.threads x.clusters x.free
  have thread (x : State) (u : Tid) : (g x).thread u = x.thread u := by rw [keeps]; rfl
  have cluster (x : State) (c : ClusterId) : (g x).cluster c = x.cluster c := by rw [keeps]; rfl
  refine ⟨?_, fun u other => ?_, ?_, fun c apart => ?_, ?_, fun p other => ?_, ?_⟩
  · rw [thread, only.thread]
  · rw [thread, thread, only.others u other]
  · rw [only.eq_withIssue, apart]
    rfl
  · rw [cluster, cluster, only.away c apart]
  · simp only [cluster, only.cluster]
  · simp only [cluster, only.pes p other]
  · simp only [cluster]
    exact only.pe

section Armed
variable (s : State) (t : Tid) (w : Word)

theorem State.accessEntry_armed (x : CtxId) (win : BitVec 6) (near : Bool) :
    (s.armed t w).accessEntry (tCluster t) x win near = s.accessEntry (tCluster t) x win near := by
  have cached : (s.armed t w).winEntry (tCluster t) x win = s.winEntry (tCluster t) x win :=
    (OnlyThread.armed s t w).view_cluster (fun cl => winFind cl.wcache (winKey x win)) fun _ _ _ _ => rfl
  have table : (s.armed t w).readWin x win = s.readWin x win := (OnlyThread.armed s t w).view (·.readWin x win) fun _ _ _ _ => rfl
  rw [State.accessEntry, State.accessEntry, cached, table]

theorem State.bankAnswers_armed (pa : Nat) (whole : Bool) : (s.armed t w).bankAnswers t pa whole = s.bankAnswers t pa whole := by
  have bank : (s.armed t w).bank (bankOf pa) = s.bank (bankOf pa) :=
    (OnlyThread.armed s t w).view (·.bank (bankOf pa)) fun _ _ _ _ => rfl
  have bad : (s.armed t w).bad pa = s.bad pa := (OnlyThread.armed s t w).view (·.bad pa) fun _ _ _ _ => rfl
  rw [State.bankAnswers, State.bankAnswers, State.threadCtx_armed, bank, bad]

theorem State.armed_of_steward {t : Tid} (steward : isSteward t = true) : s.armed t w =
    s.takeFree.updThread t fun th => { th.landTo (s.issueClock t w) with cur := w, lastIssue := s.issueClock t w } := by
  unfold State.armed State.noteIssue
  simp only [steward, if_true]
  split <;> rfl

end Armed

/-! ## An access that reaches its address -/

section Reaches
variable {s : State} {t : Tid} {w : Word} {near : Bool} {kind : SplitKind} {pa : Nat}

/-- A word whose access reaches its address goes on with it there. -/
theorem accessBody_of_reaches {rd : GReg} {ea : Thread → Nat → Word} {data expect : Thread → Nat → DWord}
    (reaches : s.reaches t w near kind (ea (s.seen t w) s.free) = some pa) :
    let th := s.seen t w
    let i : Iss := { n := s.free, k := s.issueClock t w, x := s.threadCtx t }
    accessBody t near kind rd ea data expect (s.armed t w) i = (s.armed t w).accessAt t i
      { near := near, ea := ea th s.free, win := th.window s.free (ea th s.free), kind := kind, rd := rd, data := data th s.free,
        expect := expect th s.free } pa := by
  unfold State.reaches at reaches
  simp only [accessBody, State.access, State.thread_armed, State.accessEntry_armed]
  generalize ea (s.seen t w) s.free = e at reaches
  split at reaches
  · cases reaches
  next aligned =>
  rw [if_neg aligned]
  split at reaches
  next steward =>
    cases reaches
    rw [if_pos steward]
  next fabric =>
  rw [if_neg fabric]
  cases found : s.accessEntry (tCluster t) (s.threadCtx t) ((s.seen t w).window s.free e) near with
  | none =>
    rw [found] at reaches
    cases reaches
  | some entry =>
    rw [found] at reaches
    dsimp only at reaches ⊢
    split at reaches
    next granted =>
      cases reaches
      simp only [Bool.and_eq_true, Bool.or_eq_true, Bool.not_eq_true', decide_eq_true_eq, beq_iff_eq] at granted
      obtain ⟨⟨⟨valid, within⟩, allowed⟩, isNear⟩ := granted
      rw [if_neg (by simp [valid, within]), if_neg (by simp [allowed]), if_neg]
      rintro ⟨rfl, away⟩
      exact away (isNear.resolve_left (by decide))
    next => cases reaches

end Reaches

/-! ## Near accesses at a bank -/

/-- An access that its bank grants, and that meets neither a zero fill nor an error, is done. -/
theorem State.nearAt_granted {s : State} {x : Option CtxId} {pa size : Nat} {store : Bool} (data : DWord)
    (grants : ∀ c, x = some c → (s.bank (bankOf pa)).grants c = true) (still : (s.bank (bankOf pa)).clring = false)
    (sound : ¬ (s.bad pa = true ∧ ¬ (store = true ∧ size = 8))) :
    s.nearAt x pa size store data =
      if store then .done ((s.wr pa size data.toNat).setBad pa false) 0 else .done s (BitVec.ofNat 64 (s.rd pa size)) := by
  unfold State.nearAt
  dsimp only
  cases x with
  | none => simp only [still, sound, Bool.false_eq_true, if_false]
  | some c => simp only [grants c rfl, still, sound, Bool.not_true, Bool.false_eq_true, if_false]

/-- Taking port A changes neither the owner of the bank nor its zero fill. -/
theorem State.bank_takePortA (s : State) (t : Tid) (k pa : Nat) :
    (∀ x, ((s.takePortA t k pa).bank (bankOf pa)).grants x = (s.bank (bankOf pa)).grants x) ∧
      ((s.takePortA t k pa).bank (bankOf pa)).clring = (s.bank (bankOf pa)).clring := by
  unfold State.takePortA
  split
  · exact ⟨fun _ => rfl, rfl⟩
  · rw [State.bank_updBank_same]
    exact ⟨fun _ => rfl, rfl⟩

@[simp] theorem State.bad_takePortA (s : State) (t : Tid) (k pa a : Nat) : (s.takePortA t k pa).bad a = s.bad a := by
  unfold State.takePortA; split <;> rfl

/-- How a near access goes where its address is: at a bank, or for a steward elsewhere. -/
def State.atHome (s : State) (t : Tid) (j : Iss) (pa size : Nat) (store : Bool) (data : DWord) : NearResult :=
  if inBanks pa then (s.takePortA t j.k pa).nearAt (if isSteward t then none else some j.x) pa size store data
  else (s.takePortA t j.k pa).stewardAt pa size store data

section AtHome
variable {s : State} {t : Tid} {pa size : Nat} {store : Bool}

/-- A near access that its bank answers is done there. -/
theorem State.atHome_of_bankAnswers {whole : Bool} (answers : s.bankAnswers t pa whole = true)
    (replaces : whole = true → store = true ∧ size = 8) (n k : Nat) (data : DWord) :
    s.atHome t { n := n, k := k, x := s.threadCtx t } pa size store data =
      if store then .done (((s.takePortA t k pa).wr pa size data.toNat).setBad pa false) 0
      else .done (s.takePortA t k pa) (BitVec.ofNat 64 (s.rd pa size)) := by
  simp only [State.bankAnswers, Bool.and_eq_true, Bool.or_eq_true, Bool.not_eq_true'] at answers
  obtain ⟨⟨⟨inBank, mine⟩, still⟩, sound⟩ := answers
  obtain ⟨grants, clring⟩ := s.bank_takePortA t k pa
  have bytes : (s.takePortA t k pa).rd pa size = s.rd pa size := by rw [State.rd, State.takePortA_mem, State.rd]
  rw [State.atHome, if_pos inBank, State.nearAt_granted data ?granted (clring.trans still) ?sound, bytes]
  case granted =>
    intro c found
    rw [grants]
    split at found
    · cases found
    · next fabric =>
      cases found
      exact mine.resolve_left fabric
  case sound =>
    rw [State.bad_takePortA]
    rintro ⟨bad, partly⟩
    obtain good | full := sound
    · rw [good] at bad; cases bad
    · exact partly (replaces full)

/-- A steward's access outside the banks takes no port. -/
theorem State.atHome_of_steward (steward : isSteward t = true) (outside : inBanks pa = false) (j : Iss) (data : DWord) :
    s.atHome t j pa size store data = s.stewardAt pa size store data := by
  rw [State.atHome, if_neg (Bool.eq_false_iff.mp outside), State.takePortA, if_pos steward]

variable {j : Iss} {a : Access} {q : State} {v : DWord}

theorem State.accessAt_load_done (near : a.near = true) {size : BitVec 2} {signed : Bool} (load : a.kind = .load size signed)
    (done : s.atHome t j pa (2 ^ size.toNat) false a.data = .done q v) :
    s.accessAt t j a pa = .ok (q.updThread t (·.writeLoad j.n (some (j.k + 4)) a.rd size signed v)) := by
  rw [State.atHome] at done
  simp only [State.accessAt, near, load, if_true, SplitKind.size, done]

theorem State.accessAt_store_done (near : a.near = true) {size : BitVec 2} (store : a.kind = .store size)
    (done : s.atHome t j pa (2 ^ size.toNat) true a.data = .done q v) : s.accessAt t j a pa = .ok q := by
  rw [State.atHome] at done
  simp only [State.accessAt, near, store, if_true, SplitKind.size, done]

end AtHome

/-! ## The issue of a near access that is done -/

@[simp] theorem Thread.writeLoad_dbgReq (th : Thread) (n : Nat) (due : Option Nat) (rd : GReg) (size : BitVec 2) (signed : Bool)
    (v : DWord) : (th.writeLoad n due rd size signed v).dbgReq = th.dbgReq := by
  unfold Thread.writeLoad; dsimp only; split <;> simp

@[simp] theorem Thread.writeLoad_moveReq (th : Thread) (n : Nat) (due : Option Nat) (rd : GReg) (size : BitVec 2) (signed : Bool)
    (v : DWord) : (th.writeLoad n due rd size signed v).moveReq = th.moveReq := by
  unfold Thread.writeLoad; dsimp only; split <;> simp

section Near
variable {s : State} {t : Tid} {w : Word} {rd rs1 : GReg} {imm : BitVec 15} {size : BitVec 2} {pa : Nat} {b a : State} {v : DWord}
  (runs : s.runs t w = true) (only : OnlyThread b a t (s.seen t w))
include runs only

theorem issue_nearLoad_done {signed : Bool}
    (reaches : s.reaches t w true (.load size signed) ((s.seen t w).read s.free rs1 + imm.signExtend 32) = some pa)
    (done : (s.armed t w).atHome t { n := s.free, k := s.issueClock t w, x := s.threadCtx t } pa (2 ^ size.toNat) false 0 =
      .done a v) :
    ∃ s', issue t w (nearLoad t rd rs1 imm size signed) s = .next s' ∧ OnlyThread b s' t
      ((s.seen t w).writeLoad s.free (some (s.issueClock t w + 4)) rd size signed v).advance := by
  obtain ⟨noStop, noMove⟩ := State.runs_quiet runs
  refine issue_ok runs ?_ (only.thread_upd (·.writeLoad s.free (some (s.issueClock t w + 4)) rd size signed v)) (by simp [noStop])
    (by simp [noMove])
  exact (accessBody_of_reaches reaches).trans (State.accessAt_load_done rfl rfl done)

theorem issue_nearStore_done
    (reaches : s.reaches t w true (.store size) ((s.seen t w).read s.free rs1 + imm.signExtend 32) = some pa)
    (done : (s.armed t w).atHome t { n := s.free, k := s.issueClock t w, x := s.threadCtx t } pa (2 ^ size.toNat) true
      (storeData rd size (s.seen t w) s.free) = .done a v) :
    ∃ s', issue t w (nearStore t rd rs1 imm size) s = .next s' ∧ OnlyThread b s' t (s.seen t w).advance := by
  obtain ⟨noStop, noMove⟩ := State.runs_quiet runs
  refine issue_ok runs ?_ only (by simp [noStop]) (by simp [noMove])
  exact (accessBody_of_reaches reaches).trans (State.accessAt_store_done rfl rfl done)

end Near

end Sys2Proof.Machine
end

section
/-! PROOFS. What a thread of a steward has come to shows in no register, and an access of a steward outside the banks
leaves the threads out (00 R12, 06 R182, 10 R290). -/

namespace Sys2Proof.Machine

/-! ## Entries that a filter drops -/

theorem Map.filter_set {α : Type} {p : Nat × α → Bool} {k : Nat} (drops : ∀ v, p (k, v) = false) (m : Map α) (v : α) :
    (Map.set m k v).filter p = m.filter p := by
  induction m with
  | nil => simp [Map.set, drops]
  | cons e m ih =>
    obtain ⟨j, w⟩ := e
    simp only [Map.set]
    split
    · simp only [List.filter_cons, drops, Bool.false_eq_true, if_false]
    · split
      · next same => simp only [List.filter_cons, ← same, drops, Bool.false_eq_true, if_false]
      · simp only [List.filter_cons, ih]

/-! ## The census of a context -/

section Census
variable {t : Tid} (steward : isSteward t = true) (s : State) (f : Thread → Thread)
include steward

theorem ne_of_fabric {u : Tid} (fabric : isSteward u = false) : u ≠ t := by
  rintro rfl
  rw [steward] at fabric
  cases fabric

theorem State.threadCtx_updSteward {u : Tid} (fabric : isSteward u = false) : (s.updThread t f).threadCtx u = s.threadCtx u := by
  rw [State.threadCtx, State.thread_updThread_other _ (ne_of_fabric steward fabric), State.cluster_updThread, ← State.threadCtx]

/-- Threads picked for what they are, of those that are no steward's: a change of a steward's thread picks the same. -/
theorem State.filter_updSteward {p q : Tid → Thread → Bool}
    (agree : ∀ u th, isSteward u = false → p u th = q u th) :
    ((s.updThread t f).threads.filter fun e => !isSteward (BitVec.ofNat 13 e.1) && p (BitVec.ofNat 13 e.1) e.2) =
      s.threads.filter fun e => !isSteward (BitVec.ofNat 13 e.1) && q (BitVec.ofNat 13 e.1) e.2 := by
  have same : (fun e : Nat × Thread => !isSteward (BitVec.ofNat 13 e.1) && p (BitVec.ofNat 13 e.1) e.2) =
      fun e => !isSteward (BitVec.ofNat 13 e.1) && q (BitVec.ofNat 13 e.1) e.2 := by
    funext e
    cases fabric : isSteward (BitVec.ofNat 13 e.1) with
    | true => rfl
    | false => rw [agree _ _ fabric]
  rw [same, State.updThread_threads, Map.upd, Map.filter_set]
  intro th
  rw [BitVec.ofNat_toNat, BitVec.setWidth_eq, steward]
  rfl

theorem State.stalled_updSteward (c : ClusterId) (x : CtxId) : (s.updThread t f).stalled c x = s.stalled c x := by
  rw [State.stalled, State.stalled, List.countP_eq_length_filter, List.countP_eq_length_filter]
  simp only [Bool.and_assoc]
  refine congrArg List.length (s.filter_updSteward steward f
    (p := fun u th => tCluster u == c && (th.work.isSome && ((s.updThread t f).threadCtx u == x &&
      match th.wait with | .reel _ => true | .park _ => true | _ => false)))
    (q := fun u th => tCluster u == c && (th.work.isSome && (s.threadCtx u == x &&
      match th.wait with | .reel _ => true | .park _ => true | _ => false))) fun u th fabric => ?_)
  rw [s.threadCtx_updSteward steward f fabric]

theorem State.threadsOf_updSteward (x : CtxId) : (s.updThread t f).threadsOf x = s.threadsOf x := by
  rw [State.threadsOf, State.threadsOf]
  simp only [Bool.and_assoc]
  refine congrArg (List.map fun e => BitVec.ofNat 13 e.1) (s.filter_updSteward steward f
    (p := fun u th => th.work.isSome && (s.updThread t f).threadCtx u == x) (q := fun u th => th.work.isSome && s.threadCtx u == x)
    fun u th fabric => ?_)
  rw [s.threadCtx_updSteward steward f fabric]

omit steward in
theorem State.fabric_of_mem_threadsAt {s : State} {c : ClusterId} {x : CtxId} {u : Tid} (mem : u ∈ s.threadsAt c x) :
    isSteward u = false := by
  obtain ⟨e, listed, rfl⟩ := List.mem_map.mp (List.mem_filter.mp mem).1
  have picked := (List.mem_filter.mp listed).2
  simp only [Bool.and_eq_true, Bool.not_eq_true'] at picked
  exact picked.1.1

theorem State.threadsAt_updSteward (c : ClusterId) (x : CtxId) : (s.updThread t f).threadsAt c x = s.threadsAt c x := by
  rw [State.threadsAt, State.threadsOf_updSteward steward, State.threadsAt]

theorem State.cdRun_updSteward (c : ClusterId) (x : CtxId) : (s.updThread t f).cdRun c x = s.cdRun c x := by
  rw [State.cdRun, State.threadsAt_updSteward steward, State.cdRun]
  refine List.countP_congr fun u mem => ?_
  have other := ne_of_fabric steward (State.fabric_of_mem_threadsAt mem)
  simp only [State.restsBlocked, State.taskOf, State.thread_updThread_other _ other, State.cluster_updThread]

theorem State.cdBlocked_updSteward (c : ClusterId) (x : CtxId) : (s.updThread t f).cdBlocked c x = s.cdBlocked c x := by
  rw [State.cdBlocked, State.threadsAt_updSteward steward, State.cdBlocked, State.cluster_updThread]
  refine congrArg _ (List.countP_congr fun u mem => ?_)
  have other := ne_of_fabric steward (State.fabric_of_mem_threadsAt mem)
  simp only [State.taskOf, State.thread_updThread_other _ other]

theorem State.cdDbg_updSteward (c : ClusterId) (x : CtxId) : (s.updThread t f).cdDbg c x = s.cdDbg c x := by
  rw [State.cdDbg, State.threadsAt_updSteward steward, State.cdDbg, State.cluster_updThread]
  refine congrArg (· || _) (Bool.eq_iff_iff.mpr ?_)
  simp only [List.any_eq_true]
  refine exists_congr fun u => and_congr_right fun mem => ?_
  rw [State.thread_updThread_other _ (ne_of_fabric steward (State.fabric_of_mem_threadsAt mem))]

theorem State.cdResWord_updSteward (c : ClusterId) (n : Nat) : (s.updThread t f).cdResWord c n = s.cdResWord c n := by
  have ready (x : CtxId) : (s.updThread t f).cdReady c x = s.cdReady c x := rfl
  simp only [State.cdResWord, State.cluster_updThread, State.cdDbg_updSteward steward, State.stalled_updSteward steward,
    State.cdBlocked_updSteward steward, State.cdRun_updSteward steward, ready]

/-! ## Registers -/

theorem State.ctxRegs_updSteward (x : CtxId) : (s.updThread t f).ctxRegs x = s.ctxRegs x := by
  have position (c : ClusterId) : (s.updThread t f).positionRegs c x = s.positionRegs c x := by
    simp only [State.positionRegs, State.cluster_updThread, State.cdResWord_updSteward steward]
    rfl
  simp only [State.ctxRegs, position]
  rfl

omit steward in
theorem State.bar0Word_updThread (g : FuncId) (o : Nat) : (s.updThread t f).bar0Word g o = s.bar0Word g o := by
  have mbStatus : (s.updThread t f).mbStatus g = s.mbStatus g := rfl
  have ringWord (r : RingId) (o : Nat) : (s.updThread t f).ringWord g r o = s.ringWord g r o := rfl
  have msix : (s.updThread t f).msix g = s.msix g := rfl
  have kprWord (p : BitVec 2) (k : Nat) : (s.updThread t f).kprWord p k = s.kprWord p k := rfl
  rw [State.bar0Word, State.mbox_updThread, mbStatus, ringWord, msix, kprWord, State.updThread_hub, State.bar0Word]

/-- Every register reads the same, and a read clears the same, whatever a thread of a steward has come to. -/
theorem State.regRead_updSteward (n : DevReg) : (s.updThread t f).regRead n = s.regRead n := by
  cases n with
  | context x k => exact congrArg (List.getD · k (.keep 0)) (s.ctxRegs_updSteward steward f x)
  | rw r =>
    cases r with
    | cdRes c n => exact congrArg StatReg.keep (s.cdResWord_updSteward steward f c n.toNat)
    | _ => rfl
  | bar0 g o => rw [State.regRead, State.bar0Word_updThread, State.regRead]
  | _ => rfl

end Census

/-! ## What a read clears -/

/-- A state with other threads. -/
def State.withThreads (s : State) (threads : Map Thread) : State := { s with threads := threads }

/-- What a read of the register clears is no thread's and follows from none. -/
def StatReg.LeavesThreads (r : StatReg) : Prop :=
  ∀ (s : State) (m : Map Thread), r.clear (s.withThreads m) = (r.clear s).withThreads m

theorem StatReg.leavesThreads_keep (v : DWord) : (StatReg.keep v).LeavesThreads := fun _ _ => rfl

theorem leavesThreads_getD {l : List StatReg} (each : ∀ r ∈ l, r.LeavesThreads) (k : Nat) : (l.getD k (.keep 0)).LeavesThreads := by
  rw [List.getD_eq_getElem?_getD]
  cases found : l[k]? with
  | none => exact StatReg.leavesThreads_keep 0
  | some r => exact each r (List.mem_of_getElem? found)

section Registers
variable (s : State)

theorem State.leavesThreads_flowRegs (n : BitVec 14) : ∀ r ∈ s.flowRegs n, r.LeavesThreads := by
  simp only [State.flowRegs, List.forall_mem_cons]
  exact ⟨fun _ _ => rfl, fun _ _ => rfl, nofun⟩

theorem State.leavesThreads_positionRegs (c : ClusterId) (x : CtxId) : ∀ r ∈ s.positionRegs c x, r.LeavesThreads := by
  unfold State.positionRegs State.tornRegs
  dsimp only
  split
  · simp only [List.forall_mem_cons]
    exact ⟨fun _ _ => rfl, fun _ _ => rfl, fun _ _ => rfl, nofun⟩
  · simp only [List.forall_mem_append, List.forall_mem_cons, List.forall_mem_flatMap, List.forall_mem_map]
    exact ⟨⟨fun _ _ => rfl, fun _ _ => rfl, fun _ _ => rfl, nofun⟩, fun _ _ _ _ _ _ => rfl⟩

theorem State.leavesThreads_ctxRegs (x : CtxId) : ∀ r ∈ s.ctxRegs x, r.LeavesThreads := by
  simp only [State.ctxRegs, List.forall_mem_append, List.forall_mem_cons, List.forall_mem_flatMap]
  exact ⟨⟨fun _ _ => rfl, fun _ _ => rfl, fun _ _ => rfl, fun _ _ => rfl, nofun⟩, fun c _ => s.leavesThreads_positionRegs c x⟩

theorem State.leavesThreads_peRegs (c : ClusterId) (v : Pe → DWord) (z : Pe → Pe) : ∀ r ∈ s.peRegs c v z, r.LeavesThreads := by
  simp only [State.peRegs, List.forall_mem_map]
  exact fun _ _ _ _ => rfl

theorem State.leavesThreads_bankRegs (c : ClusterId) (v : Bank → Word) (z : Bank → Bank) :
    ∀ r ∈ s.bankRegs c v z, r.LeavesThreads := by
  simp only [State.bankRegs, List.forall_mem_map]
  exact fun _ _ _ _ => rfl

theorem leavesThreads_clReg (c : ClusterId) (v : Word) (z : Cluster → Cluster) : (clReg c v z).LeavesThreads := fun _ _ => rfl

theorem State.leavesThreads_countRegs (c : ClusterId) : ∀ r ∈ s.countRegs c, r.LeavesThreads := by
  simp only [State.countRegs, List.forall_mem_append, List.forall_mem_map, List.forall_mem_cons, leavesThreads_clReg,
    List.not_mem_nil, false_imp_iff, implies_true, and_self]

theorem State.leavesThreads_clusterRegs (c : ClusterId) : ∀ r ∈ s.clusterRegs c, r.LeavesThreads := by
  simp only [State.clusterRegs, State.depthRegs, State.spdRegs, List.forall_mem_append, List.forall_mem_map, List.forall_mem_flatMap]
  have pe := s.leavesThreads_peRegs c
  have bank := s.leavesThreads_bankRegs c
  exact ⟨⟨⟨⟨⟨⟨⟨⟨fun _ _ _ _ => rfl, pe _ _⟩, pe _ _⟩, pe _ _⟩, pe _ _⟩, pe _ _⟩, pe _ _⟩, s.leavesThreads_countRegs c⟩,
    ⟨⟨⟨⟨⟨fun _ _ _ _ _ _ => rfl, bank _ _⟩, bank _ _⟩, bank _ _⟩, bank _ _⟩, bank _ _⟩⟩

theorem State.leavesThreads_routerRegs (n : BitVec 4) : ∀ r ∈ s.routerRegs n, r.LeavesThreads := by
  simp only [State.routerRegs, List.forall_mem_cons]
  exact ⟨fun _ _ => rfl, fun _ _ => rfl, fun _ _ => rfl, fun _ _ => rfl, fun _ _ => rfl, fun _ _ => rfl, fun _ _ => rfl,
    fun _ _ => rfl, fun _ _ => rfl, fun _ _ => rfl, nofun⟩

theorem State.leavesThreads_ethCnt (p : BitVec 2) (k : Nat) : (s.ethCnt p k).LeavesThreads := by
  unfold State.ethCnt
  dsimp only
  split <;> exact fun _ _ => rfl

theorem State.leavesThreads_rwRead (n : RegName) : (s.rwRead n).LeavesThreads := by
  cases n with
  | clkXing d =>
    intro a m
    simp only [State.rwRead, State.xingReg]
    split <;> rfl
  | _ => exact fun _ _ => rfl

theorem State.leavesThreads_regRead (n : DevReg) : (s.regRead n).LeavesThreads := by
  cases n with
  | rw n => exact s.leavesThreads_rwRead n
  | context x k => exact leavesThreads_getD (s.leavesThreads_ctxRegs x) k
  | flow f k => exact leavesThreads_getD (s.leavesThreads_flowRegs f) k
  | cluster c k => exact leavesThreads_getD (s.leavesThreads_clusterRegs c) k
  | router r k => exact leavesThreads_getD (s.leavesThreads_routerRegs r) k
  | ethCnt p k => exact s.leavesThreads_ethCnt p k.toNat
  | _ => exact fun _ _ => rfl

end Registers

/-! ## Accesses of a steward outside the banks -/

/-- An access that goes the same way, at the state that `g` gives. -/
def NearResult.mapState (g : State → State) : NearResult → NearResult
  | .done s v => .done (g s) v
  | .fault s cause => .fault (g s) cause
  | .wait s => .wait (g s)

theorem State.mgmtRecord_withThreads (s : State) (m : Map Thread) (code : BitVec 16) (cause : Byte) (detail : DWord) :
    (s.withThreads m).mgmtRecord code cause detail = (s.mgmtRecord code cause detail).withThreads m := by
  show (if s.fwRuns then _ else if s.keeper.keeper then _ else _) = State.withThreads (if s.fwRuns then _ else _) m
  split
  · rfl
  · split <;> rfl

theorem State.store_withThreads (s : State) (m : Map Thread) (a n v : Nat) :
    (s.withThreads m).store a n v = (s.store a n v).withThreads m := by
  unfold State.store
  split <;> rfl

section Outside
variable {s : State} {m : Map Thread} (reads : ∀ n, (s.withThreads m).regRead n = s.regRead n)
include reads

theorem State.nowhere_withThreads (pa : Nat) (store : Bool) :
    (s.withThreads m).nowhere pa store = ((s.nowhere pa store).1.withThreads m, (s.nowhere pa store).2) := by
  unfold State.nowhere
  split
  · split
    · rfl
    · rw [reads, s.leavesThreads_regRead]
      rfl
  · exact Prod.ext (s.takeFree.mgmtRecord_withThreads m ..) rfl

/-- Where the registers read the same, an access outside the banks goes the same way and leaves the threads out. -/
theorem State.stewardAt_withThreads (pa size : Nat) (store : Bool) (data : DWord) :
    (s.withThreads m).stewardAt pa size store data = (s.stewardAt pa size store data).mapState (·.withThreads m) := by
  have bad : (s.withThreads m).bad pa = s.bad pa := rfl
  rw [State.stewardAt, State.stewardAt, bad]
  split
  · split
    · rfl
    · split
      · rw [State.store_withThreads]; rfl
      · rfl
  · split
    · split <;> rfl
    · rw [State.nowhere_withThreads reads]; rfl

end Outside

/-- An access of a steward outside the banks goes the same way whatever the thread of the steward has come to, and leaves every thread
as it is. -/
theorem State.stewardAt_updSteward {s q : State} {t : Tid} {pa size : Nat} {store : Bool} {data v : DWord}
    (steward : isSteward t = true) (f : Thread → Thread) (done : s.stewardAt pa size store data = .done q v) :
    (s.updThread t f).stewardAt pa size store data = .done (q.updThread t f) v ∧ q.thread t = s.thread t := by
  have same : s.stewardAt pa size store data = (s.stewardAt pa size store data).mapState (·.withThreads s.threads) :=
    State.stewardAt_withThreads (m := s.threads) (fun _ => rfl) pa size store data
  have threads : q.threads = s.threads := by
    rw [done] at same
    injection same with same
    rw [same]
    rfl
  refine ⟨?_, ?_⟩
  · rw [State.updThread, State.updThread, threads]
    exact (State.stewardAt_withThreads (s.regRead_updSteward steward f) pa size store data).trans (congrArg _ done)
  · rw [State.thread, threads, ← State.thread]

end Sys2Proof.Machine
end

section
/-! PROOFS. Near loads read and near stores write the bytes at their address, at the bank that answers them or, for a steward,
outside the banks (07 R224, R225, 08 R239). -/

namespace Sys2Proof.Machine

/-- A steward's word that presents an access outside the banks: done in `q`, which is as before the issue but for its thread. -/
theorem State.atHome_armed_of_steward {s q : State} {t : Tid} {w : Word} {j : Iss} {pa size : Nat} {store : Bool} {data v : DWord}
    (steward : isSteward t = true) (outside : inBanks pa = false) (done : s.takeFree.stewardAt pa size store data = .done q v) :
    ∃ a, (s.armed t w).atHome t j pa size store data = .done a v ∧ OnlyThread q a t (s.seen t w) := by
  let land (th : Thread) : Thread := { th.landTo (s.issueClock t w) with cur := w, lastIssue := s.issueClock t w }
  obtain ⟨goes, thread⟩ := State.stewardAt_updSteward steward land done
  have sees : land (q.thread t) = s.seen t w := congrArg land thread
  refine ⟨q.updThread t land, ?_, sees ▸ (OnlyThread.refl q t).thread_upd land⟩
  rw [State.atHome_of_steward steward outside, State.armed_of_steward s w steward]
  exact goes

section Forms
variable {t : Tid} {rd rs1 : GReg} {imm : BitVec 15} {s : State} {pa : Nat}

theorem exec_nearLoad_eq_issue {p : Instr × BitVec 6 × BitVec 2 × Bool} (form : p ∈ nearLoadForms t rd rs1 imm) (s : State) :
    exec p.1 s = issue t (wLI p.2.1 rd rs1 imm) (nearLoad t rd rs1 imm p.2.2.1 p.2.2.2) s := by
  simp only [nearLoadForms, List.mem_cons, List.not_mem_nil, or_false] at form
  obtain rfl | rfl | rfl | rfl | rfl | rfl := form <;> rfl

theorem exec_nearStore_eq_issue {p : Instr × BitVec 6 × BitVec 2} (form : p ∈ nearStoreForms t rd rs1 imm) (s : State) :
    exec p.1 s = issue t (wLI p.2.1 rd rs1 imm) (nearStore t rd rs1 imm p.2.2) s := by
  simp only [nearStoreForms, List.mem_cons, List.not_mem_nil, or_false] at form
  obtain rfl | rfl | rfl | rfl := form <;> rfl

variable {w : Word} {size : BitVec 2}

/-- Taking port A of a bank goes beside an issue. -/
theorem OnlyThread.armed_takePortA (s : State) (t : Tid) (w : Word) (k pa : Nat) :
    OnlyThread (s.takePortA t k pa) ((s.armed t w).takePortA t k pa) t (s.seen t w) :=
  (OnlyThread.armed s t w).beside (g := (·.takePortA t k pa)) fun x _ _ _ => by
    unfold State.takePortA; split <;> rfl

/-- A near load that is answered at its bank reads the bytes at its address. -/
theorem issue_nearLoad_at_bank {signed : Bool} (runs : s.runs t w = true)
    (reaches : s.reaches t w true (.load size signed) ((s.seen t w).read s.free rs1 + imm.signExtend 32) = some pa)
    (answers : s.bankAnswers t pa false = true) :
    ∃ s', issue t w (nearLoad t rd rs1 imm size signed) s = .next s' ∧
      OnlyThread (s.takePortA t (s.issueClock t w) pa) s' t
        ((s.seen t w).writeLoad s.free (some (s.issueClock t w + 4)) rd size signed
          (BitVec.ofNat 64 (s.rd pa (2 ^ size.toNat)))).advance := by
  have bytes : (s.armed t w).rd pa (2 ^ size.toNat) = s.rd pa (2 ^ size.toNat) := by
    rw [State.rd, (OnlyThread.armed s t w).mem, State.rd]
  have done := State.atHome_of_bankAnswers (size := 2 ^ size.toNat) (store := false)
    ((s.bankAnswers_armed t w pa false).trans answers) nofun s.free (s.issueClock t w) 0
  rw [State.threadCtx_armed, bytes] at done
  exact issue_nearLoad_done runs (OnlyThread.armed_takePortA ..) reaches done

/-- A near store that is answered at its bank writes its bytes at its address. -/
theorem issue_nearStore_at_bank (runs : s.runs t w = true)
    (reaches : s.reaches t w true (.store size) ((s.seen t w).read s.free rs1 + imm.signExtend 32) = some pa)
    (answers : s.bankAnswers t pa (size == 3) = true) :
    ∃ s', issue t w (nearStore t rd rs1 imm size) s = .next s' ∧
      OnlyThread (((s.takePortA t (s.issueClock t w) pa).wr pa (2 ^ size.toNat)
        (storeData rd size (s.seen t w) s.free).toNat).setBad pa false) s' t (s.seen t w).advance := by
  have replaces (whole : (size == 3) = true) : true = true ∧ 2 ^ size.toNat = 8 := by
    rw [beq_iff_eq.mp whole]; exact ⟨rfl, rfl⟩
  have done := State.atHome_of_bankAnswers (store := true) ((s.bankAnswers_armed t w pa _).trans answers) replaces s.free
    (s.issueClock t w) (storeData rd size (s.seen t w) s.free)
  rw [State.threadCtx_armed] at done
  exact issue_nearStore_done runs ((OnlyThread.armed_takePortA ..).beside
    (g := fun x => (x.wr pa (2 ^ size.toNat) (storeData rd size (s.seen t w) s.free).toNat).setBad pa false) fun _ _ _ _ => rfl)
    reaches done

end Forms

/-- Settles O8: the bank's answer, or for a steward that of what is elsewhere, is what the word ends with; the bytes of a store are in
memory by `Memory.read_write` and `Memory.get_write_other`. -/
theorem nearAccessesReadAndWrite : Obligations.NearAccessesReadAndWrite := by
  refine ⟨fun t rd rs1 imm p form s pa => ?load, fun t rd rs1 imm p form s pa => ?store⟩
  case load =>
    intro w runs th size reaches
    rw [exec_nearLoad_eq_issue form]
    refine ⟨fun answers => issue_nearLoad_at_bank runs reaches answers, fun steward outside q v done => ?_⟩
    obtain ⟨a, done', only⟩ := State.atHome_armed_of_steward steward outside done
    exact issue_nearLoad_done runs only reaches done'
  case store =>
    intro w runs wf th size n data reaches
    rw [exec_nearStore_eq_issue form]
    refine ⟨fun answers => ?_, fun steward outside q v done => ?_⟩
    · obtain ⟨s', stores, only⟩ := issue_nearStore_at_bank runs reaches answers
      have mem : s'.mem = Memory.write s.mem pa n data := by
        rw [only.mem, State.setBad_mem, State.wr, State.takePortA_mem]
      refine ⟨s', stores, only, ?_, fun a outside => ?_⟩
      · rw [State.rd, mem, Memory.read_write wf]
      · rw [mem, Memory.get_write_other wf _ outside]
    · obtain ⟨a, done', only⟩ := State.atHome_armed_of_steward steward outside done
      exact issue_nearStore_done runs only reaches done'

end Sys2Proof.Machine
end

section
/-! SUPPORT. What leaves a router input alone: the units that watch a flit or settle behind it touch no packet of another input, no
inbound couch and no count of lost or unroutable worms (11 R320, R322, R326, R328, R332, R335). -/

namespace Sys2Proof.Machine

/-! ## Inputs and their numbers -/

/-- No two inputs of the routers have one number. -/
theorem bufKey_inj {r q : BitVec 4} {i j : Nat} {v w : BitVec 2} (hi : i < 16) (hj : j < 16) (same : bufKey r i v = bufKey q j w) :
    r = q ∧ i = j ∧ v = w := by
  have := v.isLt
  have := w.isLt
  have eq : 64 * r.toNat + 4 * i + v.toNat = 64 * q.toNat + 4 * j + w.toNat := same
  exact ⟨BitVec.eq_of_toNat_eq (by omega), by omega, BitVec.eq_of_toNat_eq (by omega)⟩

/-- Input `k` is not the couch of a control endpoint by which the probes write to HBM (11 R335, log 144). -/
def OffTrace (k : Nat) : Prop := ∀ r : BitVec 4, k ≠ bufKey r 12 1

theorem offTrace_bufKey {port : Nat} {vc : BitVec 2} (r : BitVec 4) (valid : port ≤ 12) (off : port < 12 ∨ vc ≠ 1) :
    OffTrace (bufKey r port vc) := fun q same => by
  obtain ⟨-, port12, vc1⟩ := bufKey_inj (by omega) (by omega) same
  exact off.elim (by omega) (· vc1)

/-- A packet arrives by one of the four ports of the mesh. -/
theorem arrivesAt_lt (d : Nat) : arrivesAt d < 4 := Nat.mod_lt _ (by decide)

/-- A neighbour is another router. -/
theorem ofNat_neighbour_ne {r : BitVec 4} {d q : Nat} (next : neighbour r.toNat d = some q) : BitVec.ofNat 4 q ≠ r := fun same => by
  have := r.isLt
  have q_eq : q % 16 = r.toNat := by rw [← same, BitVec.toNat_ofNat]
  unfold neighbour at next
  dsimp only at next
  split at next
  all_goals
    split at next
    case isTrue edge => cases next
    case isFalse inside =>
      injection next with next
      omega

/-! ## What is left alone -/

/-- What stands at input `k` or waits for it, the inbound couches, and what the routers count of lost and unroutable worms stay. -/
structure Spine.KeepsInput (k : Nat) (n n' : Spine) : Prop where
  buf : n'.bufs.getD k [] = n.bufs.getD k []
  waits : n'.waits.getD k [] = n.waits.getD k []
  inq : n'.inq = n.inq
  ue : ∀ q, (n'.routers.getD q (Router.reset q)).ue = (n.routers.getD q (Router.reset q)).ue
  unroute : ∀ q, (n'.routers.getD q (Router.reset q)).unroute = (n.routers.getD q (Router.reset q)).unroute

/-- The same of a whole state, with memory and the threads. -/
structure State.KeepsInput (k : Nat) (s s' : State) : Prop where
  spine : s.spine.KeepsInput k s'.spine
  mem : s'.mem = s.mem
  threads : s'.threads = s.threads

variable {k : Nat}

theorem Spine.KeepsInput.refl (n : Spine) : n.KeepsInput k n := ⟨rfl, rfl, rfl, fun _ => rfl, fun _ => rfl⟩

theorem Spine.KeepsInput.trans {a b c : Spine} (h : a.KeepsInput k b) (g : b.KeepsInput k c) : a.KeepsInput k c :=
  ⟨g.buf.trans h.buf, g.waits.trans h.waits, g.inq.trans h.inq, fun q => (g.ue q).trans (h.ue q),
    fun q => (g.unroute q).trans (h.unroute q)⟩

theorem State.KeepsInput.refl (s : State) : s.KeepsInput k s := ⟨.refl _, rfl, rfl⟩

theorem State.KeepsInput.trans {a b c : State} (h : a.KeepsInput k b) (g : b.KeepsInput k c) : a.KeepsInput k c :=
  ⟨h.spine.trans g.spine, g.mem.trans h.mem, g.threads.trans h.threads⟩

theorem State.keepsInput_updSpine {s : State} {f : Spine → Spine} (h : s.spine.KeepsInput k (f s.spine)) :
    s.KeepsInput k (s.updSpine f) := ⟨h, rfl, rfl⟩

theorem State.KeepsInput.buf_eq {s s' : State} {r : BitVec 4} {port : Nat} {vc : BitVec 2} (h : s.KeepsInput (bufKey r port vc) s') :
    s'.buf r port vc = s.buf r port vc := h.spine.buf

theorem State.KeepsInput.ue_eq {s s' : State} (h : s.KeepsInput k s') (r : BitVec 4) : (s'.router r).ue = (s.router r).ue :=
  h.spine.ue r.toNat

theorem State.KeepsInput.unroute_eq {s s' : State} (h : s.KeepsInput k s') (r : BitVec 4) :
    (s'.router r).unroute = (s.router r).unroute := h.spine.unroute r.toNat

/-! ## Routers -/

/-- A field that a change of one router keeps is the same at every router. -/
theorem Map.getD_upd_keeps {α β : Type} (m : Map α) (k : Nat) (d : Nat → α) (f : α → α) (g : α → β) (keeps : ∀ a, g (f a) = g a)
    (j : Nat) : g ((m.upd k (d k) f).getD j (d j)) = g (m.getD j (d j)) := by
  by_cases same : j = k
  · rw [same, Map.getD_upd_same, keeps]
  · rw [Map.getD_upd_other _ same]

/-- Of a router, all but its counts of lost and unroutable worms may change. -/
theorem Spine.keepsInput_routers (n : Spine) (r : Nat) (f : Router → Router) (ue : ∀ t, (f t).ue = t.ue)
    (unroute : ∀ t, (f t).unroute = t.unroute) : n.KeepsInput k { n with routers := n.routers.upd r (Router.reset r) f } :=
  ⟨rfl, rfl, rfl, n.routers.getD_upd_keeps r Router.reset f Router.ue ue,
    n.routers.getD_upd_keeps r Router.reset f Router.unroute unroute⟩

theorem State.keepsInput_updRouter (s : State) (r : BitVec 4) (f : Router → Router) (ue : ∀ t, (f t).ue = t.ue)
    (unroute : ∀ t, (f t).unroute = t.unroute) : s.KeepsInput k (s.updRouter r f) :=
  State.keepsInput_updSpine (s.spine.keepsInput_routers r.toNat f ue unroute)

theorem State.keepsInput_updLink (s : State) (r : BitVec 4) (d : Nat) (f : Link → Link) : s.KeepsInput k (s.updLink r d f) :=
  s.keepsInput_updRouter r _ (fun _ => rfl) fun _ => rfl

@[simp] theorem State.router_updRouter_same (s : State) (r : BitVec 4) (f : Router → Router) :
    (s.updRouter r f).router r = f (s.router r) := Map.getD_upd_same ..

/-! ## Probes (11 R334, R335) -/

/-- A change of the probes alone. -/
theorem Spine.keepsInput_setProbe (n : Spine) (i : Nat) (p : Probe) : n.KeepsInput k { n with probes := n.probes.set i p } :=
  ⟨rfl, rfl, rfl, fun _ => rfl, fun _ => rfl⟩

theorem Spine.keepsInput_store (n : Spine) (i : Nat) (p : Probe) (v : BitVec 256) : n.KeepsInput k (n.store i p v) := by
  unfold Spine.store
  split
  · exact ⟨rfl, rfl, rfl, fun _ => rfl, fun _ => rfl⟩
  · split <;> exact ⟨rfl, rfl, rfl, fun _ => rfl, fun _ => rfl⟩

/-- The records of a probe go to the shared buffer, or as trace writes into the couch of the control endpoint. -/
theorem Spine.keepsInput_drain (off : OffTrace k) (i left : Nat) (n : Spine) : n.KeepsInput k (n.drain i left) := by
  induction left generalizing n with
  | zero => exact .refl n
  | succ left ih =>
    unfold Spine.drain
    dsimp only
    split
    case isTrue toHbm =>
      split
      case h_1 =>
        split
        case isTrue room =>
          refine .trans ?_ (ih _)
          refine ⟨?_, rfl, rfl, fun _ => rfl, fun _ => rfl⟩
          dsimp only
          exact Map.getD_upd_other _ (off _) ..
        case isFalse => exact .refl n
      case h_2 => exact .refl n
    case isFalse toBuffer =>
      split
      case h_1 => exact ((n.keepsInput_setProbe ..).trans (Spine.keepsInput_store ..)).trans (ih _)
      case h_2 => exact .refl n

theorem Spine.keepsInput_probe (off : OffTrace k) (n : Spine) (sc i : Nat) (out : Bool) (port : Nat) (q : Packet) (j : Nat)
    (seq seq0 : BitVec 5) (cap : Capture) : n.KeepsInput k (n.probe sc i out port q j seq seq0 cap) := by
  unfold Spine.probe
  dsimp only
  split
  case isFalse passes => exact .refl n
  case isTrue hits =>
    split
    · exact n.keepsInput_setProbe ..
    · split
      · exact n.keepsInput_setProbe ..
      · split
        · exact n.keepsInput_setProbe ..
        · exact (n.keepsInput_setProbe ..).trans (Spine.keepsInput_drain off ..)

theorem State.keepsInput_probes (off : OffTrace k) (s : State) (r : BitVec 4) (out : Bool) (port : Nat) (q : Packet) (i : Nat)
    (seq seq0 : BitVec 5) (cap : Capture) : s.KeepsInput k (s.probes r out port q i seq seq0 cap) :=
  State.keepsInput_updSpine ((Spine.keepsInput_probe off ..).trans (Spine.keepsInput_probe off ..))

/-! ## What settles behind a hop (11 R328, R332) -/

theorem State.keepsInput_runEp (r : BitVec 4) (l : List Word) (s : State) : s.KeepsInput k (State.runEp r l s) := by
  induction l generalizing s with
  | nil => exact s.keepsInput_updRouter _ _ (fun _ => rfl) fun _ => rfl
  | cons v l ih =>
    unfold State.runEp
    split
    · refine .trans ?_ (ih _)
      exact s.keepsInput_updRouter _ _ (fun _ => rfl) fun _ => rfl
    · exact s.keepsInput_updRouter _ _ (fun _ => rfl) fun _ => rfl

theorem State.keepsInput_retryEp (s : State) (r : BitVec 4) : s.KeepsInput k (s.retryEp r) := by
  unfold State.retryEp
  split
  · exact .refl s
  · exact State.keepsInput_runEp ..

theorem State.keepsInput_event (s : State) (f : FuncId) (code : BitVec 16) (object : Nat) (value : DWord) :
    s.KeepsInput k (s.event f code object value) := by
  obtain ⟨rings, eq⟩ := s.event_eq f code object value
  rw [eq]
  exact ⟨.refl _, rfl, rfl⟩

theorem Spine.keepsInput_doWrite (n : Spine) (w : RtWrite) : n.KeepsInput k (n.doWrite w) := by
  cases w with
  | rerouted q d => exact .refl n
  | flip => exact ⟨rfl, rfl, rfl, fun _ => rfl, fun _ => rfl⟩
  | bank r b v =>
    simp only [Spine.doWrite]
    split
    · exact .refl n
    · exact n.keepsInput_routers _ _ (fun t => by cases b <;> rfl) (fun t => by cases b <;> rfl)

/-- The routing-table writes that waited change banks, CUR and the events alone. -/
theorem State.keepsInput_runWrites (i : Nat) (s : State) : s.KeepsInput k (State.runWrites i s) := by
  have taken (n : Spine) (l : List RtWrite) : n.KeepsInput k { n with regWait := l } := ⟨rfl, rfl, rfl, fun _ => rfl, fun _ => rfl⟩
  induction i generalizing s with
  | zero => exact .refl s
  | succ i ih =>
    unfold State.runWrites
    split
    case h_1 => exact .refl s
    case h_2 => exact ((State.keepsInput_updSpine (taken _ _)).trans (State.keepsInput_event ..)).trans (ih _)
    case h_3 =>
      split
      · exact .refl s
      · exact (State.keepsInput_updSpine ((taken _ _).trans (Spine.keepsInput_doWrite ..))).trans (ih _)

theorem State.keepsInput_settleSpine (off : OffTrace k) (s : State) (r : BitVec 4) : s.KeepsInput k (s.settleSpine r) :=
  ((s.keepsInput_retryEp r).trans
    (State.keepsInput_updSpine ((Spine.keepsInput_drain off ..).trans (Spine.keepsInput_drain off ..)))).trans
    (State.keepsInput_runWrites ..)

/-! ## The way of a flit (11 R320, R322, R324) -/

/-- The credit owed for a place that came free is no part of the spine. -/
theorem State.keepsInput_freePlace (s : State) (r : BitVec 4) (port : Nat) (vc : BitVec 2) : s.KeepsInput k (s.freePlace r port vc) := by
  unfold State.freePlace
  repeat' split
  all_goals exact ⟨.refl _, rfl, rfl⟩

/-- A flit crosses a link in two parts: the probes see it and the link counts it, which leaves every input alone; then, with a head,
its packet stands last at the neighbour's input. -/
theorem State.crossFlit_eq {r : BitVec 4} {d q : Nat} (next : neighbour r.toNat d = some q) (s : State) (p : Packet) (i : Nat)
    (cap : Capture) :
    let key := bufKey (BitVec.ofNat 4 q) (arrivesAt d) p.vc
    ∃ (t : State) (headSeq : Map (BitVec 5)) (short : Map Nat), (∀ k, OffTrace k → s.KeepsInput k t) ∧
      s.crossFlit r d p i cap = t.updSpine fun n =>
        { n with bufs := if i = 0 then n.bufs.upd key [] (· ++ [p]) else n.bufs, headSeq := headSeq, short := short } := by
  intro key
  unfold State.crossFlit
  simp only [next]
  refine ⟨_, _, _, fun k off => ?_, rfl⟩
  exact ((State.keepsInput_probes off ..).trans (State.keepsInput_probes off ..)).trans (State.keepsInput_updLink ..)

/-- A flit that crosses a link touches no input but the neighbour's. -/
theorem State.keepsInput_crossFlit {r : BitVec 4} {d q : Nat} {p : Packet} (off : OffTrace k) (next : neighbour r.toNat d = some q)
    (other : k ≠ bufKey (BitVec.ofNat 4 q) (arrivesAt d) p.vc) (s : State) (i : Nat) (cap : Capture) :
    s.KeepsInput k (s.crossFlit r d p i cap) := by
  obtain ⟨t, _, _, keeps, eq⟩ := State.crossFlit_eq next s p i cap
  rw [eq]
  refine (keeps k off).trans (State.keepsInput_updSpine ⟨?_, rfl, rfl, fun _ => rfl, fun _ => rfl⟩)
  dsimp only
  split
  · exact Map.getD_upd_other _ other ..
  · rfl

/-- A head that crosses a link stands last at the neighbour's input. -/
theorem State.buf_crossFlit_head {r : BitVec 4} {d q : Nat} (next : neighbour r.toNat d = some q) (s : State) (p : Packet)
    (cap : Capture) :
    (s.crossFlit r d p 0 cap).buf (BitVec.ofNat 4 q) (arrivesAt d) p.vc = s.buf (BitVec.ofNat 4 q) (arrivesAt d) p.vc ++ [p] := by
  have mesh := arrivesAt_lt d
  obtain ⟨t, _, _, keeps, eq⟩ := State.crossFlit_eq next s p 0 cap
  have there := (keeps _ (offTrace_bufKey (BitVec.ofNat 4 q) (vc := p.vc) (port := arrivesAt d) (by omega) (.inl (by omega)))).buf_eq
  rw [eq, ← there]
  simp [State.buf]

/-- A flit that goes its way touches no input but the one it goes to. -/
theorem State.keepsInput_outFlit {r : BitVec 4} {p : Packet} {o : WormOut} (off : OffTrace k)
    (other : ∀ d q, o = .out d → d < 4 → neighbour r.toNat d = some q → k ≠ bufKey (BitVec.ofNat 4 q) (arrivesAt d) p.vc)
    (s : State) (i : Nat) (cap : Capture) : s.KeepsInput k (s.outFlit r p i o cap) := by
  cases o with
  | turn | lost => exact .refl s
  | out d =>
    refine .trans (b := s.updRouter r fun t => { t with vcLast := t.vcLast.set d p.vc.toNat })
      (s.keepsInput_updRouter _ _ (fun _ => rfl) fun _ => rfl) ?_
    unfold State.outFlit
    dsimp only
    split
    case isTrue mesh =>
      cases next : neighbour r.toNat d with
      | none => simp only [State.crossFlit, next]; exact .refl _
      | some q => exact State.keepsInput_crossFlit off next (other d q rfl mesh next) ..
    case isFalse =>
      split
      · exact (State.keepsInput_probes off ..).trans ⟨.refl _, rfl, rfl⟩
      · exact State.keepsInput_probes off ..

end Sys2Proof.Machine
end

section
/-! PROOFS. A packet of one flit leaves its input: it crosses to the neighbour, comes to its endpoint, is turned back, or is lost
(11 R316, R320, R322, R326, R327, R330). -/

namespace Sys2Proof.Machine

/-! ## The head of an input -/

/-- The packet as it leaves input `port`: stamped with CUR where it enters the spine (11 R327). -/
def State.stamped (s : State) (port : Nat) (p : Packet) : Packet := if 4 ≤ port then { p with epoch := s.spine.cur } else p

/-- A packet of one flit stands at the head of input `port` of router `r`, with `rest` behind it and none waiting for places. -/
structure State.LoneHead (s : State) (r : BitVec 4) (port : Nat) (vc : BitVec 2) (p : Packet) (rest : List Packet) : Prop where
  valid : port ≤ 12
  offTrace : port < 12 ∨ vc ≠ 1
  buf : s.buf r port vc = p :: rest
  oneFlit : p.flits.length = 1
  unsent : s.spine.sent.getD (bufKey r port vc) 0 = 0
  whole : s.spine.short.getD (bufKey r port vc) 0 = 0
  noWaits : s.spine.waits.getD (bufKey r port vc) [] = []

@[simp] theorem State.stamped_vc (s : State) (port : Nat) (p : Packet) : (s.stamped port p).vc = p.vc := by
  unfold State.stamped; split <;> rfl

@[simp] theorem State.stamped_type (s : State) (port : Nat) (p : Packet) : (s.stamped port p).type = p.type := by
  unfold State.stamped; split <;> rfl

@[simp] theorem State.stamped_flits (s : State) (port : Nat) (p : Packet) : (s.stamped port p).flits = p.flits := by
  unfold State.stamped; split <;> rfl

/-- The one flit of an accepted head goes its way, and its place is free. -/
def State.flitGone (s : State) (r : BitVec 4) (port : Nat) (vc : BitVec 2) (p : Packet) (o : WormOut) (cap : Capture) : State :=
  ((if 4 ≤ port then s.probes r false port p 0 0 0 cap else s).outFlit r p 0 o cap).freePlace r port vc

/-- The head of an input is gone, its way with it, and its unit fills the places that came free. -/
def Spine.popHead (n : Spine) (r : BitVec 4) (port : Nat) (vc : BitVec 2) : Spine :=
  { n with bufs := n.bufs.upd (bufKey r port vc) [] List.tail
           sent := n.sent.erase (bufKey r port vc)
           route := n.route.erase (bufKey r port vc) }.fill r port vc (n.waits.getD (bufKey r port vc) [])

/-- The state behind a packet of one flit that has left its input by its way `o`, before it comes to its endpoint or is turned
back. -/
def State.afterLeaving (s : State) (r : BitVec 4) (port : Nat) (vc : BitVec 2) (p : Packet) (o : WormOut) (cap : Capture) : State :=
  ((s.acceptHead r port vc p o).flitGone r port vc p o cap).updSpine fun n => n.popHead r port vc

section LoneHead
variable {s : State} {r : BitVec 4} {port : Nat} {vc : BitVec 2} {p0 : Packet} {rest : List Packet} {o : WormOut} {cap : Capture}

theorem State.LoneHead.off (h : s.LoneHead r port vc p0 rest) : OffTrace (bufKey r port vc) :=
  offTrace_bufKey r h.valid h.offTrace

theorem State.LoneHead.headAt (h : s.LoneHead r port vc p0 rest) : s.headAt r port vc = some (s.stamped port p0) := by
  simp [State.headAt, h.buf, h.unsent, State.stamped]

/-- Its one flit stands in the buffer. -/
theorem State.LoneHead.here (h : s.LoneHead r port vc p0 rest) : 0 < s.spine.here (bufKey r port vc) := by
  have buf : s.spine.bufs.getD (bufKey r port vc) [] = p0 :: rest := h.buf
  have one := h.oneFlit
  unfold Spine.here
  cases rest <;> simp [buf, h.unsent, h.whole, one]

/-- Its one flit is its tail. -/
theorem State.LoneHead.stepFlit (h : s.LoneHead r port vc p0 rest) (o : WormOut) (cap : Capture) :
    s.stepFlit r port vc o cap =
      ((s.afterLeaving r port vc (s.stamped port p0) o cap).tailGone r (s.stamped port p0) o, true) := by
  simp [State.stepFlit, h.headAt, h.unsent, h.oneFlit, State.afterLeaving, State.flitGone, Spine.popHead]

/-- Served by its arbiters it leaves, and the router is done with it. -/
theorem State.LoneHead.moveWorm (h : s.LoneHead r port vc p0 rest) (goes : s.goes r port vc o = true) (cap : Capture) (n : Nat) :
    State.moveWorm r port vc o cap (n + 1) s =
      (s.afterLeaving r port vc (s.stamped port p0) o cap).tailGone r (s.stamped port p0) o := by
  simp [State.moveWorm, goes, h.stepFlit]

/-! ## What a packet that leaves changes -/

/-- The flit of a head touches no input but the one it goes to. -/
theorem State.keepsInput_flitGone {k : Nat} {p : Packet} (off : OffTrace k)
    (other : ∀ d q, o = .out d → d < 4 → neighbour r.toNat d = some q → k ≠ bufKey (BitVec.ofNat 4 q) (arrivesAt d) p.vc)
    (s : State) : s.KeepsInput k (s.flitGone r port vc p o cap) := by
  refine .trans ?_ ((State.keepsInput_outFlit off other ..).trans (State.keepsInput_freePlace ..))
  split
  · exact State.keepsInput_probes off ..
  · exact .refl s

/-- Where no packet waits for places of it, the input has lost its head and nothing more. -/
theorem Spine.popHead_of_noWaits {n : Spine} (noWaits : n.waits.getD (bufKey r port vc) [] = []) :
    n.popHead r port vc =
      { n with bufs := n.bufs.upd (bufKey r port vc) [] List.tail
               waits := n.waits.erase (bufKey r port vc)
               sent := n.sent.erase (bufKey r port vc)
               route := n.route.erase (bufKey r port vc) } := by
  rw [Spine.popHead, noWaits, Spine.fill]

@[simp] theorem State.buf_acceptHead (s : State) (p : Packet) :
    (s.acceptHead r port vc p o).buf r port vc = p :: (s.buf r port vc).tail := by
  simp [State.acceptHead, State.updRouter, State.buf]

theorem State.bufs_acceptHead_other {k : Nat} (other : k ≠ bufKey r port vc) (s : State) (p : Packet) :
    (s.acceptHead r port vc p o).spine.bufs.getD k [] = s.spine.bufs.getD k [] := by
  simp [State.acceptHead, State.updRouter, Map.getD_upd_other _ other]

/-- The router counts a head that has no route (11 R326). -/
theorem State.unroute_acceptHead {p : Packet} (unroutable : (s.router r).route r p = .unroutable) :
    ((s.acceptHead r port vc p o).router r).unroute = satInc (s.router r).unroute := by
  have same : (s.acceptHead r port vc p o).router r = _ := State.router_updRouter_same ..
  rw [same]
  exact if_pos unroutable

@[simp] theorem State.ue_acceptHead (s : State) (p : Packet) : ((s.acceptHead r port vc p o).router r).ue = (s.router r).ue := by
  have same : (s.acceptHead r port vc p o).router r = _ := State.router_updRouter_same ..
  rw [same]
  rfl

/-- The head of an input is accepted, and its flit goes, with what stands behind it left there. -/
theorem State.keepsInput_flitGone_own (s : State) (p : Packet) (h : s.LoneHead r port vc p0 rest) :
    (s.acceptHead r port vc p o).KeepsInput (bufKey r port vc) ((s.acceptHead r port vc p o).flitGone r port vc p o cap) := by
  refine State.keepsInput_flitGone h.off (fun d q _ _ next same => ?_) _
  have mesh := arrivesAt_lt d
  have valid := h.valid
  exact ofNat_neighbour_ne next (bufKey_inj (by omega) (by omega) same).1.symm

/-- Behind a packet that has left stands what stood behind it; the inbound couches, memory, the threads and the counts of lost worms
are as before. -/
theorem State.LoneHead.afterLeaving_spec (h : s.LoneHead r port vc p0 rest) (p : Packet) (o : WormOut) (cap : Capture) :
    let b := s.afterLeaving r port vc p o cap
    b.buf r port vc = rest ∧ b.spine.inq = s.spine.inq ∧ b.mem = s.mem ∧ b.threads = s.threads ∧
      (b.router r).ue = (s.router r).ue ∧
      ((s.router r).route r p = .unroutable → (b.router r).unroute = satInc (s.router r).unroute) := by
  have keeps := s.keepsInput_flitGone_own (o := o) (cap := cap) p h
  have gone := Spine.popHead_of_noWaits (keeps.spine.waits.trans h.noWaits)
  dsimp only [State.afterLeaving, State.updSpine, State.buf, State.router]
  rw [gone]
  refine ⟨?_, keeps.spine.inq, keeps.mem, keeps.threads, (keeps.ue_eq r).trans (s.ue_acceptHead p),
    fun unroutable => (keeps.unroute_eq r).trans (State.unroute_acceptHead unroutable)⟩
  rw [Map.getD_upd_same, keeps.spine.buf]
  exact congrArg List.tail ((s.buf_acceptHead p).trans (by rw [h.buf, List.tail_cons]))

/-- The input of a neighbour at which packets arrive is no couch of a control endpoint. -/
theorem offTrace_arrivesAt (q : BitVec 4) (d : Nat) (v : BitVec 2) : OffTrace (bufKey q (arrivesAt d) v) := by
  have mesh := arrivesAt_lt d
  exact offTrace_bufKey q (by omega) (.inl (by omega))

/-- The flit of a head that goes to a neighbour brings its packet to the end of the neighbour's input. -/
theorem State.buf_flitGone_neighbour {d q : Nat} (next : neighbour r.toNat d = some q) (mesh : d < 4) (s : State) (p : Packet) :
    (s.flitGone r port vc p (.out d) cap).buf (BitVec.ofNat 4 q) (arrivesAt d) p.vc =
      s.buf (BitVec.ofNat 4 q) (arrivesAt d) p.vc ++ [p] := by
  have off := offTrace_arrivesAt (BitVec.ofNat 4 q) d p.vc
  let seen := if 4 ≤ port then s.probes r false port p 0 0 0 cap else s
  have seen_buf : seen.buf (BitVec.ofNat 4 q) (arrivesAt d) p.vc = s.buf (BitVec.ofNat 4 q) (arrivesAt d) p.vc := by
    unfold seen
    split
    · exact (State.keepsInput_probes off ..).buf_eq
    · rfl
  calc (s.flitGone r port vc p (.out d) cap).buf (BitVec.ofNat 4 q) (arrivesAt d) p.vc
      = (seen.outFlit r p 0 (.out d) cap).buf (BitVec.ofNat 4 q) (arrivesAt d) p.vc := (State.keepsInput_freePlace ..).buf_eq
    _ = seen.buf (BitVec.ofNat 4 q) (arrivesAt d) p.vc ++ [p] := by
        simp only [State.outFlit, mesh, if_true]
        exact State.buf_crossFlit_head next ..
    _ = s.buf (BitVec.ofNat 4 q) (arrivesAt d) p.vc ++ [p] := by rw [seen_buf]

/-- A packet that has left for a neighbour stands last at the neighbour's input. -/
theorem State.LoneHead.buf_afterLeaving_neighbour (h : s.LoneHead r port vc p0 rest) {p : Packet} {d q : Nat}
    (next : neighbour r.toNat d = some q) (mesh : d < 4) (cap : Capture) :
    (s.afterLeaving r port vc p (.out d) cap).buf (BitVec.ofNat 4 q) (arrivesAt d) p.vc =
      s.buf (BitVec.ofNat 4 q) (arrivesAt d) p.vc ++ [p] := by
  have keeps := s.keepsInput_flitGone_own (o := .out d) (cap := cap) p h
  have gone := Spine.popHead_of_noWaits (keeps.spine.waits.trans h.noWaits)
  have mesh' := arrivesAt_lt d
  have valid := h.valid
  have other : bufKey (BitVec.ofNat 4 q) (arrivesAt d) p.vc ≠ bufKey r port vc := fun same =>
    ofNat_neighbour_ne next (bufKey_inj (by omega) (by omega) same).1
  have accepted := State.bufs_acceptHead_other (o := .out d) other s p
  dsimp only [State.afterLeaving, State.updSpine, State.buf]
  rw [gone, Map.getD_upd_other _ other, ← accepted]
  exact State.buf_flitGone_neighbour next mesh _ p

/-! ## The hop of a packet of one flit -/

/-- A head that is not to be lost goes its way where the router serves it. -/
theorem State.LoneHead.hop (h : s.LoneHead r port vc p0 rest) (fresh : s.spine.route.find (bufKey r port vc) = none)
    (way : s.headRoute r (s.stamped port p0) = o) (kept : o ≠ .lost) (goes : s.goes r port vc o = true) (cap : Capture) :
    s.hop r port vc .none cap = (s.afterLeaving r port vc (s.stamped port p0) o cap).tailGone r (s.stamped port p0) o := by
  have want : s.want r port vc = some o := by simp [State.want, fresh, h.headAt, way]
  have here := Nat.ne_of_gt h.here
  simp [State.hop, want, here, kept, h.moveWorm goes cap 7]

/-- A head with an error that its router cannot correct leaves by no way, behind what becomes of its worm (11 R320). -/
theorem State.LoneHead.hop_stored (h : s.LoneHead r port vc p0 rest) (fresh : s.spine.route.find (bufKey r port vc) = none)
    (cap : Capture) :
    s.hop r port vc .stored cap = State.moveWorm r port vc .lost cap 8
      ((s.lostWorm r (s.stamped port p0)).updSpine fun m => { m with route := m.route.set (bufKey r port vc) .lost }) := by
  have want : s.want r port vc = some (s.headRoute r (s.stamped port p0)) := by simp [State.want, fresh, h.headAt]
  have here := Nat.ne_of_gt h.here
  have lost : s.headRoute r (s.stamped port p0) ≠ .lost ∨ s.headRoute r (s.stamped port p0) = .lost := (Classical.em _).symm
  simp [State.hop, want, here, fresh, lost, State.loseWorm, h.headAt, h.unsent]

/-! ## A worm that is lost (11 R320) -/

/-- A packet that joins another input of the spine. -/
theorem Spine.keepsInput_push {k : Nat} {q : BitVec 4} {i : Nat} {p : Packet} (other : k ≠ bufKey q i p.vc) (n : Spine) :
    n.KeepsInput k (n.push q i p) := by
  unfold Spine.push
  dsimp only
  split
  · refine ⟨?_, rfl, rfl, fun _ => rfl, fun _ => rfl⟩
    dsimp only
    exact Map.getD_upd_other _ other ..
  · refine ⟨rfl, ?_, rfl, fun _ => rfl, fun _ => rfl⟩
    dsimp only
    exact Map.getD_upd_other _ other ..

@[simp] theorem Spine.push_sent (n : Spine) (q : BitVec 4) (i : Nat) (p : Packet) : (n.push q i p).sent = n.sent := by
  unfold Spine.push; dsimp only; split <;> rfl

@[simp] theorem Spine.push_short (n : Spine) (q : BitVec 4) (i : Nat) (p : Packet) : (n.push q i p).short = n.short := by
  unfold Spine.push; dsimp only; split <;> rfl

@[simp] theorem State.mgmtRecord_spine (s : State) (code : BitVec 16) (cause : Byte) (detail : DWord) :
    (s.mgmtRecord code cause detail).spine = s.spine := by
  unfold State.mgmtRecord
  (repeat' split) <;> rfl

/-- Of a lost worm of VC0, VC2 or VC3 its router keeps a count, and may send word of it from its control endpoint. -/
theorem State.lostWorm_eq {p : Packet} (vc1 : p.vc ≠ 1) (s : State) (r : BitVec 4) :
    ∃ t : State, t.spine = (s.updRouter r fun t => { t with ue := satInc t.ue }).spine ∧ t.mem = s.mem ∧
      (s.lostWorm r p = t ∨ ∃ q, s.lostWorm r p = t.fromControl r q) := by
  let t := (s.updRouter r fun t => { t with ue := satInc t.ue }).mgmtRecord recWorm ECC_UNCORRECTED (BitVec.setWidth 64 r)
  have spine : t.spine = (s.updRouter r fun t => { t with ue := satInc t.ue }).spine := State.mgmtRecord_spine ..
  have mem : t.mem = s.mem := State.mgmtRecord_mem ..
  unfold State.lostWorm
  dsimp only
  split
  case h_1 vc0 => exact ⟨t.takeFree, spine, mem, .inr ⟨_, rfl⟩⟩
  case h_2 one => exact absurd (BitVec.eq_of_toNat_eq one) vc1
  case h_3 vc2 => exact ⟨t, spine, mem, .inr (by split <;> exact ⟨_, rfl⟩)⟩
  case h_4 => exact ⟨t, spine, mem, .inl rfl⟩

theorem State.mem_lostWorm {p : Packet} (vc1 : p.vc ≠ 1) (s : State) (r : BitVec 4) : (s.lostWorm r p).mem = s.mem := by
  obtain ⟨t, -, mem, eq | ⟨q, eq⟩⟩ := State.lostWorm_eq vc1 s r
  · rw [eq, mem]
  · rw [eq, State.fromControl_mem, mem]

/-- The head of an input stays there while the input is left alone and none of its flits goes. -/
theorem State.LoneHead.of_keepsInput {s' : State} (h : s.LoneHead r port vc p0 rest)
    (keeps : s.spine.KeepsInput (bufKey r port vc) s'.spine) (sent : s'.spine.sent = s.spine.sent)
    (short : s'.spine.short = s.spine.short) : s'.LoneHead r port vc p0 rest :=
  ⟨h.valid, h.offTrace, keeps.buf.trans h.buf, h.oneFlit, sent ▸ h.unsent, short ▸ h.whole, keeps.waits.trans h.noWaits⟩

/-- The loss of a worm is counted by its router, and leaves its packet at the head of its input. -/
theorem State.LoneHead.lostWorm (h : s.LoneHead r port vc p0 rest) (outside : port < 12) {p : Packet} (vc1 : p.vc ≠ 1) :
    (s.lostWorm r p).LoneHead r port vc p0 rest ∧ ((s.lostWorm r p).router r).ue = satInc (s.router r).ue := by
  let counted := s.updRouter r fun t => { t with ue := satInc t.ue }
  have head : counted.LoneHead r port vc p0 rest := ⟨h.valid, h.offTrace, h.buf, h.oneFlit, h.unsent, h.whole, h.noWaits⟩
  have ue : (counted.router r).ue = satInc (s.router r).ue := congrArg Router.ue (s.router_updRouter_same r _)
  obtain ⟨t, spine, -, eq⟩ := State.lostWorm_eq vc1 s r
  have keeps : counted.spine.KeepsInput (bufKey r port vc) (s.lostWorm r p).spine ∧
      (s.lostWorm r p).spine.sent = counted.spine.sent ∧ (s.lostWorm r p).spine.short = counted.spine.short := by
    obtain eq | ⟨q, eq⟩ := eq
    · rw [eq, spine]
      exact ⟨.refl _, rfl, rfl⟩
    · have other : bufKey r port vc ≠ bufKey r 12 q.vc := fun same => by
        have := (bufKey_inj (by omega) (by omega) same).2.1
        omega
      rw [eq, State.fromControl, State.pushBuf, State.updSpine_spine, spine]
      exact ⟨Spine.keepsInput_push other _, Spine.push_sent .., Spine.push_short ..⟩
  obtain ⟨stands, sent, short⟩ := keeps
  exact ⟨head.of_keepsInput stands sent short, (stands.ue r.toNat).trans ue⟩

/-- Where its router cannot correct an error of it, the packet is gone from its input and counted, and memory is as before. -/
theorem State.LoneHead.hop_stored_spec (h : s.LoneHead r port vc p0 rest)
    (fresh : s.spine.route.find (bufKey r port vc) = none) (outside : port < 12) (vc1 : p0.vc ≠ 1) (cap : Capture) :
    (s.hop r port vc .stored cap).buf r port vc = rest ∧
      ((s.hop r port vc .stored cap).router r).ue = satInc (s.router r).ue ∧ (s.hop r port vc .stored cap).mem = s.mem := by
  have vc1' : (s.stamped port p0).vc ≠ 1 := by rwa [State.stamped_vc]
  obtain ⟨lost, ue⟩ := h.lostWorm outside vc1'
  have head : ((s.lostWorm r (s.stamped port p0)).updSpine fun m =>
      { m with route := m.route.set (bufKey r port vc) .lost }).LoneHead r port vc p0 rest :=
    lost.of_keepsInput ⟨rfl, rfl, rfl, fun _ => rfl, fun _ => rfl⟩ rfl rfl
  rw [h.hop_stored fresh, head.moveWorm (o := .lost) (decide_eq_true head.here)]
  obtain ⟨buf, -, mem, -, ue', -⟩ := head.afterLeaving_spec (State.stamped _ port p0) .lost cap
  exact ⟨buf, ue'.trans ue, mem.trans (State.mem_lostWorm vc1' s r)⟩

end LoneHead

/-! ## The command -/

/-- A route to a neighbour goes by one of the four links. -/
theorem Router.lt_of_route_dir {t : Router} {r : BitVec 4} {p : Packet} {d : Nat} (hop : t.route r p = .dir d) : d < 4 := by
  unfold Router.route at hop
  dsimp only at hop
  split at hop
  case isTrue => split at hop <;> cases hop
  case isFalse nonzero =>
    split at hop
    case isFalse => cases hop
    case isTrue mesh =>
      injection hop with hop
      omega

section HeadRoute
variable {s : State} {r : BitVec 4} {p : Packet} (type : p.type.toNat < 14)
include type

/-- A head that is routed to a neighbour goes there where its link has not been routed around (16 R443). -/
theorem State.headRoute_of_dir {d : Nat} (way : (s.router r).route r p = .dir d) (alive : ((s.router r).link d).dead = false) :
    s.headRoute r p = .out d := by
  simp [State.headRoute, Nat.not_le.mpr type, way, alive]

/-- A head whose route ends here goes to its endpoint where that is open (11 R326). -/
theorem State.headRoute_of_open (way : (s.router r).route r p = .local_) (opened : s.closed r p = none) :
    s.headRoute r p = .out (4 + p.de.toNat) := by
  simp [State.headRoute, Nat.not_le.mpr type, way, opened]

/-- A head whose endpoint is closed is turned back (11 R330). -/
theorem State.headRoute_of_closed {off : Bool} (way : (s.router r).route r p = .local_) (closed : s.closed r p = some off) :
    s.headRoute r p = .turn off := by
  simp [State.headRoute, Nat.not_le.mpr type, way, closed]

/-- A head without a route is turned back (11 R326). -/
theorem State.headRoute_of_unroutable (way : (s.router r).route r p = .unroutable) : s.headRoute r p = .turn true := by
  simp [State.headRoute, Nat.not_le.mpr type, way]

end HeadRoute

/-- The hop of an input that is there, in a spine whose clock runs. -/
theorem exec_spinePacketHop {r port : BitVec 4} (valid : port.toNat ≤ 12) (there : 4 ≤ port.toNat ∨ meshPort r (port.setWidth 2) = true)
    {s : State} (runs : s.clockRuns .spine = true) (vc : BitVec 2) (err : HopErr) (cap : Capture) :
    exec (.spinePacketHop r port vc err cap) s = .next ((s.hop r port.toNat vc err cap).settleSpine r) := by
  show execSpinePacketHop r port vc err s cap = _
  simp [execSpinePacketHop, valid, there, runs]

/-- Settles O24: the packet of one flit leaves by `State.LoneHead.hop` in the way that `State.headRoute` gives it, or is lost by
`State.LoneHead.hop_stored_spec`; what settles behind it leaves the inputs alone by `State.keepsInput_settleSpine`. -/
theorem packetsHopBeDeliveredOrTurnBack : Obligations.PacketsHopBeDeliveredOrTurnBack := by
  intro r port vc cap s p0 rest key valid there buf onVc oneFlit type unsent whole fresh runs noWaits offTrace
  change let p := s.stamped port.toNat p0; _
  intro p hop
  have head : s.LoneHead r port.toNat vc p0 rest := ⟨valid, offTrace, buf, oneFlit, unsent, whole, noWaits⟩
  have type' : p.type.toNat < 14 := by rwa [s.stamped_type]
  have answer (err : HopErr) := exec_spinePacketHop valid there runs vc err cap
  have served {o : WormOut} (way : s.headRoute r p = o) (kept : o ≠ .lost) (goes : s.goes r port.toNat vc o = true) :
      exec (.spinePacketHop r port vc .none cap) s =
        .next (((s.afterLeaving r port.toNat vc p o cap).tailGone r p o).settleSpine r) := by
    rw [answer, head.hop fresh way kept goes]
  have turned (off : Bool) : s.goes r port.toNat vc (.turn off) = true := decide_eq_true head.here
  refine ⟨fun d q way next alive goes => ?neighbour, fun way opened goes => ?delivered, fun off way closed => ?closed,
    fun way => ?unroutable, fun outside vc1 => ?lost⟩
  case neighbour =>
    have mesh := Router.lt_of_route_dir way
    have crosses := served (State.headRoute_of_dir type' way alive) nofun goes
    rw [State.tailGone, if_pos mesh] at crosses
    have arrived := head.buf_afterLeaving_neighbour (p := p) next mesh cap
    rw [show p.vc = vc from (s.stamped_vc ..).trans onVc] at arrived
    obtain ⟨left, -, mem, threads, -, -⟩ := head.afterLeaving_spec p (.out d) cap
    have settled {k : Nat} (off : OffTrace k) :=
      State.keepsInput_settleSpine off (s.afterLeaving r port.toNat vc p (.out d) cap) r
    have own := settled head.off
    exact ⟨_, crosses, (settled (offTrace_arrivesAt _ d vc)).buf_eq.trans arrived, own.buf_eq.trans left, own.mem.trans mem,
      own.threads.trans threads⟩
  case delivered =>
    have arrives := served (State.headRoute_of_open type' way opened) nofun goes
    rw [State.tailGone, if_neg (by omega)] at arrives
    obtain ⟨left, inq, mem, threads, -, -⟩ := head.afterLeaving_spec p (.out (4 + p.de.toNat)) cap
    exact ⟨_, arrives, _, rfl, left, inq, mem, threads⟩
  case closed =>
    obtain ⟨left, inq, mem, threads, -, -⟩ := head.afterLeaving_spec p (.turn off) cap
    exact ⟨_, served (State.headRoute_of_closed type' way closed) nofun (turned off), _, rfl, left, inq, mem, threads⟩
  case unroutable =>
    obtain ⟨left, -, -, -, -, unroute⟩ := head.afterLeaving_spec p (.turn true) cap
    exact ⟨_, served (State.headRoute_of_unroutable type' way) nofun (turned true), _, rfl, left, unroute way⟩
  case lost =>
    obtain ⟨left, ue, mem⟩ := head.hop_stored_spec fresh outside (onVc ▸ vc1) cap
    have settled := State.keepsInput_settleSpine head.off (s.hop r port.toNat vc .stored cap) r
    exact ⟨_, answer .stored, settled.buf_eq.trans left, (settled.ue_eq r).trans ue, settled.mem.trans mem⟩

end Sys2Proof.Machine
end

section
/-! PROOFS. What may go on at the host hub beside a change that a command makes: rings take new forms, vectors are raised or
pend, and transfers leave; nothing else of the part changes (12 R351, R358). -/

namespace Sys2Proof.Machine

/-! ## Signals to a host -/

/-- The part without its rings, its vectors and what has left it. -/
def State.offRings (s : State) : State := { s with hub := { s.hub with rings := [], msix := [] }, out := [] }

/-- `s'` is `s` but for rings and vectors of the hub, and for transfers that have left since. -/
structure State.Signalled (s s' : State) : Prop where
  rest : s'.offRings = s.offRings
  sent : s.out <:+ s'.out

namespace State.Signalled
variable {s t u : State}

theorem refl (s : State) : s.Signalled s := ⟨rfl, List.suffix_rfl⟩

theorem trans (first : s.Signalled t) (second : t.Signalled u) : s.Signalled u :=
  ⟨second.rest.trans first.rest, first.sent.trans second.sent⟩

/-- Outside the hub and what has left nothing has changed. -/
theorem offHub (signalled : s.Signalled t) : t.offHub = s.offHub := (congrArg State.offHub signalled.rest :)

theorem frame (signalled : s.Signalled t) : { t with hub := s.hub, out := s.out } = s :=
  State.frame_of_offHub signalled.offHub

theorem mem (signalled : s.Signalled t) : t.mem = s.mem := (congrArg State.mem signalled.rest :)
theorem ctxs (signalled : s.Signalled t) : t.ctxs = s.ctxs := (congrArg State.ctxs signalled.rest :)
theorem threads (signalled : s.Signalled t) : t.threads = s.threads := (congrArg State.threads signalled.rest :)

/-- Signals touch no function, port or rail, so that the BARs of a function answer as before. -/
theorem barsAnswer (signalled : s.Signalled t) (f : FuncId) : t.barsAnswer f = s.barsAnswer f :=
  (congrArg (fun a : State => a.barsAnswer f) signalled.rest :)

/-- What has left stays on record. -/
theorem mem_out (signalled : s.Signalled t) {o : Output} (left : o ∈ s.out) : o ∈ t.out := signalled.sent.subset left

end State.Signalled

section Signals
variable (s : State) (f : FuncId) (r : RingId)

theorem State.signalled_setRing (g : Ring) : s.Signalled (s.setRing f r g) := ⟨rfl, List.suffix_rfl⟩

theorem State.signalled_updRing (u : Ring → Ring) : s.Signalled (s.updRing f r u) := by
  unfold State.updRing
  split
  · exact .refl s
  · exact s.signalled_setRing f r _

theorem State.signalled_emit (o : Output) : s.Signalled (s.emit o) := ⟨rfl, List.suffix_cons o s.out⟩

theorem State.signalled_emitFor (o : Output) : s.Signalled (s.emitFor f o) := by
  unfold State.emitFor
  split
  · exact .refl s
  · exact s.signalled_emit o

theorem State.signalled_covered (v : BitVec 6) : s.Signalled (s.covered f v) := ⟨rfl, List.suffix_rfl⟩

theorem State.signalled_raise (v : BitVec 6) : s.Signalled (s.raise f v) := by
  unfold State.raise
  dsimp only
  split
  · exact (s.signalled_emitFor f _).trans (State.signalled_covered _ f v)
  · split
    · exact .refl s
    · exact ⟨rfl, List.suffix_rfl⟩

theorem State.signalled_stageItem (i : ReelItem) : s.Signalled (s.stageItem f r i) := s.signalled_updRing f r _

theorem State.signalled_ringTo (g g' : Ring) (cause : Bool) : s.Signalled (s.ringTo f r g g' cause) := by
  unfold State.ringTo
  dsimp only
  split
  · exact (s.signalled_setRing f r _).trans (State.signalled_raise _ f g'.vec)
  · exact s.signalled_setRing f r _

theorem State.signalled_shadowF (g : Ring) : s.Signalled (s.shadowF f g r) := by
  unfold State.shadowF
  dsimp only
  split
  · exact .refl s
  · split
    · exact (s.signalled_updRing f r _).trans (State.signalled_emitFor _ f _)
    · exact .refl s

theorem State.signalled_ringNext (notify : Bool) : s.Signalled (s.ringNext f r notify) := by
  unfold State.ringNext
  split
  · exact .refl s
  · exact (s.signalled_ringTo f r _ _ notify).trans (State.signalled_shadowF _ f r _)

end Signals

/-- A function whose BARs answer may send: no FLR of it runs, and no rail of HOST is lost (12 R364, 16 R459). -/
theorem State.emitFor_of_barsAnswer {s : State} {f : FuncId} (answers : s.barsAnswer f = true) (o : Output) :
    s.emitFor f o = s.emit o := by
  simp only [State.barsAnswer, Bool.and_eq_true, Bool.not_eq_true'] at answers
  obtain ⟨⟨⟨_, rails⟩, noFlr⟩, _⟩ := answers
  have quiet : (s.hub.funcs.getD f.toNat {}).flr = false := noFlr
  rw [State.emitFor, quiet, rails]
  rfl

/-! ## The items staged for a ring -/

/-- The items staged for ring `r` of function `f`, when it exists. -/
def State.ringItems (s : State) (f : FuncId) (r : RingId) : Option (List ReelItem) := (s.ring f r).map Ring.items

theorem State.ring_of_ringItems {s : State} {f : FuncId} {r : RingId} {l : List ReelItem} (items : s.ringItems f r = some l) :
    ∃ g, s.ring f r = some g ∧ g.items = l := by
  simpa only [State.ringItems, Option.map_eq_some_iff] using items

theorem State.ringItems_setRing_other (s : State) {f h : FuncId} {r q : RingId} (other : ¬(h = f ∧ q = r)) (g : Ring) :
    (s.setRing f r g).ringItems h q = s.ringItems h q := by
  rw [State.ringItems, State.ring_setRing_other s other, State.ringItems]

theorem State.ringItems_updRing_other (s : State) {f h : FuncId} {r q : RingId} (other : ¬(h = f ∧ q = r)) (u : Ring → Ring) :
    (s.updRing f r u).ringItems h q = s.ringItems h q := by
  unfold State.updRing
  split
  · rfl
  · exact s.ringItems_setRing_other other _

@[simp] theorem State.ringItems_emitFor (s : State) (f h : FuncId) (q : RingId) (o : Output) :
    (s.emitFor f o).ringItems h q = s.ringItems h q := by
  unfold State.emitFor; split <;> rfl

@[simp] theorem State.ringItems_covered (s : State) (f h : FuncId) (q : RingId) (v : BitVec 6) :
    (s.covered f v).ringItems h q = s.ringItems h q := by
  simp only [State.ringItems, State.ring, State.covered, State.updHub_hub, Map.find_mapV, Option.map_map]
  congr 1
  funext g
  simp only [Function.comp]
  split <;> rfl

@[simp] theorem State.ringItems_raise (s : State) (f h : FuncId) (q : RingId) (v : BitVec 6) :
    (s.raise f v).ringItems h q = s.ringItems h q := by
  unfold State.raise
  dsimp only
  split
  · simp
  · split <;> rfl

/-- The step of one ring past its head entry stages nothing for another. -/
theorem State.ringItems_ringNext_other (s : State) {f h : FuncId} {r q : RingId} (other : ¬(h = f ∧ q = r)) (notify : Bool) :
    (s.ringNext f r notify).ringItems h q = s.ringItems h q := by
  have moved (g g' : Ring) : (s.ringTo f r g g' notify).ringItems h q = s.ringItems h q := by
    simp only [State.ringTo, apply_ite (State.ringItems · h q), State.ringItems_raise, s.ringItems_setRing_other other, ite_self]
  have shown (t : State) (g : Ring) : (t.shadowF f g r).ringItems h q = t.ringItems h q := by
    simp only [State.shadowF, apply_ite (State.ringItems · h q), State.ringItems_emitFor, t.ringItems_updRing_other other, ite_self]
  unfold State.ringNext
  split
  · rfl
  · rw [shown, moved]

/-- A staged item stands behind those that are staged. -/
theorem State.ring_stageItem_same {s : State} {f : FuncId} {r : RingId} {g : Ring} (ring : s.ring f r = some g) (i : ReelItem) :
    (s.stageItem f r i).ring f r = some { g with items := g.items ++ [i] } := by
  simp [State.stageItem, State.updRing, ring]

theorem State.ring_stageItem_other (s : State) {f h : FuncId} {r q : RingId} (other : ¬(h = f ∧ q = r)) (i : ReelItem) :
    (s.stageItem f r i).ring h q = s.ring h q := by
  unfold State.stageItem State.updRing
  split
  · rfl
  · exact s.ring_setRing_other other _

end Sys2Proof.Machine
end

section
/-! PROOFS. The hub performs the transfer of a memory ring's entry and stages its MEMDONE entry (12 R354). -/

namespace Sys2Proof.Machine

/-! ## The end of an entry -/

/-- The MEMDONE item of an entry: the bytes transferred, its COOKIE and the cause (12 R354). -/
def memDone (e : BitVec 256) (n : Nat) (c : Byte) : ReelItem :=
  ⟨BitVec.ofNat 64 n, BitVec.ofNat 64 (fldN e 24 8), 6, false, c, false, none⟩

/-- The entry of ring `r` is done: its MEMDONE item is staged for ring `cring` and ring `r` goes on. -/
def State.mrDone (s : State) (f : FuncId) (r cring : RingId) (e : BitVec 256) (n : Nat) (c : Byte) : State :=
  (s.stageItem f cring (memDone e n c)).ringNext f r false

/-- In `s'` the entry of ring `g` is done: the ring has moved on, and its MEMDONE item stands behind those of the REEL ring `q`. -/
def State.EntryDone (s' : State) (f : FuncId) (r : RingId) (g q : Ring) (e : BitVec 256) (n : Nat) (c : Byte) : Prop :=
  (∃ g', s'.ring f r = some g' ∧ g'.d = g.d + 1) ∧
    ∃ q', s'.ring f g.cring = some q' ∧ q'.items = q.items ++ [memDone e n c]

/-- An entry is done in `t`: the ring has moved on, the item is staged, and beside that only signals went out. -/
theorem State.mrDone_spec {t : State} {f : FuncId} {r : RingId} {g q : Ring} (ring : t.ring f r = some g)
    (bound : t.ring f g.cring = some q) (other : g.cring ≠ r) (e : BitVec 256) (n : Nat) (c : Byte) :
    let s' := t.mrDone f r g.cring e n c
    s'.EntryDone f r g q e n c ∧ t.Signalled s' := by
  let staged := t.stageItem f g.cring (memDone e n c)
  have ring' : staged.ring f r = some g := by
    rw [← ring]
    exact t.ring_stageItem_other (fun same => other same.2.symm) _
  have items : staged.ringItems f g.cring = some (q.items ++ [memDone e n c]) := by
    rw [State.ringItems, State.ring_stageItem_same bound]
    rfl
  obtain ⟨g', passed, core⟩ := State.ring_of_ringCore (State.ringCore_ringNext ring' false)
  refine ⟨⟨⟨g', passed, (congrArg Ring.d core :)⟩, State.ring_of_ringItems ?_⟩, ?_⟩
  · rw [← items]
    exact staged.ringItems_ringNext_other (fun same => other same.2) false
  · exact (t.signalled_stageItem f g.cring _).trans (staged.signalled_ringNext f r false)

section Transfer
variable {s : State} {f : FuncId} {r : RingId} {g : Ring} {e : BitVec 256} {host : List DWord}

/-- The transfer of an entry whose words have come from the host, and its end. -/
theorem exec_memoryRingTransfer (ring : s.ring f r = some g) (kind : g.kind = 2) (reads : s.ringReads f g = true)
    (ready : s.mrWaits g.ctx e = false) (come : mrIn e = true → mrLength e / 8 ≤ host.length) (lostAt ceAt : Option Nat) :
    exec (.memoryRingTransfer f r e host lostAt ceAt) s =
      .next (let (t, n, c) := if g.refuse || (s.func f).refuse then (s, 0, ADDR_RIGHTS) else s.mrTransfer f g.ctx e host lostAt ceAt
        t.mrDone f r g.cring e n c) := by
  have complete : ¬ (mrOk e = true ∧ mrIn e = true ∧ host.length < mrLength e / 8) := fun short =>
    absurd (come short.2.1) (Nat.not_le.mpr short.2.2)
  show execMemoryRingTransfer f r e host lostAt s ceAt = _
  simp only [execMemoryRingTransfer, ring, kind, reads, ready, complete, ne_eq, not_true_eq_false, Bool.false_eq_true, or_self, if_false]
  rfl

/-- A row that refuses every check transfers nothing (log 154). -/
theorem exec_memoryRingTransfer_row (ring : s.ring f r = some g) (kind : g.kind = 2) (reads : s.ringReads f g = true)
    (ready : s.mrWaits g.ctx e = false) (come : mrIn e = true → mrLength e / 8 ≤ host.length)
    (row : (g.refuse || (s.func f).refuse) = true) (lostAt ceAt : Option Nat) :
    exec (.memoryRingTransfer f r e host lostAt ceAt) s = .next (s.mrDone f r g.cring e 0 ADDR_RIGHTS) := by
  rw [exec_memoryRingTransfer ring kind reads ready come, row]
  rfl

/-- With rows in order, the entry is done in the state that its transfer leaves. -/
theorem exec_memoryRingTransfer_of_mrTransfer (ring : s.ring f r = some g) (kind : g.kind = 2) (reads : s.ringReads f g = true)
    (ready : s.mrWaits g.ctx e = false) (come : mrIn e = true → mrLength e / 8 ≤ host.length)
    (row : (g.refuse || (s.func f).refuse) = false) {lostAt ceAt : Option Nat} {t : State} {n : Nat} {c : Byte}
    (transfer : s.mrTransfer f g.ctx e host lostAt ceAt = (t, n, c)) :
    exec (.memoryRingTransfer f r e host lostAt ceAt) s = .next (t.mrDone f r g.cring e n c) := by
  rw [exec_memoryRingTransfer ring kind reads ready come, row, if_neg Bool.false_ne_true, transfer]

/-! ## The checks before the first word -/

theorem State.mrTransfer_fenced {x : CtxId} (ok : mrOk e = true) (fenced : (s.ctx x).state = FENCED) (lostAt ceAt : Option Nat) :
    s.mrTransfer f x e host lostAt ceAt = (s, 0, TARGET_FENCED) := by
  simp [State.mrTransfer, ok, fenced]

/-- The window of an entry admits it: it is valid, the entry's bytes lie within it, and the context is neither FREE nor FENCED. -/
structure State.mrAdmits (s : State) (x : CtxId) (e : BitVec 256) : Prop where
  ok : mrOk e = true
  taken : (s.ctx x).state ≠ FREE
  unfenced : (s.ctx x).state ≠ FENCED
  valid : (s.readWin x (BitVec.ofNat 6 (fldN e 12 1))).valid = true
  within : fldN e 8 4 + mrLength e ≤ (s.readWin x (BitVec.ofNat 6 (fldN e 12 1))).len

/-- The physical address at which the transfer of an entry starts. -/
def State.mrBase (s : State) (x : CtxId) (e : BitVec 256) : Nat := (s.readWin x (BitVec.ofNat 6 (fldN e 12 1))).base + fldN e 8 4

/-- An admitted entry with the right to its window starts with its first word (12 R354). -/
theorem State.mrTransfer_in {x : CtxId} (admits : s.mrAdmits x e) (dir : mrIn e = true)
    (right : (s.readWin x (BitVec.ofNat 6 (fldN e 12 1))).w = true) (lostAt ceAt : Option Nat) :
    s.mrTransfer f x e host lostAt ceAt = State.mrStore x lostAt (host.take (mrLength e / 8)) (s.mrBase x e) 0 s := by
  obtain ⟨ok, taken, unfenced, valid, within⟩ := admits
  simp [State.mrTransfer, State.mrBase, ok, taken, unfenced, valid, Nat.not_lt.mpr within, dir, right]

theorem State.mrTransfer_out {x : CtxId} (admits : s.mrAdmits x e) (dir : mrIn e = false)
    (right : (s.readWin x (BitVec.ofNat 6 (fldN e 12 1))).r = true) (lostAt ceAt : Option Nat) :
    s.mrTransfer f x e host lostAt ceAt =
      let (t, bs, c) := State.mrLoad x ceAt (mrLength e / 8) (s.mrBase x e) [] s
      (if bs.isEmpty then t else t.emitFor f (.hostWrite f (mrHaddr e) bs), bs.length, c) := by
  obtain ⟨ok, taken, unfenced, valid, within⟩ := admits
  simp [State.mrTransfer, State.mrBase, ok, taken, unfenced, valid, Nat.not_lt.mpr within, dir, right]

/-- An entry in order moves at least one word, and whole words only. -/
theorem mrLength_of_mrOk (ok : mrOk e = true) : 8 ≤ mrLength e ∧ 8 * (mrLength e / 8) = mrLength e := by
  simp only [mrOk, Bool.and_eq_true, decide_eq_true_eq, beq_iff_eq] at ok
  obtain ⟨⟨⟨⟨_, least⟩, _⟩, whole⟩, _⟩ := ok
  exact ⟨least, by omega⟩

end Transfer

/-! ## Words from the host -/

/-- The words written from address `pa` on, each clearing the error of its place. -/
def State.stored : List DWord → Nat → State → State
  | [], _, s => s
  | v :: l, pa, s => stored l (pa + 8) ((s.wr pa 8 v.toNat).setBad pa false)

/-- A store writes no more than memory and its errors. -/
theorem State.stored_frame (l : List DWord) (pa : Nat) (s : State) :
    { State.stored l pa s with mem := s.mem, uecc := s.uecc } = s := by
  induction l generalizing pa s with
  | nil => rfl
  | cons v l ih => exact congrArg (fun a : State => { a with mem := s.mem, uecc := s.uecc }) (ih _ _)

theorem State.memWf_wr_setBad {s : State} (wf : s.memWf = true) (pa : Nat) (v : DWord) :
    ((s.wr pa 8 v.toNat).setBad pa false).memWf = true := State.wr_memWf wf pa 8 v.toNat

theorem State.get_stored_other (l : List DWord) {pa b : Nat} {s : State} (wf : s.memWf = true) (off : b < pa ∨ pa + 8 * l.length ≤ b) :
    Memory.get (State.stored l pa s).mem b = Memory.get s.mem b := by
  induction l generalizing pa s with
  | nil => rfl
  | cons v l ih =>
    rw [List.length_cons] at off
    rw [State.stored, ih (State.memWf_wr_setBad wf pa v) (by omega)]
    exact Memory.get_write_other wf v.toNat (by omega)

/-- Byte `i` of a doubleword. -/
theorem bits_byte (v : DWord) (i : Nat) : BitVec.ofNat 8 (v.toNat / 256 ^ i) = bits v (8 * i) 8 := by
  have pow : 256 ^ i = 2 ^ (8 * i) := Nat.pow_mul 2 8 i ▸ rfl
  rw [pow, ← Nat.shiftRight_eq_div_pow]
  rfl

/-- Byte `i` of the words stored is byte `i % 8` of word `i / 8`. -/
theorem State.get_stored (l : List DWord) (pa : Nat) {s : State} (wf : s.memWf = true) {i : Nat} (within : i < 8 * l.length) :
    Memory.get (State.stored l pa s).mem (pa + i) = bits (l.getD (i / 8) 0) (8 * (i % 8)) 8 := by
  induction l generalizing pa s i with
  | nil => exact absurd within (Nat.not_lt_zero i)
  | cons v l ih =>
    rw [List.length_cons] at within
    have wf' := State.memWf_wr_setBad wf pa v
    rw [State.stored]
    by_cases first : i < 8
    · rw [State.get_stored_other l wf' (by omega), Nat.div_eq_of_lt first, Nat.mod_eq_of_lt first, List.getD_cons_zero, ← bits_byte]
      exact Memory.get_write wf pa 8 v.toNat i first
    · have later := ih (pa + 8) wf' (i := i - 8) (by omega)
      rw [show pa + 8 + (i - 8) = pa + i by omega, show (i - 8) % 8 = i % 8 by omega] at later
      rw [later, show i / 8 = (i - 8) / 8 + 1 by omega, List.getD_cons_succ]

/-- Whether a word may be stored does not depend on what memory holds. -/
theorem State.mrFault_stored_word (s : State) (x : CtxId) (pa b : Nat) (v : DWord) :
    ((s.wr pa 8 v.toNat).setBad pa false).mrFault x b true = s.mrFault x b true := rfl

/-- Words none of which is refused are all written. -/
theorem State.mrStore_all {x : CtxId} (l : List DWord) (pa k : Nat) (s : State)
    (fine : ∀ i, i < l.length → s.mrFault x (pa + 8 * i) true = none) :
    State.mrStore x none l pa k s = (State.stored l pa s, 8 * (k + l.length), 0) := by
  induction l generalizing pa k s with
  | nil => rfl
  | cons v l ih =>
    have head : s.mrFault x pa true = none := fine 0 (Nat.zero_lt_succ _)
    have tail := ih (pa + 8) (k + 1) ((s.wr pa 8 v.toNat).setBad pa false) fun i within => by
      rw [State.mrFault_stored_word, show pa + 8 + 8 * i = pa + 8 * (i + 1) by omega]
      exact fine (i + 1) (Nat.succ_lt_succ within)
    simp only [State.mrStore, head, tail, reduceCtorEq, false_and, if_false, State.stored, List.length_cons]
    rw [show k + 1 + l.length = k + (l.length + 1) by omega]

/-- A first word that is refused ends the transfer before anything is written. -/
theorem State.mrStore_refused {x : CtxId} {l : List DWord} {pa : Nat} {s : State} {c : Byte} (nonempty : l ≠ [])
    (refused : s.mrFault x pa true = some c) (lostAt : Option Nat) :
    State.mrStore x lostAt l pa 0 s = (s.mrCount pa c, 0, c) := by
  obtain ⟨v, l, rfl⟩ := List.exists_cons_of_ne_nil nonempty
  simp only [State.mrStore, refused]

/-! ## Words for the host -/

/-- The word that the hub reads at `pa`: a lock word, or 8 bytes of memory. -/
def State.mrWord (s : State) (pa : Nat) : Nat := if inLocks pa then (s.lockWord (lockOf pa)).toNat else s.rd pa 8

/-- The bytes of `n` words read from `pa` on. -/
def State.mrBytes (s : State) (pa n : Nat) : List Byte := (List.range n).flatMap fun k => leBytes 8 (s.mrWord (pa + 8 * k))

theorem State.mrBytes_succ (s : State) (pa n : Nat) :
    s.mrBytes pa (n + 1) = leBytes 8 (s.mrWord pa) ++ s.mrBytes (pa + 8) n := by
  simp only [State.mrBytes, List.range_succ_eq_map, List.flatMap_cons, List.flatMap_map, Nat.mul_zero, Nat.add_zero]
  congr 2
  funext k
  rw [show pa + 8 * (k + 1) = pa + 8 + 8 * k by omega]

theorem State.length_mrBytes (s : State) (pa n : Nat) : (s.mrBytes pa n).length = 8 * n := by
  induction n generalizing pa with
  | zero => rfl
  | succ n ih => rw [State.mrBytes_succ, List.length_append, ih, show (leBytes 8 (s.mrWord pa)).length = 8 from rfl]; omega

/-- Words none of which is refused are all read, and the reads change nothing. -/
theorem State.mrLoad_all {x : CtxId} (n pa : Nat) (acc : List Byte) (s : State)
    (fine : ∀ i, i < n → s.mrFault x (pa + 8 * i) false = none) :
    State.mrLoad x none n pa acc s = (s, acc ++ s.mrBytes pa n, 0) := by
  induction n generalizing pa acc with
  | zero => simp [State.mrLoad, State.mrBytes]
  | succ n ih =>
    have head : s.mrFault x pa false = none := fine 0 (Nat.zero_lt_succ _)
    have tail (acc : List Byte) := ih (pa + 8) acc fun i within => by
      rw [show pa + 8 + 8 * i = pa + 8 * (i + 1) by omega]
      exact fine (i + 1) (Nat.succ_lt_succ within)
    simp only [State.mrLoad, head, reduceCtorEq, if_false, tail, State.mrBytes_succ, List.append_assoc, State.mrWord]

theorem State.mrLoad_refused {x : CtxId} {n pa : Nat} {s : State} {c : Byte} (nonempty : n ≠ 0)
    (refused : s.mrFault x pa false = some c) (ceAt : Option Nat) :
    State.mrLoad x ceAt n pa [] s = (s.mrCount pa c, [], c) := by
  obtain ⟨n, rfl⟩ := Nat.exists_eq_succ_of_ne_zero nonempty
  simp only [State.mrLoad, refused]

/-- A refused word counts at its bank, its router or its pseudo-channel, and changes nothing else (10 R297, R302, 11 R330). -/
theorem State.mrCount_frame (s : State) (pa : Nat) (c : Byte) :
    { s.mrCount pa c with banks := s.banks, spine := s.spine, pcs := s.pcs } = s := by
  unfold State.mrCount
  split
  · split
    · rfl
    · split
      · rfl
      · split
        · rfl
        · split <;> rfl
  · split <;> rfl

theorem State.mrCount_hub (s : State) (pa : Nat) (c : Byte) : (s.mrCount pa c).hub = s.hub :=
  (congrArg State.hub (s.mrCount_frame pa c) :)
theorem State.mrCount_ctxs (s : State) (pa : Nat) (c : Byte) : (s.mrCount pa c).ctxs = s.ctxs :=
  (congrArg State.ctxs (s.mrCount_frame pa c) :)
theorem State.mrCount_threads (s : State) (pa : Nat) (c : Byte) : (s.mrCount pa c).threads = s.threads :=
  (congrArg State.threads (s.mrCount_frame pa c) :)

/-! ## What a transfer comes to -/

section Outcomes
variable {s : State} {f : FuncId} {x : CtxId} {e : BitVec 256} {host : List DWord} {c : Byte}

theorem State.mrTransfer_stored (admits : s.mrAdmits x e) (dir : mrIn e = true)
    (right : (s.readWin x (BitVec.ofNat 6 (fldN e 12 1))).w = true) (full : host.length = mrLength e / 8)
    (fine : ∀ k, k < mrLength e / 8 → s.mrFault x (s.mrBase x e + 8 * k) true = none) (ceAt : Option Nat) :
    s.mrTransfer f x e host none ceAt = (State.stored host (s.mrBase x e) s, mrLength e, 0) := by
  rw [State.mrTransfer_in admits dir right, ← full, List.take_length, State.mrStore_all host _ 0 s (full ▸ fine), Nat.zero_add, full,
    (mrLength_of_mrOk admits.ok).2]

theorem State.mrTransfer_storeRefused (admits : s.mrAdmits x e) (dir : mrIn e = true)
    (right : (s.readWin x (BitVec.ofNat 6 (fldN e 12 1))).w = true) (full : host.length = mrLength e / 8)
    (refused : s.mrFault x (s.mrBase x e) true = some c) (ceAt : Option Nat) :
    s.mrTransfer f x e host none ceAt = (s.mrCount (s.mrBase x e) c, 0, c) := by
  have least := (mrLength_of_mrOk admits.ok).1
  have nonempty : host ≠ [] := List.ne_nil_of_length_pos (by omega)
  rw [State.mrTransfer_in admits dir right, ← full, List.take_length, State.mrStore_refused nonempty refused]

theorem State.mrTransfer_sent (admits : s.mrAdmits x e) (dir : mrIn e = false)
    (right : (s.readWin x (BitVec.ofNat 6 (fldN e 12 1))).r = true) (answers : s.barsAnswer f = true)
    (fine : ∀ k, k < mrLength e / 8 → s.mrFault x (s.mrBase x e + 8 * k) false = none) :
    s.mrTransfer f x e host none none =
      (s.emit (.hostWrite f (mrHaddr e) (s.mrBytes (s.mrBase x e) (mrLength e / 8))), mrLength e, 0) := by
  obtain ⟨least, whole⟩ := mrLength_of_mrOk admits.ok
  have bytes : (s.mrBytes (s.mrBase x e) (mrLength e / 8)).length = mrLength e := (s.length_mrBytes _ _).trans whole
  have nonempty : (s.mrBytes (s.mrBase x e) (mrLength e / 8)).isEmpty = false := by
    rw [List.isEmpty_eq_false_iff]
    exact List.ne_nil_of_length_pos (by omega)
  rw [State.mrTransfer_out admits dir right, State.mrLoad_all _ _ [] s fine]
  simp only [List.nil_append, nonempty, Bool.false_eq_true, if_false, State.emitFor_of_barsAnswer answers, bytes]

theorem State.mrTransfer_loadRefused (admits : s.mrAdmits x e) (dir : mrIn e = false)
    (right : (s.readWin x (BitVec.ofNat 6 (fldN e 12 1))).r = true) (refused : s.mrFault x (s.mrBase x e) false = some c) :
    s.mrTransfer f x e host none none = (s.mrCount (s.mrBase x e) c, 0, c) := by
  have least := (mrLength_of_mrOk admits.ok).1
  rw [State.mrTransfer_out admits dir right, State.mrLoad_refused (by omega) refused]
  rfl

end Outcomes

/-! ## Every way an entry ends -/

section Ends
variable {s t : State} {f : FuncId} {r : RingId} {g q : Ring} {e : BitVec 256} {host : List DWord}

/-- The end of an entry, seen from the state before its transfer, which left the hub alone. -/
theorem State.mrDone_of_hub (ring : s.ring f r = some g) (bound : s.ring f g.cring = some q) (other : g.cring ≠ r)
    (hub : t.hub = s.hub) (n : Nat) (c : Byte) :
    let s' := t.mrDone f r g.cring e n c
    s'.EntryDone f r g q e n c ∧ t.Signalled s' := by
  have same (k : RingId) : t.ring f k = s.ring f k := congrArg (fun h : Hub => h.rings.find (ringKey f k)) hub
  exact State.mrDone_spec ((same r).trans ring) ((same g.cring).trans bound) other e n c

/-- An entry that is done in the state it met changes nothing outside the hub. -/
theorem State.mrDone_untouched (ring : s.ring f r = some g) (bound : s.ring f g.cring = some q) (other : g.cring ≠ r) (c : Byte) :
    let s' := s.mrDone f r g.cring e 0 c
    s'.mem = s.mem ∧ s'.EntryDone f r g q e 0 c ∧ s'.ctxs = s.ctxs := by
  obtain ⟨done, signalled⟩ := State.mrDone_of_hub (e := e) ring bound other rfl 0 c
  exact ⟨signalled.mem, done, signalled.ctxs⟩

/-- An entry whose first word is refused ends with the cause, and memory, contexts and threads stand. -/
theorem State.mrDone_refused (ring : s.ring f r = some g) (bound : s.ring f g.cring = some q) (other : g.cring ≠ r) (pa : Nat)
    (c : Byte) :
    let s' := (s.mrCount pa c).mrDone f r g.cring e 0 c
    s'.mem = s.mem ∧ s'.EntryDone f r g q e 0 c ∧ s'.ctxs = s.ctxs ∧ s'.threads = s.threads := by
  obtain ⟨done, signalled⟩ := State.mrDone_of_hub (e := e) ring bound other (s.mrCount_hub pa c) 0 c
  exact ⟨signalled.mem.trans (s.mrCount_mem pa c), done, signalled.ctxs.trans (s.mrCount_ctxs pa c),
    signalled.threads.trans (s.mrCount_threads pa c)⟩

/-- An entry whose words from the host are all stored: its bytes stand in memory, and every other byte as before. -/
theorem State.mrDone_stored (ring : s.ring f r = some g) (bound : s.ring f g.cring = some q) (other : g.cring ≠ r)
    (wf : s.memWf = true) (pa : Nat) :
    let s' := (State.stored host pa s).mrDone f r g.cring e (8 * host.length) 0
    (∀ i, i < 8 * host.length → Memory.get s'.mem (pa + i) = bits (host.getD (i / 8) 0) (8 * (i % 8)) 8) ∧
      (∀ b, b < pa ∨ pa + 8 * host.length ≤ b → Memory.get s'.mem b = Memory.get s.mem b) ∧
      s'.EntryDone f r g q e (8 * host.length) 0 ∧
      { s' with mem := s.mem, uecc := s.uecc, hub := s.hub, out := s.out } = s := by
  let t := State.stored host pa s
  have stored := State.stored_frame host pa s
  obtain ⟨done, signalled⟩ := State.mrDone_of_hub (t := t) (e := e) ring bound other (congrArg State.hub stored :) (8 * host.length) 0
  refine ⟨fun i within => ?_, fun b off => ?_, done, ?_⟩
  · rw [signalled.mem]
    exact State.get_stored host pa wf within
  · rw [signalled.mem]
    exact State.get_stored_other host wf off
  · calc { t.mrDone f r g.cring e (8 * host.length) 0 with mem := s.mem, uecc := s.uecc, hub := s.hub, out := s.out }
        = { t with mem := s.mem, uecc := s.uecc, hub := s.hub, out := s.out } :=
          congrArg (fun a : State => { a with mem := s.mem, uecc := s.uecc, hub := s.hub, out := s.out }) signalled.frame
      _ = s := congrArg (fun a : State => { a with hub := s.hub, out := s.out }) stored

/-- An entry whose words for the host are all read: they have left, and nothing outside the hub has changed. -/
theorem State.mrDone_sent (ring : s.ring f r = some g) (bound : s.ring f g.cring = some q) (other : g.cring ≠ r) (o : Output) (n : Nat) :
    let s' := (s.emit o).mrDone f r g.cring e n 0
    o ∈ s'.out ∧ s'.EntryDone f r g q e n 0 ∧ { s' with hub := s.hub, out := s.out } = s := by
  obtain ⟨done, signalled⟩ := State.mrDone_of_hub (t := s.emit o) (e := e) ring bound other rfl n 0
  exact ⟨signalled.mem_out List.mem_cons_self, done, ((s.signalled_emit o).trans signalled).frame⟩

end Ends

theorem State.barsAnswer_of_ringReads {s : State} {f : FuncId} {g : Ring} (reads : s.ringReads f g = true) :
    s.barsAnswer f = true := by
  simp only [State.ringReads, Bool.and_eq_true] at reads
  obtain ⟨⟨⟨⟨⟨answers, _⟩, _⟩, _⟩, _⟩, _⟩ := reads
  exact answers

/-- Settles O33: each clause is what the transfer comes to (`mrTransfer_fenced`, `mrTransfer_stored`, `mrTransfer_storeRefused`,
`mrTransfer_sent`, `mrTransfer_loadRefused`), with the end of the entry in that state. -/
theorem memoryRingsTransferWords : Obligations.MemoryRingsTransferWords := by
  intro f r e host s g q wf ring kind reads ready other bound ok w a len _ row
  have whole : 8 * (len / 8) = len := (mrLength_of_mrOk ok).2
  refine ⟨fun refused come => ?row, fun sound fenced come => ?fenced, fun sound taken unfenced valid within => ?_⟩
  case row =>
    exact ⟨_, exec_memoryRingTransfer_row ring kind reads ready come refused none none, State.mrDone_untouched ring bound other _⟩
  case fenced =>
    exact ⟨_, exec_memoryRingTransfer_of_mrTransfer ring kind reads ready come sound (State.mrTransfer_fenced ok fenced none none),
      State.mrDone_untouched ring bound other _⟩
  have admits : s.mrAdmits g.ctx e := ⟨ok, taken, unfenced, valid, within⟩
  refine ⟨fun ceAt dir full right => ?into, fun dir right => ?out⟩
  case into =>
    have ends := @exec_memoryRingTransfer_of_mrTransfer s f r g e host ring kind reads ready (fun _ => full.ge) sound none ceAt
    refine ⟨fun fine => ?stored, fun c refused => ?refused⟩
    case stored =>
      have ended := State.mrDone_stored (e := e) (host := host) ring bound other wf a
      rw [full, whole] at ended
      exact ⟨_, ends (State.mrTransfer_stored admits dir right full fine ceAt), ended⟩
    case refused =>
      exact ⟨_, ends (State.mrTransfer_storeRefused admits dir right full refused ceAt), State.mrDone_refused ring bound other _ c⟩
  case out =>
    have come (into : mrIn e = true) : mrLength e / 8 ≤ host.length := absurd (dir.symm.trans into) Bool.false_ne_true
    have ends := @exec_memoryRingTransfer_of_mrTransfer s f r g e host ring kind reads ready come sound none none
    refine ⟨fun fine => ?sent, fun c refused => ?refused⟩
    case sent =>
      have answers := State.barsAnswer_of_ringReads reads
      exact ⟨_, ends (State.mrTransfer_sent admits dir right answers fine), State.mrDone_sent ring bound other _ len⟩
    case refused =>
      exact ⟨_, ends (State.mrTransfer_loadRefused admits dir right refused), State.mrDone_refused ring bound other _ c⟩

end Sys2Proof.Machine
end

section
/-! PROOFS. The broke queue takes tokens and writes them to fault rings, a fault record takes two entries there, and a result-window
slot is given back (12 R353-R359, 04 R136, R137). -/

namespace Sys2Proof.Machine

/-! ## The broke queue takes a token -/

/-- A token that counts in INFLIGHT leaves it when the broke queue takes it (06 R181). -/
def State.brokeSettled (s : State) (b : Broke) : State := if b.counted then s.inflightSub b.ctx 1 else s

theorem State.brokeSettled_spec (s : State) (b : Broke) :
    let t := s.brokeSettled b
    (t.ctx b.ctx).inflight.toNat = (s.ctx b.ctx).inflight.toNat - (if b.counted then 1 else 0) ∧
      (t.ctx b.ctx).brokecnt = (s.ctx b.ctx).brokecnt ∧ (∀ x, x ≠ b.ctx → t.ctx x = s.ctx x) ∧ { t with ctxs := s.ctxs } = s := by
  unfold State.brokeSettled
  split
  case isTrue =>
    have entry : (s.inflightSub b.ctx 1).ctx b.ctx =
        { s.ctx b.ctx with inflight := BitVec.ofNat 32 ((s.ctx b.ctx).inflight.toNat - 1) } := s.ctx_updCtx_same b.ctx _
    refine ⟨?_, by rw [entry], fun x other => s.ctx_updCtx_other other _, rfl⟩
    rw [entry, BitVec.toNat_ofNat]
    exact Nat.mod_eq_of_lt (by omega)
  case isFalse => exact ⟨rfl, rfl, fun _ _ => rfl, rfl⟩

/-- The broke queue has taken its next token, charged to a context in use. -/
def State.brokeTaken (s : State) (b : Broke) (rest : List Broke) : State :=
  (((s.updHub fun h => { h with brokeIn := rest }).brokeSettled b).updCtx b.ctx fun e => { e with brokecnt := satInc e.brokecnt }).updHub
    fun h => { h with broke := h.broke ++ [b] }

theorem exec_brokeIntake {s : State} {b : Broke} {rest : List Broke} (head : s.hub.brokeIn = b :: rest)
    (taken : (s.ctx b.ctx).state ≠ FREE) (room : s.hub.broke.length < 4096) :
    exec .brokeIntake s = .next (s.brokeTaken b rest) := by
  have used : ((s.ctx b.ctx).state == FREE) = false := beq_eq_false_iff_ne.mpr taken
  show execBrokeIntake s = _
  simp only [execBrokeIntake, head, used, Bool.false_eq_true, if_false]
  exact if_pos (by split <;> exact room)

theorem State.brokeTaken_spec (s : State) (b : Broke) (rest : List Broke) :
    let s' := s.brokeTaken b rest
    s'.hub.broke = s.hub.broke ++ [b] ∧ s'.hub.brokeIn = rest ∧ (s'.ctx b.ctx).brokecnt = satInc (s.ctx b.ctx).brokecnt ∧
      (s'.ctx b.ctx).inflight.toNat = (s.ctx b.ctx).inflight.toNat - (if b.counted then 1 else 0) ∧
      (∀ x, x ≠ b.ctx → s'.ctx x = s.ctx x) ∧ { s' with hub := s.hub, ctxs := s.ctxs } = s := by
  let noted := s.updHub fun h => { h with brokeIn := rest }
  let t := noted.brokeSettled b
  obtain ⟨inflight, count, others, frame⟩ := noted.brokeSettled_spec b
  have hub : t.hub = noted.hub := (congrArg State.hub frame :)
  have entry : (s.brokeTaken b rest).ctx b.ctx = { t.ctx b.ctx with brokecnt := satInc (t.ctx b.ctx).brokecnt } :=
    t.ctx_updCtx_same b.ctx fun e => { e with brokecnt := satInc e.brokecnt }
  have broke : t.hub.broke = s.hub.broke := (congrArg Hub.broke hub :)
  have brokeIn : t.hub.brokeIn = rest := (congrArg Hub.brokeIn hub :)
  refine ⟨congrArg (· ++ [b]) broke, brokeIn, ?_, ?_, fun x other => ?_, ?_⟩
  · rw [entry]; exact congrArg satInc count
  · rw [entry]; exact inflight
  · exact (t.ctx_updCtx_other other fun e => { e with brokecnt := satInc e.brokecnt }).trans (others x other)
  · exact congrArg (fun a : State => { a with hub := s.hub, ctxs := s.ctxs }) frame

/-! ## The reel writes a record -/

/-- A record of the hub that the reel writes takes one entry of the ring; no context's count moves (12 R351). -/
theorem State.reelPut_record {s : State} {f : FuncId} {r : RingId} {g : Ring} (ring : s.ring f r = some g) {i : ReelItem}
    (record : i.ctx = none) :
    let s' := s.reelPut f r i
    (∃ g', s'.ring f r = some g' ∧ g'.d = g.d + 1) ∧ s'.hub.broke = s.hub.broke ∧ s'.offHub = s.offHub := by
  have put : ∃ (t : State) (g' : Ring) (cause : Bool), s.reelPut f r i = t.ringTo f r g g' cause ∧ g'.d = g.d + 1 ∧
      t.hub.broke = s.hub.broke ∧ t.offHub = s.offHub := by
    simp only [State.reelPut, ring, record]
    refine ⟨_, _, _, rfl, rfl, ?_, ?_⟩
    · split
      · rfl
      · exact (congrArg (fun a : State => a.hub.broke) (s.signalled_emitFor f _).rest :)
    · split
      · rfl
      · exact s.offHub_emitFor f _
  obtain ⟨t, g', cause, put, moved, broke, frame⟩ := put
  obtain ⟨g'', ring', core⟩ := State.ring_of_ringCore (t.ringCore_ringTo f r g g' cause)
  have signalled := t.signalled_ringTo f r g g' cause
  rw [put]
  exact ⟨⟨g'', ring', (congrArg Ring.d core :).trans moved⟩, (congrArg (fun a : State => a.hub.broke) signalled.rest :).trans broke,
    signalled.offHub.trans frame⟩

/-- The count of orphans stands in the hub, beside rings and broke queue. -/
theorem State.orphan_spec (s : State) (b : Bool) :
    (s.orphan b).offHub = s.offHub ∧ (s.orphan b).hub.rings = s.hub.rings ∧ (s.orphan b).hub.broke = s.hub.broke := by
  unfold State.orphan
  split <;> exact ⟨rfl, rfl, rfl⟩

theorem State.ring_orphan (s : State) (b : Bool) (f : FuncId) (r : RingId) : (s.orphan b).ring f r = s.ring f r :=
  congrArg (Map.find · (ringKey f r)) (s.orphan_spec b).2.1

/-! ## The broke queue writes a token -/

/-- The entry of a broke token (12 R359). -/
def Broke.item (b : Broke) : ReelItem :=
  { tag := b.token.tag, value := b.token.value, type := 2, poison := b.poison, cause := b.cause, tt := b.token.tick.isSome, ctx := none }

/-- The state in which the entry of a broke token is written: the token has left the queue. -/
def State.brokeLeft (s : State) (b : Broke) (rest : List Broke) : State :=
  (s.updHub fun h => { h with broke := rest }).orphan (s.faultDest b.ctx).2

theorem exec_brokeEntryWrite {s : State} {f : FuncId} {r : RingId} {b : Broke} {rest : List Broke} {g : Ring}
    (first : s.takeBroke f s.hub.broke = some (b, rest)) (dest : s.faultRing f = some r) (ring : s.ring f r = some g)
    (sound : g.rfault = false) (room : g.room ≠ 0) :
    exec (.brokeEntryWrite f) s = .next ((s.brokeLeft b rest).reelPut f r b.item) := by
  show execBrokeEntryWrite f s = _
  simp only [execBrokeEntryWrite, first, dest, ring, sound, room, Bool.false_eq_true, or_self, if_false]
  rfl

theorem State.brokeLeft_reelPut {s : State} {f : FuncId} {r : RingId} {g : Ring} (ring : s.ring f r = some g) (b : Broke)
    (rest : List Broke) :
    let s' := (s.brokeLeft b rest).reelPut f r b.item
    s'.hub.broke = rest ∧ (∃ g', s'.ring f r = some g' ∧ g'.d = g.d + 1) ∧ { s' with hub := s.hub, out := s.out } = s := by
  let noted := s.updHub fun h => { h with broke := rest }
  obtain ⟨frame, _, broke⟩ := noted.orphan_spec (s.faultDest b.ctx).2
  have ring' : (s.brokeLeft b rest).ring f r = some g := (noted.ring_orphan _ f r).trans ring
  obtain ⟨moved, broke', frame'⟩ := State.reelPut_record ring' (i := b.item) rfl
  exact ⟨broke'.trans broke, moved, State.frame_of_offHub (frame'.trans frame)⟩

/-! ## A fault record leaves its cluster -/

/-- The record of a cluster's fault buffer leaves it, and so does the reservation it has asked for. -/
def State.recordLeft (s : State) (c : ClusterId) (i : Nat) (q : FaultRec) : State :=
  (s.dropRecordClaim c q).updCluster c fun cl => { cl with faults := dropAt cl.faults i }

theorem State.dropRecordClaim_spec (s : State) (c : ClusterId) (q : FaultRec) :
    ((s.dropRecordClaim c q).cluster c).faults = (s.cluster c).faults ∧ { s.dropRecordClaim c q with clusters := s.clusters } = s := by
  unfold State.dropRecordClaim
  split
  · exact ⟨s.cluster_updCluster_keeps _ c Cluster.faults rfl, rfl⟩
  · exact ⟨rfl, rfl⟩

theorem State.recordLeft_spec (s : State) (c : ClusterId) (i : Nat) (q : FaultRec) :
    ((s.recordLeft c i q).cluster c).faults = dropAt (s.cluster c).faults i ∧ { s.recordLeft c i q with clusters := s.clusters } = s := by
  obtain ⟨faults, frame⟩ := s.dropRecordClaim_spec c q
  refine ⟨?_, frame⟩
  rw [State.recordLeft, State.cluster_updCluster_same, faults]

/-- No thread waits for the place that has freed. -/
theorem State.faultPlace_none {s : State} (c : ClusterId) (noneHeld : ∀ e ∈ s.threads, e.2.heldRec = none) : s.faultPlace c = s := by
  have nobody : s.heldFirst c = none := by
    unfold State.heldFirst
    rw [List.filterMap_eq_nil_iff.mpr fun e listed => ?_]
    · rfl
    · simp only [noneHeld e listed, Option.map_none, ite_self]
  rw [State.faultPlace, nobody]

/-- The two entries of a fault record (12 R350, R353). -/
def FaultRec.item (q : FaultRec) (type : BitVec 4) (k : Nat) : ReelItem :=
  { tag := q.words.getD k 0, value := q.words.getD (k + 1) 0, type := type, poison := false, cause := bits (q.words.getD 0 0) 0 8,
    tt := false, ctx := none }

section Record
variable {s : State} {c : ClusterId} {i : BitVec 6} {q : FaultRec} {n : RingId} {g : Ring}

/-- The state in which the entries of a fault record are written. -/
def State.recordGone (s : State) (c : ClusterId) (i : Nat) (q : FaultRec) : State := (s.recordLeft c i q).orphan (s.faultDest q.ctx).2

theorem exec_faultRecordSend_ring (held : (s.cluster c).faults[i.toNat]? = some q) (noSup : s.recordSup q = none)
    (dest : s.faultRing (s.faultDest q.ctx).1 = some n) (ring : s.ring (s.faultDest q.ctx).1 n = some g) (sound : g.rfault = false)
    (room : 2 ≤ g.room) (noneHeld : ∀ e ∈ s.threads, e.2.heldRec = none) :
    exec (.faultRecordSend c i) s =
      .next (((s.recordGone c i.toNat q).reelPut (s.faultDest q.ctx).1 n (q.item 3 0)).reelPut (s.faultDest q.ctx).1 n (q.item 4 2)) := by
  have threads : (s.recordLeft c i.toNat q).threads = s.threads := (congrArg State.threads (s.recordLeft_spec c i.toNat q).2 :)
  have placed : (s.recordLeft c i.toNat q).faultPlace c = s.recordLeft c i.toNat q := State.faultPlace_none c (threads ▸ noneHeld)
  show execFaultRecordSend c i s = _
  simp only [execFaultRecordSend, held, noSup, State.recordToRing, dest, ring, sound, Nat.not_lt.mpr room, Bool.false_eq_true, or_self,
    if_false]
  rw [← State.recordLeft, placed]
  rfl

theorem State.recordGone_reelPut (ring : s.ring (s.faultDest q.ctx).1 n = some g) (c : ClusterId) (i : Nat) :
    let s' := ((s.recordGone c i q).reelPut (s.faultDest q.ctx).1 n (q.item 3 0)).reelPut (s.faultDest q.ctx).1 n (q.item 4 2)
    (s'.cluster c).faults = dropAt (s.cluster c).faults i ∧ (∃ g', s'.ring (s.faultDest q.ctx).1 n = some g' ∧ g'.d = g.d + 2) ∧
      { s' with hub := s.hub, out := s.out, clusters := s.clusters } = s := by
  obtain ⟨faults, left⟩ := s.recordLeft_spec c i q
  obtain ⟨counted, _, _⟩ := (s.recordLeft c i q).orphan_spec (s.faultDest q.ctx).2
  have hub : (s.recordLeft c i q).hub = s.hub := (congrArg State.hub left :)
  have ring0 : (s.recordGone c i q).ring (s.faultDest q.ctx).1 n = some g :=
    ((s.recordLeft c i q).ring_orphan _ _ n).trans ((congrArg (fun h : Hub => h.rings.find _) hub).trans ring)
  obtain ⟨⟨g1, ring1, moved1⟩, _, frame1⟩ := State.reelPut_record ring0 (i := q.item 3 0) rfl
  obtain ⟨⟨g2, ring2, moved2⟩, _, frame2⟩ := State.reelPut_record ring1 (i := q.item 4 2) rfl
  have same := frame2.trans (frame1.trans counted)
  refine ⟨(congrArg (fun a : State => (a.cluster c).faults) same :).trans faults, ⟨g2, ring2, ?_⟩, ?_⟩
  · rw [moved2, moved1, BitVec.add_assoc]
    rfl
  · exact (congrArg (fun a : State => { a with hub := s.hub, out := s.out, clusters := s.clusters }) same :).trans
      (congrArg (fun a : State => { a with hub := s.hub, out := s.out }) left)

end Record

/-! ## The result window -/

/-- A host that reaches the function reads BAR0: it gets the value there, and in the result window the slot may be given back. -/
theorem exec_resultWindowRead {s : State} {f : FuncId} (there : s.funcExists f = true) (rails : s.hostRails = true) (off : BitVec 16) :
    exec (.resultWindowRead f off true) s =
      .next (if 0x4000 ≤ off.toNat ∧ off.toNat < 0x8000 then
          (s.emit (.completion f (some (s.bar0Read f off.toNat true)))).slotRead f off.toNat true
        else s.emit (.completion f (some (s.bar0Read f off.toNat true)))) := by
  show execResultWindowRead f off true s = _
  simp only [execResultWindowRead, there, rails, not_true_eq_false, or_self, if_false, Bool.not_true, Bool.false_eq_true, and_false]
  split <;> rfl

section Window
variable {s : State} {f : FuncId} {o : Nat}

/-- The number of the slot at an offset of the result window (12 R356). -/
def slotAt (f : FuncId) (o : Nat) : Nat := 64 * f.toNat + (o - 0x4000) / 256

theorem State.bar0Word_window (low : 0x4000 ≤ o) (high : o < 0x8000) :
    s.bar0Word f o = (s.hub.slots.getD (slotAt f o) {}).word (o % 256 / 8) := by
  rw [State.bar0Word, if_neg (by omega), if_neg (by omega), if_neg (by omega), if_neg (by omega), if_pos ⟨low, high⟩]
  rfl

theorem bar0Whole_of_lt {a : Nat} (outside : a < 0x1000 ∨ 0x2000 ≤ a) (below : a < 0x8000) : bar0Whole a = true := by
  have rings : (decide (0x1000 ≤ a) && decide (a < 0x2000)) = false := by
    rw [Bool.and_eq_false_iff, decide_eq_false_iff_not, decide_eq_false_iff_not]
    omega
  have msix : decide (0x8000 ≤ a) = false := decide_eq_false (by omega)
  rw [bar0Whole, rings, msix]
  rfl

/-- A read of 8 bytes outside the ring and MSI-X registers returns its aligned word; a misaligned one returns zero (12 R343). -/
theorem State.bar0Read_wide (whole : bar0Whole (8 * (o / 8)) = true) :
    s.bar0Read f o true = readPart true o (s.bar0Word f (8 * (o / 8))) := by
  rw [State.bar0Read, whole]
  rfl

theorem State.bar0Read_window (low : 0x4000 ≤ o) (high : o < 0x8000) :
    s.bar0Read f o true = readPart true o ((s.hub.slots.getD (slotAt f o) {}).word (o % 256 / 8)) := by
  rw [State.bar0Read_wide (bar0Whole_of_lt (by omega) (by omega)), State.bar0Word_window (by omega) (by omega)]
  simp only [slotAt]
  rw [show (8 * (o / 8) - 0x4000) / 256 = (o - 0x4000) / 256 by omega, show 8 * (o / 8) % 256 / 8 = o % 256 / 8 by omega]

/-- A read that does not include the last byte of a slot leaves the slot. -/
theorem State.slotRead_other (t : State) (inside : o % 256 ≠ 0x20) : t.slotRead f o true = t := by
  simp [State.slotRead, inside]

/-- A ring whose slot has been given back gets one credit (12 R357). -/
def State.slotCredit (s : State) (f : FuncId) (r : RingId) : State :=
  match s.ring f r with
  | some g => if g.win && g.kind == 1 then s.ringTo f r g { g with h := g.h + 1 } else s
  | none => s

theorem State.signalled_slotCredit (s : State) (f : FuncId) (r : RingId) : s.Signalled (s.slotCredit f r) := by
  unfold State.slotCredit
  split
  · split
    · exact s.signalled_ringTo f r _ _ false
    · exact .refl s
  · exact .refl s

theorem State.ring_slotCredit {r : RingId} {g : Ring} (ring : s.ring f r = some g) (win : g.win = true) (kind : g.kind = 1) :
    ∃ g', (s.slotCredit f r).ring f r = some g' ∧ g'.h = g.h + 1 := by
  have credit : s.slotCredit f r = s.ringTo f r g { g with h := g.h + 1 } := by
    simp only [State.slotCredit, ring, win, kind, beq_self_eq_true, Bool.and_self, if_true]
  obtain ⟨g', ring', core⟩ := State.ring_of_ringCore (s.ringCore_ringTo f r g { g with h := g.h + 1 } false)
  exact ⟨g', credit ▸ ring', (congrArg Ring.h core :)⟩

/-- The slot at an offset is given back. -/
def State.slotGiven (s : State) (f : FuncId) (o : Nat) : State :=
  s.updHub fun h =>
    { h with slots := h.slots.set (slotAt f o) { s.hub.slots.getD (slotAt f o) {} with ready := false, taken := true } }

/-- A read of the last 8 bytes of a READY slot gives it back, with a credit for its ring (12 R357). -/
theorem State.slotRead_last (last : o % 256 = 0x20) (ready : (s.hub.slots.getD (slotAt f o) {}).ready = true) :
    s.slotRead f o true = (s.slotGiven f o).slotCredit f (s.hub.slots.getD (slotAt f o) {}).ring := by
  simp only [State.slotRead, last, beq_self_eq_true, Bool.and_true, if_true]
  exact if_pos ready

theorem State.slotGiven_slots (s : State) (f : FuncId) (o : Nat) :
    (s.slotGiven f o).hub.slots.getD (slotAt f o) {} = { s.hub.slots.getD (slotAt f o) {} with ready := false, taken := true } := by
  rw [State.slotGiven, State.updHub_hub, Map.getD_set, if_pos rfl]

end Window

theorem answers_resultWindowRead_last {s : State} {f : FuncId} {off : BitVec 16} (there : s.funcExists f = true)
    (rails : s.hostRails = true) (low : 0x4000 ≤ off.toNat) (high : off.toNat < 0x8000) (last : off.toNat % 256 = 0x20)
    (ready : (s.hub.slots.getD (slotAt f off.toNat) {}).ready = true) :
    let w := s.hub.slots.getD (slotAt f off.toNat) {}
    Answers (.resultWindowRead f off true) s fun s' =>
      s'.hub.slots.getD (slotAt f off.toNat) {} = { w with ready := false, taken := true } ∧
      .completion f (some (bits w.entry 192 64)) ∈ s'.out ∧
      (∀ g, s.ring f w.ring = some g → g.win = true → g.kind = 1 → ∃ g', s'.ring f w.ring = some g' ∧ g'.h = g.h + 1) ∧
      { s' with hub := s.hub, out := s.out } = s := by
  intro w
  let t := s.emit (.completion f (some (s.bar0Read f off.toNat true)))
  let given := t.slotGiven f off.toNat
  have value : s.bar0Read f off.toNat true = bits w.entry 192 64 := by
    have aligned : off.toNat % 8 = 0 := by omega
    rw [State.bar0Read_window low high, readPart, if_pos rfl, if_pos aligned, last, WinSlot.word,
      if_neg (by decide), if_pos ⟨ready, by decide⟩]
  have credited := given.signalled_slotCredit f w.ring
  refine ⟨given.slotCredit f w.ring, ?_, ?_, ?_, fun g ring win kind => State.ring_slotCredit (s := given) ring win kind, ?_⟩
  · rw [exec_resultWindowRead there rails]
    exact congrArg Host.Outcome.next ((if_pos ⟨low, high⟩).trans (State.slotRead_last (s := t) last ready))
  · have slots : (given.slotCredit f w.ring).hub.slots = given.hub.slots := (congrArg (fun a : State => a.hub.slots) credited.rest :)
    rw [slots]
    exact t.slotGiven_slots f off.toNat
  · rw [← value]
    exact credited.mem_out List.mem_cons_self
  · exact State.frame_of_offHub credited.offHub

/-- Settles O35: the intake by `State.brokeTaken_spec`, the two records by `State.reelPut_record`, and the result window offset by
offset. -/
theorem brokeTokensAndFaultRecordsReachTheHost : Obligations.BrokeTokensAndFaultRecordsReachTheHost := by
  refine ⟨fun s b rest head taken room => ?intake, fun f r s b rest g first dest ring sound room => ?entry,
    fun c i s q n g held noSup dest ring sound room noneHeld => ?record, fun f off s there rails => ?window⟩
  case intake => exact ⟨_, exec_brokeIntake head taken room, s.brokeTaken_spec b rest⟩
  case entry => exact ⟨_, exec_brokeEntryWrite first dest ring sound room, State.brokeLeft_reelPut ring b rest⟩
  case record =>
    exact ⟨_, exec_faultRecordSend_ring held noSup dest ring sound room noneHeld, State.recordGone_reelPut ring c i.toNat⟩
  case window =>
    have read := exec_resultWindowRead there rails off
    refine ⟨fun low high inside => ?inside, fun low high last ready => ?last, fun zero => ?zero, fun status => ?status⟩
    case inside => rw [read, State.slotRead_other _ inside, ite_self, State.bar0Read_window low high]; rfl
    case last => exact answers_resultWindowRead_last there rails low high last ready
    case zero =>
      have value : s.bar0Read f off.toNat true = 0 := by rw [zero]; rfl
      rw [read, value, if_neg (by omega)]
    case status =>
      have value : s.bar0Read f off.toNat true = s.mbStatus f := by rw [status]; rfl
      rw [read, value, if_neg (by omega)]

end Sys2Proof.Machine
end

section
/-! PROOFS. A host releases pending vectors through MSI-X, and reads, compares and writes lock words in BAR2 (12 R344, R358). -/

namespace Sys2Proof.Machine

/-! ## Vectors that were pending -/

/-- The messages of the vectors `go` leave one after another (12 R358). -/
def State.sendAll (s : State) (f : FuncId) (m : Msix) (go : List (BitVec 6)) : State :=
  go.foldl (fun s v => (s.emitFor f (m.message f v)).covered f v) s

theorem State.signalled_sendAll (s : State) (f : FuncId) (m : Msix) (go : List (BitVec 6)) : s.Signalled (s.sendAll f m go) := by
  induction go generalizing s with
  | nil => exact .refl s
  | cons v go ih => exact ((s.signalled_emitFor f _).trans (State.signalled_covered _ f v)).trans (ih _)

@[simp] theorem State.emitFor_msix (s : State) (f : FuncId) (o : Output) : (s.emitFor f o).hub.msix = s.hub.msix := by
  unfold State.emitFor; split <;> rfl

/-- Messages that leave change no vector. -/
theorem State.sendAll_msix (s : State) (f : FuncId) (m : Msix) (go : List (BitVec 6)) :
    (s.sendAll f m go).hub.msix = s.hub.msix := by
  induction go generalizing s with
  | nil => rfl
  | cons v go ih => exact (ih _).trans (s.emitFor_msix f _)

theorem State.message_mem_sendAll {s : State} {f : FuncId} (answers : s.barsAnswer f = true) (m : Msix) {go : List (BitVec 6)}
    {v : BitVec 6} (goes : v ∈ go) : m.message f v ∈ (s.sendAll f m go).out := by
  induction go generalizing s with
  | nil => exact absurd goes List.not_mem_nil
  | cons w go ih =>
    let told := (s.emitFor f (m.message f w)).covered f w
    have signalled : s.Signalled told := (s.signalled_emitFor f _).trans (State.signalled_covered _ f w)
    rcases List.mem_cons.mp goes with rfl | later
    · have left : m.message f v ∈ told.out := by
        show _ ∈ (s.emitFor f (m.message f v)).out
        rw [State.emitFor_of_barsAnswer answers]
        exact List.mem_cons_self
      exact (told.signalled_sendAll f m go).mem_out left
    · exact ih (s := told) ((signalled.barsAnswer f).trans answers) later

/-! ## A change of the capability -/

/-- A capability once the vectors that may be sent have been: with MSI-X enabled and the function unmasked, no unmasked vector is
pending. -/
def Msix.released (m : Msix) : Msix :=
  if m.enable && !m.fmask then { m with pending := m.pending.filter (!m.unmasked.contains ·) } else m

@[simp] theorem Msix.released_enable (m : Msix) : m.released.enable = m.enable := by unfold Msix.released; split <;> rfl
@[simp] theorem Msix.released_fmask (m : Msix) : m.released.fmask = m.fmask := by unfold Msix.released; split <;> rfl
@[simp] theorem Msix.released_unmasked (m : Msix) : m.released.unmasked = m.unmasked := by unfold Msix.released; split <;> rfl

theorem Msix.not_mem_released_pending {m : Msix} {v : BitVec 6} (enabled : m.enable = true) (unmasked : m.fmask = false)
    (listed : v ∈ m.unmasked) : v ∉ m.released.pending := by
  simp [Msix.released, enabled, unmasked, listed]

/-- The capability of `f` is `m`, and every other stands. -/
def State.withMsix (s : State) (f : FuncId) (m : Msix) : State := s.updHub fun h => { h with msix := h.msix.set f.toNat m }

theorem State.msix_withMsix_same (s : State) (f : FuncId) (m : Msix) : (s.withMsix f m).msix f = m := by
  simp [State.msix, State.withMsix, Map.getD_set]

theorem State.msix_withMsix_other (s : State) {f g : FuncId} (other : g ≠ f) (m : Msix) : (s.withMsix f m).msix g = s.msix g := by
  simp [State.msix, State.withMsix, Map.getD_set, toNat_ne other]

/-- What a change of the capability to `m` leaves: `m` with its pending vectors sent, their messages, and nothing else but signals
(12 R358). -/
structure State.Remasked (s : State) (f : FuncId) (m : Msix) (s' : State) : Prop where
  own : s'.msix f = m.released
  others : ∀ g, g ≠ f → s'.msix g = s.msix g
  told : ∀ v, m.enable = true → m.fmask = false → v ∈ m.pending → v ∈ m.unmasked → m.message f v ∈ s'.out
  frame : { s' with hub := s.hub, out := s.out } = s

theorem State.remasked_sendPending {s : State} {f : FuncId} (answers : s.barsAnswer f = true) (m : Msix) :
    s.Remasked f m ((s.withMsix f m).sendPending f) := by
  let t := s.withMsix f m
  have own : t.msix f = m := s.msix_withMsix_same f m
  cases opened : m.enable && !m.fmask
  case false =>
    have stays : t.sendPending f = t := by rw [State.sendPending, own, opened]; rfl
    rw [stays]
    refine ⟨own.trans ?_, fun g other => s.msix_withMsix_other other m, fun v enabled unmasked => ?_, rfl⟩
    · rw [Msix.released, opened]; rfl
    · rw [enabled, unmasked] at opened
      exact absurd opened (by decide)
  case true =>
    let go := m.pending.filter (m.unmasked.contains ·)
    let cleared := t.withMsix f m.released
    have sent : t.sendPending f = cleared.sendAll f m go := by
      have released : m.released = { m with pending := m.pending.filter (!m.unmasked.contains ·) } := by
        rw [Msix.released, opened]; rfl
      show t.sendPending f = (t.withMsix f m.released).sendAll f m go
      rw [State.sendPending, own, opened, released]
      rfl
    have table : (cleared.sendAll f m go).msix = cleared.msix :=
      congrArg (fun (l : Map Msix) (g : FuncId) => l.getD g.toNat {}) (cleared.sendAll_msix f m go)
    rw [sent]
    refine ⟨?_, fun g other => ?_, fun v _ _ pending listed => ?_,
      State.frame_of_offHub (cleared.signalled_sendAll f m go).offHub⟩
    · rw [table]; exact t.msix_withMsix_same f m.released
    · rw [table]; exact (t.msix_withMsix_other other _).trans (s.msix_withMsix_other other m)
    · have goes : v ∈ go := List.mem_filter.mpr ⟨pending, List.contains_iff_mem.mpr listed⟩
      exact State.message_mem_sendAll (s := cleared) answers m goes

/-- A function whose BARs answer takes a change of its capability. -/
theorem State.remasked_msixSet {s : State} {f : FuncId} (answers : s.barsAnswer f = true) (u : Msix → Msix) :
    s.Remasked f (u (s.msix f)) (s.msixSet f u) := by
  rw [State.msixSet, if_pos answers]
  exact State.remasked_sendPending answers (u (s.msix f))

/-- A capability with one more vector unmasked. -/
def Msix.unmask (m : Msix) (v : BitVec 6) : Msix :=
  { m with unmasked := if m.unmasked.contains v then m.unmasked else m.unmasked ++ [v] }

theorem Msix.mem_unmask (m : Msix) (v : BitVec 6) : v ∈ (m.unmask v).unmasked := by
  unfold Msix.unmask
  dsimp only
  split
  case isTrue listed => exact List.contains_iff_mem.mp listed
  case isFalse => exact List.mem_append_right _ List.mem_cons_self

section Msix
variable {s : State} {f : FuncId}

theorem answers_msixVectorUnmask (answers : s.barsAnswer f = true) (v : BitVec 6) :
    Answers (.msixVectorUnmask f v) s fun s' => v ∈ (s'.msix f).unmasked ∧ (s'.msix f).enable = (s.msix f).enable ∧
      ((s.msix f).enable = true → (s.msix f).fmask = false →
        v ∉ (s'.msix f).pending ∧ (v ∈ (s.msix f).pending → (s.msix f).message f v ∈ s'.out)) ∧
      (∀ g, g ≠ f → s'.msix g = s.msix g) ∧ { s' with hub := s.hub, out := s.out } = s := by
  have listed := (s.msix f).mem_unmask v
  obtain ⟨own, others, told, frame⟩ := State.remasked_msixSet answers (Msix.unmask · v)
  refine ⟨s.msixSet f (Msix.unmask · v), rfl, ?_, ?_, fun enabled unmasked => ⟨?_, fun pending => ?_⟩, others, frame⟩
  · rw [own, Msix.released_unmasked]; exact listed
  · rw [own, Msix.released_enable]; rfl
  · rw [own]; exact Msix.not_mem_released_pending enabled unmasked listed
  · exact told v enabled unmasked pending listed

theorem answers_msixEnable (answers : s.barsAnswer f = true) (v : BitVec 6) :
    Answers (.msixEnable f) s fun s' => (s'.msix f).enable = true ∧ (s'.msix f).fmask = (s.msix f).fmask ∧
      (s'.msix f).unmasked = (s.msix f).unmasked ∧
      ((s.msix f).fmask = false → v ∈ (s.msix f).pending → v ∈ (s.msix f).unmasked → (s.msix f).message f v ∈ s'.out) ∧
      (∀ g, g ≠ f → s'.msix g = s.msix g) ∧ { s' with hub := s.hub, out := s.out } = s := by
  obtain ⟨own, others, told, frame⟩ := State.remasked_msixSet answers fun m => { m with enable := true }
  refine ⟨_, rfl, ?_, ?_, ?_, fun unmasked => told v rfl unmasked, others, frame⟩
  · rw [own, Msix.released_enable]
  · rw [own, Msix.released_fmask]
  · rw [own, Msix.released_unmasked]

theorem answers_functionMaskClear (answers : s.barsAnswer f = true) (v : BitVec 6) :
    Answers (.functionMaskClear f) s fun s' => (s'.msix f).fmask = false ∧ (s'.msix f).enable = (s.msix f).enable ∧
      (s'.msix f).unmasked = (s.msix f).unmasked ∧
      ((s.msix f).enable = true → v ∈ (s.msix f).pending → v ∈ (s.msix f).unmasked → (s.msix f).message f v ∈ s'.out) ∧
      (∀ g, g ≠ f → s'.msix g = s.msix g) ∧ { s' with hub := s.hub, out := s.out } = s := by
  obtain ⟨own, others, told, frame⟩ := State.remasked_msixSet answers fun m => { m with fmask := false }
  refine ⟨_, rfl, ?_, ?_, ?_, fun enabled => told v enabled rfl, others, frame⟩
  · rw [own, Msix.released_fmask]
  · rw [own, Msix.released_enable]
  · rw [own, Msix.released_unmasked]

end Msix

/-! ## BAR2 -/

section Bar2
variable {s : State} {f : FuncId}

theorem State.funcExists_of_barsAnswer (answers : s.barsAnswer f = true) : s.funcExists f = true := by
  simp only [State.barsAnswer, Bool.and_eq_true] at answers
  obtain ⟨⟨⟨there, _⟩, _⟩, _⟩ := answers
  exact there

theorem exec_bar2Read_aligned (there : s.funcExists f = true) {off : BitVec 15} {wide : Bool}
    (aligned : off.toNat % (if wide then 8 else 4) = 0) :
    exec (.bar2Read f off wide) s =
      .next (s.emit (.completion f (some (readPart wide off.toNat
        (if s.lockFunc (bar2Word off) f then s.lockWord (bar2Word off) else 0))))) := by
  show execBar2Read f off wide s = _
  simp only [execBar2Read, there, aligned, ne_eq, not_true_eq_false, if_false]

theorem exec_bar2Read_misaligned (there : s.funcExists f = true) {off : BitVec 15} {wide : Bool}
    (misaligned : off.toNat % (if wide then 8 else 4) ≠ 0) :
    exec (.bar2Read f off wide) s = .next (s.takeFree.emit (.completion f (some (Config.freeValue s.free)))) := by
  show execBar2Read f off wide s = _
  simp only [execBar2Read, there, misaligned, ne_eq, not_true_eq_false, not_false_eq_true, if_true, if_false]

/-- An aligned CAS is the lock unit's, and its completion carries the old word or Completer Abort (12 R344). -/
theorem exec_bar2Cas_aligned (answers : s.barsAnswer f = true) {off : BitVec 15} {expect new old : DWord} {t : State} {st : Byte}
    (aligned : off.toNat % 8 = 0)
    (done : s.lockCas (bar2Word off) expect new { kind := 2, valid := true, who := BitVec.setWidth 13 f } (s.lockFunc (bar2Word off) f) =
      (t, st, old)) :
    exec (.bar2Cas f off expect new .cas64) s = .next (t.emit (.completion f (if st = 0 then some old else none))) := by
  show execBar2Cas f off expect new s .cas64 = _
  simp only [execBar2Cas, State.funcExists_of_barsAnswer answers, answers, aligned, done, ne_eq, not_true_eq_false, if_false]

theorem exec_bar2Cas_misaligned (there : s.funcExists f = true) {off : BitVec 15} (expect new : DWord) (misaligned : off.toNat % 8 ≠ 0) :
    exec (.bar2Cas f off expect new .cas64) s = .next (s.aerReport f .malformed) := by
  show execBar2Cas f off expect new s .cas64 = _
  simp only [execBar2Cas, there, misaligned, ne_eq, not_true_eq_false, not_false_eq_true, if_true, if_false]

theorem exec_bar2Cas_otherOp (there : s.funcExists f = true) (off : BitVec 15) (expect new : DWord) {op : AtomicOp}
    (other : op ≠ .cas64) :
    exec (.bar2Cas f off expect new op) s = .next (s.emit (.unsupported f)) := by
  show execBar2Cas f off expect new s op = _
  simp only [execBar2Cas, there, other, ne_eq, not_true_eq_false, not_false_eq_true, if_true, if_false]

theorem exec_bar2MemoryWrite (answers : s.barsAnswer f = true) (off : BitVec 15) (v : DWord) :
    exec (.bar2MemoryWrite f off v) s = .next { s with locks := { s.locks with barRefused := satInc s.locks.barRefused } } := by
  show execBar2MemoryWrite f off v s = _
  rw [execBar2MemoryWrite, if_neg (not_not_intro answers)]

end Bar2

/-- Settles O36: the three changes of MSI-X by `State.Remasked`, and BAR2 access by access. -/
theorem hostsUseMsixAndLockWords : Obligations.HostsUseMsixAndLockWords := by
  refine ⟨fun f v s answers => ?msix, fun f off s answers => ?bar2⟩
  case msix =>
    exact ⟨answers_msixVectorUnmask answers v, answers_msixEnable answers v, answers_functionMaskClear answers v⟩
  case bar2 =>
    have there := State.funcExists_of_barsAnswer answers
    refine ⟨fun wide aligned => exec_bar2Read_aligned there aligned, fun wide misaligned => ?misread,
      fun expect new aligned => ?cas,
      fun expect new misaligned => exec_bar2Cas_misaligned there expect new misaligned,
      fun op expect new other => exec_bar2Cas_otherOp there off expect new other, fun v => ?write⟩
    case misread => exact ⟨_, exec_bar2Read_misaligned there misaligned, ⟨_, rfl⟩, rfl⟩
    case cas =>
      split
      next done => exact exec_bar2Cas_aligned answers aligned done
    case write => exact ⟨_, exec_bar2MemoryWrite answers off v, rfl, rfl, rfl⟩

end Sys2Proof.Machine
end

section
/-! PROOFS. Function-level resets and resets of a port, and what stands of its functions after them (12 R364-R366, 15 R433, 16 R435). -/

namespace Sys2Proof.Machine

/-! ## Tables without some of their entries -/

theorem Map.find_erase {α : Type} (m : Map α) (k j : Nat) : (m.erase k).find j = if j = k then none else m.find j := by
  induction m with
  | nil => simp [Map.erase, Map.find]
  | cons e m ih =>
    obtain ⟨i, w⟩ := e
    simp only [Map.erase, Map.find]
    by_cases gone : i = k
    · rw [if_pos gone, ih]
      split
      case isTrue => rfl
      case isFalse other => rw [if_neg fun same => other (same.symm.trans gone)]
    · rw [if_neg gone, Map.find, ih]
      by_cases here : i = j
      · rw [if_pos here, if_pos here, if_neg fun same => gone (here.trans same)]
      · rw [if_neg here, if_neg here]

/-- A number whose entries are not kept is not listed. -/
theorem Map.find_keep_none {α : Type} {p : Nat → α → Bool} {k : Nat} (dropped : ∀ v, p k v = false) (m : Map α) :
    (m.keep p).find k = none := by
  induction m with
  | nil => rfl
  | cons e m ih =>
    obtain ⟨i, w⟩ := e
    simp only [Map.keep]
    split
    case isTrue kept =>
      have other : i ≠ k := fun same => by rw [same, dropped] at kept; exact Bool.false_ne_true kept
      rw [Map.find, if_neg other, ih]
    case isFalse => exact ih

theorem Map.of_mem_keep {α : Type} {p : Nat → α → Bool} {m : Map α} {e : Nat × α} (listed : e ∈ m.keep p) :
    p e.1 e.2 = true := by
  induction m with
  | nil => exact absurd listed List.not_mem_nil
  | cons d m ih =>
    obtain ⟨i, w⟩ := d
    simp only [Map.keep] at listed
    split at listed
    case isTrue kept =>
      rcases List.mem_cons.mp listed with rfl | later
      · exact kept
      · exact ih later
    case isFalse => exact ih listed

/-! ## Rings that are destroyed -/

theorem State.tear_hub (s : State) (who : Sender) (x : CtxId) (task : BitVec 16) (ch : BitVec 3) (granted : Bool) :
    (s.tear who x task ch granted).hub = s.hub := by
  unfold State.tear
  split <;> rfl

theorem State.brokeItems_rings (s : State) (is : List ReelItem) : (s.brokeItems is).hub.rings = s.hub.rings :=
  foldl_keeps_view (fun a => a.hub.rings) (fun a i => by split <;> rfl) is s

/-- A ring that is destroyed exists no more, and every other stands (12 R355). -/
theorem State.destroyRing_rings (s : State) (f : FuncId) (r : RingId) {g : Ring} (ring : s.ring f r = some g) :
    (s.destroyRing f r).hub.rings = s.hub.rings.erase (ringKey f r) := by
  simp only [State.destroyRing, ring, State.updHub_hub]
  refine congrArg (Map.erase · (ringKey f r)) ?_
  have torn : (match g.asm with | some o => s.tear (.ring f r) g.ctx o.task o.chan o.grant | none => s).hub.rings = s.hub.rings := by
    split
    · rw [State.tear_hub]
    · rfl
  split
  · exact (State.brokeItems_rings _ _).trans ((State.brokeItems_rings _ g.items).trans torn)
  · exact (State.brokeItems_rings _ g.items).trans torn

theorem State.ring_destroyRing_same (s : State) (f : FuncId) (r : RingId) : (s.destroyRing f r).ring f r = none := by
  cases ring : s.ring f r with
  | none => rw [State.destroyRing, ring]; exact ring
  | some g => rw [State.ring, s.destroyRing_rings f r ring, Map.find_erase, if_pos rfl]

/-- No ring appears where one is destroyed. -/
theorem State.ring_destroyRing_none {s : State} {h : FuncId} {q : RingId} (absent : s.ring h q = none) (f : FuncId) (r : RingId) :
    (s.destroyRing f r).ring h q = none := by
  cases ring : s.ring f r with
  | none => rw [State.destroyRing, ring]; exact absent
  | some g =>
    rw [State.ring, s.destroyRing_rings f r ring, Map.find_erase]
    split
    · rfl
    · exact absent

/-- The rings of function `f` with the listed numbers are destroyed. -/
def State.destroyRings (s : State) (f : FuncId) (l : List Nat) : State := l.foldl (fun s r => s.destroyRing f (BitVec.ofNat 6 r)) s

theorem State.ring_destroyRings_none {s : State} {f : FuncId} {q : RingId} (absent : s.ring f q = none) (l : List Nat) :
    (s.destroyRings f l).ring f q = none := by
  induction l generalizing s with
  | nil => exact absent
  | cons r l ih => exact ih (State.ring_destroyRing_none absent f _)

theorem State.ring_destroyRings (s : State) (f : FuncId) {l : List Nat} {r : Nat} (listed : r ∈ l) :
    (s.destroyRings f l).ring f (BitVec.ofNat 6 r) = none := by
  induction l generalizing s with
  | nil => exact absurd listed List.not_mem_nil
  | cons k l ih =>
    rcases List.mem_cons.mp listed with rfl | later
    · exact State.ring_destroyRings_none (s.ring_destroyRing_same f _) l
    · exact ih _ later

/-! ## The reset of a function -/

/-- The end of an FLR: what the hub and the firmware hold of the function is dropped (12 R364). -/
def State.flrEnd (s : State) (f : FuncId) : State :=
  ((s.updHub fun h =>
    { h with
      slots := h.slots.keep fun k _ => k / 64 != f.toNat
      msix := h.msix.erase f.toNat
      mbox := h.mbox.set f.toNat { notrdy := !(s.port (funcPort f)).enabled }
      order := h.order.erase f
      offer := match h.offer with | some (g, t) => if g == f || f == h.admin then none else some (g, t) | none => none }).updFw fun w =>
        { w with images := w.images.keep fun _ m => m.owner != f }).updFunc f fun e => { e with flr := false }

/-- The steps of an FLR destroy every ring of the function before they end. -/
theorem State.flrSteps_end (s : State) (f : FuncId) : ∃ u : State, (∀ r, u.ring f r = none) ∧ s.flrSteps f = u.flrEnd f := by
  refine ⟨_, fun r => ?_, rfl⟩
  have number : BitVec.ofNat 6 r.toNat = r := BitVec.eq_of_toNat_eq (Nat.mod_eq_of_lt r.isLt)
  exact number ▸ State.ring_destroyRings _ f (List.mem_range.mpr r.isLt)

/-- Beside rings, nothing of function `f` is left in the hub or with the firmware, its FLR is over, and its mailbox is ready where the
port is enabled. -/
def State.FuncCleared (s' : State) (f : FuncId) : Prop :=
  (s'.func f).flr = false ∧ s'.mbox f = { notrdy := !(s'.port (funcPort f)).enabled } ∧ s'.msix f = {} ∧
    (∀ i, i < 64 → s'.hub.slots.getD (64 * f.toNat + i) {} = {}) ∧ ∀ e ∈ s'.fw.images, e.2.owner ≠ f

/-- After the end of an FLR nothing of the function is left in the hub or with the firmware. -/
theorem State.flrEnd_spec (u : State) (f : FuncId) :
    (∀ r, (u.flrEnd f).ring f r = u.ring f r) ∧ (u.flrEnd f).FuncCleared f := by
  refine ⟨fun r => rfl, ?_, ?_, ?_, fun i within => ?_, fun e listed => ?_⟩
  · rw [State.flrEnd, State.func_updFunc_same]
  · exact (congrArg (fun m : Option Mbox => m.getD {}) (Map.find_set_same u.hub.mbox f.toNat _) :)
  · exact (congrArg (fun m : Option Msix => m.getD {}) ((Map.find_erase u.hub.msix f.toNat f.toNat).trans (if_pos rfl)) :)
  · have own (w : WinSlot) : ((64 * f.toNat + i) / 64 != f.toNat) = false := by
      rw [show (64 * f.toNat + i) / 64 = f.toNat by omega]; exact bne_self_eq_false _
    exact (congrArg (fun m : Option WinSlot => m.getD {}) (Map.find_keep_none (p := fun k _ => k / 64 != f.toNat) own u.hub.slots) :)
  · exact bne_iff_ne.mp (Map.of_mem_keep (p := fun _ (m : Image) => m.owner != f) listed)

/-- An FLR of a function that exists, which the running firmware takes at once or which waits for it (12 R364). -/
theorem State.flrOne_of_funcExists {s : State} {f : FuncId} (there : s.funcExists f = true) :
    let noted := s.updFunc f fun e => { e with flr := true, flrAt := some s.scnt }
    s.flrOne f = if s.fwRuns then noted.flrSteps f
      else noted.updHub fun h => { h with mbox := h.mbox.set f.toNat {}, order := h.order.erase f } := by
  rw [State.flrOne, if_neg (not_not_intro there)]
  rfl

theorem State.flrOne_runs {s : State} {f : FuncId} (there : s.funcExists f = true) (runs : s.fwRuns = true) :
    (∀ r, (s.flrOne f).ring f r = none) ∧ (s.flrOne f).FuncCleared f := by
  obtain ⟨u, noRing, steps⟩ := State.flrSteps_end (s.updFunc f fun e => { e with flr := true, flrAt := some s.scnt }) f
  obtain ⟨rings, rest⟩ := u.flrEnd_spec f
  rw [State.flrOne_of_funcExists there, runs, if_pos rfl, steps]
  exact ⟨fun r => (rings r).trans (noRing r), rest⟩

theorem State.flrOne_waits {s : State} {f : FuncId} (there : s.funcExists f = true) (stands : s.fwRuns = false) :
    let s' := s.flrOne f
    (s'.func f).flr = true ∧ (s'.func f).flrAt = some s.scnt ∧ s'.mbox f = {} ∧ s'.hub.rings = s.hub.rings ∧
      { s' with hub := s.hub } = s := by
  let noted := s.updFunc f fun e => { e with flr := true, flrAt := some s.scnt }
  have row : noted.func f = { s.func f with flr := true, flrAt := some s.scnt } := s.func_updFunc_same f _
  rw [State.flrOne_of_funcExists there, stands, if_neg Bool.false_ne_true]
  refine ⟨(congrArg Func.flr row :), (congrArg Func.flrAt row :), ?_, rfl, rfl⟩
  exact (congrArg (fun m : Option Mbox => m.getD {}) (Map.find_set_same noted.hub.mbox f.toNat _) :)

/-- An FLR acts on its function, and that of a PF on every function of the port (12 R365). -/
theorem exec_flr {s : State} {f : FuncId} (there : s.funcExists f = true) :
    exec (.flr f) s = .next (if funcIdx f = 0 then (portFuncs (funcPort f) true).foldl State.flrOne s else s.flrOne f) := by
  show execFlr f s = _
  rw [execFlr, if_pos there, State.flr]

/-! ## A port goes down -/

@[simp] theorem State.port_updPort_same (s : State) (p : BitVec 2) (g : Port → Port) : (s.updPort p g).port p = g (s.port p) := by
  simp [State.port, State.updPort]

/-- A mailbox as it stands while its function waits for the firmware. -/
def State.clearMbox (s : State) (f : FuncId) : State :=
  s.updHub fun h => { h with mbox := h.mbox.set f.toNat {}, order := h.order.erase f }

theorem State.port_clearMbox (s : State) (f : FuncId) (p : BitVec 2) : (s.clearMbox f).port p = s.port p := rfl

theorem State.mbox_clearMbox (s : State) (f g : FuncId) : (s.clearMbox f).mbox g = if g = f then {} else s.mbox g := by
  rw [State.clearMbox, State.mbox, State.updHub_hub, Map.getD_set]
  simp only [BitVec.toNat_inj]
  rfl

theorem State.mbox_foldl_clearMbox_empty {s : State} {g : FuncId} (empty : s.mbox g = {}) (l : List FuncId) :
    (l.foldl State.clearMbox s).mbox g = {} :=
  List.foldlRecOn (motive := fun t => t.mbox g = {}) l State.clearMbox empty fun t same f _ => by
    rw [State.mbox_clearMbox, same, ite_self]

theorem State.mbox_foldl_clearMbox (s : State) {l : List FuncId} {g : FuncId} (listed : g ∈ l) :
    (l.foldl State.clearMbox s).mbox g = {} := by
  induction l generalizing s with
  | nil => exact absurd listed List.not_mem_nil
  | cons f l ih =>
    rcases List.mem_cons.mp listed with rfl | later
    · exact State.mbox_foldl_clearMbox_empty (by rw [State.mbox_clearMbox, if_pos rfl]) l
    · exact ih _ later

/-- A port that has gone down for the reason given (12 R366, 15 R430). -/
def Port.down (q : Port) (why : Option PortReset) : Port :=
  { q with perst := q.perst || why == some .pin, retrain := q.retrain || (why == some .hot || why == some .dlDown), linkUp := false,
           crs := true, enabled := false, vfEnable := false, numVfs := 0, deckle := true, gen5 := false,
           gen4 := q.gen4 && why != some .pin && why != some .hot, eqMark := if why == some .pin || why == some .hot then 0 else q.eqMark }

/-- A port that goes down is in its down form in the end, and the mailboxes of its functions are empty. -/
theorem State.portDown_spec (s : State) (p : BitVec 2) (why : Option PortReset) :
    (∃ q : Port, (s.portDown p why).port p = q.down why) ∧ ∀ f ∈ portFuncs p true, (s.portDown p why).mbox f = {} := by
  have last : ∃ t : State, s.portDown p why = (portFuncs p true).foldl State.clearMbox (t.updPort p (Port.down · why)) := by
    unfold State.portDown State.clearMbox
    exact ⟨_, rfl⟩
  obtain ⟨t, last⟩ := last
  have kept := foldl_keeps_view (State.port · p) (fun a f => a.port_clearMbox f p) (portFuncs p true) (t.updPort p (Port.down · why))
  rw [last]
  exact ⟨⟨t.port p, kept.trans (t.port_updPort_same p _)⟩, fun f listed => State.mbox_foldl_clearMbox _ listed⟩

/-- What a host sees of a port that is down. -/
def State.IsDown (t : State) (p : BitVec 2) : Prop :=
  (t.port p).linkUp = false ∧ (t.port p).enabled = false ∧ (t.port p).crs = true ∧ (t.port p).vfEnable = false ∧
    (t.port p).numVfs = 0 ∧ (t.port p).deckle = true ∧ ∀ f ∈ portFuncs p true, t.mbox f = {}

theorem State.isDown_portDown (s : State) (p : BitVec 2) (why : Option PortReset) : (s.portDown p why).IsDown p := by
  obtain ⟨⟨q, port⟩, mbox⟩ := s.portDown_spec p why
  rw [State.IsDown, port]
  exact ⟨rfl, rfl, rfl, rfl, rfl, rfl, mbox⟩

theorem exec_perstNAssert {s : State} {p : BitVec 2} (present : (s.port p).present = true) (why : PortReset) :
    exec (.perstNAssert p why) s = .next (s.portDown p (some why)) := by
  show execPerstNAssert p s why = _
  rw [execPerstNAssert, if_pos present]

/-- PERST_N holds PCI_p in reset itself. -/
theorem State.perst_portDown (s : State) (p : BitVec 2) : ((s.portDown p (some .pin)).port p).perst = true := by
  obtain ⟨⟨q, port⟩, _⟩ := s.portDown_spec p (some .pin)
  rw [port]
  exact Bool.or_true q.perst

/-- A hot reset or DL_Down holds PCI_p in reset until the link has retrained (15 R430). -/
theorem State.retrain_portDown (s : State) (p : BitVec 2) {why : PortReset} (other : why ≠ .pin) :
    ((s.portDown p (some why)).port p).retrain = true := by
  obtain ⟨⟨q, port⟩, _⟩ := s.portDown_spec p (some why)
  rw [port]
  cases why with
  | pin => exact absurd rfl other
  | hot => exact Bool.or_true q.retrain
  | dlDown => exact Bool.or_true q.retrain

theorem exec_pcieUncorrectableError {s : State} {p : BitVec 2} (present : (s.port p).present = true) (link : (s.port p).linkUp = true) :
    exec (.pcieUncorrectableError p) s = .next ((s.aerReport (pfOf p) .link).portDown p none) := by
  show execPcieUncorrectableError p s = _
  rw [execPcieUncorrectableError, present, link]
  rfl

/-! ## VF Enable -/

/-- The part without its mailboxes. -/
def State.offMbox (s : State) : State := { s with hub := { s.hub with mbox := [] } }

/-- The mailbox of VF `i` of a port with `k` VFs comes to be: it is ready once an FLR of the VF has ended (12 R364). -/
def State.vfMbox (p : BitVec 2) (k : BitVec 5) (s : State) (i : Nat) : State :=
  if i = 0 ∨ k.toNat < i then s else s.updMbox (p ++ BitVec.ofNat 5 i) fun _ => { notrdy := (s.func (p ++ BitVec.ofNat 5 i)).flr }

theorem State.offMbox_vfMbox (p : BitVec 2) (k : BitVec 5) (s : State) (i : Nat) : (State.vfMbox p k s i).offMbox = s.offMbox := by
  unfold State.vfMbox
  split <;> rfl

theorem answers_vfEnableSet {s : State} {p : BitVec 2} (k : BitVec 5) (present : (s.port p).present = true)
    (enabled : (s.port p).enabled = true) (clear : (s.port p).vfEnable = false) :
    Answers (.vfEnableSet p k) s fun s' =>
      s'.port p = { s.port p with vfEnable := true, numVfs := k } ∧ { s' with hub := s.hub } = s := by
  let t := s.updPort p fun q => { q with vfEnable := true, numVfs := k }
  have run : exec (.vfEnableSet p k) s = .next ((List.range 32).foldl (State.vfMbox p k) t) := by
    show execVfEnableSet p k s = _
    simp only [execVfEnableSet, present, enabled, clear, not_true_eq_false, Bool.false_eq_true, or_self, if_false]
    rfl
  have same := foldl_keeps_view State.offMbox (State.offMbox_vfMbox p k) (List.range 32) t
  refine ⟨_, run, ?_, ?_⟩
  · exact (congrArg (State.port · p) same :).trans (s.port_updPort_same p fun q => { q with vfEnable := true, numVfs := k })
  · exact (congrArg (fun a : State => { a with hub := s.hub }) same :)

theorem exec_vfEnableClear {s : State} {p : BitVec 2} (set : (s.port p).vfEnable = true) :
    exec (.vfEnableClear p) s = .next (((portFuncs p false).foldl State.flrOne s).updPort p fun q => { q with vfEnable := false }) := by
  show execVfEnableClear p s = _
  rw [execVfEnableClear, if_neg (not_not_intro set)]

/-! ## A port comes up -/

/-- A port changes, and the crossings between it and HIF are resynchronised where `again` (15 R427). -/
def State.portUp (s : State) (p : BitVec 2) (u : Port → Port) (again : Bool) : State :=
  if again then (s.updPort p u).resync 3 false else s.updPort p u

theorem State.port_mgmtRecord (s : State) (code : BitVec 16) (cause : Byte) (detail : DWord) (p : BitVec 2) :
    (s.mgmtRecord code cause detail).port p = s.port p := by
  rw [State.mgmtRecord]
  split
  · rfl
  · split <;> rfl

/-- Resynchronised crossings touch no port, no memory, no context and no thread. -/
theorem State.resync_spec (s : State) (d : Nat) (asked : Bool) (p : BitVec 2) :
    (s.resync d asked).port p = s.port p ∧ (s.resync d asked).mem = s.mem ∧ (s.resync d asked).ctxs = s.ctxs ∧
      (s.resync d asked).threads = s.threads :=
  ⟨State.port_mgmtRecord _ _ _ _ p, s.resync_mem d asked, State.ctxs_mgmtRecord _ _ _ _, State.threads_mgmtRecord _ _ _ _⟩

theorem State.portUp_spec (s : State) (p : BitVec 2) (u : Port → Port) (again : Bool) :
    let s' := s.portUp p u again
    s'.port p = u (s.port p) ∧ (again = false → { s' with hub := s.hub } = s) ∧ s'.mem = s.mem ∧ s'.ctxs = s.ctxs ∧
      s'.threads = s.threads := by
  have port := s.port_updPort_same p u
  cases again with
  | false => exact ⟨port, fun _ => rfl, rfl, rfl, rfl⟩
  | true =>
    obtain ⟨ports, mem, ctxs, threads⟩ := (s.updPort p u).resync_spec 3 false p
    exact ⟨ports.trans port, fun never => absurd never (by decide), mem, ctxs, threads⟩

theorem exec_perstNRelease {s : State} {p : BitVec 2} (present : (s.port p).present = true) (held : (s.port p).perst = true) :
    let up := s.hostUp && s.clk.pciLock.getLsbD p.toNat
    exec (.perstNRelease p) s =
      .next (s.portUp p (fun q => { q with perst := false, released := q.released || up }) ((s.port p).released && up)) := by
  show execPerstNRelease p s = _
  simp only [execPerstNRelease, present, held, not_true_eq_false, or_self, if_false]
  rfl

theorem exec_pcieLinkUp {s : State} {p : BitVec 2} (gen5 : Bool) (present : (s.port p).present = true) (free : (s.port p).perst = false)
    (host : s.hostUp = true) (rails : s.hostRails = true) (lock : s.clk.pciLock.getLsbD p.toNat = true) (link : (s.port p).linkUp = false) :
    exec (.pcieLinkUp p gen5) s =
      .next (s.portUp p (fun q => { q with linkUp := true, gen5 := gen5 && !q.gen4, deckle := false, retrain := false, released := true })
        ((s.port p).retrain && (s.port p).released)) := by
  show execPcieLinkUp p s gen5 = _
  simp only [execPcieLinkUp, present, free, host, rails, lock, link, Bool.not_false, Bool.and_self, not_true_eq_false, if_false]
  rfl

theorem answers_portEnable {s : State} {p : BitVec 2} (present : (s.port p).present = true) (link : (s.port p).linkUp = true)
    (disabled : (s.port p).enabled = false) (ready : (s.fw.ready || s.keeper.keeper) = true) :
    Answers (.portEnable p) s fun s' =>
      s'.port p = { s.port p with crs := false, enabled := true } ∧ (s'.mbox (pfOf p)).notrdy = (s.func (pfOf p)).flr ∧
        { s' with hub := s.hub } = s := by
  let t := s.updPort p fun q => { q with crs := false, enabled := true }
  have run : exec (.portEnable p) s = .next (t.updMbox (pfOf p) fun m => { m with notrdy := (s.func (pfOf p)).flr }) := by
    show execPortEnable p s = _
    simp only [execPortEnable, present, link, disabled, ready, Bool.not_false, Bool.and_self, if_true]
    rfl
  exact ⟨_, run, s.port_updPort_same p fun q => { q with crs := false, enabled := true },
    congrArg Mbox.notrdy (t.mbox_updMbox_same (pfOf p) _), rfl⟩

/-- Settles O41: a function by `State.flrOne_runs` and `State.flrOne_waits`, a port that goes down by `State.isDown_portDown`, one that
comes up by `State.portUp_spec`. -/
theorem functionsAreReset : Obligations.FunctionsAreReset := by
  refine ⟨fun f s there => ?func, fun p s => ?port⟩
  case func =>
    refine ⟨State.flrOne_runs there, State.flrOne_waits there, fun vf => ?vf, fun pf => ?pf⟩
    case vf => rw [exec_flr there, if_neg vf]
    case pf => rw [exec_flr there, if_pos pf]
  case port =>
    refine ⟨fun k present enabled clear => answers_vfEnableSet k present enabled clear, fun set => exec_vfEnableClear set,
      ⟨fun present => ?pin, fun why other present => ?hot, fun present link => ?error⟩, fun present held => ?release,
      fun gen5 present free host rails lock link => ?linkUp,
      fun present link disabled ready => answers_portEnable present link disabled ready⟩
    case pin => exact ⟨_, exec_perstNAssert present .pin, rfl, s.isDown_portDown p _, s.perst_portDown p⟩
    case hot => exact ⟨_, exec_perstNAssert present why, rfl, s.isDown_portDown p _, s.retrain_portDown p other⟩
    case error => exact ⟨_, exec_pcieUncorrectableError present link, rfl, State.isDown_portDown _ p none⟩
    case release => exact ⟨_, exec_perstNRelease present held, s.portUp_spec p _ _⟩
    case linkUp => exact ⟨_, exec_pcieLinkUp gen5 present free host rails lock link, s.portUp_spec p _ _⟩

end Sys2Proof.Machine
end

section
/-! PROOFS. A step takes the front command (00), and the state at reset holds everything (15 R430, R433). -/

namespace Sys2Proof.Machine

/-- Settles O55: `step` by the two forms of its queue. -/
theorem aStepTakesTheFrontCommand : Obligations.AStepTakesTheFrontCommand := by
  refine ⟨fun c rest s front => ?front, fun s empty => ?empty⟩
  case front => rw [step, front]
  case empty => rw [step, empty]

/-- Settles O56: the tables of the state at reset are empty, so that every object in them is at its reset contents; memory by
`State.reset_memWf`. -/
theorem resetHoldsEverything : Obligations.ResetHoldsEverything :=
  ⟨State.reset_memWf, rfl, rfl, fun _ _ => rfl, fun _ => rfl, fun _ => rfl, rfl, rfl, rfl, fun _ => rfl⟩

end Sys2Proof.Machine
end

section
/-! PROOFS. The mailbox: the command buffer and the doorbell, and what an answer writes (13 R369-R374). -/

namespace Sys2Proof.Machine

/-! ## An answer -/

/-- What an answer writes before its interrupt: the mailbox is answered, and its command leaves the order. -/
def State.noted (s : State) (f : FuncId) (status : BitVec 16) (rsp : BitVec 2048) : State :=
  (s.updMbox f (·.answered status rsp)).updHub fun h => { h with order := h.order.erase f }

@[simp] theorem State.mbox_noted_same (s : State) (f : FuncId) (status : BitVec 16) (rsp : BitVec 2048) :
    (s.noted f status rsp).mbox f = (s.mbox f).answered status rsp := s.mbox_updMbox_same f (·.answered status rsp)

theorem State.mbox_noted_other (s : State) {f g : FuncId} (other : g ≠ f) (status : BitVec 16) (rsp : BitVec 2048) :
    (s.noted f status rsp).mbox g = s.mbox g := s.mbox_updMbox_other other (·.answered status rsp)

@[simp] theorem State.offHub_updMbox (s : State) (f : FuncId) (u : Mbox → Mbox) : (s.updMbox f u).offHub = s.offHub :=
  s.offHub_updHub _

@[simp] theorem State.offHub_noted (s : State) (f : FuncId) (status : BitVec 16) (rsp : BitVec 2048) :
    (s.noted f status rsp).offHub = s.offHub := (State.offHub_updHub _ _).trans (s.offHub_updMbox f _)

/-- A command that waits is answered: the mailbox and the order change, and vector 0 is raised where NOTIFY asks for it. -/
theorem State.answer_eq {s : State} {f : FuncId} (waits : (s.mbox f).pend = true) (status : BitVec 16) (detail : DWord)
    (payload : List Byte) :
    let t := s.noted f status (responseOf status (fld (s.mbox f).latched 2 2) detail payload)
    s.answer f status detail payload = if (s.mbox f).latched.getLsbD 49 then t.raise f 0 else t := by
  rw [State.answer, if_neg (not_not_intro waits)]
  rfl

/-- Behind what an answer writes, only rings, vectors and transfers change. -/
theorem State.signalled_answer {s : State} {f : FuncId} (waits : (s.mbox f).pend = true) (status : BitVec 16) (detail : DWord)
    (payload : List Byte) :
    (s.noted f status (responseOf status (fld (s.mbox f).latched 2 2) detail payload)).Signalled (s.answer f status detail payload) := by
  rw [State.answer_eq waits]
  split
  · exact State.signalled_raise _ f 0
  · exact .refl _

theorem State.Signalled.mbox {s t : State} (signalled : s.Signalled t) (f : FuncId) : t.mbox f = s.mbox f :=
  (congrArg (fun a : State => a.mbox f) signalled.rest :)

theorem State.Signalled.order {s t : State} (signalled : s.Signalled t) : t.hub.order = s.hub.order :=
  (congrArg (fun a : State => a.hub.order) signalled.rest :)

/-- A vector that its function may send leaves as its message. -/
theorem State.raise_out {s : State} {f : FuncId} {v : BitVec 6} (enable : (s.msix f).enable = true)
    (unmasked : (s.msix f).fmask = false) (listed : v ∈ (s.msix f).unmasked) (noFlr : (s.func f).flr = false)
    (rails : s.hostRails = true) : (s.raise f v).out = (s.msix f).message f v :: s.out := by
  have sends : (s.msix f).enable = true ∧ ¬ (s.msix f).fmask = true ∧ v ∈ (s.msix f).unmasked :=
    ⟨enable, by rw [unmasked]; exact Bool.false_ne_true, listed⟩
  have sent : s.emitFor f ((s.msix f).message f v) = s.emit ((s.msix f).message f v) :=
    if_neg (by rw [show (s.hub.funcs.getD f.toNat {}).flr = false from noFlr, rails]; decide)
  have raised : s.raise f v = (s.emitFor f ((s.msix f).message f v)).covered f v := if_pos sends
  rw [raised, sent]
  rfl

/-! ## The doorbell and the command buffer -/

/-- A mailbox whose command is latched at the doorbell (13 R370). -/
def Mbox.latch (m : Mbox) : Mbox := { m.retire with latched := m.cmd, seq := fld m.cmd 2 2, pend := true }

theorem Mbox.latched_latch (m : Mbox) : m.latch.latched = m.cmd := rfl
theorem Mbox.rsp_answered (m : Mbox) (status : BitVec 16) (rsp : BitVec 2048) : (m.answered status rsp).rsp = rsp := rfl

/-- A function that answers has a mailbox whose doorbell is heard in this cycle. -/
theorem exec_mailboxDoorbell {s : State} {f : FuncId} (answers : s.barsAnswer f = true) {v : DWord} (rings : v.getLsbD 0 = true) :
    exec (.mailboxDoorbell f v) s = .next (
      if (s.mbox f).pend then s.updMbox f fun m => { m with overlap := true }
      else if s.keeper.keeper then s.hubAnswer f KEEPER_MODE
      else if (s.mbox f).notrdy then s.hubAnswer f BUSY
      else (s.updMbox f Mbox.latch).updHub fun h => { h with order := h.order ++ [f] }) := by
  have there := State.funcExists_of_barsAnswer answers
  have heard : (s.func f).flrAt ≠ some s.scnt := by
    simp only [State.barsAnswer, Bool.and_eq_true, bne_iff_ne] at answers
    exact answers.2
  show execMailboxDoorbell f v s = _
  simp only [execMailboxDoorbell, there, rings, heard, not_true_eq_false, or_self, if_false]
  (repeat' split) <;> rfl

/-- A doorbell that the hub answers itself: the command is latched, and answered at once. -/
theorem State.hubAnswer_eq (s : State) (f : FuncId) (status : BitVec 16) :
    s.hubAnswer f status = (s.updMbox f Mbox.latch).answer f status 0 [] := rfl

/-- A doorbell that the hub answers itself leaves its answer and nothing else (13 R373, R374). -/
theorem State.hubAnswer_spec (s : State) (f : FuncId) (status : BitVec 16) :
    let s' := s.hubAnswer f status
    let m := s.mbox f
    (s'.mbox f).pend = false ∧ (s'.mbox f).done = true ∧ (s'.mbox f).status = status ∧
      (s'.mbox f).rsp = responseOf status (fld m.cmd 2 2) 0 [] ∧ (∀ g, g ≠ f → s'.mbox g = s.mbox g) ∧
      { s' with hub := s.hub, out := s.out } = s := by
  have latched : (s.updMbox f Mbox.latch).mbox f = (s.mbox f).latch := s.mbox_updMbox_same f Mbox.latch
  have others (g : FuncId) (other : g ≠ f) : (s.updMbox f Mbox.latch).mbox g = s.mbox g := s.mbox_updMbox_other other Mbox.latch
  have signalled := State.signalled_answer (congrArg Mbox.pend latched) status 0 []
  rw [← State.hubAnswer_eq, latched] at signalled
  have answered := signalled.mbox f
  rw [State.mbox_noted_same, latched] at answered
  exact ⟨congrArg Mbox.pend answered, congrArg Mbox.done answered, congrArg Mbox.status answered,
    by rw [answered, Mbox.rsp_answered, Mbox.latched_latch],
    fun g other => (signalled.mbox g).trans ((State.mbox_noted_other _ other _ _).trans (others g other)),
    State.frame_of_offHub (signalled.offHub.trans ((State.offHub_noted _ _ _ _).trans (s.offHub_updMbox f _)))⟩

/-- An aligned write of a function that answers: the buffer takes it, unless a command is pending. -/
theorem exec_mailboxCommandBufferWrite {s : State} {f : FuncId} (answers : s.barsAnswer f = true) {off : BitVec 8} {wide : Bool}
    (aligned : off.toNat % (if wide then 8 else 4) = 0) (v : DWord) :
    exec (.mailboxCommandBufferWrite f off wide v) s = .next (
      if (s.mbox f).pend then s.updMbox f fun m => { m with overlap := true }
      else s.updMbox f fun q => { q.retire with cmd := putFld q.cmd off.toNat (if wide then 8 else 4) v.toNat }) := by
  show execMailboxCommandBufferWrite f off wide v s = _
  simp only [execMailboxCommandBufferWrite, answers, aligned, ne_eq, not_true_eq_false, or_self, if_false, apply_ite Host.Outcome.next]

theorem Mbox.done_retire (m : Mbox) : m.retire.done = false := by
  unfold Mbox.retire
  split
  case isTrue => rfl
  case isFalse undone => exact Bool.eq_false_iff.mpr undone

/-- A doorbell that is accepted latches the command and puts it last in the order (13 R370). -/
theorem answers_mailboxDoorbell_accepted {s : State} {f : FuncId} (answers : s.barsAnswer f = true) {v : DWord}
    (rings : v.getLsbD 0 = true) (idle : (s.mbox f).pend = false) (normal : s.keeper.keeper = false)
    (ready : (s.mbox f).notrdy = false) : Answers (.mailboxDoorbell f v) s fun s' =>
      (s'.mbox f).pend = true ∧ (s'.mbox f).done = false ∧ (s'.mbox f).latched = (s.mbox f).cmd ∧
      (s'.mbox f).seq = fld (s.mbox f).cmd 2 2 ∧ s'.hub.order = s.hub.order ++ [f] ∧ (∀ g, g ≠ f → s'.mbox g = s.mbox g) ∧
      { s' with hub := s.hub } = s := by
  have run := exec_mailboxDoorbell answers rings
  simp only [idle, normal, ready, Bool.false_eq_true, if_false] at run
  have mbox : (s.updMbox f Mbox.latch).mbox f = (s.mbox f).latch := s.mbox_updMbox_same f Mbox.latch
  exact ⟨_, run, congrArg Mbox.pend mbox, (congrArg Mbox.done mbox).trans (s.mbox f).done_retire, congrArg Mbox.latched mbox,
    congrArg Mbox.seq mbox, rfl, fun g other => s.mbox_updMbox_other other Mbox.latch, rfl⟩

/-- A doorbell while the keeper serves, or while the mailbox is not ready, is answered by the hub. -/
theorem answers_mailboxDoorbell_refused {s : State} {f : FuncId} (answers : s.barsAnswer f = true) {v : DWord}
    (rings : v.getLsbD 0 = true) (idle : (s.mbox f).pend = false) (refused : s.keeper.keeper = true ∨ (s.mbox f).notrdy = true) :
    exec (.mailboxDoorbell f v) s = .next (s.hubAnswer f (if s.keeper.keeper then KEEPER_MODE else BUSY)) := by
  rw [exec_mailboxDoorbell answers rings, idle]
  cases keeper : s.keeper.keeper with
  | true => rfl
  | false =>
    rw [refused.resolve_left (by rw [keeper]; exact Bool.false_ne_true)]
    rfl

/-- Settles O38: the doorbell and the buffer case by case, and an answer by `State.answer_eq`. -/
theorem mailboxesAcceptAndAnswer : Obligations.MailboxesAcceptAndAnswer := by
  refine ⟨fun f s answers => ⟨fun off wide v aligned => ⟨fun idle => ?write, fun busy => ?overlap⟩,
    fun v rings => ⟨fun busy => ?busy, answers_mailboxDoorbell_accepted answers rings, fun idle refused => ?refused⟩⟩,
    fun s f status detail payload waits => ?answer⟩
  case write => rw [exec_mailboxCommandBufferWrite answers aligned, idle, if_neg Bool.false_ne_true]
  case overlap => rw [exec_mailboxCommandBufferWrite answers aligned, busy, if_pos rfl]
  case busy => rw [exec_mailboxDoorbell answers rings, busy, if_pos rfl]
  case refused =>
    obtain ⟨pend, done, shown, rsp, rest⟩ := s.hubAnswer_spec f (if s.keeper.keeper then KEEPER_MODE else BUSY)
    exact ⟨_, answers_mailboxDoorbell_refused answers rings idle refused, pend, done, shown, rsp.trans (by rw [shown]), rest⟩
  case answer =>
    have signalled := State.signalled_answer waits status detail payload
    refine ⟨?_, fun g other => (signalled.mbox g).trans (s.mbox_noted_other other _ _), signalled.order,
      State.frame_of_offHub (signalled.offHub.trans (s.offHub_noted _ _ _)), fun notify noFlr enable unmasked listed rails => ?_⟩
    · rw [signalled.mbox f, State.mbox_noted_same]
      rfl
    · rw [State.answer_eq waits, if_pos notify]
      exact State.raise_out (s := s.noted f status _) enable unmasked listed noFlr rails

end Sys2Proof.Machine
end

section
/-! PROOFS. What waiting changes, what a restart of the keeper that ends changes, and the entry into keeper mode with each of its
causes (16 R453-R458). -/

namespace Sys2Proof.Machine

/-! ## Waiting -/

/-- The part without what the passing of time changes: TB and TC, SCNT, the counts of waits, the gap timers and the sections' clocks. -/
def State.timeless (s : State) : State :=
  { s with
    tb := { s.tb with now := 0, frac := 0, tc := 0 }
    scnt := 0
    clusters := []
    banks := []
    hub := { s.hub with flows := [] }
    clk := { s.clk with sections := [] } }

theorem State.timeless_pass (s : State) (n : Nat) : (s.pass n).timeless = s.timeless := by
  unfold State.pass
  split <;> rfl

theorem State.timeless_passTo (s : State) (due : Nat) : (s.passTo due).timeless = s.timeless := s.timeless_pass _

@[simp] theorem State.passTo_keeper (s : State) (due : Nat) : (s.passTo due).keeper = s.keeper :=
  (congrArg State.keeper (s.timeless_passTo due) :)
@[simp] theorem State.passTo_fw (s : State) (due : Nat) : (s.passTo due).fw = s.fw := (congrArg State.fw (s.timeless_passTo due) :)
@[simp] theorem State.passTo_mon (s : State) (due : Nat) : (s.passTo due).mon = s.mon := (congrArg State.mon (s.timeless_passTo due) :)
@[simp] theorem State.passTo_out (s : State) (due : Nat) : (s.passTo due).out = s.out := (congrArg State.out (s.timeless_passTo due) :)
@[simp] theorem State.passTo_eth (s : State) (due : Nat) : (s.passTo due).eth = s.eth := (congrArg State.eth (s.timeless_passTo due) :)

theorem State.scnt_pass (s : State) (n : Nat) : (s.pass n).scnt = s.scnt + 12 * n := by
  unfold State.pass
  split <;> rfl

/-- Waiting until an instant reaches it (log 2). -/
theorem State.le_scnt_passTo (s : State) (due : Nat) : due ≤ (s.passTo due).scnt := by
  rw [State.passTo, State.scnt_pass]
  omega

/-- An event that comes every `n` cycles comes at least `n` after the last. -/
theorem State.le_scnt_every {s : State} {key t : Nat} (last : s.mon.last.find key = some t) (n : Nat) :
    t + n ≤ (s.every key n).scnt := by
  unfold State.every
  rw [last]
  exact s.le_scnt_passTo (t + n)

/-- An event that comes every `n` cycles changes what waiting changes, and the instant of its last coming. -/
theorem State.timeless_every (s : State) (key n : Nat) :
    (s.every key n).timeless = (s.updMon fun m => { m with last := m.last.set key (s.every key n).scnt }).timeless := by
  unfold State.every
  split
  case h_1 t _ =>
    exact (congrArg (fun a : State => a.updMon fun m => { m with last := m.last.set key (s.passTo (t + n)).scnt }) (s.timeless_passTo (t + n)) :)
  case h_2 => rfl

@[simp] theorem State.every_keeper (s : State) (key n : Nat) : (s.every key n).keeper = s.keeper :=
  (congrArg State.keeper (s.timeless_every key n) :)
@[simp] theorem State.every_fw (s : State) (key n : Nat) : (s.every key n).fw = s.fw := (congrArg State.fw (s.timeless_every key n) :)
@[simp] theorem State.every_out (s : State) (key n : Nat) : (s.every key n).out = s.out := (congrArg State.out (s.timeless_every key n) :)
@[simp] theorem State.every_eth (s : State) (key n : Nat) : (s.every key n).eth = s.eth := (congrArg State.eth (s.timeless_every key n) :)
@[simp] theorem State.every_ctxs (s : State) (key n : Nat) : (s.every key n).ctxs = s.ctxs :=
  (congrArg State.ctxs (s.timeless_every key n) :)

/-! ## The keeper's outputs and its restart -/

/-- Driving the outputs anew changes the drive and the levels alone. -/
theorem Keeper.drive_eq (k : Keeper) : k.drive = { k with driven := k.drive.driven, level := k.drive.level } := by
  unfold Keeper.drive
  split <;> rfl

theorem State.drive_eq (s : State) : ∃ d l, s.drive = s.updKeeper fun k => { k with driven := d, level := l } := by
  unfold State.drive
  split
  case isTrue => exact ⟨s.keeper.driven, s.keeper.level, rfl⟩
  case isFalse => exact ⟨_, _, congrArg (fun k : Keeper => s.updKeeper fun _ => k) s.keeper.drive_eq⟩

/-- The keeper but for its outputs and the instant of its restart. -/
def Keeper.mode (k : Keeper) : Keeper := { k with restartAt := none, driven := 0, level := 0 }

theorem Keeper.mode_drive (k : Keeper) : k.drive.mode = k.mode := by rw [k.drive_eq]; rfl

/-- A restart that ends leaves the keeper as it was, but for its outputs (16 R458). -/
theorem State.keeperBack_mode (s : State) : s.keeperBack.keeper.mode = s.keeper.mode := by
  unfold State.keeperBack
  split
  case h_1 => rfl
  case h_2 t _ =>
    show Keeper.mode (Keeper.drive _) = _
    rw [Keeper.mode_drive, State.passTo_keeper]
    rfl

/-- The part without the keeper and what waiting changes. -/
def State.offKeeper (s : State) : State := { s.timeless with keeper := {} }

/-- A restart that ends changes the keeper, and what waiting changes. -/
theorem State.keeperBack_offKeeper (s : State) : s.keeperBack.offKeeper = s.offKeeper := by
  unfold State.keeperBack
  split
  case h_1 => rfl
  case h_2 t _ => exact (congrArg (fun a : State => { a with keeper := {} }) (s.timeless_passTo (t + scMs 5)) :)

@[simp] theorem State.keeperBack_out (s : State) : s.keeperBack.out = s.out := (congrArg State.out s.keeperBack_offKeeper :)
@[simp] theorem State.keeperBack_ctxs (s : State) : s.keeperBack.ctxs = s.ctxs := (congrArg State.ctxs s.keeperBack_offKeeper :)
@[simp] theorem State.keeperBack_mon (s : State) : s.keeperBack.mon = s.mon := (congrArg State.mon s.keeperBack_offKeeper :)
@[simp] theorem State.keeperBack_fw (s : State) : s.keeperBack.fw = s.fw := (congrArg State.fw s.keeperBack_offKeeper :)
@[simp] theorem State.keeperBack_eth (s : State) : s.keeperBack.eth = s.eth := (congrArg State.eth s.keeperBack_offKeeper :)

/-- A restart that is under way is over 5 ms after it began (16 R458). -/
theorem State.keeperBack_restarted {s : State} {t : Nat} (restarts : s.keeper.restartAt = some t) :
    s.keeperBack.keeper.restartAt = none ∧ t + scMs 5 ≤ s.keeperBack.scnt := by
  unfold State.keeperBack
  rw [restarts]
  refine ⟨?_, s.le_scnt_passTo (t + scMs 5)⟩
  show (Keeper.drive _).restartAt = none
  rw [Keeper.drive_eq]

/-! ## Entry into keeper mode -/

/-- What stands of management while the stewards are held and the sections are lost. -/
def State.steered (s : State) : TimeBase × Nat × Fw × Keeper := (s.tb, s.scnt, s.fw, s.keeper)

theorem State.steered_resetCluster (s : State) (c : ClusterId) : (s.resetCluster c).steered = s.steered := rfl

theorem State.steered_resetSection (s : State) (n : BitVec 4) : (s.resetSection n).steered = s.steered := by
  have clusters := foldl_keeps_view State.steered State.steered_resetCluster (sectClusters n) s
  unfold State.resetSection
  generalize sectClusters n = l at clusters ⊢
  exact clusters

theorem State.steered_loseContexts (s : State) : s.loseContexts.steered = s.steered := by
  have sections := foldl_keeps_view State.steered (fun a n => a.steered_resetSection n) allSections s
  unfold State.loseContexts
  generalize allSections = l at sections ⊢
  dsimp only [State.steered, State.abandon, State.updSpine, State.updHub, State.updEth] at sections ⊢
  exact sections

theorem State.offHub_answer (s : State) (f : FuncId) (status : BitVec 16) (detail : DWord) (payload : List Byte) :
    (s.answer f status detail payload).offHub = s.offHub := by
  by_cases waits : (s.mbox f).pend = true
  · exact (State.signalled_answer waits status detail payload).offHub.trans (s.offHub_noted f status _)
  · rw [State.answer, if_pos waits]

theorem State.offHub_refuseCommands (s : State) : s.refuseCommands.offHub = s.offHub :=
  foldl_keeps_view State.offHub (fun a f => a.offHub_answer f KEEPER_MODE 0 []) s.hub.order s

/-- Keeper mode stands with its cause and the instant of entry, which comes after a restart under way in `b` (log 160). -/
def State.KeeperEntered (b : State) (cause : Byte) (s' : State) : Prop :=
  s'.keeper.keeper = true ∧ s'.keeper.cause = cause ∧ s'.keeper.faultN = true ∧ s'.keeper.entrySc = b.keeperBack.scnt ∧
    s'.keeper.entryTb = b.keeperBack.tb.now ∧ s'.fw.held = true ∧ s'.fw.ready = false ∧ s'.ctxs = []

/-- The stewards are held, and with every section the contexts are lost. -/
def State.keeperHeld (s : State) : State :=
  (s.updFw fun w => { w with ready := false, held := true, paused := 0, activating := none }).holdStewards.loseContexts

/-- Time, the keeper and the firmware's data stand, but for the stewards that are held. -/
theorem State.steered_keeperHeld (s : State) :
    s.keeperHeld.steered =
      (s.tb, s.scnt, { s.fw with ready := false, held := true, paused := 0, activating := none, sramBad := [] }, s.keeper) :=
  (State.steered_loseContexts _).trans rfl

/-- The keeper notes its mode, the cause and the instant. -/
def State.keeperMarked (s : State) (cause : Byte) : State :=
  s.updKeeper fun k =>
    { k with keeper := true, cause := cause, keeperAct := true, faultN := true, entryLevel := k.level, entryDriven := k.driven,
             entryTb := s.tb.now, entrySc := s.scnt, delayed := 0, hbSeq := 0, warmed := false, adminPort := funcPort s.hub.admin }

/-- Vector 0 of the PF of every port. -/
def State.tellHosts (s : State) : State :=
  (List.range 4).foldl (fun s p => if (s.port (BitVec.ofNat 2 p)).present then s.raise (pfOf (BitVec.ofNat 2 p)) 0 else s) s

theorem State.offHub_tellHosts (s : State) : s.tellHosts.offHub = s.offHub :=
  foldl_keeps_view State.offHub (fun a p => by simp only [apply_ite State.offHub, State.offHub_raise, ite_self]) (List.range 4) s

theorem State.keeperEnter_eq {s : State} (running : s.keeper.running = true) (normal : s.keeper.keeper = false)
    (alive : s.clk.dead = false) (cause : Byte) :
    s.keeperEnter cause = (s.keeperBack.keeperHeld.keeperMarked cause).tellHosts.refuseCommands.drive := by
  unfold State.keeperEnter
  rw [if_neg (by rw [running, normal, alive]; decide)]
  rfl

theorem State.keeperEntered_keeperEnter {s : State} (running : s.keeper.running = true) (normal : s.keeper.keeper = false)
    (alive : s.clk.dead = false) (cause : Byte) : s.KeeperEntered cause (s.keeperEnter cause) := by
  have steered := s.keeperBack.steered_keeperHeld
  have lost : s.keeperBack.keeperHeld.ctxs = [] := rfl
  rw [State.keeperEnter_eq running normal alive]
  generalize s.keeperBack.keeperHeld = held at steered lost ⊢
  have rest : (held.keeperMarked cause).tellHosts.refuseCommands.offHub = (held.keeperMarked cause).offHub :=
    (State.offHub_refuseCommands _).trans (State.offHub_tellHosts _)
  generalize (held.keeperMarked cause).tellHosts.refuseCommands = told at rest ⊢
  obtain ⟨d, l, driven⟩ := told.drive_eq
  rw [State.KeeperEntered, driven]
  refine ⟨(congrArg (·.keeper.keeper) rest :), (congrArg (·.keeper.cause) rest :), (congrArg (·.keeper.faultN) rest :), ?_, ?_, ?_, ?_,
    (congrArg State.ctxs rest :).trans lost⟩
  · exact (congrArg (·.keeper.entrySc) rest :).trans (congrArg (·.2.1) steered :)
  · exact (congrArg (·.keeper.entryTb) rest :).trans (congrArg (·.1.now) steered :)
  · exact (congrArg (·.fw.held) rest :).trans (congrArg (·.2.2.1.held) steered :)
  · exact (congrArg (·.fw.ready) rest :).trans (congrArg (·.2.2.1.ready) steered :)

theorem exec_keeperModeEntry {c : Byte} (low : 1 ≤ c.toNat) (high : c.toNat ≤ 6) (s : State) :
    exec (.keeperModeEntry c) s = .next (s.keeperEnter c) := congrArg Host.Outcome.next (if_pos ⟨low, high⟩)

theorem exec_stewardWatchdogTimeout {s : State} (loaded : s.fw.held = false) (unpaused : s.fw.paused.toNat < 2)
    (noReset : s.clk.warmLow = false) : exec .stewardWatchdogTimeout s = .next (s.keeperEnter 1) :=
  congrArg Host.Outcome.next (if_neg (by rw [loaded, noReset]; simpa using unpaused))

theorem exec_stewardRestartTimeout {s : State} (restarts : 2 ≤ s.fw.paused.toNat) :
    exec .stewardRestartTimeout s = .next ((s.passTo (s.fw.restartAt + scMs 250)).keeperEnter 1) := if_neg (Nat.not_lt.mpr restarts)

/-- A cause of 16 R438: the second restart within 10 minutes enters keeper mode, any other restarts the stewards. -/
theorem exec_stewardRestart {s : State} {c : Byte} (runs : s.fwRuns = true) (low : 1 ≤ c.toNat) (high : c.toNat ≤ 3) :
    exec (.stewardRestart c) s = .next (if s.restartedLately then s.keeperEnter 1
      else (s.stewardRestart 3).updFw fun w => { w with restartCause := c }) := by
  have named : c ≠ 0 := fun zero => by rw [zero] at low; exact absurd low (by decide)
  exact congrArg Host.Outcome.next (if_neg fun no => no.elim (absurd runs) fun odd => odd.elim named (Nat.not_lt.mpr high))

/-- Settles O30: every cause comes to `State.keeperEnter`, and `State.keeperEntered_keeperEnter` says what that leaves. -/
theorem causesEnterKeeperMode : Obligations.CausesEnterKeeperMode := by
  intro s running normal alive
  have enters (c : Byte) := State.keeperEntered_keeperEnter running normal alive c
  refine ⟨fun c low high => ⟨_, exec_keeperModeEntry low high s, enters c⟩, fun u => ⟨_, rfl, enters 4⟩,
    fun loaded unpaused noReset => ⟨_, exec_stewardWatchdogTimeout loaded unpaused noReset, enters 1⟩, fun restarts => ?timeout,
    fun c runs low high lately => ?restart⟩
  case timeout =>
    let waited := s.passTo (s.fw.restartAt + scMs 250)
    have rest : waited.timeless = s.timeless := s.timeless_passTo _
    have running' : waited.keeper.running = true := (congrArg (·.keeper.running) rest :).trans running
    have normal' : waited.keeper.keeper = false := (congrArg (·.keeper.keeper) rest :).trans normal
    have alive' : waited.clk.dead = false := (congrArg (·.clk.dead) rest :).trans alive
    exact ⟨_, exec_stewardRestartTimeout restarts, State.keeperEntered_keeperEnter running' normal' alive' 1⟩
  case restart => exact ⟨_, (exec_stewardRestart runs low high).trans (by rw [lately, if_pos rfl]), enters 1⟩

end Sys2Proof.Machine
end

section
/-! PROOFS. Domains enter and leave reset, and what cold and warm resets and a thermal trip leave (15 R427-R433). -/

namespace Sys2Proof.Machine

/-! ## Domains -/

@[simp] theorem State.xing_updXing_same (s : State) (d : Nat) (u : Xing → Xing) : (s.updXing d u).xing d = u (s.xing d) := by
  simp [State.xing, State.updXing]

theorem State.xing_updXing_other (s : State) {d e : Nat} (other : e ≠ d) (u : Xing → Xing) : (s.updXing d u).xing e = s.xing e := by
  simp [State.xing, State.updXing, Map.getD_upd_other _ other]

@[simp] theorem State.clk_mgmtRecord (s : State) (code : BitVec 16) (cause : Byte) (detail : DWord) :
    (s.mgmtRecord code cause detail).clk = s.clk := by
  unfold State.mgmtRecord
  split
  · rfl
  · split <;> rfl

/-- The part without its crossings and the records of them to management. -/
def State.offCrossings (s : State) : State :=
  { s with clk := { s.clk with xing := [] }, hub := { s.hub with steward := {}, keeper := {} } }

theorem State.offCrossings_updXing (s : State) (d : Nat) (u : Xing → Xing) : (s.updXing d u).offCrossings = s.offCrossings := rfl

theorem State.offCrossings_mgmtRecord (s : State) (code : BitVec 16) (cause : Byte) (detail : DWord) :
    (s.mgmtRecord code cause detail).offCrossings = s.offCrossings := by
  unfold State.mgmtRecord
  split
  · rfl
  · split <;> rfl

theorem State.offCrossings_resync (s : State) (d : Nat) (asked : Bool) : (s.resync d asked).offCrossings = s.offCrossings :=
  (State.offCrossings_mgmtRecord _ _ _ _).trans (s.offCrossings_updXing d _)

theorem State.offCrossings_releaseDomain (s : State) (d : Nat) : (s.releaseDomain d).offCrossings = s.offCrossings := by
  unfold State.releaseDomain
  dsimp only
  split
  case isTrue => rfl
  case isFalse =>
    split
    case isTrue => exact (State.offCrossings_resync _ d _).trans (s.offCrossings_updXing d _)
    case isFalse => exact s.offCrossings_updXing d _

/-- A resynchronised domain stays out of reset, or in it. -/
theorem State.inReset_resync (s : State) (d e : Nat) (asked : Bool) : ((s.resync d asked).xing e).inReset = (s.xing e).inReset := by
  have kept : (s.resync d asked).xing e =
      (s.updXing d fun x => { x with rsync := true, rsyncCnt := satInc x.rsyncCnt, pending := 0 }).xing e :=
    congrArg (fun k : Clk => k.xing.getD e {}) (State.clk_mgmtRecord _ _ _ _)
  rw [kept]
  by_cases same : e = d
  · rw [same, State.xing_updXing_same]
  · rw [s.xing_updXing_other same]

theorem State.inReset_releaseDomain_same (s : State) (d : Nat) : ((s.releaseDomain d).xing d).inReset = false := by
  unfold State.releaseDomain
  dsimp only
  split
  case isTrue out => exact Bool.eq_false_iff.mpr out
  case isFalse =>
    split
    case isTrue => rw [State.inReset_resync, State.xing_updXing_same]
    case isFalse => rw [State.xing_updXing_same]

theorem State.inReset_releaseDomain_other (s : State) {d e : Nat} (other : e ≠ d) :
    ((s.releaseDomain d).xing e).inReset = (s.xing e).inReset := by
  unfold State.releaseDomain
  dsimp only
  split
  case isTrue => rfl
  case isFalse =>
    split
    case isTrue => rw [State.inReset_resync, s.xing_updXing_other other]
    case isFalse => rw [s.xing_updXing_other other]

/-- `n` domains from `k` on enter reset. -/
def State.holdFrom (s : State) (k n : Nat) : State := (List.range n).foldl (fun t d => t.holdDomain (d + k)) s

theorem State.holdFrom_succ (s : State) (k n : Nat) : s.holdFrom k (n + 1) = (s.holdFrom k n).holdDomain (n + k) := by
  simp [State.holdFrom, List.range_succ]

theorem State.offCrossings_holdFrom (s : State) (k n : Nat) : (s.holdFrom k n).offCrossings = s.offCrossings :=
  foldl_keeps_view State.offCrossings (fun a d => a.offCrossings_updXing (d + k) _) (List.range n) s

/-- Each of the domains is in reset then. -/
theorem State.inReset_holdFrom (s : State) {k n d : Nat} (low : k ≤ d) (high : d < k + n) :
    ((s.holdFrom k n).xing d).inReset = true := by
  induction n with
  | zero => omega
  | succ n ih =>
    rw [State.holdFrom_succ]
    by_cases last : d = n + k
    · rw [last]
      exact (congrArg Xing.inReset (State.xing_updXing_same _ (n + k) _) :)
    · exact (congrArg Xing.inReset (State.xing_updXing_other _ last _) :).trans (ih (by omega))

/-! ## Resets of the part -/

theorem exec_porstNRelease {s : State} (low : s.clk.porstLow = true) (a b c : BitVec 2) (flash : List (Bool × Word)) :
    let programmed := s.updFw fun w => flash.foldl Fw.program w
    let sampled := programmed.updHub fun h =>
      { h with straps := c ++ b ++ a, admin := strapAdmin (c ++ b ++ a) (bifPorts a),
               ports := h.ports.mapV fun k p => { p with present := bifPorts a (BitVec.ofNat 2 k) } }
    exec (.porstNRelease a b c flash) s =
      .next (({ sampled with scnt := 0 }.updClk fun k => { k with porstLow := false, aon := true }).releaseDomain 0) := by
  intro programmed sampled
  show execPorstNRelease a b c s flash = _
  rw [execPorstNRelease, if_neg (not_not_intro low)]

theorem answers_porstNRelease {s : State} (low : s.clk.porstLow = true) (a b c : BitVec 2) (flash : List (Bool × Word)) :
    Answers (.porstNRelease a b c flash) s fun s' =>
      s'.hub.straps = c ++ b ++ a ∧ s'.hub.admin = strapAdmin (c ++ b ++ a) (bifPorts a) ∧ s'.scnt = 0 ∧ s'.clk.porstLow = false ∧
      s'.clk.thermLatch = s.clk.thermLatch ∧ (s'.xing 0).inReset = false ∧ s'.mem = s.mem ∧ (flash = [] → s'.fw = s.fw) ∧
      (∀ bank v, flash = [(bank, v)] → s'.fw.versions.find bank.toNat = some v ∧ s'.fw.staged = none) := by
  refine ⟨_, exec_porstNRelease low a b c flash, ?_⟩
  let programmed := s.updFw fun w => flash.foldl Fw.program w
  let sampled := programmed.updHub fun h =>
    { h with straps := c ++ b ++ a, admin := strapAdmin (c ++ b ++ a) (bifPorts a),
             ports := h.ports.mapV fun k p => { p with present := bifPorts a (BitVec.ofNat 2 k) } }
  let risen := { sampled with scnt := 0 }.updClk fun k => { k with porstLow := false, aon := true }
  have rest : (risen.releaseDomain 0).offCrossings = risen.offCrossings := risen.offCrossings_releaseDomain 0
  have fw : (risen.releaseDomain 0).fw = flash.foldl Fw.program s.fw := (congrArg State.fw rest :)
  refine ⟨(congrArg (·.hub.straps) rest :), (congrArg (·.hub.admin) rest :), (congrArg State.scnt rest :),
    (congrArg (·.clk.porstLow) rest :), (congrArg (·.clk.thermLatch) rest :), risen.inReset_releaseDomain_same 0,
    (congrArg State.mem rest :), fun unwritten => ?_, fun bank v written => ?_⟩
  · rw [fw, unwritten, List.foldl_nil]
  · rw [fw, written]
    exact ⟨Map.find_set_same s.fw.versions bank.toNat v, rfl⟩

/-- The part as a thermal trip leaves it, but for the domains that it then holds (15 R431). -/
def State.tripped (s : State) : State :=
  let t := s.coldReset (s.clk.rstCause ||| 2)
  let k := { t.clk with porstLow := false, aon := true, thermLatch := true, refLoss := s.clk.refLoss, xing := s.clk.xing }
  let ports := s.hub.ports.mapV fun _ p => { present := p.present }
  { t with clk := k, mon := s.mon, scnt := s.scnt, hub := { t.hub with straps := s.hub.straps, ports := ports } }

theorem State.thermalTrip_high {s : State} (high : s.clk.porstLow = false) : s.thermalTrip = s.tripped.holdFrom 1 21 := by
  unfold State.thermalTrip
  rw [if_neg (by rw [high]; exact Bool.false_ne_true)]
  rfl

theorem State.thermalTrip_spec {s : State} (high : s.clk.porstLow = false) :
    let s' := s.thermalTrip
    s'.clk.rstCause = s.clk.rstCause ||| 2 ∧ s'.clk.thermLatch = true ∧ (∀ d, 1 ≤ d → d < 22 → (s'.xing d).inReset = true) ∧
      s'.ctxs = [] ∧ s'.threads = [] ∧ s'.keeper.running = false ∧ s'.scnt = s.scnt ∧ s'.hub.straps = s.hub.straps := by
  have rest := s.tripped.offCrossings_holdFrom 1 21
  have held (d : Nat) (low : 1 ≤ d) (below : d < 22) := s.tripped.inReset_holdFrom (n := 21) low below
  rw [State.thermalTrip_high high]
  generalize s.tripped.holdFrom 1 21 = t at rest held ⊢
  exact ⟨(congrArg (·.clk.rstCause) rest :), (congrArg (·.clk.thermLatch) rest :), held,
    (congrArg State.ctxs rest :), (congrArg State.threads rest :), (congrArg (·.keeper.running) rest :), (congrArg State.scnt rest :),
    (congrArg (·.hub.straps) rest :)⟩

/-- The part as a warm reset leaves it, but for the domains that it then holds (15 R432). -/
def State.warmed (s : State) (bit : Nat) : State :=
  let hub := { State.reset.hub with
    straps := s.hub.straps
    admin := strapAdmin s.hub.straps fun p => (s.port p).present
    ports := s.hub.ports.mapV fun _ p => { present := p.present, perst := p.perst, released := p.released, retrain := p.retrain } }
  let clk := { State.reset.clk with
    refLoss := s.clk.refLoss, safeLock := s.clk.safeLock, xing := s.clk.xing, rstCause := s.clk.rstCause ||| (1 <<< bit),
    refDead := s.clk.refDead, porstLow := false, aon := true, keeperOk := s.clk.keeperOk, dead := s.clk.dead, warmLow := true }
  { State.reset with
    pending := s.pending, free := s.free, out := s.out, scnt := s.scnt, hub := hub, clk := clk, fw := s.fw.flash,
    keeper := { s.keeper with warmed := true },
    mon := { s.mon with traceOn := false, lost := s.mon.lost.filter fun n => (s.mon.vtol.find n).isSome, avsSent := none, mReq := [], fenceHot := [] } }

theorem State.warmReset_eq (s : State) (bit : Nat) : s.warmReset bit = (s.warmed bit).holdFrom 2 20 := rfl

theorem State.warmReset_spec (s : State) (bit : Nat) :
    let s' := s.warmReset bit
    s'.clk.rstCause = s.clk.rstCause ||| (1 <<< bit) ∧ s'.clk.warmLow = true ∧ (∀ d, 2 ≤ d → d < 22 → (s'.xing d).inReset = true) ∧
      s'.ctxs = [] ∧ s'.threads = [] ∧ s'.keeper = { s.keeper with warmed := true } ∧ s'.clk.dead = s.clk.dead ∧ s'.scnt = s.scnt ∧
      s'.hub.straps = s.hub.straps := by
  have rest := (s.warmed bit).offCrossings_holdFrom 2 20
  have held (d : Nat) (low : 2 ≤ d) (below : d < 22) := (s.warmed bit).inReset_holdFrom (n := 20) low below
  rw [State.warmReset_eq]
  generalize (s.warmed bit).holdFrom 2 20 = t at rest held ⊢
  exact ⟨(congrArg (·.clk.rstCause) rest :), (congrArg (·.clk.warmLow) rest :), held,
    (congrArg State.ctxs rest :), (congrArg State.threads rest :), (congrArg State.keeper rest :), (congrArg (·.clk.dead) rest :),
    (congrArg State.scnt rest :), (congrArg (·.hub.straps) rest :)⟩

theorem exec_warmReset {s : State} (awake : s.awake = true) (high : s.clk.warmLow = false) :
    exec .warmReset s = .next (s.warmReset 2) := congrArg Host.Outcome.next (if_neg (by rw [awake, high]; decide))

theorem exec_warmResetRelease {s : State} (low : s.clk.warmLow = true) :
    let waited := if s.keeper.warmReq then s.passTo (s.keeper.warmAt + scUs 10) else s
    exec .warmResetRelease s =
      .next ((waited.updClk fun k => { k with warmLow := false }).updKeeper fun k => { k with warmReq := false }) :=
  if_neg (not_not_intro low)

theorem answers_warmResetRelease {s : State} (low : s.clk.warmLow = true) : Answers .warmResetRelease s fun s' =>
    s'.clk.warmLow = false ∧ s'.keeper = { s.keeper with warmReq := false } ∧
    (s.keeper.warmReq = true → s.keeper.warmAt + scUs 10 ≤ s'.scnt) ∧ s'.mem = s.mem ∧ s'.ctxs = s.ctxs := by
  let waited := if s.keeper.warmReq then s.passTo (s.keeper.warmAt + scUs 10) else s
  have rest : waited.timeless = s.timeless := by
    simp only [waited, apply_ite State.timeless, State.timeless_passTo, ite_self]
  have keeper : waited.keeper = s.keeper := (congrArg State.keeper rest :)
  have reached (asked : s.keeper.warmReq = true) : s.keeper.warmAt + scUs 10 ≤ waited.scnt := by
    simp only [waited, if_pos asked]
    exact s.le_scnt_passTo _
  exact ⟨_, exec_warmResetRelease low, rfl, congrArg (fun k : Keeper => { k with warmReq := false }) keeper, reached,
    (congrArg State.mem rest :), (congrArg State.ctxs rest :)⟩

/-- Settles O42: the cold resets as they stand, the others by `State.warmReset_spec` and `State.thermalTrip_spec`. -/
theorem resetsHoldTheirDomains : Obligations.ResetsHoldTheirDomains := by
  refine ⟨fun s => ?powerUp, fun s => ?porst, fun a b c flash s low => answers_porstNRelease low a b c flash, fun s high => ?trip,
    fun s low => ?latched, fun s awake high => ?warm, fun s low => answers_warmResetRelease low⟩
  case powerUp => exact ⟨_, rfl, rfl, rfl, fun _ _ => rfl, rfl, rfl, rfl, rfl⟩
  case porst => exact ⟨_, rfl, rfl, rfl, rfl, fun _ _ => rfl, rfl, rfl⟩
  case trip => exact ⟨_, rfl, State.thermalTrip_spec high⟩
  case latched => exact ⟨_, congrArg Host.Outcome.next (if_pos low), rfl, rfl⟩
  case warm => exact ⟨_, exec_warmReset awake high, s.warmReset_spec 2⟩

end Sys2Proof.Machine
end

section
/-! PROOFS. Steward restarts, what the keeper does, its mailbox, and the answers to the board (16 R438, R443, R451, R454-R458,
17 R468, R469). -/

namespace Sys2Proof.Machine

/-! ## Stewards that are held -/

/-- The threads of held stewards are gone. -/
theorem State.threads_holdStewards (s : State) (asked : Bool) :
    ∀ e ∈ (s.holdStewards asked).threads, isSteward (BitVec.ofNat 13 e.1) = false := fun e kept => by
  simpa using Map.of_mem_keep (p := fun k (_ : Thread) => !isSteward (BitVec.ofNat 13 k)) (m := s.threads) kept

/-- Holding the stewards changes threads, locks and domain 2, and of the firmware's data the words of their SRAM. -/
theorem State.holdStewards_spec (s : State) (asked : Bool) :
    let s' := s.holdStewards asked
    (∀ e ∈ s'.threads, isSteward (BitVec.ofNat 13 e.1) = false) ∧ s'.fw = { s.fw with sramBad := [] } ∧ s'.mem = s.mem ∧
      s'.ctxs = s.ctxs := ⟨s.threads_holdStewards asked, rfl, rfl, rfl⟩

theorem answers_stewardRestart_first {s : State} {c : Byte} (runs : s.fwRuns = true) (low : 1 ≤ c.toNat) (high : c.toNat ≤ 3)
    (first : s.restartedLately = false) : Answers (.stewardRestart c) s fun s' =>
      s'.fw.paused = 3 ∧ s'.fw.restartCause = c ∧ s'.fw.restartAt = s.scnt ∧ s'.fw.lastRestart = some s.scnt ∧
      (∀ e ∈ s'.threads, isSteward (BitVec.ofNat 13 e.1) = false) ∧ s'.mem = s.mem ∧ s'.ctxs = s.ctxs := by
  have run := exec_stewardRestart runs low high
  rw [first, if_neg Bool.false_ne_true] at run
  obtain ⟨threads, fw, mem, ctxs⟩ :=
    (s.updFw fun w => { w with paused := 3, restartAt := s.scnt, lastRestart := some s.scnt }).holdStewards_spec false
  exact ⟨_, run, (congrArg Fw.paused fw :), rfl, (congrArg Fw.restartAt fw :), (congrArg Fw.lastRestart fw :), threads, mem, ctxs⟩

theorem exec_fwActivateTimeout {s : State} (activates : s.fw.paused = 1) :
    let back := (s.passTo (s.fw.activateAt + scMs 100)).updFw fun w => { w with bank := !w.bank }
    exec .fwActivateTimeout s = .next (if back.restartedLately then back.keeperEnter 1 else back.stewardRestart 2) :=
  if_neg (not_not_intro activates)

theorem answers_fwActivateTimeout {s : State} (activates : s.fw.paused = 1)
    (first : (s.passTo (s.fw.activateAt + scMs 100)).restartedLately = false) : Answers .fwActivateTimeout s fun s' =>
      s'.fw.paused = 2 ∧ s'.fw.bank = (!s.fw.bank) ∧ (∀ e ∈ s'.threads, isSteward (BitVec.ofNat 13 e.1) = false) ∧
      s'.mem = s.mem ∧ s'.ctxs = s.ctxs := by
  have rest := s.timeless_passTo (s.fw.activateAt + scMs 100)
  have run := exec_fwActivateTimeout activates
  dsimp only at run
  generalize s.passTo (s.fw.activateAt + scMs 100) = waited at first rest run
  have first' : (waited.updFw fun w => { w with bank := !w.bank }).restartedLately = false := first
  rw [first', if_neg Bool.false_ne_true] at run
  let back := waited.updFw fun w => { w with bank := !w.bank }
  obtain ⟨threads, fw, mem, ctxs⟩ :=
    (back.updFw fun w => { w with paused := 2, restartAt := back.scnt, lastRestart := some back.scnt }).holdStewards_spec false
  exact ⟨_, run, (congrArg Fw.paused fw :), (congrArg Fw.bank fw).trans (congrArg (fun a : State => !a.fw.bank) rest :), threads,
    mem.trans (congrArg State.mem rest :), ctxs.trans (congrArg State.ctxs rest :)⟩

/-! ## Safe inputs and outputs -/

/-- A level that three equal samples show is accepted (16 R454). -/
theorem accepted_of_equal (old v : BitVec 16) :
    (old &&& ~~~(~~~((v ^^^ v) ||| (v ^^^ v)))) ||| (v &&& ~~~((v ^^^ v) ||| (v ^^^ v))) = v := by
  rw [BitVec.xor_self, BitVec.or_self, BitVec.not_not, BitVec.and_zero, BitVec.zero_or]
  exact BitVec.and_allOnes

/-- Driving the outputs leaves the keeper's mode, and all beside the keeper. -/
theorem State.drive_spec (s : State) : s.drive.keeper.mode = s.keeper.mode ∧ { s.drive with keeper := s.keeper } = s := by
  obtain ⟨d, l, driven⟩ := s.drive_eq
  rw [driven]
  exact ⟨rfl, rfl⟩

theorem getLsbD_or_bit (w : Word) {i : Nat} (within : i < 32) : (w ||| ((1 <<< i : Nat) : Word)).getLsbD i = true := by
  rw [BitVec.getLsbD_or, BitVec.natCast_eq_ofNat, BitVec.getLsbD_ofNat, decide_eq_true within, Nat.testBit_shiftLeft]
  simp

/-- The keeper at work, after a restart that is under way, at an event that comes every `n` cycles. -/
theorem State.keeperBack_every (s : State) (key n : Nat) :
    (s.keeperBack.every key n).keeper.mode = s.keeper.mode ∧ (s.keeperBack.every key n).mem = s.mem ∧
      (s.keeperBack.every key n).ctxs = s.ctxs := by
  refine ⟨?_, by simp, by simp⟩
  rw [State.every_keeper, State.keeperBack_mode]

theorem exec_safeInputSample {s : State} (mode : s.keeper.keeper = true) (running : s.keeper.running = true) (v : BitVec 16)
    (samples : s.keeper.samples = [v, v]) :
    let t := s.keeperBack.every 164 (scUs 10)
    exec (.safeInputSample v) s = .next (t.updKeeper fun k => { k with samples := [v, v], safeIn := v }).drive := by
  have kept : (s.keeperBack.every 164 (scUs 10)).keeper.samples = [v, v] :=
    (congrArg Keeper.samples (s.keeperBack_every 164 (scUs 10)).1 :).trans samples
  show execSafeInputSample v s = _
  rw [execSafeInputSample, if_neg (by rw [mode, running]; decide)]
  simp only [kept, accepted_of_equal]
  rfl

theorem answers_safeInputSample {s : State} {v : BitVec 16} (mode : s.keeper.keeper = true) (running : s.keeper.running = true)
    (samples : s.keeper.samples = [v, v]) : Answers (.safeInputSample v) s fun s' =>
      s'.keeper.safeIn = v ∧ s'.mem = s.mem ∧ s'.ctxs = s.ctxs := by
  obtain ⟨_, mem, ctxs⟩ := s.keeperBack_every 164 (scUs 10)
  have run := exec_safeInputSample mode running v samples
  dsimp only at run
  generalize s.keeperBack.every 164 (scUs 10) = t at mem ctxs run
  obtain ⟨kept, rest⟩ := (t.updKeeper fun k => { k with samples := [v, v], safeIn := v }).drive_spec
  exact ⟨_, run, (congrArg Keeper.safeIn kept :), (congrArg State.mem rest :).trans mem, (congrArg State.ctxs rest :).trans ctxs⟩

theorem exec_safeOutputDelay {s : State} {i : BitVec 5} {t : BitVec 2688} (table : s.keeper.table = some t)
    (delays : bits (kprOut t i.toNat) 32 16 ≠ (0 : BitVec 16)) (mode : s.keeper.keeper = true)
    (running : s.keeper.delayed.getLsbD i.toNat = false) :
    exec (.safeOutputDelay i) s = .next ((s.keeperBack.passTo (s.keeperBack.keeper.entrySc +
      scMs (bits (kprOut t i.toNat) 32 16 : BitVec 16).toNat)).updKeeper fun k => { k with delayed := k.delayed ||| (1 <<< i.toNat) }).drive := by
  have kept := s.keeperBack_mode
  have table' : s.keeperBack.keeper.table = some t := (congrArg Keeper.table kept :).trans table
  have mode' : s.keeperBack.keeper.keeper = true := (congrArg Keeper.keeper kept :).trans mode
  have running' : s.keeperBack.keeper.delayed.getLsbD i.toNat = false := by
    have same : s.keeperBack.keeper.delayed = s.keeper.delayed := (congrArg Keeper.delayed kept :)
    rw [same, running]
  have some_ : (bits (kprOut t i.toNat) 32 16 : BitVec 16).toNat ≠ 0 := toNat_ne delays
  show execSafeOutputDelay i s = _
  simp only [execSafeOutputDelay, table', mode', running', some_, not_true_eq_false, Bool.false_eq_true, or_self, if_false]

theorem answers_safeOutputDelay {s : State} {i : BitVec 5} {t : BitVec 2688} (table : s.keeper.table = some t)
    (delays : bits (kprOut t i.toNat) 32 16 ≠ (0 : BitVec 16)) (mode : s.keeper.keeper = true)
    (running : s.keeper.delayed.getLsbD i.toNat = false) : Answers (.safeOutputDelay i) s fun s' =>
      s'.keeper.delayed.getLsbD i.toNat = true ∧ s'.mem = s.mem ∧ s'.ctxs = s.ctxs := by
  have run := exec_safeOutputDelay table delays mode running
  generalize s.keeperBack.keeper.entrySc + scMs (bits (kprOut t i.toNat) 32 16 : BitVec 16).toNat = due at run
  let waited := s.keeperBack.passTo due
  obtain ⟨kept, rest⟩ := (waited.updKeeper fun k => { k with delayed := k.delayed ||| (1 <<< i.toNat) }).drive_spec
  have mem : waited.mem = s.mem := by simp [waited]
  have ctxs : waited.ctxs = s.ctxs := by simp [waited]
  have set := getLsbD_or_bit waited.keeper.delayed i.isLt
  exact ⟨_, run, (congrArg (fun k : Keeper => k.delayed.getLsbD i.toNat) kept :).trans set, (congrArg State.mem rest :).trans mem,
    (congrArg State.ctxs rest :).trans ctxs⟩

/-! ## The watchdog output, the heartbeat and a miscompare -/

theorem exec_wdogToggle {s : State} (running : s.keeper.running = true) :
    exec .wdogToggle s = .next ((s.keeperBack.every 163 (scUs s.keeperBack.keeper.wdogp)).updKeeper fun k =>
      { k with wdogOut := !k.wdogOut }) := if_neg (not_not_intro running)

theorem answers_wdogToggle {s : State} (running : s.keeper.running = true) : Answers .wdogToggle s fun s' =>
    s'.keeper = { s.keeperBack.keeper with wdogOut := !s.keeper.wdogOut } ∧
    (∀ t, s.mon.last.find 163 = some t → t + scUs s.keeper.wdogp ≤ s'.scnt) ∧ s'.mem = s.mem ∧ s'.ctxs = s.ctxs := by
  have kept := s.keeperBack_mode
  have period : s.keeperBack.keeper.wdogp = s.keeper.wdogp := (congrArg Keeper.wdogp kept :)
  have level : s.keeperBack.keeper.wdogOut = s.keeper.wdogOut := (congrArg Keeper.wdogOut kept :)
  refine ⟨_, exec_wdogToggle running, ?_, fun t last => ?_, by simp, by simp⟩
  · rw [← level]
    exact congrArg (fun k : Keeper => { k with wdogOut := !k.wdogOut }) (s.keeperBack.every_keeper 163 _)
  · rw [← s.keeperBack_mon] at last
    rw [← period]
    exact State.le_scnt_every last (scUs s.keeperBack.keeper.wdogp)

theorem answers_lockstepMiscompare {s : State} (running : s.keeper.running = true) (ok : Bool) :
    Answers (.lockstepMiscompare ok) s fun s' =>
      s'.keeper.faultN = true ∧ s'.keeper.keeper = s.keeper.keeper ∧
      s'.keeper.table = (if ok then s.keeper.table else none) ∧ s'.keeper.driven = 0 ∧ s'.keeper.wdogOut = s.keeper.wdogOut ∧
      s'.keeper.restartAt = some s.scnt ∧ { s' with keeper := s.keeper } = s :=
  ⟨_, if_neg (not_not_intro running), rfl, rfl, rfl, rfl, rfl, rfl, rfl⟩

@[simp] theorem State.ethPort_updEthPort_same (s : State) (p : BitVec 2) (u : EthPort → EthPort) :
    (s.updEthPort p u).ethPort p = u (s.ethPort p) := by simp [State.ethPort, State.updEthPort]

theorem State.ethPort_updEthPort_other (s : State) {p q : BitVec 2} (other : q ≠ p) (u : EthPort → EthPort) :
    (s.updEthPort p u).ethPort q = s.ethPort q := by simp [State.ethPort, State.updEthPort, Map.getD_upd_other _ (toNat_ne other)]

theorem exec_keeperHeartbeat {s : State} {t : BitVec 2688} (table : s.keeper.table = some t) (mode : s.keeper.keeper = true)
    (running : s.keeper.running = true) (period : s.keeper.hbp ≠ 0) (link : (s.ethPort 0).link = true)
    (host : s.keeperBack.hostUp = true) (rails : s.hostRails = true) (eth : s.keeperBack.domUp 4 = true) :
    exec .keeperHeartbeat s = .next (
      let a := s.keeperBack.every 165 (scMs s.keeperBack.keeper.hbp)
      ((a.emit (.frame 0 (a.keeper.heartbeat t))).updEthPort 0 fun p => { p with tx := satInc p.tx }).updKeeper
        fun k => { k with hbSeq := k.hbSeq + 1 }) := by
  have kept := s.keeperBack_mode
  have rest := s.keeperBack_offKeeper
  have table' : s.keeperBack.keeper.table = some t := (congrArg Keeper.table kept :).trans table
  have mode' : s.keeperBack.keeper.keeper = true := (congrArg Keeper.keeper kept :).trans mode
  have running' : s.keeperBack.keeper.running = true := (congrArg Keeper.running kept :).trans running
  have period' : s.keeperBack.keeper.hbp ≠ 0 := by
    have same : s.keeperBack.keeper.hbp = s.keeper.hbp := (congrArg Keeper.hbp kept :)
    rw [same]
    exact period
  have link' : (s.keeperBack.ethPort 0).link = true := (congrArg (fun a : State => (a.ethPort 0).link) rest :).trans link
  have rails' : s.keeperBack.hostRails = true := (congrArg State.hostRails rest :).trans rails
  show execKeeperHeartbeat s = _
  simp only [execKeeperHeartbeat, table', mode', running', link', host, rails', eth, bne_iff_ne.mpr period', Bool.and_self, if_true]

theorem answers_keeperHeartbeat {s : State} {t : BitVec 2688} (table : s.keeper.table = some t) (mode : s.keeper.keeper = true)
    (running : s.keeper.running = true) (period : s.keeper.hbp ≠ 0) (link : (s.ethPort 0).link = true)
    (host : s.keeperBack.hostUp = true) (rails : s.hostRails = true) (eth : s.keeperBack.domUp 4 = true) :
    Answers .keeperHeartbeat s fun s' =>
      s'.out = .frame 0 (s.keeperBack.keeper.heartbeat t) :: s.out ∧ s'.keeper.hbSeq = s.keeper.hbSeq + 1 ∧
      (s'.ethPort 0).tx = satInc (s.ethPort 0).tx ∧ s'.mem = s.mem ∧ s'.ctxs = s.ctxs := by
  have sequence : s.keeperBack.keeper.hbSeq = s.keeper.hbSeq := (congrArg Keeper.hbSeq s.keeperBack_mode :)
  have run := exec_keeperHeartbeat table mode running period link host rails eth
  dsimp only at run
  rw [State.every_keeper] at run
  refine ⟨_, run, ?_, ?_, ?_, by simp, (State.every_ctxs _ 165 _).trans s.keeperBack_ctxs⟩
  · exact congrArg _ ((State.every_out _ 165 _).trans s.keeperBack_out)
  · show (State.every _ 165 _).keeper.hbSeq + 1 = _
    rw [State.every_keeper, sequence]
  · show (State.ethPort (State.updEthPort _ 0 _) 0).tx = _
    rw [State.ethPort_updEthPort_same]
    exact congrArg (fun e : Eth => satInc (e.ports.getD 0 {}).tx) ((State.every_eth _ 165 _).trans s.keeperBack_eth)

/-! ## The board (17 R468, R469) -/

/-- The part as it answers the board: the stewards serve it at once, the keeper once it is back. -/
def State.atBoard (s : State) : State := if s.stewardsServe then s else s.keeperBack

theorem State.atBoard_offKeeper (s : State) : s.atBoard.offKeeper = s.offKeeper := by
  simp only [State.atBoard, apply_ite State.offKeeper, State.keeperBack_offKeeper, ite_self]

/-- An assignment of an endpoint ID, as DSP0236 gives it (log 54). -/
theorem eidSet_iff (req : List Byte) :
    (req.getD 1 0 == 1 && eidSet req) = true ↔
      req.getD 1 0 = 1 ∧ (req.getD 2 0).toNat % 4 < 2 ∧ req.getD 3 0 ≠ 0 ∧ req.getD 3 0 ≠ 0xFF := by
  simp only [eidSet, Bool.and_eq_true, beq_iff_eq, decide_eq_true_iff, bne_iff_ne, and_assoc]

/-- The endpoint ID after a control message. -/
def eidAfter (eid : Byte) (req : List Byte) : Byte :=
  if req.getD 1 0 = 1 ∧ (req.getD 2 0).toNat % 4 < 2 ∧ req.getD 3 0 ≠ 0 ∧ req.getD 3 0 ≠ 0xFF then req.getD 3 0 else eid

theorem exec_mctpControlMessage {s : State} (served : (s.stewardsServe || s.keeperServes) = true) (req : List Byte) :
    exec (.mctpControlMessage req) s = .next
      ((s.atBoard.updMon fun m => { m with endpointId := eidAfter m.endpointId req }).smbus
        ([req.getD 0 0 &&& 0x1F, req.getD 1 0] ++ mctpReply (eidAfter s.atBoard.mon.endpointId req) req)) := by
  show execMctpControlMessage req s = _
  rw [execMctpControlMessage, if_neg (by rw [served]; decide)]
  simp only [eidSet_iff, eidAfter]
  unfold State.atBoard
  split <;> rfl

theorem mctpReply_setEndpointId (eid : Byte) {req : List Byte} (command : req.getD 1 0 = 1) :
    mctpReply eid req =
      if (req.getD 2 0).toNat % 4 < 2 ∧ req.getD 3 0 ≠ 0 ∧ req.getD 3 0 ≠ 0xFF then [0, 0, eid, 0] else [2] := by
  have set : eidSet req = true ↔ (req.getD 2 0).toNat % 4 < 2 ∧ req.getD 3 0 ≠ 0 ∧ req.getD 3 0 ≠ 0xFF := by
    simp only [eidSet, Bool.and_eq_true, decide_eq_true_iff, bne_iff_ne, and_assoc]
  have reply : mctpReply eid req = if eidSet req then [0, 0, eid, 0] else [2] := by
    rw [mctpReply, command]
    rfl
  simp only [reply, set]

theorem mctpReply_getEndpointId (eid : Byte) {req : List Byte} (command : req.getD 1 0 = 2) : mctpReply eid req = [0, eid, 0, 0] := by
  rw [mctpReply, command]
  rfl

theorem answers_mctpControlMessage {s : State} (served : (s.stewardsServe || s.keeperServes) = true) (req : List Byte) :
    Answers (.mctpControlMessage req) s fun s' =>
      s'.mon.endpointId = eidAfter s.mon.endpointId req ∧ s'.mem = s.mem ∧ s'.ctxs = s.ctxs ∧
      ∃ b, s'.out = .smbus ([req.getD 0 0 &&& 0x1F, req.getD 1 0] ++ b) :: s.out ∧
        (req.getD 1 0 = 1 → b = if (req.getD 2 0).toNat % 4 < 2 ∧ req.getD 3 0 ≠ 0 ∧ req.getD 3 0 ≠ 0xFF
          then [0, 0, eidAfter s.mon.endpointId req, 0] else [2]) ∧
        (req.getD 1 0 = 2 → b = [0, eidAfter s.mon.endpointId req, 0, 0]) := by
  have rest := s.atBoard_offKeeper
  have run := exec_mctpControlMessage served req
  generalize s.atBoard = a at rest run
  have eid : a.mon.endpointId = s.mon.endpointId := (congrArg (·.mon.endpointId) rest :)
  rw [eid] at run
  refine ⟨_, run, congrArg (eidAfter · req) eid, (congrArg State.mem rest :), (congrArg State.ctxs rest :), _,
    congrArg _ (congrArg State.out rest :), mctpReply_setEndpointId _, mctpReply_getEndpointId _⟩

theorem exec_pldmRequest {s : State} (served : (s.stewardsServe || s.keeperServes) = true) (req : List Byte) :
    exec (.pldmRequest req) s = .next
      (s.atBoard.takeFree.smbus ([req.getD 0 0 &&& 0x1F, req.getD 1 0, req.getD 2 0] ++ s.atBoard.pldmReply req)) :=
  if_neg (by rw [served]; decide)

/-- A request of type 0 that the device does not know. -/
theorem pldmBase_unsupported {req : List Byte} (unknown : (req.getD 2 0).toNat < 2 ∨ 5 < (req.getD 2 0).toNat) :
    pldmBase req = [5] := by
  unfold pldmBase
  split
  case h_5 => rfl
  all_goals omega

/-- A request of type 2 that the device does not know. -/
theorem State.pldmMonitoring_unsupported (s : State) {req : List Byte}
    (unknown : req.getD 2 0 ∉ ([0x11, 0x21, 0x50, 0x51] : List Byte)) : s.pldmMonitoring req = [5] := by
  have other (v : Byte) (listed : v ∈ ([0x11, 0x21, 0x50, 0x51] : List Byte)) : (req.getD 2 0).toNat ≠ v.toNat :=
    fun same => unknown (BitVec.eq_of_toNat_eq same ▸ listed)
  unfold State.pldmMonitoring
  split
  case h_1 same => exact absurd same (other 0x11 (by decide))
  case h_2 same => exact absurd same (other 0x21 (by decide))
  case h_3 same => exact absurd same (other 0x50 (by decide))
  case h_4 same => exact absurd same (other 0x51 (by decide))
  case h_5 => rfl

theorem answers_pldmRequest {s : State} (served : (s.stewardsServe || s.keeperServes) = true) (req : List Byte) :
    Answers (.pldmRequest req) s fun s' =>
      s'.mem = s.mem ∧ s'.mon = s.mon ∧ s'.ctxs = s.ctxs ∧
      ∃ b, s'.out = .smbus ([req.getD 0 0 &&& 0x1F, req.getD 1 0] ++ [req.getD 2 0] ++ b) :: s.out ∧
        (req.getD 1 0 &&& 0x3F ≠ 0 → req.getD 1 0 &&& 0x3F ≠ 2 → b = [0x20]) ∧
        (req.getD 1 0 &&& 0x3F = 0 → (req.getD 2 0).toNat < 2 ∨ 5 < (req.getD 2 0).toNat → b = [5]) ∧
        (req.getD 1 0 &&& 0x3F = 2 → req.getD 2 0 ∉ ([0x11, 0x21, 0x50, 0x51] : List Byte) → b = [5]) := by
  have rest := s.atBoard_offKeeper
  have run := exec_pldmRequest served req
  generalize s.atBoard = a at rest run
  refine ⟨_, run, (congrArg State.mem rest :), (congrArg State.mon rest :), (congrArg State.ctxs rest :), _,
    congrArg _ (congrArg State.out rest :), fun typed other => ?_, fun base unknown => ?_, fun monitoring unknown => ?_⟩
  · simp only [State.pldmReply, if_neg typed, if_neg other]
  · have zero : (0 : Byte) ≠ 2 := by decide
    simp only [State.pldmReply, base, if_neg zero, if_pos, pldmBase_unsupported unknown]
  · simp only [State.pldmReply, monitoring, if_pos, a.pldmMonitoring_unsupported unknown]

/-! ## The keeper mailbox (16 R457) -/

theorem exec_keeperStatus {s : State} {p : BitVec 2} {w : DWord} (served : s.kprServed p = true) (other : kprOp w ≠ 2) :
    exec (.keeperStatus p w) s = .next (s.keeperBack.kprAnswer p w (if kprOp w = 1 then OK else BAD_ARG)) :=
  congrArg Host.Outcome.next (if_neg (by simp [served, other]))

theorem exec_keeperWarmReset {s : State} {p : BitVec 2} {w : DWord} (served : s.kprServed p = true) (op : kprOp w = 2) :
    exec (.keeperWarmReset p w) s = .next (
      if p ≠ if s.keeper.keeper then s.keeper.adminPort else funcPort s.hub.admin then s.keeperBack.kprAnswer p w DENIED
      else if bits w 32 32 ≠ (0x5741524D : Word) then s.keeperBack.kprAnswer p w BAD_ARG
      else ((s.keeperBack.kprAnswer p w OK).updKeeper fun k => { k with warmReq := true, warmAt := s.keeperBack.scnt }).warmReset 3) := by
  show execKeeperWarmReset p w s = _
  simp only [execKeeperWarmReset, served, op, not_true_eq_false, ne_eq, or_self, if_false, apply_ite Host.Outcome.next]

theorem answers_keeperWarmReset {s : State} {p : BitVec 2} {w : DWord} (served : s.kprServed p = true) (op : kprOp w = 2)
    (may : p = if s.keeper.keeper then s.keeper.adminPort else funcPort s.hub.admin) (magic : bits w 32 32 = (0x5741524D : Word)) :
    Answers (.keeperWarmReset p w) s fun s' =>
      s'.clk.rstCause = s.clk.rstCause ||| 8 ∧ s'.clk.warmLow = true ∧ s'.keeper.warmReq = true ∧ s'.ctxs = [] ∧ s'.threads = [] ∧
      s'.keeper.rsp = (s.kprAnswer p w OK).keeper.rsp := by
  have run := exec_keeperWarmReset served op
  rw [if_neg (not_not_intro may), if_neg (not_not_intro magic)] at run
  have kept := s.keeperBack_mode
  have rest := s.keeperBack_offKeeper
  generalize s.keeperBack = b at kept rest run
  obtain ⟨cause, low, _, ctxs, threads, keeper, _⟩ :=
    ((b.kprAnswer p w OK).updKeeper fun k => { k with warmReq := true, warmAt := b.scnt }).warmReset_spec 3
  refine ⟨_, run, cause.trans (congrArg (fun a : State => a.clk.rstCause ||| 8) rest :), low, by rw [keeper]; rfl, ctxs, threads, ?_⟩
  rw [keeper]
  exact (congrArg (fun k : Keeper => k.rsp.set p.toNat (OK, bits w 16 16, true)) kept :)

theorem State.kprAnswer_spec (s : State) (p : BitVec 2) (w : DWord) (st : BitVec 16) :
    (s.kprAnswer p w st).keeper.rsp.find p.toNat = some (st, bits w 16 16, true) ∧ { s.kprAnswer p w st with keeper := s.keeper } = s :=
  ⟨Map.find_set_same s.keeper.rsp p.toNat _, rfl⟩

/-- Settles O31, command by command. -/
theorem theKeeperServesTheBoard : Obligations.TheKeeperServesTheBoard := by
  refine ⟨⟨fun s c runs low high first => answers_stewardRestart_first runs low high first,
      fun s activates first => answers_fwActivateTimeout activates first⟩,
    ⟨fun s v mode running samples => answers_safeInputSample mode running samples,
      fun s i t table delays mode waits => answers_safeOutputDelay table delays mode waits,
      fun s running => answers_wdogToggle running,
      fun s t table mode running period link host rails eth =>
        answers_keeperHeartbeat table mode running period link host rails eth,
      fun s ok running => answers_lockstepMiscompare running ok, fun s t restarts => ?back, fun s req served => ?board⟩,
    fun p w s served => ?mailbox⟩
  case back =>
    obtain ⟨ended, reached⟩ := State.keeperBack_restarted restarts
    exact ⟨ended, reached, (congrArg Keeper.keeper s.keeperBack_mode :)⟩
  case board =>
    exact ⟨answers_mctpControlMessage served req, fun type other => if_pos (.inr other), answers_pldmRequest served req⟩
  case mailbox =>
    refine ⟨fun status => ?_, fun unknown other => ?_, fun op => ⟨fun denied => ?_, fun may bad => ?_, fun may magic => ?_⟩,
      s.kprAnswer_spec p w⟩
    · rw [exec_keeperStatus served (by rw [status]; decide), if_pos status]
    · rw [exec_keeperStatus served other, if_neg unknown]
    · rw [exec_keeperWarmReset served op, if_pos denied]
    · rw [exec_keeperWarmReset served op, if_neg (not_not_intro may), if_pos bad]
    · exact answers_keeperWarmReset served op may magic

end Sys2Proof.Machine
end

section
/-! PROOFS. Temperatures and voltages against their thresholds and windows, and the throttle (16 R452, 17 R461-R464). -/

namespace Sys2Proof.Machine

/-! ## Sections while time passes -/

/-- A section but for what its clock counts: fabric cycles, the phase of its divider, and the multiple that a cycle ends under. -/
def Section.setting (x : Section) : Section := { x with fc := 0, phase := 0, was := none }

theorem Section.setting_pass (x : Section) (n : Nat) : (x.pass n).setting = x.setting := by
  unfold Section.pass
  split <;> rfl

theorem State.sect_pass (s : State) (n : Nat) (k : BitVec 4) : (s.pass n).sect k = (s.sect k).pass n := by
  have sections : (s.pass n).clk.sections = s.clk.sections.mapV fun _ x => x.pass n := by
    unfold State.pass
    split <;> rfl
  rw [State.sect, sections, Map.getD, Map.find_mapV, State.sect, Map.getD]
  cases s.clk.sections.find k.toNat with
  | none => exact (if_neg fun no => Bool.false_ne_true no.1).symm
  | some x => rfl

/-- Waiting leaves the setting of every section. -/
theorem State.setting_passTo (s : State) (due : Nat) (k : BitVec 4) : ((s.passTo due).sect k).setting = (s.sect k).setting := by
  rw [State.passTo, State.sect_pass, Section.setting_pass]

theorem State.setting_every (s : State) (key n : Nat) (k : BitVec 4) : ((s.every key n).sect k).setting = (s.sect k).setting := by
  unfold State.every
  split
  case h_1 t _ => exact s.setting_passTo (t + n) k
  case h_2 => rfl

theorem State.sectOff_every (s : State) (key n i : Nat) : (s.every key n).sectOff i = s.sectOff i := by
  have same : ((s.every key n).sect (BitVec.ofNat 4 i)).pstate = (s.sect (BitVec.ofNat 4 i)).pstate :=
    (congrArg Section.pstate (s.setting_every key n _) :)
  rw [State.sectOff, same, State.sectOff]

/-! ## Thresholds of a temperature (16 R452, 17 R462) -/

@[simp] theorem State.thermal_mon (s : State) (i : Nat) (v : BitVec 16) (level : Nat) : (s.thermal i v level).mon = s.mon :=
  (congrArg State.mon (s.offHub_event s.hub.admin 0x0104 i (BitVec.ofNat 64 (v.toNat + 65536 * level))) :)

theorem State.offHub_thermal (s : State) (i : Nat) (v : BitVec 16) (level : Nat) : (s.thermal i v level).offHub = s.offHub :=
  s.offHub_event s.hub.admin 0x0104 i _

/-- The sources above a threshold after a reading: `i` comes in where `up`, and goes out where `down`. -/
def crossed (l : List Nat) (i : Nat) (up down : Bool) : List Nat :=
  if up && !l.contains i then l ++ [i] else if down then l.filter (· != i) else l

theorem mem_crossed_up (l : List Nat) (i : Nat) (down : Bool) (stays : down = false) : i ∈ crossed l i true down := by
  unfold crossed
  split
  case isTrue => exact List.mem_append_right l (List.mem_singleton_self i)
  case isFalse listed => simpa [stays] using listed

theorem not_mem_crossed_down (l : List Nat) (i : Nat) : i ∉ crossed l i false true := by simp [crossed]

/-- The monitors after a reading has been compared with the warning and the throttle threshold of its source. -/
def Mon.compared (m : Mon) (i : Nat) (t : Int) : Mon :=
  let warm := crossed m.warm i (decide (i < 36) && decide (880 ≤ t)) (decide (t < 856))
  { m with warm := warm, hot := crossed m.hot i (decide (i < 32) && decide (960 ≤ t)) (decide (t < 936)),
           alertN := !warm.isEmpty || !m.vout.isEmpty }

/-- The part without its monitors, its hub and what has left it. -/
def State.offMon (s : State) : State := { s.offHub with mon := {} }

theorem State.offMon_of_offHub {s s' : State} (same : s'.offHub = s.offHub) : s'.offMon = s.offMon :=
  (congrArg (fun a : State => { a with mon := {} }) same :)

theorem State.offMon_updMon (s : State) (u : Mon → Mon) : (s.updMon u).offMon = s.offMon := rfl

/-- A reading of source `i` at one threshold, whose list of sources above it is `get`, and becomes `set`. -/
def State.crossing (s : State) (i : Nat) (v : BitVec 16) (level : Nat) (up down : Bool) (get : Mon → List Nat)
    (set : Mon → List Nat → Mon) : State :=
  if up && !(get s.mon).contains i then (s.updMon fun m => set m (get m ++ [i])).thermal i v level
  else if down then s.updMon fun m => set m ((get m).filter (· != i)) else s

theorem State.crossing_spec (s : State) (i : Nat) (v : BitVec 16) (level : Nat) (up down : Bool) {get : Mon → List Nat}
    {set : Mon → List Nat → Mon} (same : ∀ m, set m (get m) = m) :
    (s.crossing i v level up down get set).mon = set s.mon (crossed (get s.mon) i up down) ∧
      (s.crossing i v level up down get set).offMon = s.offMon := by
  unfold State.crossing crossed
  split
  case isTrue =>
    exact ⟨State.thermal_mon _ i v level, (State.offMon_of_offHub (State.offHub_thermal _ i v level)).trans (s.offMon_updMon _)⟩
  case isFalse =>
    split
    case isTrue => exact ⟨rfl, s.offMon_updMon _⟩
    case isFalse => exact ⟨(same s.mon).symm, rfl⟩

/-- The warning threshold of a source, its throttle threshold, and ALERT_N. -/
theorem State.thresholds_eq (s : State) (i : Nat) (v : BitVec 16) :
    s.thresholds i v =
      ((s.crossing i v 1 (decide (i < 36) && decide (880 ≤ v.toInt)) (decide (v.toInt < 856)) Mon.warm fun m l => { m with warm := l }).crossing
        i v 2 (decide (i < 32) && decide (960 ≤ v.toInt)) (decide (v.toInt < 936)) Mon.hot fun m l => { m with hot := l }).alert := by
  simp only [State.thresholds, State.crossing, Bool.and_eq_true, decide_eq_true_iff, Bool.not_eq_true', Bool.not_eq_true, and_assoc]

/-- Comparing a reading changes the monitors, and sends events. -/
theorem State.thresholds_spec (s : State) (i : Nat) (v : BitVec 16) :
    (s.thresholds i v).mon = s.mon.compared i v.toInt ∧ (s.thresholds i v).offMon = s.offMon := by
  rw [State.thresholds_eq]
  have first := s.crossing_spec i v 1 (decide (i < 36) && decide (880 ≤ v.toInt)) (decide (v.toInt < 856)) (get := Mon.warm)
    (set := fun m l => { m with warm := l }) fun _ => rfl
  generalize s.crossing i v 1 _ _ _ _ = a at first ⊢
  have second := a.crossing_spec i v 2 (decide (i < 32) && decide (960 ≤ v.toInt)) (decide (v.toInt < 936)) (get := Mon.hot)
    (set := fun m l => { m with hot := l }) fun _ => rfl
  generalize a.crossing i v 2 _ _ _ _ = b at second ⊢
  obtain ⟨warm, rest⟩ := first
  obtain ⟨hot, rest'⟩ := second
  refine ⟨?_, (b.offMon_updMon _).trans (rest'.trans rest)⟩
  show ({ b.mon with alertN := !b.mon.warm.isEmpty || !b.mon.vout.isEmpty } : Mon) = _
  rw [hot, warm]
  rfl

/-! ## A conversion of a temperature -/

theorem State.offHub_equalise (s : State) (old v : Int) (ok : Bool) : (s.equalise old v ok).offHub = s.offHub := by
  unfold State.equalise State.reEqualise
  dsimp only
  (repeat' split) <;> rfl

/-- A reading of a source that is powered is stored and compared, and the link of P0 follows TEMP[35]. -/
def State.readTemp (s : State) (n : Nat) (v : BitVec 16) (ok : Bool) : State :=
  let a := s.every n (if n < 36 then scUs 100 else scMs 1)
  let b := (a.updMon fun m => { m with temp := m.temp.set n v, fenceHot := if v.toInt < 1000 then m.fenceHot.filter (· != n) else m.fenceHot }).thresholds n v
  if n = 35 then b.equalise (a.mon.temp.getD n 0).toInt v.toInt ok else b

theorem State.convertTemp_powered {s : State} {n : Nat} (powered : n < 32 → s.sectOff (n / 2) = false) (v : BitVec 16) (ok : Bool) :
    ∃ old, s.convertTemp n v ok =
      let t := s.readTemp n (readingOf n v) ok
      if 1080 ≤ (readingOf n v).toInt then t.thermalTrip else if (readingOf n v).toInt < 1000 then t
      else t.tooHot n old (readingOf n v) := by
  have on (m : Nat) : ¬ ((decide (n < 32) && (s.every n m).sectOff (n / 2)) = true) := by
    rw [State.sectOff_every]
    simpa using powered
  unfold State.convertTemp
  dsimp only
  rw [if_neg (on _)]
  exact ⟨_, rfl⟩

/-- What a reading leaves: the monitors compared, and beside the hub only what waiting changes. -/
theorem State.readTemp_spec (s : State) (n : Nat) (v : BitVec 16) (ok : Bool) :
    let s' := s.readTemp n v ok
    (∃ m : Mon, m.temp.getD n 0 = v ∧ m.warm = s.mon.warm ∧ m.hot = s.mon.hot ∧ s'.mon = m.compared n v.toInt) ∧
      s'.clk.rstCause = s.clk.rstCause ∧ s'.clk.porstLow = s.clk.porstLow ∧ s'.mem = s.mem ∧ s'.ctxs = s.ctxs := by
  let a := s.every n (if n < 36 then scUs 100 else scMs 1)
  let noted := a.updMon fun m =>
    { m with temp := m.temp.set n v, fenceHot := if v.toInt < 1000 then m.fenceHot.filter (· != n) else m.fenceHot }
  have rest : a.timeless = _ := s.timeless_every n _
  obtain ⟨mon, off⟩ := noted.thresholds_spec n v
  have last : (s.readTemp n v ok).offHub = (noted.thresholds n v).offHub := by
    show State.offHub (if n = 35 then _ else _) = _
    split
    · exact State.offHub_equalise _ _ _ ok
    · rfl
  have off' : (s.readTemp n v ok).offMon = a.offMon :=
    (State.offMon_of_offHub last).trans (off.trans (a.offMon_updMon _))
  refine ⟨⟨noted.mon, ?_, (congrArg (·.mon.warm) rest :), (congrArg (·.mon.hot) rest :), (congrArg State.mon last :).trans mon⟩,
    (congrArg (·.clk.rstCause) off' :).trans (congrArg (·.clk.rstCause) rest :),
    (congrArg (·.clk.porstLow) off' :).trans (congrArg (·.clk.porstLow) rest :),
    (congrArg State.mem off' :).trans (congrArg State.mem rest :), (congrArg State.ctxs off' :).trans (congrArg State.ctxs rest :)⟩
  exact (Map.getD_set a.mon.temp n n v 0).trans (if_pos rfl)

theorem exec_temperatureSample {s : State} {i : BitVec 6} (there : i.toNat ≤ 37) (high : s.clk.porstLow = false) (v : BitVec 16)
    (ok : Bool) : exec (.temperatureSample i v ok) s = .next (s.convertTemp i.toNat v ok) := by
  show execTemperatureSample i v s ok = _
  rw [execTemperatureSample, if_neg (Nat.not_lt.mpr there), if_neg (by rw [high]; exact Bool.false_ne_true)]

theorem readingOf_low {n : Nat} (low : n < 36) (v : BitVec 16) : readingOf n v = v := if_neg (Nat.not_le.mpr low)

section Reading
variable {s : State} {i : BitVec 6} (low : i.toNat < 36) (high : s.clk.porstLow = false)
  (powered : i.toNat < 32 → s.sectOff (i.toNat / 2) = false) (ok : Bool)
include low high powered

/-- A reading below the trip of a source that is not in the stack. -/
theorem exec_temperatureSample_low {v : BitVec 16} (cool : v.toInt < 1000) :
    exec (.temperatureSample i v ok) s = .next (s.readTemp i.toNat v ok) := by
  obtain ⟨old, converted⟩ := State.convertTemp_powered powered v ok
  rw [readingOf_low low] at converted
  rw [exec_temperatureSample (by omega) high, converted, if_neg (by omega), if_pos cool]

/-- At 135 °C the part trips (15 R431). -/
theorem answers_temperatureSample_trip {v : BitVec 16} (trips : 1080 ≤ v.toInt) : Answers (.temperatureSample i v ok) s fun s' =>
    s'.clk.thermLatch = true ∧ s'.clk.rstCause = s.clk.rstCause ||| 2 := by
  obtain ⟨old, converted⟩ := State.convertTemp_powered powered v ok
  rw [readingOf_low low] at converted
  obtain ⟨_, cause, porst, _⟩ := s.readTemp_spec i.toNat v ok
  obtain ⟨tripped, latched, _⟩ := State.thermalTrip_spec (porst.trans high)
  refine ⟨_, (exec_temperatureSample (by omega) high v ok).trans (congrArg Host.Outcome.next ?_), latched, tripped.trans (by rw [cause])⟩
  rw [converted, if_pos trips]

/-- Below 107 °C a source is above no threshold. -/
theorem answers_temperatureSample_cool {v : BitVec 16} (cool : v.toInt < 856) : Answers (.temperatureSample i v ok) s fun s' =>
    s'.mon.temp.getD i.toNat 0 = v ∧ i.toNat ∉ s'.mon.warm ∧ i.toNat ∉ s'.mon.hot ∧
      (s'.mon.alertN = (!s'.mon.warm.isEmpty || !s'.mon.vout.isEmpty)) ∧ s'.mem = s.mem ∧ s'.ctxs = s.ctxs := by
  obtain ⟨⟨m, temp, _, _, mon⟩, _, _, mem, ctxs⟩ := s.readTemp_spec i.toNat v ok
  refine ⟨_, exec_temperatureSample_low low high powered ok (by omega), ?_⟩
  dsimp only
  rw [mon]
  refine ⟨temp, ?_, ?_, rfl, mem, ctxs⟩
  · have below : ¬ 880 ≤ v.toInt := by omega
    simp only [Mon.compared, decide_eq_false below, Bool.and_false, decide_eq_true cool]
    exact not_mem_crossed_down m.warm i.toNat
  · have below : ¬ 960 ≤ v.toInt := by omega
    have down : v.toInt < 936 := by omega
    simp only [Mon.compared, decide_eq_false below, Bool.and_false, decide_eq_true down]
    exact not_mem_crossed_down m.hot i.toNat

/-- From 120 °C on a section's source warns and throttles. -/
theorem answers_temperatureSample_hot {v : BitVec 16} (hot : 960 ≤ v.toInt) (untripped : v.toInt < 1000) (inSection : i.toNat < 32) :
    Answers (.temperatureSample i v ok) s fun s' =>
      s'.mon.temp.getD i.toNat 0 = v ∧ i.toNat ∈ s'.mon.warm ∧ i.toNat ∈ s'.mon.hot ∧ s'.mon.alertN = true ∧ s'.mem = s.mem ∧
      s'.ctxs = s.ctxs := by
  obtain ⟨⟨m, temp, _, _, mon⟩, _, _, mem, ctxs⟩ := s.readTemp_spec i.toNat v ok
  have warm : i.toNat ∈ (m.compared i.toNat v.toInt).warm := by
    have above : 880 ≤ v.toInt := by omega
    have stays : ¬ v.toInt < 856 := by omega
    simp only [Mon.compared, decide_eq_true low, decide_eq_true above, decide_eq_false stays, Bool.and_self]
    exact mem_crossed_up m.warm i.toNat false rfl
  have throttled : i.toNat ∈ (m.compared i.toNat v.toInt).hot := by
    have stays : ¬ v.toInt < 936 := by omega
    simp only [Mon.compared, decide_eq_true inSection, decide_eq_true hot, decide_eq_false stays, Bool.and_self]
    exact mem_crossed_up m.hot i.toNat false rfl
  have alert : (m.compared i.toNat v.toInt).alertN = true := by
    show (!(m.compared i.toNat v.toInt).warm.isEmpty || _) = true
    cases listed : (m.compared i.toNat v.toInt).warm with
    | nil => rw [listed] at warm; exact absurd warm List.not_mem_nil
    | cons => rfl
  refine ⟨_, exec_temperatureSample_low low high powered ok untripped, ?_⟩
  dsimp only
  rw [mon]
  exact ⟨temp, warm, throttled, alert, mem, ctxs⟩

end Reading

/-- The sensors of the stack give whole degrees, rounded down (log 163). -/
theorem answers_temperatureSample_stack {s : State} {i : BitVec 6} (low : 36 ≤ i.toNat) (there : i.toNat ≤ 37)
    (high : s.clk.porstLow = false) {v : BitVec 16} (cool : (v &&& 0xFFF8).toInt < 1000) (ok : Bool) :
    Answers (.temperatureSample i v ok) s fun s' => s'.mon.temp.getD i.toNat 0 = v &&& 0xFFF8 ∧ s'.mem = s.mem ∧ s'.ctxs = s.ctxs := by
  have rounded : readingOf i.toNat v = v &&& 0xFFF8 := if_pos low
  obtain ⟨old, converted⟩ := State.convertTemp_powered (s := s) (n := i.toNat) (by omega) v ok
  rw [rounded] at converted
  obtain ⟨⟨m, temp, _, _, mon⟩, _, _, mem, ctxs⟩ := s.readTemp_spec i.toNat (v &&& 0xFFF8) ok
  refine ⟨s.readTemp i.toNat (v &&& 0xFFF8) ok, (exec_temperatureSample there high v ok).trans (congrArg Host.Outcome.next ?_), ?_⟩
  · rw [converted, if_neg (by omega), if_pos cool]
  · dsimp only
    rw [mon]
    exact ⟨temp, mem, ctxs⟩

/-! ## The throttle (16 R452) -/

theorem exec_throttleStep {s : State} {n : BitVec 4}
    (hot : (s.mon.hot.contains (2 * n.toNat) || s.mon.hot.contains (2 * n.toNat + 1)) = true) :
    exec (.throttleStep n) s = .next ((s.every (128 + n.toNat) (scUs 100)).updSect n fun x =>
      { x.setCur (if 4 < x.mcur.toNat then x.mcur - 1 else x.mcur) with
        thr := decide ((if 4 < x.mcur.toNat then x.mcur - 1 else x.mcur).toNat < x.m.toNat) }) := if_pos hot

theorem exec_throttleRecoveryStep {s : State} {n : BitVec 4}
    (cool : (s.mon.hot.contains (2 * n.toNat) || s.mon.hot.contains (2 * n.toNat + 1)) = false)
    (below : (s.sect n).mcur.toNat < (s.sect n).m.toNat) :
    exec (.throttleRecoveryStep n) s = .next ((s.every (144 + n.toNat) (scMs 1)).updSect n fun x =>
      { x.setCur (x.mcur + 1) with thr := decide (x.mcur.toNat + 1 < x.m.toNat) }) :=
  if_neg (by rw [cool, decide_eq_true below]; decide)

theorem answers_throttleStep {s : State} {n : BitVec 4}
    (hot : (s.mon.hot.contains (2 * n.toNat) || s.mon.hot.contains (2 * n.toNat + 1)) = true) :
    Answers (.throttleStep n) s fun s' =>
      (s'.sect n).mcur = (if 4 < (s.sect n).mcur.toNat then (s.sect n).mcur - 1 else (s.sect n).mcur) ∧ (s'.sect n).m = (s.sect n).m ∧
      s'.mem = s.mem ∧ s'.ctxs = s.ctxs := by
  have kept := s.setting_every (128 + n.toNat) (scUs 100) n
  have rest := s.timeless_every (128 + n.toNat) (scUs 100)
  have run := exec_throttleStep hot
  generalize s.every (128 + n.toNat) (scUs 100) = a at kept rest run
  have mcur : (a.sect n).mcur = (s.sect n).mcur := (congrArg Section.mcur kept :)
  refine ⟨_, run, ?_, ?_, (congrArg State.mem rest :), (congrArg State.ctxs rest :)⟩
  · rw [State.sect_updSect_same, ← mcur]
    rfl
  · rw [State.sect_updSect_same]
    exact (congrArg Section.m kept :)

theorem answers_throttleRecoveryStep {s : State} {n : BitVec 4}
    (cool : (s.mon.hot.contains (2 * n.toNat) || s.mon.hot.contains (2 * n.toNat + 1)) = false)
    (below : (s.sect n).mcur.toNat < (s.sect n).m.toNat) : Answers (.throttleRecoveryStep n) s fun s' =>
      (s'.sect n).mcur = (s.sect n).mcur + 1 ∧ (s'.sect n).thr = decide ((s.sect n).mcur.toNat + 1 < (s.sect n).m.toNat) ∧
      s'.mem = s.mem ∧ s'.ctxs = s.ctxs := by
  have kept := s.setting_every (144 + n.toNat) (scMs 1) n
  have rest := s.timeless_every (144 + n.toNat) (scMs 1)
  have run := exec_throttleRecoveryStep cool below
  generalize s.every (144 + n.toNat) (scMs 1) = a at kept rest run
  refine ⟨_, run, ?_, ?_, (congrArg State.mem rest :), (congrArg State.ctxs rest :)⟩
  · rw [State.sect_updSect_same]
    exact (congrArg (fun x : Section => x.mcur + 1) kept :)
  · rw [State.sect_updSect_same]
    exact (congrArg (fun x : Section => decide (x.mcur.toNat + 1 < x.m.toNat)) kept :)

/-! ## Multiples that are set (15 R421, 17 R466) -/

/-- The part without its clocks. -/
def State.offClk (s : State) : State := { s with clk := {} }

theorem State.eq_of_offClk {s s' : State} (same : s'.offClk = s.offClk) : s' = { s with clk := s'.clk } :=
  (congrArg (fun a : State => { a with clk := s'.clk }) same :)

/-- CLK_FAB[n] is set, or the multiple is ignored. -/
theorem State.setM_eq (s : State) (n : BitVec 4) (v : BitVec 5) : s.setM n v = s ∨ ∃ f, s.setM n v = s.updSect n f := by
  unfold State.setM
  generalize (if s.mon.avsFault = true ∧ 16 < v.toNat ∧ v.toNat ≤ 20 then (16 : BitVec 5) else v) = m
  dsimp only
  by_cases ignored : m.toNat < 4 ∨ 20 < m.toNat
  · exact .inl (if_pos ignored)
  · exact .inr ⟨_, if_neg ignored⟩

theorem State.offClk_setM (s : State) (n : BitVec 4) (v : BitVec 5) : (s.setM n v).offClk = s.offClk := by
  obtain same | ⟨f, set⟩ := s.setM_eq n v
  · rw [same]
  · rw [set]
    rfl

/-- Multiples that are set one after another change the clocks alone. -/
theorem State.offClk_foldl_setM (l : List (Nat × BitVec 5)) (s : State) :
    (l.foldl (fun s e => s.setM (BitVec.ofNat 4 e.1) e.2) s).offClk = s.offClk :=
  foldl_keeps_view State.offClk (fun a e => a.offClk_setM (BitVec.ofNat 4 e.1) e.2) l s

/-- M that is raised changes the clocks, and what is still requested. -/
theorem State.raiseM_eq (s : State) : ∃ clk req, s.raiseM = { s with clk := clk, mon := { s.mon with mReq := req } } := by
  unfold State.raiseM
  dsimp only
  split
  case isTrue =>
    have rest := State.eq_of_offClk (State.offClk_foldl_setM s.mon.mReq s)
    generalize s.mon.mReq.foldl (fun s e => s.setM (BitVec.ofNat 4 e.1) e.2) s = t at rest ⊢
    exact ⟨t.clk, [], congrArg (fun a : State => a.updMon fun m => { m with mReq := [] }) rest⟩
  case isFalse => exact ⟨s.clk, s.mon.mReq, rfl⟩

/-! ## A conversion of a voltage (17 R463, R464) -/

/-- The windows run around NOM, or from the NOM before (17 R464). -/
theorem State.outside_of_nom {s s' : State} (nom : s'.mon.nom = s.mon.nom) (slew : s'.mon.slew = s.mon.slew) (n w mv : Nat) :
    s'.outside n w mv = s.outside n w mv := by
  rw [State.outside, State.outside, State.nomOf, State.nomOf, nom, slew]

/-- The monitors without the warning window. -/
def Mon.offWarning (m : Mon) : Mon := { m with vout := [], vbackSince := [], alertN := false }

/-- A reading inside the warning window changes what is known of that window, and puts no monitor outside it. -/
theorem State.warnWindow_inside {s : State} {n mv : Nat} (inside : s.outside n (s.mon.warn.getD n 30).toNat mv = false) :
    (∀ k ∈ (s.warnWindow n mv).mon.vout, k ∈ s.mon.vout) ∧ (s.warnWindow n mv).mon.offWarning = s.mon.offWarning ∧
      { s.warnWindow n mv with mon := {} } = { s with mon := {} } := by
  unfold State.warnWindow
  rw [if_neg (by rw [inside]; exact Bool.false_ne_true)]
  split
  case isFalse => exact ⟨fun _ listed => listed, rfl, rfl⟩
  case isTrue =>
    split
    case h_1 => exact ⟨fun _ listed => listed, rfl, rfl⟩
    case h_2 =>
      split
      case isTrue => exact ⟨fun _ listed => List.mem_of_mem_filter listed, rfl, rfl⟩
      case isFalse => exact ⟨fun _ listed => listed, rfl, rfl⟩

/-- The part without its keeper, its clocks and what has left it. -/
def State.offSafe (s : State) : State := { s with keeper := {}, clk := {}, out := [] }

theorem State.offSafe_drive (s : State) : s.drive.offSafe = s.offSafe := by
  obtain ⟨_, rest⟩ := s.drive_spec
  exact (congrArg (fun a : State => { a with keeper := {}, clk := {}, out := [] }) rest :)

/-- A supply inside its tolerance is no longer outside it. -/
theorem State.railWindow_inside (s : State) (n : Nat) :
    (s.railWindow n false).offSafe = (s.updMon fun m => { m with vtol := m.vtol.erase n }).offSafe := by
  unfold State.railWindow
  dsimp only
  split
  case isTrue => exact State.offSafe_drive _
  case isFalse =>
    rw [if_neg (fun no => Bool.false_ne_true no.1)]
    rfl

/-- A reading inside the critical window and the tolerance of its supply. -/
theorem State.critWindow_inside {s : State} {n mv : Nat} (inside : s.outside n (s.mon.crit.getD n 60).toNat mv = false)
    (rail : 16 ≤ n → s.outside n (railTolerance n) mv = false) :
    ∃ tol, (s.critWindow n mv).offSafe = (s.updMon fun m => { m with vcrit := m.vcrit.erase n, vtol := tol }).offSafe := by
  unfold State.critWindow
  simp only [inside, Bool.false_eq_true, not_false_eq_true, if_true, Bool.false_or, Bool.false_and, if_false]
  split
  case isTrue supply =>
    have same := (s.updMon fun m => { m with vcrit := m.vcrit.erase n }).outside_of_nom (s := s) rfl rfl n (railTolerance n) mv
    rw [rail supply] at same
    refine ⟨s.mon.vtol.erase n, ?_⟩
    rw [same]
    exact State.railWindow_inside _ n
  case isFalse => exact ⟨s.mon.vtol, rfl⟩

section Voltage
variable {n : BitVec 5} {mv : BitVec 16} {s : State} (there : n.toNat ≤ 23) (high : s.clk.porstLow = false)
  (powered : s.sectOff n.toNat = false)
  (warn : s.outside n.toNat (s.mon.warn.getD n.toNat 30).toNat mv.toNat = false)
  (crit : s.outside n.toNat (s.mon.crit.getD n.toNat 60).toNat mv.toNat = false)
  (rail : 16 ≤ n.toNat → s.outside n.toNat (railTolerance n.toNat) mv.toNat = false)

/-- The part with the conversion of VOLT[n] stored. -/
def State.readVolt (s : State) (n : Nat) (mv : BitVec 16) : State :=
  (s.every (64 + n) (if n < 22 then scUs 1 else scUs 10)).updMon fun m => { m with volt := m.volt.set n mv }

/-- A stored conversion, beside the voltage and the instant, changes only what waiting changes. -/
theorem State.readVolt_spec (s : State) (n : Nat) (mv : BitVec 16) :
    ∃ last, (s.readVolt n mv).timeless = (s.updMon fun m => { m with volt := m.volt.set n mv, last := last }).timeless :=
  ⟨_, (congrArg (fun a : State => (a.updMon fun m => { m with volt := m.volt.set n mv }).timeless)
    (s.timeless_every (64 + n) (if n < 22 then scUs 1 else scUs 10)) :)⟩

/-- What a conversion leaves, its windows looked at. -/
def State.watched (s : State) (n : Nat) (mv : BitVec 16) : State :=
  ((s.readVolt n mv).warnWindow n mv.toNat).critWindow n mv.toNat

theorem State.slewEnd_steady {s : State} {n : Nat} (steady : s.mon.slew.find n = none) (mv : Nat) : s.slewEnd n mv = s := by
  rw [State.slewEnd, steady]
  rfl

include there high powered in
theorem exec_voltageSample (steady : s.mon.slew.find n.toNat = none) : exec (.voltageSample n mv) s =
    .next (if n.toNat = 16 ∧ (s.watched n.toNat mv).fwRuns = true then (s.watched n.toNat mv).raiseM else s.watched n.toNat mv) := by
  obtain ⟨_, rest⟩ := s.readVolt_spec n.toNat mv
  have still : (s.readVolt n.toNat mv).mon.slew.find n.toNat = none := (congrArg (·.mon.slew.find n.toNat) rest :).trans steady
  have on : ((s.every (64 + n.toNat) (if n.toNat < 22 then scUs 1 else scUs 10)).sectOff n.toNat) ≠ true := by
    rw [State.sectOff_every, powered]
    exact Bool.false_ne_true
  show execVoltageSample n mv s = _
  rw [execVoltageSample, if_neg (Nat.not_lt.mpr there), if_neg (by rw [high]; exact Bool.false_ne_true), if_neg on, ← State.readVolt,
    State.slewEnd_steady still]
  rfl

include warn crit rail in
/-- A conversion inside every window is stored, and puts no monitor outside one. -/
theorem State.watched_spec :
    let s' := s.watched n.toNat mv
    (s'.mon.volt.getD n.toNat 0 = mv ∧ (n.toNat ∉ s.mon.vout → n.toNat ∉ s'.mon.vout) ∧ s'.mon.vcrit.find n.toNat = none) ∧
      s'.hub.rings = s.hub.rings ∧ s'.mem = s.mem ∧ s'.ctxs = s.ctxs := by
  obtain ⟨last, rest⟩ := s.readVolt_spec n.toNat mv
  rw [State.watched]
  generalize s.readVolt n.toNat mv = a at rest ⊢
  have same (w : Nat) : a.outside n.toNat w mv.toNat = s.outside n.toNat w mv.toNat :=
    State.outside_of_nom (congrArg (·.mon.nom) rest :) (congrArg (·.mon.slew) rest :) _ _ _
  have warnW : a.mon.warn = s.mon.warn := (congrArg (·.mon.warn) rest :)
  have critW : a.mon.crit = s.mon.crit := (congrArg (·.mon.crit) rest :)
  obtain ⟨vout, mon, off⟩ := State.warnWindow_inside (s := a) (n := n.toNat) (mv := mv.toNat) (by rw [warnW, same]; exact warn)
  generalize a.warnWindow n.toNat mv.toNat = b at vout mon off ⊢
  have same' (w : Nat) : b.outside n.toNat w mv.toNat = s.outside n.toNat w mv.toNat :=
    (State.outside_of_nom (congrArg Mon.nom mon :) (congrArg Mon.slew mon :) _ _ _).trans (same w)
  have critW' : b.mon.crit = s.mon.crit := (congrArg Mon.crit mon :).trans critW
  obtain ⟨tol, safe⟩ := State.critWindow_inside (s := b) (n := n.toNat) (mv := mv.toNat) (by rw [critW', same']; exact crit)
    (fun supply => by rw [same']; exact rail supply)
  generalize b.critWindow n.toNat mv.toNat = c at safe ⊢
  have volt : c.mon.volt = s.mon.volt.set n.toNat mv :=
    (congrArg (·.mon.volt) safe :).trans ((congrArg Mon.volt mon :).trans (congrArg (·.mon.volt) rest :))
  have out : c.mon.vout = b.mon.vout := (congrArg (·.mon.vout) safe :)
  have critical : c.mon.vcrit = b.mon.vcrit.erase n.toNat := (congrArg (·.mon.vcrit) safe :)
  have before : a.mon.vout = s.mon.vout := (congrArg (·.mon.vout) rest :)
  refine ⟨⟨?_, ?_, ?_⟩, (congrArg (·.hub.rings) safe :).trans ((congrArg (·.hub.rings) off :).trans (congrArg (·.hub.rings) rest :)),
    (congrArg State.mem safe :).trans ((congrArg State.mem off :).trans (congrArg State.mem rest :)),
    (congrArg State.ctxs safe :).trans ((congrArg State.ctxs off :).trans (congrArg State.ctxs rest :))⟩
  · rw [volt, Map.getD_set, if_pos rfl]
  · intro inside listed
    rw [out] at listed
    exact inside (before ▸ vout _ listed)
  · rw [critical, Map.find_erase, if_pos rfl]

include there high powered warn crit rail in
theorem answers_voltageSample (steady : s.mon.slew.find n.toNat = none) : Answers (.voltageSample n mv) s fun s' =>
    s'.mon.volt.getD n.toNat 0 = mv ∧ (n.toNat ∉ s.mon.vout → n.toNat ∉ s'.mon.vout) ∧ s'.mon.vcrit.find n.toNat = none ∧
      s'.hub.rings = s.hub.rings ∧ s'.mem = s.mem ∧ s'.ctxs = s.ctxs := by
  obtain ⟨⟨volt, vout, vcrit⟩, rest⟩ := State.watched_spec warn crit rail
  refine ⟨_, exec_voltageSample there high powered steady, ?_⟩
  split
  case isFalse => exact ⟨volt, vout, vcrit, rest⟩
  case isTrue =>
    obtain ⟨clk, req, raised⟩ := (s.watched n.toNat mv).raiseM_eq
    rw [raised]
    exact ⟨volt, vout, vcrit, rest⟩

end Voltage

/-! ## Adaptive voltage scaling (17 R465-R467) -/

/-- The sections whose multiple is to be lowered to that of `l`. -/
def State.lowering (s : State) (l : List (Nat × BitVec 5)) : List (Nat × BitVec 5) :=
  l.filter fun e => decide (e.2.toNat < (s.sect (BitVec.ofNat 4 e.1)).m.toNat)

/-- Multiples are lowered to those of `l`; the others of `l` stay requested. -/
def State.lowered (s : State) (l : List (Nat × BitVec 5)) : State :=
  let t := (s.lowering l).foldl (fun s e => s.setM (BitVec.ofNat 4 e.1) e.2) s
  t.updMon fun m => { m with mReq := l.filter fun e => (t.sect (BitVec.ofNat 4 e.1)).m != e.2 }

/-- The target `v` is written, and acknowledged or not. -/
def State.avsWritten (s : State) (v : BitVec 16) (ack : Bool) : State :=
  ((s.slewTo v).emit (.avs v)).updMon fun m =>
    { m with avsAcked := ack, avsFault := m.avsFault && !ack, avsSent := if ack || m.avsFault then none else some s.scnt }

theorem State.avsRun_eq (s : State) (ack : Bool) :
    s.avsRun ack =
      let b := s.convertProc
      let c := b.avsCompute 300 b.avsSections
      let d := b.lowered c.2
      if (BitVec.ofNat 16 c.1).toNat < d.mon.avsTarget.toNat ∧
          ((b.lowering c.2).any fun e => (d.sect (BitVec.ofNat 4 e.1)).mcur != (d.sect (BitVec.ofNat 4 e.1)).m) = true then d
      else (d.avsWritten (BitVec.ofNat 16 c.1) ack).raiseM := by
  unfold State.avsRun
  generalize s.convertProc = b
  dsimp only
  generalize b.avsCompute 300 b.avsSections = c
  obtain ⟨t, l⟩ := c
  rfl

/-- The part without its clocks and the multiples requested. -/
def State.offScaling (s : State) : State := { s with clk := {}, mon := { s.mon with mReq := [] } }

theorem State.lowered_eq (s : State) (l : List (Nat × BitVec 5)) :
    ∃ clk req, s.lowered l = { s with clk := clk, mon := { s.mon with mReq := req } } := by
  unfold State.lowered
  have rest := State.eq_of_offClk (State.offClk_foldl_setM (s.lowering l) s)
  generalize (s.lowering l).foldl (fun s e => s.setM (BitVec.ofNat 4 e.1) e.2) s = t at rest ⊢
  exact ⟨t.clk, _, congrArg (fun a : State => a.updMon fun m => { m with mReq := l.filter fun e => (t.sect (BitVec.ofNat 4 e.1)).m != e.2 }) rest⟩

theorem State.offScaling_raiseM (s : State) : s.raiseM.offScaling = s.offScaling := by
  obtain ⟨clk, req, raised⟩ := s.raiseM_eq
  rw [raised]
  rfl

/-- A run writes the target it computes, or waits, where the target falls, for the multiples that it lowers. -/
theorem State.avsRun_cases (s : State) (ack : Bool) :
    let b := s.convertProc
    let c := b.avsCompute 300 b.avsSections
    let v := BitVec.ofNat 16 c.1
    (s.avsRun ack).offScaling = (b.avsWritten v ack).offScaling ∨
      (v.toNat < b.mon.avsTarget.toNat ∧ b.lowering c.2 ≠ []) ∧ (s.avsRun ack).offScaling = b.offScaling := by
  rw [State.avsRun_eq]
  generalize s.convertProc = b
  dsimp only
  generalize b.avsCompute 300 b.avsSections = c
  obtain ⟨clk, req, lower⟩ := b.lowered_eq c.2
  split
  case isTrue waits =>
    refine .inr ⟨⟨?_, ?_⟩, by rw [lower]; rfl⟩
    · have falls := waits.1
      rw [lower] at falls
      exact falls
    · intro none
      rw [none] at waits
      exact Bool.false_ne_true waits.2
  case isFalse =>
    refine .inl ((State.offScaling_raiseM _).trans ?_)
    rw [lower]
    rfl

/-- The part but for waits, clocks, requests and the counts of the ring oscillators. -/
def State.unconverted (s : State) : State :=
  { s.timeless with free := 0, clk := {}, mon := { s.mon with mReq := [], proc := [], last := [] } }

theorem State.unconverted_every (s : State) (key n : Nat) : (s.every key n).unconverted = s.unconverted :=
  (congrArg (fun a : State => { a with free := 0, clk := {}, mon := { a.mon with mReq := [], proc := [], last := [] } })
    (s.timeless_every key n) :)

theorem State.unconverted_convertProc (s : State) : s.convertProc.unconverted = s.unconverted := by
  unfold State.convertProc
  (repeat' split) <;> rfl

theorem Map.find_foldl_set {α : Type} (v : α) (k : Nat) (l : List Nat) (m : Map α) :
    (l.foldl (fun (w : Map α) n => w.set n v) m).find k = if k ∈ l then some v else m.find k := by
  induction l generalizing m with
  | nil => simp
  | cons n l ih =>
    rw [List.foldl_cons, ih]
    by_cases here : k = n
    · rw [here, Map.find_set_same]
      simp
    · rw [Map.find_set_other _ here]
      simp [here]

/-- A written target is NOM of every monitor of VDD_CORE (17 R464). -/
theorem State.nomOf_slewTo (s : State) (v : BitVec 16) {k : Nat} (core : k < 17) : (s.slewTo v).nomOf k = v := by
  have moved : (s.slewTo v).mon.nom =
      (((List.range 17).filter fun n => s.nomOf n != v).foldl (fun (w : Map (BitVec 16)) n => w.set n v) s.mon.nom) := rfl
  rw [State.nomOf, moved, Map.getD, Map.find_foldl_set]
  split
  case isTrue => rfl
  case isFalse stays =>
    simp only [List.mem_filter, List.mem_range, core, true_and, bne_iff_ne, ne_eq, Decidable.not_not] at stays
    exact stays

theorem State.avsWritten_spec (s : State) (v : BitVec 16) (ack : Bool) :
    let s' := s.avsWritten v ack
    (s'.mon.avsTarget = v ∧ .avs v ∈ s'.out ∧ (∀ k, k < 17 → s'.nomOf k = v) ∧ s'.mon.avsFault = (s.mon.avsFault && !ack) ∧
      s'.mon.avsSent = if ack || s.mon.avsFault then none else some s.scnt) ∧ s'.mem = s.mem ∧ s'.ctxs = s.ctxs :=
  ⟨⟨rfl, List.mem_cons_self, fun _ core => s.nomOf_slewTo v core, rfl, rfl⟩, rfl, rfl⟩

/-- A multiple that the firmware requests of a section (17 R465). -/
def State.wants (s : State) (want : Option (BitVec 4 × BitVec 5)) : State :=
  match want with
  | some (n, m) => if 4 ≤ m.toNat ∧ m.toNat ≤ 20 then s.updMon fun x => { x with mReq := x.mReq.set n.toNat m } else s
  | none => s

theorem State.unconverted_wants (s : State) (want : Option (BitVec 4 × BitVec 5)) : (s.wants want).unconverted = s.unconverted := by
  unfold State.wants
  (repeat' split) <;> rfl

theorem exec_avsUpdate {s : State} (runs : s.fwRuns = true) (clear : s.mon.avsFault = false) (idle : s.mon.avsSent = none) (ack : Bool)
    (want : Option (BitVec 4 × BitVec 5)) : exec (.avsUpdate ack want) s = .next (((s.every 160 (scMs 10)).wants want).avsRun ack) :=
  if_neg (by simp [runs, clear, idle])

theorem exec_avsUpdate_waits {s : State} (waits : s.mon.avsFault = true ∨ s.mon.avsSent.isSome = true) (ack : Bool)
    (want : Option (BitVec 4 × BitVec 5)) : exec (.avsUpdate ack want) s = .next s :=
  if_pos (.inr waits)

theorem answers_avsUpdate {s : State} (runs : s.fwRuns = true) (clear : s.mon.avsFault = false) (idle : s.mon.avsSent = none) (ack : Bool)
    (want : Option (BitVec 4 × BitVec 5)) :
    let b := ((s.every 160 (scMs 10)).wants want).convertProc
    let t : BitVec 16 := BitVec.ofNat 16 (b.avsCompute 300 b.avsSections).1
    Answers (.avsUpdate ack want) s fun s' =>
      (s.mon.avsTarget.toNat ≤ t.toNat ∨ (∀ e ∈ (b.avsCompute 300 b.avsSections).2, (b.sect (BitVec.ofNat 4 e.1)).m.toNat ≤ e.2.toNat) →
        s'.mon.avsTarget = t ∧ .avs t ∈ s'.out ∧ (∀ k, k < 17 → s'.nomOf k = t) ∧ s'.mon.avsSent.isNone = ack ∧ s'.mon.avsFault = false) ∧
      (s'.mon.avsTarget = t ∨ s'.mon.avsTarget = s.mon.avsTarget ∧ s'.mon.nom = s.mon.nom ∧ s'.out = s.out) ∧
      s'.mem = s.mem ∧ s'.ctxs = s.ctxs := by
  intro b t
  have rest : b.unconverted = s.unconverted :=
    (State.unconverted_convertProc _).trans ((State.unconverted_wants _ want).trans (s.unconverted_every 160 (scMs 10)))
  have target : b.mon.avsTarget = s.mon.avsTarget := (congrArg (·.mon.avsTarget) rest :)
  have fault : b.mon.avsFault = false := (congrArg (·.mon.avsFault) rest :).trans clear
  have mem : b.mem = s.mem := (congrArg State.mem rest :)
  have ctxs : b.ctxs = s.ctxs := (congrArg State.ctxs rest :)
  refine ⟨_, exec_avsUpdate runs clear idle ack want, ?_⟩
  have ran := ((s.every 160 (scMs 10)).wants want).avsRun_cases ack
  generalize ((s.every 160 (scMs 10)).wants want).avsRun ack = s' at ran ⊢
  obtain written | ⟨⟨falls, lowers⟩, waits⟩ := ran
  · obtain ⟨⟨target', out, nom, fault', sent⟩, mem', ctxs'⟩ := b.avsWritten_spec t ack
    generalize b.avsWritten t ack = w at target' out nom fault' sent mem' ctxs' written
    have target'' : s'.mon.avsTarget = t := (congrArg (·.mon.avsTarget) written :).trans target'
    refine ⟨fun _ => ⟨target'', ?_, fun k core => (congrArg (fun a : State => a.nomOf k) written :).trans (nom k core), ?_, ?_⟩,
      .inl target'', (congrArg State.mem written :).trans (mem'.trans mem), (congrArg State.ctxs written :).trans (ctxs'.trans ctxs)⟩
    · have same : s'.out = w.out := (congrArg State.out written :)
      rw [same]
      exact out
    · have same : s'.mon.avsSent = w.mon.avsSent := (congrArg (·.mon.avsSent) written :)
      rw [same, sent, fault]
      cases ack <;> rfl
    · have same : s'.mon.avsFault = w.mon.avsFault := (congrArg (·.mon.avsFault) written :)
      rw [same, fault', fault]
      rfl
  · refine ⟨fun now => ?_, .inr ⟨(congrArg (·.mon.avsTarget) waits :).trans target,
      (congrArg (·.mon.nom) waits :).trans (congrArg (·.mon.nom) rest :), (congrArg State.out waits :).trans (congrArg State.out rest :)⟩,
      (congrArg State.mem waits :).trans mem, (congrArg State.ctxs waits :).trans ctxs⟩
    obtain up | none := now
    · rw [← target] at up
      exact absurd falls (Nat.not_lt.mpr up)
    · refine absurd (List.filter_eq_nil_iff.mpr fun e listed => ?_) lowers
      rw [decide_eq_true_iff]
      exact Nat.not_lt.mpr (none e listed)

/-! ## A transaction without an answer, and its retry (17 R466, R467) -/

theorem State.m_setM_16 (s : State) (n : BitVec 4) : ((s.setM n 16).sect n).m = 16 := by
  unfold State.setM
  simp only [ite_self]
  rw [if_neg (by decide), State.sect_updSect_same]

theorem State.sect_setM_other (s : State) {n k : BitVec 4} (other : k ≠ n) (v : BitVec 5) : (s.setM n v).sect k = s.sect k := by
  obtain same | ⟨f, set⟩ := s.setM_eq n v
  · rw [same]
  · rw [set, State.sect_updSect_other s other]

/-- A section that runs faster than 16 is held at 16. -/
def State.holdM (s : State) (n : BitVec 4) : State := if 16 < (s.sect n).m.toNat then s.setM n 16 else s

theorem State.m_holdM_same (s : State) (n : BitVec 4) : ((s.holdM n).sect n).m.toNat ≤ 16 := by
  unfold State.holdM
  split
  case isTrue => exact Nat.le_of_eq (congrArg BitVec.toNat (s.m_setM_16 n))
  case isFalse slow => exact Nat.not_lt.mp slow

theorem State.m_holdM_keeps {s : State} {k : BitVec 4} (slow : (s.sect k).m.toNat ≤ 16) (n : BitVec 4) :
    ((s.holdM n).sect k).m.toNat ≤ 16 := by
  by_cases here : k = n
  · rw [here]
    exact s.m_holdM_same n
  · unfold State.holdM
    split
    case isTrue => rwa [State.sect_setM_other s here]
    case isFalse => exact slow

theorem State.offClk_holdM (s : State) (n : BitVec 4) : (s.holdM n).offClk = s.offClk := by
  unfold State.holdM
  split
  case isTrue => exact s.offClk_setM n 16
  case isFalse => rfl

theorem State.m_foldl_holdM {l : List (BitVec 4)} {k : BitVec 4} (s : State) (held : k ∈ l ∨ (s.sect k).m.toNat ≤ 16) :
    ((l.foldl State.holdM s).sect k).m.toNat ≤ 16 := by
  induction l generalizing s with
  | nil => exact held.resolve_left List.not_mem_nil
  | cons n l ih =>
    rw [List.foldl_cons]
    refine ih _ ?_
    obtain listed | slow := held
    · obtain rfl | later := List.mem_cons.mp listed
      · exact .inr (s.m_holdM_same k)
      · exact .inl later
    · exact .inr (State.m_holdM_keeps slow n)

/-- The part 1 ms after a transaction was sent at `t` that has had no answer, every section held at 16 or below. -/
def State.unanswered (s : State) (t : Nat) : State :=
  allSections.foldl State.holdM ((s.passTo (t + scMs 1)).updMon fun m => { m with avsFault := true, avsSent := none, mReq := [] })

theorem exec_regulatorFault {s : State} {t : Nat} (runs : s.fwRuns = true) (sent : s.mon.avsSent = some t) :
    exec .regulatorFault s =
      .next ((s.unanswered t).adminEvent 0x0105 16 (BitVec.setWidth 64 ((s.unanswered t).voltOf 16))) := by
  show execRegulatorFault s = _
  unfold execRegulatorFault
  rw [sent]
  exact if_neg (not_not_intro runs)

theorem exec_regulatorFault_idle {s : State} (idle : s.mon.avsSent = none) : exec .regulatorFault s = .next s := by
  show execRegulatorFault s = _
  unfold execRegulatorFault
  rw [idle]

theorem answers_regulatorFault {s : State} {t : Nat} (runs : s.fwRuns = true) (sent : s.mon.avsSent = some t) :
    Answers .regulatorFault s fun s' =>
      s'.mon.avsFault = true ∧ s'.mon.avsSent = none ∧ t + scMs 1 ≤ s'.scnt ∧ (∀ n, (s'.sect n).m.toNat ≤ 16) ∧ s'.mon.nom = s.mon.nom ∧
      s'.mem = s.mem ∧ s'.ctxs = s.ctxs := by
  refine ⟨_, exec_regulatorFault runs sent, ?_⟩
  have every (n : BitVec 4) : n ∈ allSections := List.mem_map.mpr ⟨n.toNat, List.mem_range.mpr n.isLt, by simp⟩
  have rest := s.timeless_passTo (t + scMs 1)
  have late := s.le_scnt_passTo (t + scMs 1)
  unfold State.unanswered
  generalize s.passTo (t + scMs 1) = a at rest late ⊢
  have slow (n : BitVec 4) := State.m_foldl_holdM (a.updMon fun m => { m with avsFault := true, avsSent := none, mReq := [] }) (.inl (every n))
  have off := foldl_keeps_view State.offClk State.offClk_holdM allSections
    (a.updMon fun m => { m with avsFault := true, avsSent := none, mReq := [] })
  generalize allSections.foldl State.holdM _ = b at slow off ⊢
  have told := State.offHub_event b b.hub.admin 0x0105 16 (BitVec.setWidth 64 (b.voltOf 16))
  rw [State.adminEvent]
  generalize b.event b.hub.admin 0x0105 16 _ = c at told ⊢
  refine ⟨(congrArg (·.mon.avsFault) told :).trans (congrArg (·.mon.avsFault) off :),
    (congrArg (·.mon.avsSent) told :).trans (congrArg (·.mon.avsSent) off :), ?_, fun n => ?_,
    (congrArg (·.mon.nom) told :).trans ((congrArg (·.mon.nom) off :).trans (congrArg (·.mon.nom) rest :)),
    (congrArg State.mem told :).trans ((congrArg State.mem off :).trans (congrArg State.mem rest :)),
    (congrArg State.ctxs told :).trans ((congrArg State.ctxs off :).trans (congrArg State.ctxs rest :))⟩
  · have same : c.scnt = a.scnt := (congrArg State.scnt told :).trans (congrArg State.scnt off :)
    rw [same]
    exact late
  · have same : (c.sect n).m = (b.sect n).m := (congrArg (fun x : State => (x.sect n).m) told :)
    rw [same]
    exact slow n

/-- A section of multiple 16 or below fits within 850 mV. -/
theorem State.needOf_slow (s : State) (n : Nat) {m : BitVec 5} (slow : m.toNat ≤ 16) : s.needOf n m ≤ 835 := by
  rw [State.needOf, if_pos slow]
  exact Nat.min_le_right _ _

theorem State.neediest_slow {s : State} {l : List (Nat × BitVec 5)} (slow : ∀ e ∈ l, e.2.toNat ≤ 16) :
    ∀ b ∈ s.neediest l, b.2 ≤ 835 := by
  refine List.foldlRecOn (motive := fun (best : Option (Nat × Nat)) => ∀ b ∈ best, b.2 ≤ 835) l _ (fun b no => nomatch no) ?_
  intro best within e listed
  have need := s.needOf_slow e.1 (slow e listed)
  cases best with
  | none => rintro _ ⟨⟩; exact need
  | some b =>
    dsimp only
    split
    case isTrue => rintro _ ⟨⟩; exact need
    case isFalse => exact within

/-- No multiple falls where every section fits within 850 mV. -/
theorem State.avsCompute_slow {s : State} {l : List (Nat × BitVec 5)} (slow : ∀ e ∈ l, e.2.toNat ≤ 16) (k : Nat) :
    (s.avsCompute k l).2 = l := by
  cases k with
  | zero => rfl
  | succ k =>
    have within := State.neediest_slow (s := s) slow
    unfold State.avsCompute
    cases found : s.neediest l with
    | none => rfl
    | some b =>
      have need := within b found
      obtain ⟨n, v⟩ := b
      dsimp only at need ⊢
      rw [if_neg (by omega)]

theorem State.mem_avsSections {s : State} (unasked : s.mon.mReq = []) {e : Nat × BitVec 5} (listed : e ∈ s.avsSections) :
    e.2 = (s.sect (BitVec.ofNat 4 e.1)).m := by
  obtain ⟨n, _, found⟩ := List.mem_filterMap.mp listed
  rw [unasked] at found
  dsimp only at found
  split at found
  case isTrue => exact (Option.some.inj found) ▸ rfl
  case isFalse => exact nomatch found

theorem exec_avsbusRetry {s : State} (runs : s.fwRuns = true) (fault : s.mon.avsFault = true) (ack : Bool) :
    exec (.avsbusRetry ack) s = .next ((s.every 160 (scMs 100)).avsRun ack) := congrArg Host.Outcome.next (if_pos ⟨runs, fault⟩)

theorem State.sect_convertProc (s : State) (n : BitVec 4) : s.convertProc.sect n = s.sect n := by
  unfold State.convertProc
  (repeat' split) <;> rfl

theorem answers_avsbusRetry {s : State} (runs : s.fwRuns = true) (fault : s.mon.avsFault = true) (unasked : s.mon.mReq = [])
    (slow : ∀ n, (s.sect n).m.toNat ≤ 16) : Answers (.avsbusRetry true) s fun s' =>
      s'.mon.avsFault = false ∧ s'.mon.avsSent = none ∧ s'.mem = s.mem ∧ s'.ctxs = s.ctxs := by
  refine ⟨_, exec_avsbusRetry runs fault true, ?_⟩
  have rest := (s.every 160 (scMs 100)).unconverted_convertProc.trans (s.unconverted_every 160 (scMs 100))
  have unasked' : (s.every 160 (scMs 100)).convertProc.mon.mReq = [] := by
    rw [State.convertProc]
    have kept : (s.every 160 (scMs 100)).mon.mReq = s.mon.mReq := (congrArg (·.mon.mReq) (s.timeless_every 160 (scMs 100)) :)
    (repeat' split) <;> exact kept.trans unasked
  have m (n : BitVec 4) : ((s.every 160 (scMs 100)).convertProc.sect n).m = (s.sect n).m := by
    rw [State.sect_convertProc]
    exact (congrArg Section.m (s.setting_every 160 (scMs 100) n) :)
  have ran := (s.every 160 (scMs 100)).avsRun_cases true
  generalize (s.every 160 (scMs 100)).avsRun true = s' at ran ⊢
  generalize (s.every 160 (scMs 100)).convertProc = b at rest unasked' m ran
  have still : (b.avsCompute 300 b.avsSections).2 = b.avsSections := State.avsCompute_slow (fun e listed => by
    rw [State.mem_avsSections unasked' listed, m]
    exact slow _) 300
  have none : b.lowering b.avsSections = [] := List.filter_eq_nil_iff.mpr fun e listed => by
    rw [State.mem_avsSections unasked' listed, decide_eq_true_iff]
    exact Nat.lt_irrefl _
  obtain written | ⟨⟨_, lowers⟩, _⟩ := ran
  · obtain ⟨⟨_, _, _, fault', sent⟩, mem, ctxs⟩ := b.avsWritten_spec (BitVec.ofNat 16 (b.avsCompute 300 b.avsSections).1) true
    generalize b.avsWritten _ true = w at fault' sent mem ctxs written
    exact ⟨(congrArg (·.mon.avsFault) written :).trans (fault'.trans (Bool.and_false _)), (congrArg (·.mon.avsSent) written :).trans sent,
      (congrArg State.mem written :).trans (mem.trans (congrArg State.mem rest :)),
      (congrArg State.ctxs written :).trans (ctxs.trans (congrArg State.ctxs rest :))⟩
  · rw [still] at lowers
    exact absurd none lowers

/-- Settles O45: every reading and every run of the voltage scaling is followed by what it changes, each step keeping the rest. -/
theorem monitorsWarnThrottleAndTrip : Obligations.MonitorsWarnThrottleAndTrip := by
  refine ⟨fun i v ok s low high powered => ⟨answers_temperatureSample_trip low high powered ok,
      answers_temperatureSample_cool low high powered ok, answers_temperatureSample_hot low high powered ok⟩,
    fun i v ok s low there high cool => answers_temperatureSample_stack low there high cool ok,
    fun n s => ⟨answers_throttleStep, answers_throttleRecoveryStep⟩,
    fun n mv s there high powered warn crit rail steady => answers_voltageSample there high powered warn crit rail steady,
    fun ack want s runs => ⟨fun waits => exec_avsUpdate_waits waits ack want, fun clear idle => ?_⟩,
    fun s runs => ⟨exec_regulatorFault_idle, fun t sent => answers_regulatorFault runs sent, fun fault none slow =>
      answers_avsbusRetry runs fault none slow⟩⟩
  have run := answers_avsUpdate runs clear idle ack want
  cases want with
  | none => exact run
  | some w => exact run

end Sys2Proof.Machine
end

section
/-! PROOFS. Fences of clusters, planned moves, banks that follow, the end of forwarding and repair tests (06 R174, 16 R444-R450). -/

namespace Sys2Proof.Machine

/-! ## What a fence of a context leaves -/

/-- What the firmware keeps, the clocks and sections, and the mailboxes. -/
def State.governed (s : State) : Fw × Clk × Map Mbox := (s.fw, s.clk, s.hub.mbox)

theorem State.fw_of_governed {s s' : State} (same : s'.governed = s.governed) : s'.fw = s.fw := congrArg Prod.fst same

theorem State.governed_of_signalled {s s' : State} (signalled : s.Signalled s') : s'.governed = s.governed :=
  (congrArg State.governed signalled.rest :)

@[simp] theorem State.governed_updCtx (s : State) (x : CtxId) (u : Ctx → Ctx) : (s.updCtx x u).governed = s.governed := rfl
@[simp] theorem State.governed_updAux (s : State) (x : CtxId) (u : CtxAux → CtxAux) : (s.updAux x u).governed = s.governed := rfl
@[simp] theorem State.governed_updThread (s : State) (t : Tid) (u : Thread → Thread) : (s.updThread t u).governed = s.governed := rfl
@[simp] theorem State.governed_updCluster (s : State) (c : ClusterId) (u : Cluster → Cluster) :
    (s.updCluster c u).governed = s.governed := rfl
@[simp] theorem State.governed_abandon (s : State) (p : Holder → Bool) : (s.abandon p).governed = s.governed := rfl
@[simp] theorem State.governed_dropStaged (s : State) (x : CtxId) : (s.dropStaged x).governed = s.governed := rfl

theorem State.signalled_event (s : State) (f : FuncId) (code : BitVec 16) (object : Nat) (value : DWord) :
    s.Signalled (s.event f code object value) := by
  unfold State.event
  split
  · exact .refl s
  · exact s.signalled_stageItem f _ _

@[simp] theorem State.governed_event (s : State) (f : FuncId) (code : BitVec 16) (object : Nat) (value : DWord) :
    (s.event f code object value).governed = s.governed := State.governed_of_signalled (s.signalled_event f code object value)

@[simp] theorem State.governed_adminEvent (s : State) (code : BitVec 16) (object : Nat) (value : DWord) :
    (s.adminEvent code object value).governed = s.governed := s.governed_event s.hub.admin code object value

@[simp] theorem State.governed_freeThread (s : State) (t : Tid) : (s.freeThread t).governed = s.governed := by
  unfold State.freeThread
  dsimp only
  split <;> rfl

@[simp] theorem State.governed_toDormant (s : State) (c : ClusterId) (d : BitVec 10) : (s.toDormant c d).governed = s.governed := by
  unfold State.toDormant
  dsimp only
  split <;> rfl

@[simp] theorem State.governed_endThread (s : State) (t : Tid) : (s.endThread t).governed = s.governed := by
  unfold State.endThread
  split <;> simp

@[simp] theorem State.governed_stopWork (s : State) (t : Tid) (a : AfterSave) : (s.stopWork t a).governed = s.governed := by
  unfold State.stopWork
  dsimp only
  split
  · rfl
  · split
    · simp
    · split <;> simp

@[simp] theorem State.governed_tear (s : State) (who : Sender) (x : CtxId) (task : BitVec 16) (ch : BitVec 3) (granted : Bool) :
    (s.tear who x task ch granted).governed = s.governed := by
  unfold State.tear
  split <;> rfl

@[simp] theorem State.governed_tearOutbox (s : State) (t : Tid) : (s.tearOutbox t).governed = s.governed := by
  unfold State.tearOutbox State.tearTrap
  dsimp only
  (repeat' split) <;> simp

@[simp] theorem State.governed_haltThread (s : State) (a : AfterSave) (t : Tid) : (s.haltThread a t).governed = s.governed := by
  unfold State.haltThread
  dsimp only
  (repeat' split) <;> simp

@[simp] theorem State.governed_updRing (s : State) (f : FuncId) (r : RingId) (u : Ring → Ring) : (s.updRing f r u).governed = s.governed :=
  State.governed_of_signalled (s.signalled_updRing f r u)

@[simp] theorem State.governed_dropParked (s : State) (x : CtxId) (c : ClusterId) : (s.dropParked x c).governed = s.governed :=
  foldl_keeps_view State.governed
    (fun (s : State) (k : Parked) => (rfl : (s.toBroke k.token UNDELIVERABLE x true).governed = s.governed)) _ (s.updCluster c _)

@[simp] theorem State.governed_tearAll (s : State) (x : CtxId) : (s.tearAll x).governed = s.governed := by
  have saved (a : State) (c : ClusterId) (d : BitVec 10) : (a.tearSaved c d).governed = a.governed := by
    unfold State.tearSaved
    dsimp only
    split <;> simp
  unfold State.tearAll State.tearRings
  dsimp only
  refine (foldl_keeps_view State.governed (fun a e => ?_) _ _).trans
    (foldl_keeps_view State.governed (fun a e => foldl_keeps_view State.governed (fun a k => ?_) _ a) _ s)
  · (repeat' split) <;> simp
  · split <;> simp [saved, State.updTask]

/-- A context that is fenced leaves what the firmware keeps, the sections and the mailboxes. -/
theorem State.governed_fence (s : State) (x : CtxId) (cause : Byte) : (s.fence x cause).governed = s.governed := by
  have stopped (a : State) : ((a.threadsOf x).foldl (State.haltThread · .fenced) a).governed = a.governed :=
    foldl_keeps_view State.governed (fun s t => s.governed_haltThread .fenced t) _ a
  have dropped (l : List ClusterId) (a : State) : (l.foldl (State.dropActivations · x) a).governed = a.governed :=
    foldl_keeps_view State.governed (fun s c => by simp [State.dropActivations, State.emptySlots, State.inflightSub]) l a
  have parked (l : List ClusterId) (a : State) : (l.foldl (State.dropParked · x) a).governed = a.governed :=
    foldl_keeps_view State.governed (fun s c => s.governed_dropParked x c) l a
  unfold State.fence
  dsimp only
  split
  case isTrue => rfl
  case isFalse =>
    split <;> simp only [State.governed_adminEvent, State.governed_event, State.governed_abandon, State.governed_dropStaged, parked, dropped,
      State.governed_tearAll, stopped, State.governed_updAux, State.governed_updCtx]

/-! ## Fences of clusters and sections -/

/-- A plan is added to, and contexts that found no place are fenced. -/
theorem State.governed_takePlan (s : State) (p : Planning) :
    ∃ plan, (s.takePlan p).governed = ({ s.fw with plan := plan }, s.clk, s.hub.mbox) :=
  ⟨_, foldl_keeps_view State.governed (fun a x => a.governed_fence x TARGET_FENCED) p.failed _⟩

theorem State.fw_takePlan (s : State) (p : Planning) : ∃ plan, (s.takePlan p).fw = { s.fw with plan := plan } := by
  obtain ⟨plan, taken⟩ := s.governed_takePlan p
  exact ⟨plan, congrArg Prod.fst taken⟩

theorem State.fw_fenceCluster (s : State) (c : ClusterId) :
    (s.fenceCluster c).fw.fencedClusters = s.fw.fencedClusters ++ [c] ∧ (s.fenceCluster c).fw.clusterFences = s.fw.clusterFences := by
  unfold State.fenceCluster
  dsimp only
  obtain ⟨plan, taken⟩ := State.fw_takePlan (s.updFw fun w =>
    { w with fencedClusters := w.fencedClusters ++ [c], reserveSet := w.reserveSet.erase c }) (State.planMoves _ [c])
  rw [taken]
  exact ⟨rfl, rfl⟩

/-- A fence of a section leaves the fences of clusters as they were. -/
theorem State.fw_fenceSection (s : State) (n : BitVec 4) (cause : Byte) (asker : Option FuncId) :
    (s.fenceSection n cause asker).fw.fencedClusters = s.fw.fencedClusters ∧
      (s.fenceSection n cause asker).fw.clusterFences = s.fw.clusterFences := by
  unfold State.fenceSection
  dsimp only
  split
  case isTrue => exact ⟨rfl, rfl⟩
  case isFalse =>
    split
    case isTrue => exact ⟨rfl, rfl⟩
    case isFalse =>
      generalize hp : State.planMoves _ _ = p
      obtain ⟨plan, taken⟩ := State.fw_takePlan (((s.leaveAdmission n).adminEvent 0x0100 n.toNat (BitVec.setWidth 64 cause)).updFw fun w =>
        { w with fenceJob := some (n, asker), fenceKept := s.fw.reserveSet.filter fun c => clusterSection c == n }) p
      rw [taken, State.updFw_fw, State.fw_of_governed (State.governed_adminEvent _ _ _ _)]
      exact ⟨rfl, rfl⟩

/-- 16 uncorrected errors within 24 h fence a cluster (16 R441). -/
theorem answers_clusterFence {s : State} {c : ClusterId} (runs : s.fwRuns = true) (unfenced : s.fw.fencedClusters.contains c = false)
    (serves : (s.sect (clusterSection c)).svc = 0) (errors : 16 ≤ s.recent s.fw.ueLog c scDay) :
    Answers (.clusterFence c) s fun s' => c ∈ s'.fw.fencedClusters ∧ (c, s.scnt) ∈ s'.fw.clusterFences ∧ s'.mem = s.mem := by
  obtain ⟨fenced, fences⟩ := s.fw_fenceCluster c
  have mem := s.fenceCluster_mem c
  have acts : ¬ (¬ s.fwRuns = true ∨ s.fw.fencedClusters.contains c = true ∨ (s.sect (clusterSection c)).svc ≠ 0 ∨
      (s.recent s.fw.ueLog c scDay < 16 ∧ s.recent s.fw.ceLog c (scMs 1000) < 1000)) := by
    rintro (held | listed | out | ⟨few, _⟩)
    · exact held runs
    · exact absurd listed (by rw [unfenced]; exact Bool.false_ne_true)
    · exact out serves
    · omega
  refine ⟨_, if_neg acts, ?_⟩
  dsimp only
  generalize s.fenceCluster c = a at fenced fences mem ⊢
  have listed : c ∈ a.fw.fencedClusters ∧ (c, s.scnt) ∈ a.fw.clusterFences ++ [(c, s.scnt)] ∧ a.mem = s.mem :=
    ⟨fenced ▸ List.mem_append_right _ (List.mem_singleton_self c), List.mem_append_right _ (List.mem_singleton_self _), mem⟩
  split
  case isTrue =>
    obtain ⟨fenced', fences'⟩ := (a.updFw fun w => { w with clusterFences := w.clusterFences ++ [(c, s.scnt)] }).fw_fenceSection
      (clusterSection c) 2 none
    rw [fenced', fences', State.fenceSection_mem]
    exact listed
  case isFalse => exact listed

theorem State.svc_passTo (s : State) (due : Nat) (n : BitVec 4) : ((s.passTo due).sect n).svc = (s.sect n).svc :=
  (congrArg Section.svc (s.setting_passTo due n) :)

section Refusal
variable {s : State} {c : ClusterId} {t : Nat} (runs : s.fwRuns = true) (unfenced : s.fw.fencedClusters.contains c = false)
  (serves : (s.sect (clusterSection c)).svc = 0) (since : (s.cluster c).refusedSince = some t)
include runs unfenced serves since

theorem exec_spillStuckTimeout : exec (.spillStuckTimeout c) s =
    let b := s.passTo (t + scMs 10)
    .next (if s.fw.reserveSet.isEmpty then b.adminEvent 0x0030 c.toNat 0 else b.fenceCluster c) := by
  have stays : ¬ ((s.passTo (t + scMs 10)).fw.fencedClusters.contains c = true ∨
      ((s.passTo (t + scMs 10)).sect (clusterSection c)).svc ≠ 0) := by
    rw [State.passTo_fw, State.svc_passTo, unfenced, serves]
    decide
  show execSpillStuckTimeout c s = _
  rw [execSpillStuckTimeout, since]
  dsimp only
  rw [if_neg (not_not_intro runs), if_neg stays, State.passTo_fw]
  exact (apply_ite Host.Outcome.next _ _ _).symm

end Refusal

/-! ## Moves of positions (16 R446, R447) -/

theorem State.control_stopReq (s : State) (t : Tid) : (s.stopReq t).control = s.control := by
  unfold State.stopReq
  dsimp only
  (repeat' split) <;> simp

theorem State.control_askMoves (s : State) (x : CtxId) (a : ClusterId) : (s.askMoves x a).control = s.control := by
  refine foldl_keeps_view State.control (fun s t => ?_) _ s
  have asked (a : State) : (a.askStop t).control = a.control := by
    unfold State.askStop
    dsimp only
    split <;> split
    · exact a.control_stopReq t
    · rfl
    · exact a.control_stopReq t
    · rfl
  split
  case isTrue => exact (asked _).trans (s.control_updThread t _)
  case isFalse => rfl

/-- A move that begins is the context's move from then on. -/
theorem State.move_beginMove (s : State) (x : CtxId) (k : BitVec 6) (a b : ClusterId) :
    ((s.beginMove x k a b).caux x).move = some { position := k, source := a, target := b, startSc := s.scnt } := by
  unfold State.beginMove
  rw [State.caux_of_control (State.control_askMoves _ x a), State.caux_updAux_same]

section Planned
variable {s : State} {x : CtxId} {k : BitVec 6} {b : ClusterId} (runs : s.fwRuns = true) (still : (s.caux x).move = none)
  (planned : (s.fw.plan.find? fun e => e.1 == x && e.2.1 == k) = some (x, k, b)) (taken : (s.ctx x).state ≠ FREE)
  (unfenced : (s.ctx x).state ≠ FENCED) (alive : s.dying x = false) (few : s.moves.length < 4)
  (apart : ∀ m ∈ s.moves, m.source ≠ s.clusterAt x k.toNat)
include few apart in
theorem State.moves_free : ¬ (4 ≤ s.moves.length ∨ (s.moves.any fun m => m.source == s.clusterAt x k.toNat) = true) := by
  rintro (many | busy)
  · omega
  · obtain ⟨m, moving, same⟩ := List.any_eq_true.mp busy
    exact apart m moving (eq_of_beq same)

include runs still planned taken unfenced alive few apart

/-- A planned move that nothing holds up begins. -/
theorem exec_positionMove_begins {d : ClusterId} (target : s.moveTarget x k (s.clusterAt x k.toNat) b = some d) :
    exec (.positionMove x k) s = .next (s.beginMove x k (s.clusterAt x k.toNat) d) := by
  have free := State.moves_free few apart
  show execPositionMove x k s = _
  rw [execPositionMove, if_pos runs, State.positionMove, still]
  dsimp only
  rw [planned]
  dsimp only
  rw [if_neg (by rw [alive]; simp [taken, unfenced]), if_neg free, target]

/-- A context whose position no cluster takes is fenced. -/
theorem exec_positionMove_nowhere (nowhere : s.moveTarget x k (s.clusterAt x k.toNat) b = none) :
    exec (.positionMove x k) s = .next (s.fence x TARGET_FENCED) := by
  have free := State.moves_free few apart
  show execPositionMove x k s = _
  rw [execPositionMove, if_pos runs, State.positionMove, still]
  dsimp only
  rw [planned]
  dsimp only
  rw [if_neg (by rw [alive]; simp [taken, unfenced]), if_neg free, nowhere]

end Planned

section Moving
variable {s : State} {x : CtxId} {m : Move} (runs : s.fwRuns = true) (moving : (s.caux x).move = some m)
include runs moving

/-- A move whose work has stopped ends, its code following it or not. -/
theorem exec_positionMove_stopped (stopped : s.threadsAt m.source x = []) :
    (∀ t, s.followCode x m.position m.source m.target = some t → exec (.positionMove x m.position) s = .next (t.moveWork x m)) ∧
      (s.followCode x m.position m.source m.target = none → exec (.positionMove x m.position) s = .next (s.fence x TARGET_FENCED)) := by
  have asked : s.askMoves x m.source = s := by
    rw [State.askMoves, stopped]
    rfl
  refine ⟨fun t follows => ?_, fun full => ?_⟩
  · show execPositionMove x m.position s = _
    rw [execPositionMove, if_pos runs, State.positionMove, moving]
    dsimp only
    rw [if_neg (not_not_intro rfl), asked, stopped, if_pos List.isEmpty_nil, follows]
  · show execPositionMove x m.position s = _
    rw [execPositionMove, if_pos runs, State.positionMove, moving]
    dsimp only
    rw [if_neg (not_not_intro rfl), asked, stopped, if_pos List.isEmpty_nil, full]

theorem exec_moveTimeout (busy : s.threadsAt m.source x ≠ []) :
    exec (.moveTimeout x) s = .next ((s.passTo (m.startSc + scMs 1)).fence x TARGET_FENCED) := by
  show execMoveTimeout x s = _
  rw [execMoveTimeout, moving]
  exact if_neg (by simp [runs, busy])

end Moving

/-! ## Banks that follow (10 R298, 16 R448) -/

theorem leastFrom_accepts {p : Nat → Bool} {n i k : Nat} (found : leastFrom p n i = some k) : p k = true := by
  induction n generalizing i with
  | zero => cases found
  | succ n ih =>
    rw [leastFrom] at found
    split at found
    case isTrue accepts => exact (Option.some.inj found) ▸ accepts
    case isFalse => exact ih found

theorem bankCluster_append (c : ClusterId) (i : BitVec 2) : bankCluster (c ++ i) = c := by
  have wide (j : Nat) : (c ++ i : BitVec (6 + 2)).getLsbD (2 + j) = c.getLsbD j := by
    rw [BitVec.getLsbD_append, if_neg (by omega), Nat.add_sub_cancel_left]
  refine BitVec.eq_of_getLsbD_eq fun j inside => ?_
  rw [bankCluster, bits, BitVec.getLsbD_extractLsb', decide_eq_true inside, Bool.true_and]
  exact wide j

theorem State.freeBank_spec {s : State} {c : ClusterId} {n d : Byte} (free : s.freeBank c n = some d) :
    (s.bank d).kind = 0 ∧ bankCluster d = c := by
  obtain ⟨i, found, rfl⟩ := Option.map_eq_some_iff.mp free
  refine ⟨?_, bankCluster_append c _⟩
  split at found
  case isTrue accepts =>
    cases found
    exact eq_of_beq accepts
  case isFalse => exact eq_of_beq (leastFrom_accepts (p := fun i => (s.bank (c ++ BitVec.ofNat 2 i)).kind == 0) found)

/-- The banks and the context table. -/
def State.held (s : State) : Map Bank × Map Ctx := (s.banks, s.ctxs)

theorem State.held_rewriteWindows (s : State) (x : CtxId) (old : Byte) : (s.rewriteWindows x old).held = s.held := by
  have set (a : State) (w : BitVec 6) (raw : BitVec 128) : (a.setWindow x w raw).held = a.held := by
    simp [State.held, State.setWindow, State.healRange]
  unfold State.rewriteWindows
  generalize List.range 64 = l
  refine foldl_keeps_view State.held (fun a w => ?_) l s
  dsimp only
  split
  case isTrue => exact set a _ _
  case isFalse => rfl

section Copy
variable {s : State} {n : Byte} {q : Nat} {f : Fwd} (runs : s.fwRuns = true) (waits : s.bankWaits n = true)
  (gone : (s.cluster (bankCluster n)).forward (s.bank n).ctx = some (q, f))
include runs waits gone

theorem exec_bankCopy_full (full : s.freeBank f.target n = none) :
    exec (.bankCopy n) s = .next (s.fence (s.bank n).ctx TARGET_FENCED) := by
  show execBankCopy n s = _
  rw [execBankCopy, if_neg (by simp [runs, waits])]
  dsimp only
  rw [gone]
  dsimp only
  rw [full]

theorem answers_bankCopy {d : Byte} (free : s.freeBank f.target n = some d) : Answers (.bankCopy n) s fun s' =>
    (s'.bank d).kind = 2 ∧ (s'.bank d).ctx = (s.bank n).ctx ∧ (s'.bank n).fwdBank = d ∧ (s'.bank n).fwdValid = true ∧ s'.ctxs = s.ctxs := by
  obtain ⟨kind, _⟩ := State.freeBank_spec free
  have other : d ≠ n := by
    rintro rfl
    rw [State.bankWaits, kind] at waits
    exact Bool.false_ne_true waits
  have run : exec (.bankCopy n) s = .next (((((s.copyBank n d).updBank d fun b =>
      { b with kind := 2, ctx := (s.bank n).ctx, assigned := true }).updBank n fun b =>
      { b with fwdBank := d, fwdValid := true }).rewriteWindows (s.bank n).ctx n)) := by
    show execBankCopy n s = _
    rw [execBankCopy, if_neg (by simp [runs, waits])]
    dsimp only
    rw [gone]
    dsimp only
    rw [free]
  refine ⟨_, run, ?_⟩
  have ctxs : (s.copyBank n d).ctxs = s.ctxs := rfl
  generalize s.copyBank n d = a at ctxs ⊢
  have kept := State.held_rewriteWindows ((a.updBank d fun b => { b with kind := 2, ctx := (s.bank n).ctx, assigned := true }).updBank n fun b =>
      { b with fwdBank := d, fwdValid := true }) (s.bank n).ctx n
  generalize State.rewriteWindows _ (s.bank n).ctx n = s' at kept ⊢
  have bank (i : Byte) : s'.bank i = ((a.updBank d fun b => { b with kind := 2, ctx := (s.bank n).ctx, assigned := true }).updBank n fun b =>
      { b with fwdBank := d, fwdValid := true }).bank i := (congrArg (fun v : Map Bank × Map Ctx => v.1.getD i.toNat {}) kept :)
  refine ⟨?_, ?_, ?_, ?_, (congrArg Prod.snd kept :).trans ctxs⟩
  · rw [bank, State.bank_updBank_other _ other, State.bank_updBank_same]
  · rw [bank, State.bank_updBank_other _ other, State.bank_updBank_same]
  · rw [bank, State.bank_updBank_same]
  · rw [bank, State.bank_updBank_same]

end Copy

/-! ## The bytes of a bank that is copied -/

theorem Memory.get_filter (m : List Host.Cell) (p : Nat → Bool) (a : Nat) :
    Memory.get (m.filter fun e => p e.1) a = if p a = true then Memory.get m a else memDefault := by
  induction m with
  | nil => simp [Memory.get]
  | cons e m ih =>
    obtain ⟨b, v⟩ := e
    by_cases here : b = a
    · subst here
      by_cases kept : p b = true
      · simp [Memory.get, kept]
      · rw [List.filter_cons_of_neg (by simpa using kept), ih, if_neg kept, if_neg kept]
    · by_cases kept : p b = true
      · rw [List.filter_cons_of_pos (by simpa using kept), Memory.get, if_neg here, ih, Memory.get, if_neg here]
      · rw [List.filter_cons_of_neg (by simpa using kept), ih, Memory.get, if_neg here]

theorem Memory.get_of_absent {l : List Host.Cell} {a : Nat} (absent : (l.any fun e => e.1 == a) = false) : Memory.get l a = memDefault := by
  induction l with
  | nil => rfl
  | cons e l ih =>
    obtain ⟨b, v⟩ := e
    rw [List.any_cons, Bool.or_eq_false_iff] at absent
    rw [Memory.get, if_neg (by simpa using absent.1), ih absent.2]

/-- The bytes `l` are written one after another, moved from `lo` to `dst`. -/
def Memory.paste (lo dst : Nat) (m l : List Host.Cell) : List Host.Cell :=
  l.foldl (fun m e => Memory.set m (e.1 - lo + dst) e.2) m

/-- After bytes in rising order are moved to `dst`, where nothing was listed, memory reads there as the bytes read at `lo`. -/
theorem Memory.get_paste {lo dst j : Nat} {l : List Host.Cell} (rising : l.Pairwise fun e f => e.1 < f.1) (within : ∀ e ∈ l, lo ≤ e.1)
    {m : List Host.Cell} (wf : Memory.wf m = true) :
    Memory.get (Memory.paste lo dst m l) (dst + j) = if (l.any fun e => e.1 == lo + j) = true then Memory.get l (lo + j) else Memory.get m (dst + j) := by
  induction l generalizing m with
  | nil => rfl
  | cons e l ih =>
    obtain ⟨a, v⟩ := e
    obtain ⟨above, rising⟩ := List.pairwise_cons.mp rising
    have low : lo ≤ a := within (a, v) List.mem_cons_self
    rw [Memory.paste, List.foldl_cons, ← Memory.paste, ih rising (fun e listed => within e (List.mem_cons_of_mem _ listed))
      (Memory.set_wf wf _ v), Memory.get_set wf, List.any_cons]
    by_cases here : a = lo + j
    · have last : (l.any fun e => e.1 == lo + j) = false := by
        rw [List.any_eq_false]
        intro f listed same
        have := above f listed
        have := eq_of_beq same
        dsimp only at *
        omega
      simp [last, here, Memory.get, Nat.add_comm]
    · have apart : dst + j ≠ a - lo + dst := by omega
      simp [here, Memory.get, apart]

/-- A bank that is copied reads at its new place as at the old (16 R448). -/
theorem Memory.get_copyBank {s : State} (wf : s.memWf = true) (n d : Byte) {j : Nat} (inside : j < 0x40000) :
    Memory.get (s.copyBank n d).mem (bankBase + d.toNat * 0x40000 + j) = Memory.get s.mem (bankBase + n.toNat * 0x40000 + j) := by
  let lo := bankBase + n.toNat * 0x40000
  let dst := bankBase + d.toNat * 0x40000
  let range (a : Nat) : Bool := decide (lo ≤ a) && decide (a < lo + 0x40000)
  let cells := s.mem.filter fun e => range e.1
  have copied : (s.copyBank n d).mem = Memory.paste lo dst (Memory.clear s.mem dst 0x40000) cells := rfl
  obtain ⟨rising, _⟩ := (Memory.wf_iff s.mem).mp wf
  have within : ∀ e ∈ cells, lo ≤ e.1 := fun e listed => by
    have ranged := (List.mem_filter.mp listed).2
    exact of_decide_eq_true (Bool.and_eq_true_iff.mp ranged).1
  have source : Memory.get cells (lo + j) = Memory.get s.mem (lo + j) := by
    rw [Memory.get_filter s.mem range, if_pos (by simp [range, inside])]
  show Memory.get (s.copyBank n d).mem (dst + j) = Memory.get s.mem (lo + j)
  rw [copied, Memory.get_paste (rising.sublist List.filter_sublist) within (Memory.clear_wf wf dst 0x40000), ← source]
  split
  case isTrue => rfl
  case isFalse absent =>
    rw [Memory.get_clear, if_pos ⟨Nat.le_add_right _ _, Nat.add_lt_add_left inside dst⟩, Memory.get_of_absent (Bool.not_eq_true _ ▸ absent)]

/-! ## The end of forwarding and of a repair test (16 R444, R450) -/

theorem exec_forwardQuietTimeout {s : State} {n : BitVec 4} (runs : s.fwRuns = true) (leaves : s.leaving n ≠ [])
    (done : s.evacuated (s.leaving n) = true) : exec (.forwardQuietTimeout n) s =
      .next (((s.leaving n).foldl State.endForwarding (s.passTo ((s.sect n).lastFwd + scUs 10))).endFence n) :=
  if_neg (by simp [runs, leaves, done])

theorem State.ctxs_powerOff (s : State) (n : BitVec 4) : (s.powerOff n).ctxs = s.ctxs := by
  have reset : (s.resetSection n true).ctxs = s.ctxs := by
    have clusters := foldl_keeps_view State.ctxs (fun _ _ => rfl) (f := State.resetCluster) (sectClusters n) s
    unfold State.resetSection
    generalize sectClusters n = l at clusters ⊢
    exact clusters
  unfold State.powerOff
  dsimp only
  generalize s.resetSection n true = a at reset ⊢
  split
  case isTrue => rfl
  case isFalse =>
    split
    case isTrue => rfl
    case isFalse =>
      split
      case isTrue =>
        split
        case isTrue => exact reset
        case isFalse => exact reset
      case isFalse => rfl

section Test
variable {s : State} {n : BitVec 4} (runs : s.fwRuns = true) (tested : (s.sect n).svc = 2)
include runs tested

theorem answers_repairTestDone_passes : Answers (.repairTestDone n 0) s fun s' =>
    (s'.sect n).svc = 3 ∧ (s'.sect n).gated = true ∧ s'.mem = s.mem ∧ s'.ctxs = s.ctxs := by
  refine ⟨(s.updSect n fun x => { x with svc := 3, gated := true }).adminEvent 0x0102 n.toNat 0, if_neg (by simp [runs, tested]), ?_⟩
  have here := s.sect_updSect_same n fun x => { x with svc := 3, gated := true }
  have told := State.offHub_event (s.updSect n fun x => { x with svc := 3, gated := true }) s.hub.admin 0x0102 n.toNat 0
  have sect : (State.adminEvent (s.updSect n fun x => { x with svc := 3, gated := true }) 0x0102 n.toNat 0).sect n = _ :=
    (congrArg (fun a : State => a.sect n) told :).trans here
  dsimp only
  rw [sect]
  exact ⟨rfl, rfl, (congrArg State.mem told :), (congrArg State.ctxs told :)⟩

theorem answers_repairTestDone_fails {code : Byte} (fails : code ≠ 0) (known : code.toNat ≤ 7) :
    Answers (.repairTestDone n code) s fun s' => (s'.sect n).svc = 4 ∧ s'.ctxs = s.ctxs := by
  have run : exec (.repairTestDone n code) s =
      .next (((s.powerOff n).updSect n fun x => { x with svc := 4 }).adminEvent 0x0102 n.toNat (BitVec.setWidth 64 code)) := by
    show execRepairTestDone n code s = _
    rw [execRepairTestDone, if_neg (by simp [runs, tested]; omega), if_neg fails]
  have ctxs := s.ctxs_powerOff n
  refine ⟨_, run, ?_⟩
  generalize s.powerOff n = a at ctxs ⊢
  have told := State.offHub_event (a.updSect n fun x => { x with svc := 4 }) a.hub.admin 0x0102 n.toNat (BitVec.setWidth 64 code)
  refine ⟨(congrArg (fun a : State => (a.sect n).svc) told :).trans ?_, (congrArg State.ctxs told :).trans ctxs⟩
  exact (congrArg Section.svc (a.sect_updSect_same n fun x => { x with svc := 4 }) :)

end Test

/-- Settles O53: fences, moves and repairs go their steps; a bank that follows keeps its bytes. -/
theorem clustersAreFencedMovedAndRepaired : Obligations.ClustersAreFencedMovedAndRepaired := by
  intro s runs
  refine ⟨fun c unfenced serves => ⟨answers_clusterFence runs unfenced serves, fun t since => ?_⟩,
    fun x k => ⟨fun b still planned taken unfenced alive few apart => ?_, fun m moving => ⟨fun here stopped => ?_, exec_moveTimeout runs moving⟩⟩,
    fun n q f waits gone => ⟨fun d free => answers_bankCopy runs waits gone free, exec_bankCopy_full runs waits gone⟩,
    fun c n d free => State.freeBank_spec free, fun n d wf j inside => Memory.get_copyBank wf n d inside,
    fun n => ⟨exec_forwardQuietTimeout runs, fun tested => ⟨answers_repairTestDone_passes runs tested,
      fun code fails known => answers_repairTestDone_fails runs tested fails known⟩⟩⟩
  · have run := exec_spillStuckTimeout runs unfenced serves since
    refine ⟨fun none => run.trans ?_, fun some => run.trans ?_⟩
    · exact congrArg Host.Outcome.next (if_pos (by rw [none]; rfl))
    · exact congrArg Host.Outcome.next (if_neg (by simpa using some))
  · refine ⟨fun d target => ?_, fun full none => ?_⟩
    · have goes : s.moveTarget x k (s.clusterAt x k.toNat) b = some d := by
        unfold State.moveTarget
        obtain ⟨rfl, fits⟩ | ⟨full, found⟩ := target
        · exact if_pos fits
        · rw [full]
          exact found
      exact ⟨_, exec_positionMove_begins runs still planned taken unfenced alive few apart goes, s.move_beginMove x k _ d,
        s.beginMove_mem x k _ d⟩
    · refine exec_positionMove_nowhere runs still planned taken unfenced alive few apart ?_
      rw [State.moveTarget, full]
      exact none
  · subst here
    exact exec_positionMove_stopped runs moving stopped

end Sys2Proof.Machine
end

section
/-! PROOFS. Links, received frames, held frames and the gPTP engine (14 R402-R410, R417). -/

namespace Sys2Proof.Machine

/-! ## Links and the PHYs (14 R401, log 166) -/

theorem State.emit_foldl {α : Type} (g : α → Output) (l : List α) (s : State) :
    ∃ os, (∀ o ∈ os, ∃ a, o = g a) ∧ l.foldl (fun s a => s.emit (g a)) s = { s with out := os ++ s.out } := by
  induction l generalizing s with
  | nil => exact ⟨[], fun _ no => (nomatch no), rfl⟩
  | cons a l ih =>
    obtain ⟨os, sent, folded⟩ := ih (s.emit (g a))
    refine ⟨os ++ [g a], fun o listed => ?_, ?_⟩
    · obtain earlier | here := List.mem_append.mp listed
      · exact sent o earlier
      · exact ⟨a, List.mem_singleton.mp here⟩
    · rw [List.foldl_cons, folded, List.append_assoc]
      rfl

/-- The firmware asks the PHYs over MDIO, and changes nothing else. -/
theorem State.mdio_spec (s : State) :
    ∃ os free, (∀ o ∈ os, ∃ v, o = .mdio v) ∧ (s.fwRuns = false → os = []) ∧ s.mdio = { s with out := os ++ s.out, free := free } := by
  unfold State.mdio
  cases runs : s.fwRuns with
  | false => exact ⟨[], s.free, fun _ no => (nomatch no), fun _ => rfl, rfl⟩
  | true =>
    obtain ⟨os, sent, folded⟩ := State.emit_foldl
      (fun q : Bool × BitVec 30 => Output.mdio ((0xFFFFFFFF : Word) ++ (if q.1 then 0 else 1 : BitVec 2) ++ q.2)) (Config.mdioFrames s.free) s
    refine ⟨os, s.free + 1, fun o listed => ?_, fun no => (nomatch no), ?_⟩
    · obtain ⟨_, frame⟩ := sent o listed
      exact ⟨_, frame⟩
    · exact congrArg State.takeFree folded

/-- Beside port `p` only what the firmware asked over MDIO has changed. -/
def State.LinkChanged (s : State) (p : BitVec 2) (s' : State) : Prop :=
  (∀ q, q ≠ p → s'.ethPort q = s.ethPort q) ∧ (∃ l, s'.out = l ++ s.out ∧ ∀ o ∈ l, ∃ v, o = .mdio v) ∧
    (s.fwRuns = false → s'.out = s.out) ∧ { s' with eth := s.eth, out := s.out, free := s.free } = s

theorem State.linkChanged_mdio (s : State) (p : BitVec 2) (u : EthPort → EthPort) :
    (s.updEthPort p u).mdio.ethPort p = u (s.ethPort p) ∧ s.LinkChanged p (s.updEthPort p u).mdio := by
  obtain ⟨os, free, sent, silent, asked⟩ := (s.updEthPort p u).mdio_spec
  rw [asked]
  refine ⟨s.ethPort_updEthPort_same p u, fun q other => s.ethPort_updEthPort_other other u, ⟨os, rfl, sent⟩, fun held => ?_, rfl⟩
  rw [silent held]
  rfl

theorem answers_ethLinkLoss (p : BitVec 2) (s : State) : Answers (.ethLinkLoss p) s fun s' =>
    s'.ethPort p = { s.ethPort p with link := false } ∧ s.LinkChanged p s' :=
  ⟨_, rfl, s.linkChanged_mdio p _⟩

section Negotiation
variable {s : State} (p : BitVec 2) {w : BitVec 16} (up : s.ethUp = true)
include up

theorem answers_linkNegotiation_down (down : w.getLsbD 15 = false) : Answers (.linkNegotiation p w) s fun s' =>
    s'.ethPort p = { s.ethPort p with link := false } ∧ s.LinkChanged p s' := by
  refine ⟨_, ?_, s.linkChanged_mdio p fun q => { q with link := false }⟩
  show execLinkNegotiation p w s = _
  simp only [execLinkNegotiation, up, down, not_true_eq_false, Bool.false_eq_true, not_false_eq_true, if_true, if_false]

theorem answers_linkNegotiation_half (linked : w.getLsbD 15 = true) (half : w.getLsbD 12 = false) :
    Answers (.linkNegotiation p w) s fun s' => s'.ethPort p = { s.ethPort p with link := false, hdx := true } ∧ s.LinkChanged p s' := by
  refine ⟨_, ?_, s.linkChanged_mdio p fun q => { q with link := false, hdx := true }⟩
  show execLinkNegotiation p w s = _
  simp only [execLinkNegotiation, up, linked, half, not_true_eq_false, Bool.false_eq_true, not_false_eq_true, if_true, if_false]

theorem answers_linkNegotiation_full {v : BitVec 3} (linked : w.getLsbD 15 = true) (full : w.getLsbD 12 = true)
    (speed : speedOf w = some v) : Answers (.linkNegotiation p w) s fun s' =>
      s'.ethPort p = { s.ethPort p with link := true, hdx := false, speed := v } ∧ s.LinkChanged p s' := by
  refine ⟨_, ?_, s.linkChanged_mdio p fun q => { q with link := true, hdx := false, speed := v }⟩
  show execLinkNegotiation p w s = _
  simp only [execLinkNegotiation, up, linked, full, not_true_eq_false, if_false, speed]

end Negotiation

/-! ## Tokens of frames (14 R409, R410) -/

/-- What the entry of a token leaves: the counts of the rules, the ports and the threads. -/
def State.received (s : State) : Map RuleCnt × Map EthPort × Map Thread := (s.eth.ruleCnt, s.eth.ports, s.threads)

theorem State.received_ethInject (s : State) (tok : Token) : (s.ethInject tok).received = s.received := rfl

theorem State.received_toBroke (s : State) (tok : Token) (cause : Byte) (x : CtxId) : (s.toBroke tok cause x false).received = s.received := rfl

/-- Whatever becomes of the token of a rule, counts, ports and threads stay. -/
theorem State.received_ethEnter {s t : State} {refuse : Bool} {tok : Token} (enters : s.ethEnter refuse tok = some t) :
    t.received = s.received := by
  let keeps (o : Option State) : Prop := o = some t → t.received = s.received
  have rejected (cause : Byte) : keeps (some (s.toBroke tok cause (tagCtx tok.tag) false)) := by
    rintro ⟨⟩
    exact s.received_toBroke tok cause _
  have waits : keeps none := fun no => nomatch no
  have injected (u : State) (same : u.received = s.received) (tok : Token) : keeps (some (u.ethInject tok)) := by
    rintro ⟨⟩
    exact (u.received_ethInject tok).trans same
  refine (?_ : keeps (s.ethEnter refuse tok)) enters
  unfold State.ethEnter
  dsimp only
  refine iteInduction (fun _ => rejected _) fun _ => iteInduction (fun _ => rejected _) fun _ => iteInduction (fun _ => waits) fun _ =>
    iteInduction (fun _ => rejected _) fun _ => iteInduction (fun _ => rejected _) fun _ => iteInduction (fun _ => ?_) fun _ =>
    iteInduction (fun _ => injected s rfl _) fun _ => waits
  split
  case h_1 => exact rejected _
  case h_2 c d declared =>
    refine iteInduction (fun _ => rejected _) fun _ => iteInduction (fun _ => ?_) fun _ => iteInduction (fun _ => ?_) fun _ => waits
    case refine_2 => exact injected (s.updChan c d _ _) rfl tok
    rintro ⟨⟩
    rfl

/-- A frame is taken by rule `n`: it has hit it, and arrived for it. -/
def State.hitRule (s : State) (n : Nat) (r : Rule) : State :=
  (s.updEth fun e => { e with rules := e.rules.set n { r with arrivals := r.arrivals + 1 } }).countRule n fun c => { c with hits := satInc c.hits }

/-- A frame that a rule takes, with fewer than 8 waiting, makes a token or waits. -/
theorem State.ruleTake_hits {s : State} {n : Nat} (few : (s.eth.waiting.getD n []).length < 8) (r : Rule) (p : BitVec 2) (size : Nat)
    (b : List Byte) : ∃ (t : State) (w : Map (List HeldFrame)), t.received = s.received ∧ t.mem = s.mem ∧
      s.ruleTake n r p size b = (t.hitRule n r).updEth fun e => { e with waiting := w } := by
  unfold State.ruleTake
  dsimp only
  split
  case h_1 t enters =>
    split at enters
    case isTrue => exact ⟨t, t.eth.waiting, State.received_ethEnter enters, State.ethEnter_some enters, rfl⟩
    case isFalse => cases enters
  case h_2 => exact ⟨s, _, rfl, rfl, if_pos few⟩

theorem State.find_hitRule (s : State) (n : Nat) (r : Rule) :
    (s.hitRule n r).eth.rules.find n = some { r with arrivals := r.arrivals + 1 } := Map.find_set_same _ _ _

theorem State.hits_hitRule (s : State) (n : Nat) (r : Rule) :
    ((s.hitRule n r).eth.ruleCnt.getD n {}).hits = satInc (s.eth.ruleCnt.getD n {}).hits := by
  show ((s.eth.ruleCnt.upd n {} fun c => { c with hits := satInc c.hits }).getD n {}).hits = _
  rw [Map.getD_upd_same]

/-- A hit leaves ports, memory and threads. -/
theorem State.hitRule_rest (s : State) (n : Nat) (r : Rule) :
    (s.hitRule n r).eth.ports = s.eth.ports ∧ (s.hitRule n r).mem = s.mem ∧ (s.hitRule n r).threads = s.threads := ⟨rfl, rfl, rfl⟩

/-! ## Frames that are received (14 R402, R407, R408) -/

theorem answers_frameReceive_bad {s : State} {p : BitVec 2} {fr : Frame} (up : s.ethUp = true) (link : (s.ethPort p).link = true)
    (bad : (!fr.fcsOk || fr.pause || decide (fr.bytes.length + 4 < 64) || decide (2048 < fr.bytes.length + 4)) = true) :
    Answers (.frameReceive p fr) s fun s' => s'.ethPort p = { s.ethPort p with bad := satInc (s.ethPort p).bad } ∧
      (∀ q, q ≠ p → s'.ethPort q = s.ethPort q) ∧ { s' with eth := s.eth } = s := by
  refine ⟨s.updEthPort p fun q => { q with bad := satInc q.bad }, ?_, s.ethPort_updEthPort_same p _,
    fun q other => s.ethPort_updEthPort_other other _, rfl⟩
  show execFrameReceive p fr s = _
  rw [execFrameReceive, if_neg (by rw [up, link]; decide), if_pos bad]

/-- A good frame that is neither gPTP's nor too much for the buffer of its port is classified. -/
theorem exec_frameReceive {s : State} {p : BitVec 2} {fr : Frame} (up : s.ethUp = true) (link : (s.ethPort p).link = true)
    (fcs : fr.fcsOk = true) (pause : fr.pause = false) (long : 64 ≤ fr.bytes.length + 4) (short : fr.bytes.length + 4 ≤ 2048)
    (mode : s.keeper.keeper = false) (other : rdBe (stripTags fr.bytes).bytes 12 2 ≠ 0x88F7)
    (room : s.heldBytes p + (fr.bytes.length + 4) ≤ 131072) :
    exec (.frameReceive p fr) s = .next (s.classify p (fr.bytes.length + 4) (stripTags fr.bytes)) := by
  show execFrameReceive p fr s = _
  rw [execFrameReceive, if_neg (by rw [up, link]; decide), if_neg (by simp [fcs, pause]; omega),
    if_neg (by rw [mode]; exact Bool.false_ne_true), if_neg other, if_neg (by omega)]

/-- The part with a frame counted at its port. -/
def State.heard (s : State) (p : BitVec 2) : State := s.updEthPort p fun q => { q with rx := satInc q.rx }

theorem State.rx_heard (s : State) (p : BitVec 2) : ((s.heard p).ethPort p).rx = satInc (s.ethPort p).rx :=
  (congrArg EthPort.rx (s.ethPort_updEthPort_same p fun q => { q with rx := satInc q.rx }) :)

theorem State.classify_unmatched {s : State} {p : BitVec 2} {v : Stripped} (unmatched : s.ruleFor p v = none) (size : Nat) :
    s.classify p size v = (s.heard p).updEthPort p fun q => { q with noRule := satInc q.noRule } := by
  have unmatched' : (s.heard p).ruleFor p v = none := unmatched
  unfold State.classify
  dsimp only
  rw [← State.heard, unmatched']

/-- The part with a frame counted at its port, and the rule written that it meets. -/
def State.met (s : State) (p : BitVec 2) (n : Nat) (r : Rule) : State := (s.heard p).updEth fun e => { e with rules := e.rules.set n r }

/-- A rule that is met is counted neither as hit nor as short yet. -/
theorem State.met_spec (s : State) (p : BitVec 2) (n : Nat) (r : Rule) :
    (s.met p n r).eth.ruleCnt = s.eth.ruleCnt ∧ (s.met p n r).eth.waiting = s.eth.waiting ∧
      ((s.met p n r).ethPort p).rx = satInc (s.ethPort p).rx ∧ { s.met p n r with eth := s.eth } = s :=
  ⟨rfl, rfl, s.rx_heard p, rfl⟩

theorem State.classify_matched {s : State} {p : BitVec 2} {v : Stripped} {n : Nat} {r : Rule} (matched : s.ruleFor p v = some (n, r))
    (plain : r.elim = false) (size : Nat) :
    s.classify p size v =
      if ¬ r.fits v.bytes then (s.met p n r).countRule n fun c => { c with short := satInc c.short }
      else (s.met p n r).ruleTake n r p size v.bytes := by
  have matched' : (s.heard p).ruleFor p v = some (n, r) := matched
  have seen (sc : Nat) : r.seen sc v.seq = (r, false) := if_pos (by rw [plain]; exact Bool.false_ne_true)
  unfold State.classify
  dsimp only
  rw [← State.heard, matched']
  dsimp only
  rw [seen]
  rfl

/-! ## The gPTP engine (14 R404, R405) -/

/-- A gPTP frame behind its addresses. -/
def gptpFrameOf (b : List Byte) : List Byte := b.take 12 ++ [0x88, 0xF7] ++ b.drop 12

theorem length_gptpFrameOf (b : List Byte) : (gptpFrameOf b).length = b.length + 2 := by
  simp only [gptpFrameOf, List.length_append, List.length_take, List.length_drop, List.length_cons, List.length_nil]
  omega

theorem State.sendGptp_cons (s : State) (p : BitVec 2) (b : List Byte) (l : List (List Byte)) :
    s.sendGptp p (b :: l) = (if s.queueRoom p 7 (gptpFrameOf b) then s.queueFrame p 7 (gptpFrameOf b) else s).sendGptp p l := rfl

/-- A frame joins queue 7 alone. -/
theorem State.ethPort_queueFrame (s : State) (p : BitVec 2) (q : Nat) (b : List Byte) :
    (s.queueFrame p q b).ethPort p = { s.ethPort p with queues := (s.ethPort p).queues.upd q [] (· ++ [b]) } :=
  s.ethPort_updEthPort_same p _

theorem EthPort.queued_append (e : EthPort) (q : Nat) (b : List Byte) :
    { e with queues := e.queues.upd q [] (· ++ [b]) }.queued q = e.queued q + b.length + 4 := by
  rw [EthPort.queued, Map.getD_upd_same, EthPort.queued]
  simp
  omega

/-- What the engine sends changes queue 7 of its port alone. -/
theorem State.sendGptp_eq (s : State) (p : BitVec 2) (l : List (List Byte)) :
    (∃ queues, (s.sendGptp p l).ethPort p = { s.ethPort p with queues := queues }) ∧ { s.sendGptp p l with eth := s.eth } = s := by
  induction l generalizing s with
  | nil => exact ⟨⟨_, rfl⟩, rfl⟩
  | cons b l ih =>
    rw [State.sendGptp_cons]
    split
    case isTrue =>
      obtain ⟨⟨queues, port⟩, rest⟩ := ih (s.queueFrame p 7 (gptpFrameOf b))
      rw [State.ethPort_queueFrame] at port
      exact ⟨⟨queues, port⟩, (congrArg (fun a : State => { a with eth := s.eth }) rest :)⟩
    case isFalse => exact ih s

/-- Where queue 7 has room for all that the engine sends, all of it joins the queue in order. -/
theorem State.queue_sendGptp {s : State} {p : BitVec 2} {l : List (List Byte)}
    (room : (s.ethPort p).queued 7 + (l.map fun b => b.length + 6).sum ≤ 32768) :
    ((s.sendGptp p l).ethPort p).queues.getD 7 [] = (s.ethPort p).queues.getD 7 [] ++ l.map gptpFrameOf := by
  induction l generalizing s with
  | nil => exact (List.append_nil _).symm
  | cons b l ih =>
    rw [List.map_cons, List.sum_cons] at room
    have fits : s.queueRoom p 7 (gptpFrameOf b) = true := by
      rw [State.queueRoom, length_gptpFrameOf, decide_eq_true_iff]
      omega
    rw [State.sendGptp_cons, if_pos fits, ih]
    · rw [State.ethPort_queueFrame, Map.getD_upd_same, List.append_assoc]
      rfl
    · rw [State.ethPort_queueFrame, EthPort.queued_append, length_gptpFrameOf]
      omega

/-- Queue 7 never grows past its 32 KB. -/
theorem State.queued_sendGptp {s : State} {p : BitVec 2} (l : List (List Byte)) (within : (s.ethPort p).queued 7 ≤ 32768) :
    ((s.sendGptp p l).ethPort p).queued 7 ≤ 32768 := by
  induction l generalizing s with
  | nil => exact within
  | cons b l ih =>
    rw [State.sendGptp_cons]
    split
    case isTrue fits =>
      refine ih ?_
      rw [State.ethPort_queueFrame, EthPort.queued_append]
      exact of_decide_eq_true fits
    case isFalse => exact ih within

/-- What the engine sends does not depend on the free values. -/
theorem State.sendGptp_free (s : State) (n : Nat) (p : BitVec 2) (l : List (List Byte)) :
    { s with free := n }.sendGptp p l = { s.sendGptp p l with free := n } := by
  induction l generalizing s with
  | nil => rfl
  | cons b l ih =>
    have room : { s with free := n }.queueRoom p 7 (gptpFrameOf b) = s.queueRoom p 7 (gptpFrameOf b) := rfl
    rw [State.sendGptp_cons, State.sendGptp_cons, room]
    split
    case isTrue => exact ih (s.queueFrame p 7 (gptpFrameOf b))
    case isFalse => exact ih s

theorem State.sendGptp_append (s : State) (p : BitVec 2) (l r : List (List Byte)) :
    s.sendGptp p (l ++ r) = (s.sendGptp p l).sendGptp p r := List.foldl_append

/-- The frames the engine sends on a port of role `role`: its own, or its answers. -/
def gptpSends (own : Bool) (role : BitVec 2) (free : Nat) : List (List Byte) :=
  if own then Config.gptpPdelay (free + 1) ++ (if role = 1 then Config.gptpSync (free + 2) else []) else Config.gptpAnswer (free + 1)

theorem State.ethPort_bmca (s : State) (p : BitVec 2) : (s.bmca p).ethPort p = { s.ethPort p with asRole := s.asRole p } :=
  s.ethPort_updEthPort_same p _

/-- The engine takes its role on the port, and sends. -/
theorem State.gptpOwn_eq (s : State) (p : BitVec 2) :
    ∃ free, s.gptpOwn p = { (s.bmca p).sendGptp p (gptpSends true (s.asRole p) s.free) with free := free } := by
  obtain ⟨⟨queues, port⟩, rest⟩ := (s.bmca p).sendGptp_eq p (Config.gptpPdelay (s.free + 1))
  have sent : (s.bmca p).free = s.free + 1 := rfl
  have free : ((s.bmca p).sendGptp p (Config.gptpPdelay (s.free + 1))).free = s.free + 1 := (congrArg State.free rest :)
  have role : (((s.bmca p).sendGptp p (Config.gptpPdelay (s.free + 1))).ethPort p).asRole = s.asRole p := by
    rw [port, State.ethPort_bmca]
  unfold State.gptpOwn gptpSends
  dsimp only
  rw [sent, if_pos rfl]
  split
  case isTrue master =>
    rw [if_pos (role.symm.trans master), State.sendGptp_append]
    generalize (s.bmca p).sendGptp p (Config.gptpPdelay (s.free + 1)) = a at free
    refine ⟨a.free + 2, (congrArg State.takeFree (State.sendGptp_free a (a.free + 1) p _)).trans ?_⟩
    rw [show a.takeFree.free = s.free + 2 from congrArg (· + 1) free]
    rfl
  case isFalse other =>
    rw [if_neg fun master => other (role.trans master), List.append_nil]
    exact ⟨_, rfl⟩

section Gptp
variable {s : State} {p : BitVec 2} (enabled : s.ethRuns = true) (link : (s.ethPort p).link = true) (runs : s.fwRuns = true)
include enabled link runs

theorem exec_gptpFrame (own : Bool) : ∃ free, exec (.gptpFrame p none own) s =
    .next { (s.bmca p).sendGptp p (gptpSends own (s.asRole p) s.free) with free := free } := by
  have acts : ¬ ((!s.ethRuns || !(s.ethPort p).link) = true) := by
    rw [enabled, link]
    decide
  cases own with
  | false =>
    refine ⟨((s.bmca p).sendGptp p (gptpSends false (s.asRole p) s.free)).free + 1, congrArg Host.Outcome.next ((if_neg acts).trans ?_)⟩
    rw [if_neg Bool.false_ne_true, State.gptp, if_neg (not_not_intro runs)]
    rfl
  | true =>
    obtain ⟨free, acted⟩ := s.gptpOwn_eq p
    refine ⟨free, congrArg Host.Outcome.next ((if_neg acts).trans ?_)⟩
    rw [if_pos rfl, if_pos runs]
    exact acted

theorem answers_gptpFrame (own : Bool) : Answers (.gptpFrame p none own) s fun s' =>
    (s'.ethPort p).asRole = s.asRole p ∧ (s.tb.src = 1 → s.asRole p = if s.tb.port = p then 2 else 3) ∧
      ((s.ethPort p).queued 7 + ((gptpSends own (s.asRole p) s.free).map fun b => b.length + 6).sum ≤ 32768 →
        (s'.ethPort p).queues.getD 7 [] = (s.ethPort p).queues.getD 7 [] ++ (gptpSends own (s.asRole p) s.free).map gptpFrameOf) ∧
      ((s.ethPort p).queued 7 ≤ 32768 → (s'.ethPort p).queued 7 ≤ 32768) ∧ s'.tb = s.tb ∧ { s' with eth := s.eth, free := s.free } = s := by
  obtain ⟨free, run⟩ := exec_gptpFrame enabled link runs own
  refine ⟨_, run, ?_⟩
  generalize gptpSends own (s.asRole p) s.free = l
  have port := s.ethPort_bmca p
  obtain ⟨⟨queues, sent⟩, rest⟩ := (s.bmca p).sendGptp_eq p l
  have queued : ((s.bmca p).ethPort p).queued 7 = (s.ethPort p).queued 7 := by rw [port]; rfl
  refine ⟨?_, fun receiver => ?_, fun room => ?_, fun within => ?_, (congrArg State.tb rest :),
    (congrArg (fun a : State => { a with eth := s.eth, free := s.free }) rest :)⟩
  · exact (congrArg EthPort.asRole sent :).trans (congrArg EthPort.asRole port :)
  · rw [State.asRole, if_neg (not_not_intro link), if_pos receiver]
  · have joined := State.queue_sendGptp (s := s.bmca p) (p := p) (l := l) (by rw [queued]; exact room)
    rw [port] at joined
    exact joined
  · exact State.queued_sendGptp (s := s.bmca p) (p := p) l (by rw [queued]; exact within)

end Gptp

/-! ## Held frames and elimination -/

theorem exec_heldFrameInject {n : BitVec 12} {s t : State} {h : HeldFrame} {rest : List HeldFrame} (runs : s.ethRuns = true)
    (held : s.eth.waiting.getD n.toNat [] = h :: rest)
    (enters : s.ethEnter ((s.eth.rules.find n.toNat).any (·.refuse)) h.token = some t) :
    exec (.heldFrameInject n) s =
      .next (t.updEth fun e => { e with waiting := if rest.isEmpty then e.waiting.erase n.toNat else e.waiting.set n.toNat rest }) := by
  show execHeldFrameInject n s = _
  rw [execHeldFrameInject, if_neg (not_not_intro runs), held]
  dsimp only
  cases found : s.eth.rules.find n.toNat with
  | none =>
    rw [found] at enters
    dsimp only
    rw [show s.ethEnter false h.token = some t from enters]
  | some r =>
    rw [found] at enters
    dsimp only
    rw [show s.ethEnter r.refuse h.token = some t from enters]

theorem answers_eliminationResetTimeout {n : BitVec 12} {s : State} {r : Rule} (set : s.eth.rules.find n.toNat = some r)
    (elim : r.elim = true) (numbers : r.hist ≠ []) : Answers (.eliminationResetTimeout n) s fun s' =>
      s'.eth.rules.find n.toNat = some { r with hist := [] } ∧ s'.eth.ports = s.eth.ports ∧ s'.mem = s.mem ∧ s'.threads = s.threads ∧
      s'.ctxs = s.ctxs := by
  have run : exec (.eliminationResetTimeout n) s = .next ((s.passTo (r.lastSc + r.recto)).updEth fun e =>
      { e with rules := e.rules.set n.toNat { r with hist := [] } }) := by
    show execEliminationResetTimeout n s = _
    rw [execEliminationResetTimeout, set]
    exact if_neg (by simp [elim, numbers])
  have rest := s.timeless_passTo (r.lastSc + r.recto)
  refine ⟨_, run, Map.find_set_same _ _ _, (congrArg (·.eth.ports) rest :), (congrArg State.mem rest :), (congrArg State.threads rest :),
    (congrArg State.ctxs rest :)⟩

/-! ## What becomes of a received frame -/

section Received
variable {s : State} {p : BitVec 2} {fr : Frame} (up : s.ethUp = true) (link : (s.ethPort p).link = true) (fcs : fr.fcsOk = true)
  (pause : fr.pause = false) (long : 64 ≤ fr.bytes.length + 4) (short : fr.bytes.length + 4 ≤ 2048) (mode : s.keeper.keeper = false)
  (other : rdBe (stripTags fr.bytes).bytes 12 2 ≠ 0x88F7) (room : s.heldBytes p + (fr.bytes.length + 4) ≤ 131072)
include up link fcs pause long short mode other room

theorem answers_frameReceive_unmatched (unmatched : s.ruleFor p (stripTags fr.bytes) = none) : Answers (.frameReceive p fr) s fun s' =>
    s'.ethPort p = { s.ethPort p with rx := satInc (s.ethPort p).rx, noRule := satInc (s.ethPort p).noRule } ∧
      s'.eth.rules = s.eth.rules ∧ { s' with eth := s.eth } = s := by
  refine ⟨_, (exec_frameReceive up link fcs pause long short mode other room).trans
    (congrArg Host.Outcome.next (State.classify_unmatched unmatched _)), ?_, rfl, rfl⟩
  rw [State.ethPort_updEthPort_same, State.heard, State.ethPort_updEthPort_same]

section Matched
variable {n : Nat} {r : Rule} (matched : s.ruleFor p (stripTags fr.bytes) = some (n, r)) (plain : r.elim = false)
include matched plain

theorem answers_frameReceive_taken (fits : r.fits (stripTags fr.bytes).bytes = true) (few : (s.eth.waiting.getD n []).length < 8) :
    Answers (.frameReceive p fr) s fun s' =>
      (∃ r', s'.eth.rules.find n = some r' ∧ r'.arrivals = r.arrivals + 1 ∧ r'.raw = r.raw ∧ r'.owner = r.owner) ∧
      (s'.eth.ruleCnt.getD n {}).hits = satInc (s.eth.ruleCnt.getD n {}).hits ∧
      (s'.ethPort p).rx = satInc (s.ethPort p).rx ∧ s'.mem = s.mem ∧ s'.threads = s.threads := by
  have run : exec (.frameReceive p fr) s = .next ((s.met p n r).ruleTake n r p (fr.bytes.length + 4) (stripTags fr.bytes).bytes) :=
    (exec_frameReceive up link fcs pause long short mode other room).trans
      (congrArg Host.Outcome.next ((State.classify_matched matched plain _).trans (if_neg (not_not_intro fits))))
  refine ⟨_, run, ?_⟩
  obtain ⟨counts, waiting, rx, rest⟩ := s.met_spec p n r
  have mem₀ : (s.met p n r).mem = s.mem := (congrArg State.mem rest :)
  have threads₀ : (s.met p n r).threads = s.threads := (congrArg State.threads rest :)
  generalize s.met p n r = a at counts waiting rx mem₀ threads₀
  obtain ⟨t, w, same, mem, taken⟩ := State.ruleTake_hits (s := a) (n := n) (by rw [waiting]; exact few) r p (fr.bytes.length + 4)
    (stripTags fr.bytes).bytes
  obtain ⟨ports, mem', threads⟩ := t.hitRule_rest n r
  have find := t.find_hitRule n r
  have hits := t.hits_hitRule n r
  rw [taken]
  generalize t.hitRule n r = b at ports mem' threads find hits
  refine ⟨⟨_, find, rfl, rfl, rfl⟩, ?_, ?_, mem'.trans (mem.trans mem₀), threads.trans ((congrArg (·.2.2) same :).trans threads₀)⟩
  · have kept : t.eth.ruleCnt = s.eth.ruleCnt := (congrArg Prod.fst same :).trans counts
    exact hits.trans (by rw [kept])
  · have kept : b.eth.ports = a.eth.ports := ports.trans (congrArg (·.2.1) same :)
    exact (congrArg (fun m : Map EthPort => (m.getD p.toNat {}).rx) kept :).trans rx

theorem answers_frameReceive_short (misfit : r.fits (stripTags fr.bytes).bytes = false) : Answers (.frameReceive p fr) s fun s' =>
    (s'.eth.ruleCnt.getD n {}).short = satInc (s.eth.ruleCnt.getD n {}).short ∧ (s'.ethPort p).rx = satInc (s.ethPort p).rx ∧
      { s' with eth := s.eth } = s := by
  have run : exec (.frameReceive p fr) s = .next ((s.met p n r).countRule n fun c => { c with short := satInc c.short }) :=
    (exec_frameReceive up link fcs pause long short mode other room).trans
      (congrArg Host.Outcome.next ((State.classify_matched matched plain _).trans (if_pos (by rw [misfit]; exact Bool.false_ne_true))))
  refine ⟨_, run, ?_⟩
  obtain ⟨counts, _, rx, rest⟩ := s.met_spec p n r
  generalize s.met p n r = a at counts rx rest
  refine ⟨?_, rx, (congrArg (fun b : State => { b with eth := s.eth }) rest :)⟩
  show ((a.eth.ruleCnt.upd n {} fun c => { c with short := satInc c.short }).getD n {}).short = _
  rw [Map.getD_upd_same, counts]

end Matched
end Received

/-- Settles O39: what becomes of a frame, of one that waits, of an elimination history, of the engine's own frames and of a link. -/
theorem framesAreReceivedAndClassified : Obligations.FramesAreReceivedAndClassified := by
  refine ⟨fun p fr s up link => ⟨answers_frameReceive_bad up link, fun fcs pause long short mode other room =>
      ⟨answers_frameReceive_unmatched up link fcs pause long short mode other room, fun n r matched plain =>
        ⟨answers_frameReceive_taken up link fcs pause long short mode other room matched plain,
          answers_frameReceive_short up link fcs pause long short mode other room matched plain⟩⟩⟩,
    fun n s t h rest runs held enters => ?_, fun n s r set elim numbers => answers_eliminationResetTimeout set elim numbers,
    fun p own s enabled link runs => answers_gptpFrame enabled link runs own,
    fun p s => ⟨fun w up => ⟨answers_linkNegotiation_down p up, answers_linkNegotiation_half p up,
      fun v linked full speed => answers_linkNegotiation_full p up linked full speed⟩, answers_ethLinkLoss p s⟩⟩
  have run := exec_heldFrameInject runs held enters
  cases rest with
  | nil => exact ⟨fun _ => run, fun no => absurd rfl no⟩
  | cons => exact ⟨fun no => (nomatch no), fun _ => run⟩

end Sys2Proof.Machine
end

section
/-! PROOFS. Templates, gate control lists and transmission (14 R411-R416). -/

namespace Sys2Proof.Machine

theorem State.timeless_passTb (s : State) (t : DWord) : (s.passTb t).timeless = s.timeless := by
  unfold State.passTb
  split
  case isTrue => rfl
  case isFalse => exact s.timeless_pass _

theorem State.passTb_past {s : State} {t : DWord} (past : (t - s.tb.now).toInt ≤ 0) : s.passTb t = s := if_pos past

theorem State.eth_passTb (s : State) (t : DWord) : (s.passTb t).eth = s.eth := (congrArg State.eth (s.timeless_passTb t) :)

theorem State.ethPort_passTb (s : State) (t : DWord) (p : BitVec 2) : (s.passTb t).ethPort p = s.ethPort p := by
  rw [State.ethPort, State.eth_passTb, State.ethPort]

/-! ## Gate control lists (14 R414, R415) -/

section Gates
variable {p : BitVec 2} {s : State} {l : GateList}

theorem exec_gateIntervalEnd (list : (s.ethPort p).list = some l) : exec (.gateIntervalEnd p) s =
    .next ((s.passTb (s.ethPort p).entryEnd).updEthPort p fun q =>
      { q with entry := ((s.ethPort p).entry + 1) % l.entries.length
               entryEnd := (s.ethPort p).entryEnd +
                 BitVec.setWidth 64 (l.entries.getD (((s.ethPort p).entry + 1) % l.entries.length) (0, 0)).2 }) := by
  show execGateIntervalEnd p s = _
  simp only [execGateIntervalEnd, list]

theorem answers_gateIntervalEnd (list : (s.ethPort p).list = some l) : Answers (.gateIntervalEnd p) s fun s' =>
    (s'.ethPort p).entry = ((s.ethPort p).entry + 1) % l.entries.length ∧
    (s'.ethPort p).entryEnd = (s.ethPort p).entryEnd + BitVec.setWidth 64 (l.entries.getD (s'.ethPort p).entry (0, 0)).2 ∧
    (s'.ethPort p).list = some l ∧ (s'.ethPort p).queues = (s.ethPort p).queues ∧ s'.mem = s.mem ∧ s'.threads = s.threads := by
  have rest := s.timeless_passTb (s.ethPort p).entryEnd
  have port := s.ethPort_passTb (s.ethPort p).entryEnd p
  refine ⟨_, exec_gateIntervalEnd list, ?_⟩
  generalize s.passTb (s.ethPort p).entryEnd = a at rest port ⊢
  rw [State.ethPort_updEthPort_same, port]
  exact ⟨rfl, rfl, list, rfl, (congrArg State.mem rest :), (congrArg State.threads rest :)⟩

theorem answers_gateListStart {t : DWord} (pending : (s.ethPort p).pendingList = some (l, t)) : Answers (.gateListStart p) s fun s' =>
    (s'.ethPort p).list = some l ∧ (s'.ethPort p).pendingList = none ∧ (s'.ethPort p).entry = 0 ∧
      (s'.ethPort p).entryEnd = t + BitVec.setWidth 64 (l.entries.getD 0 (0, 0)).2 ∧ s'.mem = s.mem ∧ s'.threads = s.threads := by
  have run : exec (.gateListStart p) s = .next ((s.passTb t).updEthPort p fun q =>
      { q with list := some l, pendingList := none, entry := 0, entryEnd := t + BitVec.setWidth 64 (l.entries.getD 0 (0, 0)).2 }) := by
    show execGateListStart p s = _
    simp only [execGateListStart, pending]
  have rest := s.timeless_passTb t
  refine ⟨_, run, ?_⟩
  generalize s.passTb t = a at rest ⊢
  rw [State.ethPort_updEthPort_same]
  exact ⟨rfl, rfl, rfl, rfl, (congrArg State.mem rest :), (congrArg State.threads rest :)⟩

end Gates

/-! ## Templates (14 R411-R413) -/

theorem exec_templateTokenArrival {s : State} {p : Packet} {rest : List Packet} {n : Nat} {t : Template} (first : s.eth.inq = p :: rest)
    (runs : s.ethRuns = true) (accepts : s.reelAccepts (tagCtx (packetToken p).tag) = true)
    (claimed : s.templateFor (tagCtx (packetToken p).tag) (bits (tagNode (packetToken p).tag) 0 6) (tagInst (packetToken p).tag) = some (n, t)) :
    exec .templateTokenArrival s = .next ((s.updEth fun e => { e with inq := rest }).stage n t (packetToken p)) := by
  have claimed' : (s.updEth fun e => { e with inq := rest }).templateFor (tagCtx (packetToken p).tag) (bits (tagNode (packetToken p).tag) 0 6)
    (tagInst (packetToken p).tag) = some (n, t) := claimed
  have accepts' : ((s.updEth fun e => { e with inq := rest }).ethRuns &&
      (s.updEth fun e => { e with inq := rest }).reelAccepts (tagCtx (packetToken p).tag)) = true := Bool.and_eq_true_iff.mpr ⟨runs, accepts⟩
  show execTemplateTokenArrival s = _
  rw [execTemplateTokenArrival, first]
  dsimp only
  rw [claimed']
  exact if_pos accepts'

/-- The last copy of a staged frame enters its queue, and the staging place empties. -/
theorem State.launchCopy_last {s : State} {n : Nat} {t : Template} {p : BitVec 2} {v : DWord} {inst : Byte}
    (found : s.eth.templates.find n = some t) (staged : t.staged = some (v, inst)) (last : t.toGo = [p])
    (room : s.queueRoom p t.queue (t.frame v inst) = true) :
    s.launchCopy n p = (((s.queueFrame p t.queue (t.frame v inst)).setTpl n
      { t with toGo := [], staged := none, rtag := if t.red then t.rtag + 1 else t.rtag }).countTpl n fun c => { c with sent := satInc c.sent }) := by
  unfold State.launchCopy
  rw [found]
  dsimp only
  rw [staged]
  dsimp only
  rw [if_neg (by rw [last, room]; simp), last]
  simp

theorem exec_timedLaunch {tpl : BitVec 11} {s : State} {t : Template} {p : BitVec 2} {i v : DWord} {inst : Byte} (runs : s.ethRuns = true)
    (found : s.eth.templates.find tpl.toNat = some t) (timed : t.timed = true) (staged : t.staged = some (v, inst)) (last : t.toGo = [p])
    (launch : s.launchOn t p = some i) (room : s.queueRoom p t.queue (t.frame v inst) = true) :
    exec (.timedLaunch tpl) s = .next ((s.passTb i).launchCopy tpl.toNat p) := by
  have roomy : s.copyRoom t p = true := by
    rw [State.copyRoom, staged]
    exact room
  have first : s.firstLaunch t [p] = some (p, i) := by
    simp only [State.firstLaunch, List.foldl_cons, List.foldl_nil, launch]
  show execTimedLaunch tpl s = _
  rw [execTimedLaunch, found]
  dsimp only
  rw [if_neg (by simp [runs, timed, staged]), last, List.filter_cons_of_pos roomy, List.filter_nil, first]
  rfl

theorem answers_timedLaunch {tpl : BitVec 11} {s : State} {t : Template} {p : BitVec 2} {i v : DWord} {inst : Byte} (runs : s.ethRuns = true)
    (found : s.eth.templates.find tpl.toNat = some t) (timed : t.timed = true) (staged : t.staged = some (v, inst)) (last : t.toGo = [p])
    (launch : s.launchOn t p = some i) (room : (s.ethPort p).queued t.queue + (t.frame v inst).length + 4 ≤ 32768) :
    Answers (.timedLaunch tpl) s fun s' =>
      (s'.ethPort p).queues.getD t.queue [] = (s.ethPort p).queues.getD t.queue [] ++ [t.frame v inst] ∧
      (∃ t', s'.eth.templates.find tpl.toNat = some t' ∧ t'.staged = none ∧ t'.toGo = []) ∧
      (s'.eth.tplCnt.getD tpl.toNat {}).sent = satInc (s.eth.tplCnt.getD tpl.toNat {}).sent ∧ s'.mem = s.mem ∧ s'.threads = s.threads := by
  refine ⟨_, exec_timedLaunch runs found timed staged last launch (decide_eq_true room), ?_⟩
  have rest := s.timeless_passTb i
  have eth := s.eth_passTb i
  have port := s.ethPort_passTb i p
  generalize s.passTb i = a at rest eth port ⊢
  have launched := State.launchCopy_last (s := a) (n := tpl.toNat) (t := t) (p := p) (by rw [eth]; exact found) staged last
    (by rw [State.queueRoom, port]; exact decide_eq_true room)
  rw [launched]
  generalize t.frame v inst = b
  refine ⟨?_, ⟨_, Map.find_set_same _ _ _, rfl, rfl⟩, ?_, (congrArg State.mem rest :), (congrArg State.threads rest :)⟩
  · have queued := a.ethPort_queueFrame p t.queue b
    rw [port] at queued
    refine (congrArg (fun e : EthPort => e.queues.getD t.queue []) queued :).trans ?_
    show ((s.ethPort p).queues.upd t.queue [] (· ++ [b])).getD t.queue [] = _
    rw [Map.getD_upd_same]
  · show ((a.eth.tplCnt.upd tpl.toNat {} fun c => { c with sent := satInc c.sent }).getD tpl.toNat {}).sent = _
    rw [Map.getD_upd_same, eth]

/-! ## Transmission (14 R415) -/

/-- What copies that enter a queue leave of port `p`: its count of frames and what it transmits. -/
def State.sending (s : State) (p : BitVec 2) : State × Word × DWord := ({ s with eth := {} }, (s.ethPort p).tx, (s.ethPort p).busyUntil)

/-- A copy stays where it is, or joins its queue and is counted. -/
theorem State.launchCopy_cases (s : State) (n : Nat) (p : BitVec 2) :
    s.launchCopy n p = s ∨ ∃ q b t f, s.launchCopy n p = ((s.queueFrame p q b).setTpl n t).countTpl n f := by
  unfold State.launchCopy
  split
  case h_1 => exact .inl rfl
  case h_2 =>
    split
    case h_1 => exact .inl rfl
    case h_2 =>
      dsimp only
      split
      case isTrue => exact .inl rfl
      case isFalse => exact .inr ⟨_, _, _, _, rfl⟩

theorem State.sending_launchCopy (s : State) (n : Nat) (p : BitVec 2) : (s.launchCopy n p).sending p = s.sending p := by
  obtain same | ⟨q, b, t, f, joins⟩ := s.launchCopy_cases n p
  · rw [same]
  · have queued : (s.queueFrame p q b).sending p = s.sending p := by
      have port := s.ethPort_queueFrame p q b
      exact Prod.ext rfl (Prod.ext (congrArg EthPort.tx port :) (congrArg EthPort.busyUntil port :))
    rw [joins]
    generalize s.queueFrame p q b = a at queued
    exact queued

theorem State.sending_refill (s : State) (p : BitVec 2) : (s.refill p).sending p = s.sending p := by
  refine foldl_keeps_view (State.sending · p) (fun a e => ?_) _ s
  split
  case h_1 =>
    split
    case isTrue => exact a.sending_launchCopy e.1 p
    case isFalse => rfl
  case h_2 => rfl

/-- The port with its first frame of queue `q` started. -/
def State.starts (s : State) (p : BitVec 2) (q : Nat) (b : List Byte) : State :=
  (s.updEthPort p fun e =>
    { e with queues := e.queues.upd q [] List.tail, busyUntil := s.tb.now + BitVec.ofNat 64 (e.duration b), tx := satInc e.tx }).emit
    (.frame p b)

section Transmit
variable {p : BitVec 2} {s : State} {q : Nat} {b : List Byte} (runs : s.ethRuns = true) (link : (s.ethPort p).link = true)
  (idle : ((s.ethPort p).busyUntil - s.tb.now).toInt ≤ 0) (picks : (s.ethPort p).pick s.tb.now = some (q, b))
include runs link idle picks

theorem exec_frameTransmit : exec (.frameTransmit p) s = .next ((s.starts p q b).refill p) := by
  have now : (if ((s.ethPort p).queues.any fun e => !e.2.isEmpty) = true then s.passTb (s.ethPort p).busyUntil else s) = s :=
    iteInduction (motive := (· = s)) (fun _ => State.passTb_past idle) fun _ => rfl
  show execFrameTransmit p s = _
  rw [execFrameTransmit, if_neg (by rw [runs, link]; decide), now]
  dsimp only
  rw [picks]
  rfl

theorem answers_frameTransmit : Answers (.frameTransmit p) s fun s' =>
    s'.out = .frame p b :: s.out ∧ (s'.ethPort p).tx = satInc (s.ethPort p).tx ∧
      (s'.ethPort p).busyUntil = s.tb.now + BitVec.ofNat 64 ((s.ethPort p).duration b) ∧ { s' with eth := s.eth, out := s.out } = s := by
  have port : (s.starts p q b).ethPort p = _ := s.ethPort_updEthPort_same p fun e =>
    { e with queues := e.queues.upd q [] List.tail, busyUntil := s.tb.now + BitVec.ofNat 64 (e.duration b), tx := satInc e.tx }
  have sent := (s.starts p q b).sending_refill p
  have rest : (s.starts p q b).out = .frame p b :: s.out ∧ { s.starts p q b with eth := s.eth, out := s.out } = s := ⟨rfl, rfl⟩
  refine ⟨_, exec_frameTransmit runs link idle picks, ?_⟩
  generalize s.starts p q b = a at port sent rest ⊢
  obtain ⟨out, others⟩ := rest
  exact ⟨(congrArg (·.1.out) sent :).trans out, (congrArg (·.2.1) sent :).trans (congrArg EthPort.tx port :),
    (congrArg (·.2.2) sent :).trans (congrArg EthPort.busyUntil port :),
    (congrArg (fun v => { v.1 with eth := s.eth, out := s.out }) sent :).trans others⟩

end Transmit

/-- Settles O40: a value is staged, launched and sent, and gate lists start and go on. -/
theorem framesLeaveByTheirGates : Obligations.FramesLeaveByTheirGates :=
  ⟨fun _ _ _ _ _ first runs accepts claimed => exec_templateTokenArrival first runs accepts claimed,
    fun _ _ _ _ _ _ _ runs found timed staged last launch room => answers_timedLaunch runs found timed staged last launch room,
    fun _ _ _ _ runs link idle picks => answers_frameTransmit runs link idle picks,
    fun _ _ _ list => answers_gateIntervalEnd list, fun _ _ _ _ pending => answers_gateListStart pending⟩

end Sys2Proof.Machine
end

section
/-! PROOFS. Fabric clocks, the power sequences of sections, and the references (15 R419-R429). -/

namespace Sys2Proof.Machine

/-! ## Fabric clocks (15 R421, R422) -/

/-- The multiple that is set where `k` is asked for (17 R467). -/
def State.capM (s : State) (k : BitVec 5) : BitVec 5 := if s.mon.avsFault = true ∧ 16 < k.toNat then 16 else k

/-- MCUR of a section that the throttle holds below a multiple `m`. -/
def heldCur (cur m : BitVec 5) : BitVec 5 := if cur.toNat < m.toNat then cur else if m = 4 then 4 else m - 1

/-- A section whose multiple is set to `m`, under an active throttle or not. -/
def Section.withM (x : Section) (active : Bool) (m : BitVec 5) : Section :=
  let cur := if ¬ active = true then m else heldCur x.mcur m
  { x.setCur cur with m := m, thr := active && decide (cur.toNat < m.toNat), gated := false }

/-- A multiple in range is set: MCUR follows it, or stays below it under a throttle. -/
theorem State.setM_inRange (s : State) (n : BitVec 4) {k : BitVec 5} (low : 4 ≤ k.toNat) (high : k.toNat ≤ 20) :
    s.setM n k = s.updSect n fun x => x.withM (s.throttled n) (s.capM k) := by
  have cap : (if s.mon.avsFault = true ∧ 16 < k.toNat ∧ k.toNat ≤ 20 then (16 : BitVec 5) else k) = s.capM k := by
    simp only [State.capM, high, and_true]
  have within : ¬ ((s.capM k).toNat < 4 ∨ 20 < (s.capM k).toNat) := by
    unfold State.capM
    split
    · decide
    · omega
  unfold State.setM
  rw [cap]
  exact if_neg within

section Fabric
variable {n : BitVec 4} {s : State}

theorem exec_clkFabWrite_ignored {v : Word} (out : (bits v 0 5 : BitVec 5).toNat < 4 ∨ 20 < (bits v 0 5 : BitVec 5).toNat) :
    exec (.clkFabWrite n v) s = .next s := congrArg Host.Outcome.next (if_neg (by omega))

theorem answers_clkFabWrite {v : Word} (low : 4 ≤ (bits v 0 5 : BitVec 5).toNat) (high : (bits v 0 5 : BitVec 5).toNat ≤ 20) :
    let m := s.capM (bits v 0 5)
    Answers (.clkFabWrite n v) s fun s' =>
      (s.throttled n = false → s'.sect n = { (s.sect n).setCur m with m := m, thr := false, gated := false }) ∧
      (s.throttled n = true → (s'.sect n).m = m ∧ (s'.sect n).gated = false ∧ (s'.sect n).mcur = heldCur (s.sect n).mcur m) ∧
      (∀ q, q ≠ n → s'.sect q = s.sect q) ∧ s'.mon = { s.mon with mReq := s.mon.mReq.erase n.toNat } ∧ { s' with clk := s.clk, mon := s.mon } = s := by
  intro m
  have run : exec (.clkFabWrite n v) s = .next ((s.setM n (bits v 0 5)).updMon fun m => { m with mReq := m.mReq.erase n.toNat }) :=
    congrArg Host.Outcome.next (if_pos ⟨low, high⟩)
  refine ⟨_, run, ?_⟩
  rw [State.setM_inRange s n low high]
  have same := s.sect_updSect_same n fun x => x.withM (s.throttled n) m
  refine ⟨fun free => same.trans (by rw [free]; rfl), fun held => ?_, fun q other => s.sect_updSect_other other _, rfl, rfl⟩
  have now : (s.updSect n fun x => x.withM (s.throttled n) m).sect n = (s.sect n).withM true m := same.trans (by rw [held])
  exact ⟨(congrArg Section.m now :), (congrArg Section.gated now :), (congrArg Section.mcur now :)⟩

theorem State.sect_wakeSect (s : State) (n : BitVec 4) : (s.wakeSect n).sect n = { s.sect n with gated := false } := by
  unfold State.wakeSect
  split
  case isTrue => exact s.sect_updSect_same n _
  case isFalse awake => exact (congrArg (fun g => { s.sect n with gated := g }) (Bool.not_eq_true _ ▸ awake) :)

theorem State.sect_wakeSect_other (s : State) {n q : BitVec 4} (other : q ≠ n) : (s.wakeSect n).sect q = s.sect q := by
  unfold State.wakeSect
  split
  case isTrue => exact s.sect_updSect_other other _
  case isFalse => rfl

theorem State.xing_wakeSect (s : State) (n : BitVec 4) (d : Nat) : (s.wakeSect n).xing d = s.xing d := by
  unfold State.wakeSect
  split <;> rfl

theorem State.offClk_wakeSect (s : State) (n : BitVec 4) : (s.wakeSect n).offClk = s.offClk := by
  unfold State.wakeSect
  split <;> rfl

theorem answers_clockWake_wakes {k : Nat} (other : (s.sect n).pstate ≠ 2) : Answers (.clockWake n k) s fun s' =>
    s'.sect n = { s.sect n with gated := false } ∧ (∀ m, m ≠ n → s'.sect m = s.sect m) ∧
      (((s.xing (sectDomain n)).inReset = false → (s'.xing (sectDomain n)).pending = 0 ∧
          (s'.xing (sectDomain n)).merged = ((s.xing (sectDomain n)).merged || decide (16 < k)) ∧
          (s'.xing (sectDomain n)).mergeCnt = satAdd (s.xing (sectDomain n)).mergeCnt (k - 16)) ∧
        ((s.xing (sectDomain n)).inReset = true →
          (s'.xing (sectDomain n)).pending = BitVec.ofNat 4 (min 15 ((s.xing (sectDomain n)).pending.toNat + k)))) ∧ { s' with clk := s.clk } = s := by
  have run : exec (.clockWake n k) s = .next ((s.pulses (sectDomain n) k).wakeSect n) :=
    congrArg Host.Outcome.next (if_neg fun no => other no.1)
  refine ⟨_, run, ?_⟩
  have sect (m : BitVec 4) : (s.pulses (sectDomain n) k).sect m = s.sect m := rfl
  have rest : (s.pulses (sectDomain n) k).offClk = s.offClk := rfl
  have xing : (s.pulses (sectDomain n) k).xing (sectDomain n) = _ := s.xing_updXing_same (sectDomain n) _
  generalize s.pulses (sectDomain n) k = a at sect rest xing ⊢
  refine ⟨(a.sect_wakeSect n).trans (by rw [sect]), fun m different => (a.sect_wakeSect_other different).trans (sect m), ?_,
    (congrArg (fun b : State => { b with clk := s.clk }) ((a.offClk_wakeSect n).trans rest) :)⟩
  rw [State.xing_wakeSect, xing]
  refine ⟨fun out => ?_, fun held => ?_⟩
  · simp only [out, Bool.false_eq_true, if_false, true_and, and_true]
    rw [decide_eq_decide.mpr (show 0 < k - 16 ↔ 16 < k by omega)]
  · simp only [held, if_true]

end Fabric

/-! ## Power-on (15 R429) -/

theorem State.passFc_cases (s : State) (n : BitVec 4) (due : Nat) : s.passFc n due = s ∨ ∃ k, s.passFc n due = s.pass k :=
  iteInduction (motive := fun t : State => t = s ∨ ∃ k, t = s.pass k) (fun _ => .inl rfl) fun _ => .inr ⟨_, rfl⟩

theorem State.setting_passFc (s : State) (n : BitVec 4) (due : Nat) (k : BitVec 4) :
    ((s.passFc n due).sect k).setting = (s.sect k).setting := by
  obtain same | ⟨i, passed⟩ := s.passFc_cases n due
  · rw [same]
  · rw [passed, State.sect_pass, Section.setting_pass]

theorem State.timeless_passFc (s : State) (n : BitVec 4) (due : Nat) : (s.passFc n due).timeless = s.timeless := by
  obtain same | ⟨i, passed⟩ := s.passFc_cases n due
  · rw [same]
  · rw [passed, State.timeless_pass]

/-- A section's clamps and its reset are released, and nothing but its crossings is. -/
theorem State.sectRelease_spec (s : State) (n : BitVec 4) :
    (s.sectRelease n).sect n = { s.sect n with pstate := 3, iso := false } ∧ (∀ m, m ≠ n → (s.sectRelease n).sect m = s.sect m) ∧
      ((s.sectRelease n).xing (sectDomain n)).inReset = false ∧
      (s.sectRelease n).offCrossings = (s.updSect n fun x => { x with pstate := 3, iso := false }).offCrossings := by
  have off := (s.updSect n fun x => { x with pstate := 3, iso := false }).offCrossings_releaseDomain (sectDomain n)
  have sect (m : BitVec 4) : (s.sectRelease n).sect m = (s.updSect n fun x => { x with pstate := 3, iso := false }).sect m :=
    (congrArg (fun a : State => a.sect m) off :)
  exact ⟨(sect n).trans (s.sect_updSect_same n _), fun m other => (sect m).trans (s.sect_updSect_other other _),
    State.inReset_releaseDomain_same _ _, off⟩

section Power
variable {n : BitVec 4} {s : State}

/-- FAB_s runs in the power-on sequence: the section's reset ends (15 R429). -/
theorem answers_clockWake_runs (powering : (s.sect n).pstate = 2) (locked : (s.sect n).lock = true) (unheld : (s.sect n).heldReq = none)
    (loaded : s.fw.held = false) : Answers (.clockWake n) s fun s' =>
      (s'.sect n).pstate = 3 ∧ (s'.sect n).iso = false ∧ (s'.xing (sectDomain n)).inReset = false ∧ s'.mem = s.mem ∧ s'.ctxs = s.ctxs := by
  have same : (s.pulses (sectDomain n) 1).sect n = s.sect n := rfl
  have off : (s.pulses (sectDomain n) 1).offClk = s.offClk := rfl
  have ready : ¬ (s.pulses (sectDomain n) 1).fw.held = true := fun no => Bool.false_ne_true (loaded.symm.trans no)
  have run : exec (.clockWake n) s = .next ((s.pulses (sectDomain n) 1).sectRun n) :=
    congrArg Host.Outcome.next (if_pos ⟨powering, locked, ready⟩)
  refine ⟨_, run, ?_⟩
  generalize s.pulses (sectDomain n) 1 = a at same off ⊢
  have setting := a.setting_passFc n ((a.sect n).fc + 16) n
  have rest := a.timeless_passFc n ((a.sect n).fc + 16)
  unfold State.sectRun
  dsimp only
  generalize a.passFc n ((a.sect n).fc + 16) = b at setting rest ⊢
  obtain ⟨sect, _, released, kept⟩ := b.sectRelease_spec n
  have none : ¬ ((b.sectRelease n).sect n).heldReq = some false := by
    have heldReq : (b.sect n).heldReq = (s.sect n).heldReq := (congrArg Section.heldReq setting :).trans (congrArg Section.heldReq same :)
    rw [sect, heldReq, unheld]
    exact fun no => nomatch no
  rw [if_neg none, sect]
  exact ⟨rfl, rfl, released, (congrArg State.mem kept :).trans ((congrArg State.mem rest :).trans (congrArg State.mem off :)),
    (congrArg State.ctxs kept :).trans ((congrArg State.ctxs rest :).trans (congrArg State.ctxs off :))⟩

theorem answers_clockGate (on : (s.sect n).pstate = 3) (locked : (s.sect n).lock = true) (idle : s.sectionIdle n = true) :
    Answers (.clockGate n) s fun s' => s'.sect n = { s.sect n with gated := true } ∧ (∀ m, m ≠ n → s'.sect m = s.sect m) ∧
      { s' with clk := s.clk } = s :=
  ⟨_, congrArg Host.Outcome.next (if_pos ⟨on, locked, idle⟩), s.sect_updSect_same n _, fun _ other => s.sect_updSect_other other _, rfl⟩

theorem answers_sectionPowerOn_ramps (off : (s.sect n).pstate = 0) (loaded : s.fw.held = false) : Answers (.sectionPowerOn n) s fun s' =>
    s'.sect n = { s.sect n with req := true, pstate := 1, iso := true, lock := false } ∧ (∀ m, m ≠ n → s'.sect m = s.sect m) ∧
      { s' with clk := s.clk } = s :=
  ⟨_, congrArg Host.Outcome.next ((if_pos off).trans (if_neg (by rw [loaded]; exact Bool.false_ne_true))), s.sect_updSect_same n _,
    fun _ other => s.sect_updSect_other other _, rfl⟩

theorem answers_sectionPowerOn_held (draining : (s.sect n).pstate = 4) : Answers (.sectionPowerOn n) s fun s' =>
    s'.sect n = { s.sect n with req := true, heldReq := some true } ∧ { s' with clk := s.clk } = s :=
  ⟨_, congrArg Host.Outcome.next ((if_neg (by rw [draining]; decide)).trans (if_pos draining)), s.sect_updSect_same n _, rfl⟩

/-! ## Power-off (15 R429) -/

theorem State.powerOff_powering (powering : (s.sect n).pstate = 1 ∨ (s.sect n).pstate = 2) :
    s.powerOff n = s.updSect n fun x => { x with req := false, heldReq := some false } := by
  have on : (s.sect n).pstate ≠ 0 := by
    obtain one | two := powering
    · rw [one]; decide
    · rw [two]; decide
  exact (if_neg on).trans (if_pos powering)

theorem answers_sectionPowerOff_held (powering : (s.sect n).pstate = 1 ∨ (s.sect n).pstate = 2) : Answers (.sectionPowerOff n) s fun s' =>
    s'.sect n = { s.sect n with req := false, heldReq := some false } ∧ { s' with clk := s.clk } = s := by
  refine ⟨_, rfl, ?_⟩
  rw [State.powerOff_powering powering]
  exact ⟨s.sect_updSect_same n _, rfl⟩

theorem answers_sectionPowerOff_drains (on : (s.sect n).pstate = 3) (busy : (s.router n).ep.all (· == 2) = false) :
    Answers (.sectionPowerOff n) s fun s' => s'.sect n = { s.sect n with req := false, pstate := 4 } ∧ (∀ m, m ≠ n → s'.sect m = s.sect m) ∧
      { s' with clk := s.clk } = s := by
  have drains : s.powerOff n = s.updSect n fun x => { x with req := false, pstate := 4 } := by
    unfold State.powerOff
    dsimp only
    rw [on, if_neg (by decide), if_neg (by decide), if_neg (by rw [busy]; exact Bool.false_ne_true)]
  refine ⟨_, rfl, ?_⟩
  rw [drains]
  exact ⟨s.sect_updSect_same n _, fun _ other => s.sect_updSect_other other _, rfl⟩

end Power

/-! ## The reset of a section (15 R429) -/

theorem State.cluster_resetCluster_same (s : State) (c : ClusterId) : (s.resetCluster c).cluster c = { spill := (s.cluster c).spill } := by
  show (Map.getD (if (s.cluster c).spill.isEmpty then s.clusters.erase c.toNat else s.clusters.set c.toNat _) c.toNat {}) = _
  split
  case isTrue empty => rw [Map.getD, Map.find_erase_same, List.isEmpty_iff.mp empty]; rfl
  case isFalse => rw [Map.getD, Map.find_set_same]; rfl

theorem State.cluster_resetCluster_other (s : State) {c d : ClusterId} (other : d ≠ c) : (s.resetCluster c).cluster d = s.cluster d := by
  show (Map.getD (if (s.cluster c).spill.isEmpty then s.clusters.erase c.toNat else s.clusters.set c.toNat _) d.toNat {}) = _
  split
  case isTrue => rw [Map.getD, Map.find_erase_other _ (toNat_ne other)]; rfl
  case isFalse => rw [Map.getD, Map.find_set_other _ (toNat_ne other)]; rfl

/-- Clusters that are reset hold their spill regions and nothing else. -/
theorem State.cluster_resetClusters {l : List ClusterId} {c : ClusterId} {s : State} {spill : Map SpillSlot}
    (region : (s.cluster c).spill = spill) (reset : c ∈ l ∨ s.cluster c = { spill := spill }) :
    (l.foldl State.resetCluster s).cluster c = { spill := spill } := by
  induction l generalizing s with
  | nil => exact reset.resolve_left List.not_mem_nil
  | cons d l ih =>
    rw [List.foldl_cons]
    by_cases here : c = d
    · have now : (s.resetCluster d).cluster c = { spill := spill } := by rw [← here, State.cluster_resetCluster_same, region]
      exact ih (by rw [now]) (.inr now)
    · have kept := s.cluster_resetCluster_other here
      refine ih (by rw [kept, region]) (reset.imp (fun listed => ?_) fun done => kept.trans done)
      exact (List.mem_cons.mp listed).resolve_left here

theorem Map.find_keep_of_none {α : Type} {p : Nat → α → Bool} {m : Map α} {k : Nat} (absent : m.find k = none) : (m.keep p).find k = none := by
  induction m with
  | nil => rfl
  | cons e m ih =>
    obtain ⟨j, w⟩ := e
    rw [Map.find] at absent
    split at absent
    case isTrue => cases absent
    case isFalse other =>
      rw [Map.keep]
      split
      case isTrue => rw [Map.find, if_neg other, ih absent]
      case isFalse => exact ih absent

/-- Threads of clusters that are reset are gone. -/
theorem State.threads_resetClusters {l : List ClusterId} {t : Tid} {s : State} (fabric : isSteward t = false)
    (reset : tCluster t ∈ l ∨ s.threads.find t.toNat = none) : (l.foldl State.resetCluster s).threads.find t.toNat = none := by
  induction l generalizing s with
  | nil => exact reset.resolve_left List.not_mem_nil
  | cons d l ih =>
    rw [List.foldl_cons]
    refine ih ?_
    obtain listed | absent := reset
    · obtain here | later := List.mem_cons.mp listed
      · exact .inr (Map.find_keep_none (fun _ => by simp [fabric, here]) s.threads)
      · exact .inl later
    · exact .inr (Map.find_keep_of_none absent)

/-- The bytes of banks of clusters that are reset read 0. -/
theorem State.mem_resetClusters {l : List ClusterId} {a : Nat} {s : State}
    (reset : (∃ c ∈ l, bankBase + 4 * c.toNat * 0x40000 ≤ a ∧ a < bankBase + 4 * c.toNat * 0x40000 + 0x100000) ∨
      Memory.get s.mem a = memDefault) : Memory.get (l.foldl State.resetCluster s).mem a = memDefault := by
  induction l generalizing s with
  | nil =>
    obtain ⟨_, no, _⟩ | read := reset
    · exact absurd no List.not_mem_nil
    · exact read
  | cons d l ih =>
    have cleared : Memory.get (s.resetCluster d).mem a = _ := Memory.get_clear s.mem (bankBase + 4 * d.toNat * 0x40000) 0x100000 a
    rw [List.foldl_cons]
    refine ih ?_
    obtain ⟨c, listed, within⟩ | read := reset
    · obtain rfl | later := List.mem_cons.mp listed
      · exact .inr (cleared.trans (if_pos within))
      · exact .inl ⟨c, later, within⟩
    · exact .inr (cleared.trans (by rw [read, ite_self]))

/-- A section's bank bytes lie in the banks of its clusters. -/
theorem exists_sectCluster (n : BitVec 4) {i : Nat} (inside : i < 0x400000) :
    ∃ c ∈ sectClusters n, bankBase + 4 * c.toNat * 0x40000 ≤ bankBase + n.toNat * 0x400000 + i ∧
      bankBase + n.toNat * 0x400000 + i < bankBase + 4 * c.toNat * 0x40000 + 0x100000 := by
  have place : (n ++ BitVec.ofNat 2 (i / 0x100000) : BitVec 6).toNat = 4 * n.toNat + i / 0x100000 := by
    rw [BitVec.toNat_append, BitVec.toNat_ofNat, Nat.mod_eq_of_lt (by omega), ← Nat.shiftLeft_add_eq_or_of_lt (by omega), Nat.shiftLeft_eq]
    omega
  refine ⟨n ++ BitVec.ofNat 2 (i / 0x100000), List.mem_map.mpr ⟨i / 0x100000, List.mem_range.mpr (by omega), rfl⟩, ?_⟩
  rw [place]
  omega

/-- A section that has drained goes off, its clusters reset (15 R429). -/
theorem State.powerOff_drained {n : BitVec 4} {s : State} (on : (s.sect n).pstate = 3) (unheld : (s.sect n).heldReq = none)
    (off : (s.router n).ep.all (· == 2) = true) :
    s.powerOff n = (s.resetSection n true).updSect n fun x =>
      { x with req := false, pstate := 0, iso := true, lock := false, gated := false, heldReq := none } := by
  unfold State.powerOff
  dsimp only
  rw [on, unheld, if_neg (by decide), if_neg (by decide), if_pos off, if_neg fun no => nomatch no]

theorem answers_sectionPowerOff_off {n : BitVec 4} {s : State} (on : (s.sect n).pstate = 3) (unheld : (s.sect n).heldReq = none)
    (off : (s.router n).ep.all (· == 2) = true) : Answers (.sectionPowerOff n) s fun s' =>
      (s'.sect n).pstate = 0 ∧ (s'.sect n).req = false ∧ (s'.sect n).iso = true ∧ (s'.xing (sectDomain n)).inReset = true ∧
      (∀ c ∈ sectClusters n, s'.cluster c = { spill := (s.cluster c).spill } ∧ ∀ t, isSteward t = false → tCluster t = c → s'.thread t = {}) ∧
      (∀ i, i < 0x400000 → Memory.get s'.mem (bankBase + n.toNat * 0x400000 + i) = memDefault) ∧ s'.ctxs = s.ctxs := by
  refine ⟨_, rfl, ?_⟩
  have ctxs := s.ctxs_powerOff n
  rw [State.powerOff_drained on unheld off] at ctxs ⊢
  have cluster (c : ClusterId) (mine : c ∈ sectClusters n) := State.cluster_resetClusters (s := s) rfl (.inl mine)
  have thread (t : Tid) (fabric : isSteward t = false) (mine : tCluster t ∈ sectClusters n) :=
    State.threads_resetClusters (s := s) fabric (.inl mine)
  have bytes (i : Nat) (inside : i < 0x400000) := State.mem_resetClusters (s := s) (.inl (exists_sectCluster n inside))
  unfold State.resetSection at ctxs ⊢
  generalize (sectClusters n).foldl State.resetCluster s = a at ctxs cluster thread bytes ⊢
  have sect := (a.holdDomain (sectDomain n) true).sect_updSect_same n fun x =>
    { x with req := false, pstate := 0, iso := true, lock := false, gated := false, heldReq := none }
  have xing := a.xing_updXing_same (sectDomain n) fun x => { x with inReset := true, asked := true }
  refine ⟨(congrArg Section.pstate sect :), (congrArg Section.req sect :), (congrArg Section.iso sect :), (congrArg Xing.inReset xing :), fun c mine => ⟨cluster c mine, fun t fabric here => ?_⟩, bytes, ctxs⟩
  exact (congrArg (Option.getD · {}) (thread t fabric (here ▸ mine)) :)

/-! ## The references (15 R420) -/

theorem answers_referenceCheck {s : State} (out : (s.xing 1).inReset = false) (lost : Byte) : Answers (.referenceCheck lost) s fun s' =>
    s'.clk = { s.clk with refLoss := s.clk.refLoss ||| (lost &&& s.refWatched), refDead := lost &&& s.refWatched } ∧
      { s' with clk := s.clk, hub := s.hub } = s := by
  refine ⟨_, if_neg (by rw [out]; exact Bool.false_ne_true), ?_⟩
  dsimp only
  split
  case isTrue => exact ⟨rfl, rfl⟩
  case isFalse =>
    let a := s.updClk fun k => { k with refLoss := k.refLoss ||| (lost &&& s.refWatched), refDead := lost &&& s.refWatched }
    exact ⟨a.clk_mgmtRecord _ _ _, (congrArg (fun b : State => { b with clk := s.clk, hub := s.hub }) (a.offCrossings_mgmtRecord _ _ _) :)⟩

/-- Settles O44: each power and clock command changes its section's record, and what the reset of a section loses. -/
theorem sectionsArePoweredAndClocked : Obligations.SectionsArePoweredAndClocked :=
  ⟨fun _ _ => ⟨fun _ => ⟨exec_clkFabWrite_ignored, answers_clkFabWrite⟩, fun _ other => answers_clockWake_wakes other,
      fun powering locked unheld loaded => answers_clockWake_runs powering locked unheld loaded,
      fun on locked idle => answers_clockGate on locked idle, fun on unheld off => answers_sectionPowerOff_off on unheld off,
      fun on busy => answers_sectionPowerOff_drains on busy, fun powering => answers_sectionPowerOff_held powering,
      fun off loaded => answers_sectionPowerOn_ramps off loaded, fun draining => answers_sectionPowerOn_held draining⟩,
    fun lost _ out => answers_referenceCheck out lost⟩

end Sys2Proof.Machine
end

section
/-! PROOFS. The steps of start-up (15 R433, R434). -/

namespace Sys2Proof.Machine

/-! ## PLLs (15 R419) -/

theorem answers_pllLock_safe {s : State} (awake : s.awake = true) (unlocked : s.clk.safeLock = false) : Answers (.pllLock .safe) s fun s' =>
    s'.clk.safeLock = true ∧ s'.keeper.running = true ∧ (s'.xing 1).inReset = false ∧ s'.mem = s.mem ∧ s'.ctxs = s.ctxs := by
  have run : exec (.pllLock .safe) s = .next (((s.updClk fun k => { k with safeLock := true }).releaseDomain 1).updKeeper fun k =>
      { k with running := true }) := by
    show execPllLock .safe s = _
    rw [execPllLock, if_neg (not_not_intro awake), if_neg (by rw [unlocked]; exact Bool.false_ne_true)]
  have off := (s.updClk fun k => { k with safeLock := true }).offCrossings_releaseDomain 1
  have released := (s.updClk fun k => { k with safeLock := true }).inReset_releaseDomain_same 1
  refine ⟨_, run, ?_⟩
  generalize (s.updClk fun k => { k with safeLock := true }).releaseDomain 1 = a at off released ⊢
  exact ⟨(congrArg (·.clk.safeLock) off :), rfl, released, (congrArg State.mem off :), (congrArg State.ctxs off :)⟩

theorem answers_pllLock_sect {s : State} {n : BitVec 4} (awake : s.awake = true) (on : (s.sect n).pstate ≠ 0) :
    Answers (.pllLock (.sect n)) s fun s' =>
      s'.sect n = (if (s.sect n).pstate = 1 then
        { s.sect n with pstate := 2, lock := true, gated := false, mcur := (s.sect n).m, thr := false, phase := 0, was := none }
        else { s.sect n with lock := true }) ∧ (∀ m, m ≠ n → s'.sect m = s.sect m) ∧ { s' with clk := s.clk } = s := by
  have run : exec (.pllLock (.sect n)) s =
      .next (if (s.sect n).pstate = 1 then s.sectLock n else s.updSect n fun x => { x with lock := true }) := by
    show execPllLock (.sect n) s = _
    rw [execPllLock, if_neg (not_not_intro awake)]
    exact congrArg Host.Outcome.next (if_neg on)
  refine ⟨_, run, ?_⟩
  split
  case isTrue => exact ⟨s.sect_updSect_same n _, fun m other => s.sect_updSect_other other _, rfl⟩
  case isFalse => exact ⟨s.sect_updSect_same n _, fun m other => s.sect_updSect_other other _, rfl⟩

/-! ## Images (15 R433, R434) -/

theorem answers_keeperImageVerify {s : State} (running : s.keeper.running = true) (unverified : s.clk.keeperOk = false)
    (alive : s.clk.dead = false) (ok0 ok1 : Bool) : Answers (.keeperImageVerify ok0 ok1) s fun s' =>
      s'.clk.keeperOk = (ok0 || ok1) ∧ s'.clk.dead = !(ok0 || ok1) ∧ s'.keeper.faultN = (s.keeper.faultN || !(ok0 || ok1)) ∧
      ((ok0 || ok1) = true → s'.fw = { s.fw with keeperRuns := some (s.fw.keeperOf (if ok0 then s.fw.bank else !s.fw.bank)) }) ∧
      { s' with clk := s.clk, keeper := s.keeper, fw := s.fw } = s := by
  have begins : ¬ (¬ s.keeper.running = true ∨ s.clk.keeperOk = true ∨ s.clk.dead = true) := by simp [running, unverified, alive]
  cases ok : ok0 || ok1 with
  | true =>
    exact ⟨_, (if_neg begins).trans (if_pos ok), rfl, alive, (Bool.or_false _).symm, fun _ => rfl, rfl⟩
  | false =>
    exact ⟨_, (if_neg begins).trans (if_neg (by rw [ok]; exact Bool.false_ne_true)), unverified, rfl, (Bool.or_true _).symm,
      fun no => (nomatch no), rfl⟩

section Image
variable {s : State} {ok0 ok1 : Bool} (held : s.fw.held = true) (unready : s.fw.ready = false) (verified : s.clk.keeperOk = true)
  (awake : s.awake = true) (noReset : s.clk.warmLow = false) (host : s.hostUp = true) (running : s.keeper.running = true)
  (alive : s.clk.dead = false) (back : s.keeper.restartAt = none)

include back in
theorem State.keeperBack_none : s.keeperBack = s := by
  unfold State.keeperBack
  rw [back]

include held unready verified awake noReset host back in
/-- The stewards' image is loaded, or keeper mode follows; in keeper mode only a warm reset lets it be tried. -/
theorem exec_stewardImageLoad : exec (.stewardImageLoad ok0 ok1) s =
    if (!s.keeper.keeper || s.keeper.warmed) = true then
      if (ok0 || ok1) = true then .next (((s.updFw fun w =>
        { w with held := false, bank := if ok0 then w.bank else !w.bank }).releaseDomain 2).releaseDomain 5)
      else if s.keeper.keeper then .next (s.updKeeper fun k => { k with cause := 6, warmed := false })
      else .next (s.keeperEnter 6)
    else .next s := by
  show execStewardImageLoad ok0 ok1 s = _
  rw [execStewardImageLoad, State.keeperBack_none back]
  simp only [held, unready, verified, awake, noReset, host, Bool.not_false, Bool.true_and]

include held unready verified awake noReset host back in
theorem exec_stewardImageLoad_barred (mode : s.keeper.keeper = true) (cold : s.keeper.warmed = false) :
    exec (.stewardImageLoad ok0 ok1) s = .next s := by
  rw [exec_stewardImageLoad held unready verified awake noReset host back, mode, cold]
  rfl

include held unready verified awake noReset host running alive back in
theorem answers_stewardImageLoad (may : s.keeper.keeper = false ∨ s.keeper.warmed = true) : Answers (.stewardImageLoad ok0 ok1) s fun s' =>
    ((ok0 || ok1) = true → s'.fw.held = false ∧ s'.fw.bank = (if ok0 then s.fw.bank else !s.fw.bank) ∧ (s'.xing 2).inReset = false ∧
      (s'.xing 5).inReset = false ∧ s'.keeper.keeper = s.keeper.keeper) ∧
    ((ok0 || ok1) = false → s'.keeper.keeper = true ∧ s'.keeper.cause = 6) := by
  have run := exec_stewardImageLoad (ok0 := ok0) (ok1 := ok1) held unready verified awake noReset host back
  have may' : (!s.keeper.keeper || s.keeper.warmed) = true := by
    obtain normal | warmed := may
    · simp [normal]
    · simp [warmed]
  rw [if_pos may'] at run
  cases ok : ok0 || ok1 with
  | true =>
    rw [if_pos ok] at run
    refine ⟨_, run, fun _ => ?_, fun no => nomatch no⟩
    have first := (s.updFw fun w => { w with held := false, bank := if ok0 then w.bank else !w.bank }).offCrossings_releaseDomain 2
    have mgmt := (s.updFw fun w => { w with held := false, bank := if ok0 then w.bank else !w.bank }).inReset_releaseDomain_same 2
    generalize (s.updFw fun w => { w with held := false, bank := if ok0 then w.bank else !w.bank }).releaseDomain 2 = a at first mgmt ⊢
    have off := (a.offCrossings_releaseDomain 5).trans first
    exact ⟨(congrArg (·.fw.held) off :), (congrArg (·.fw.bank) off :), (a.inReset_releaseDomain_other (by decide)).trans mgmt,
      a.inReset_releaseDomain_same 5, (congrArg (·.keeper.keeper) off :)⟩
  | false =>
    rw [if_neg (by rw [ok]; exact Bool.false_ne_true)] at run
    cases mode : s.keeper.keeper with
    | true =>
      rw [if_pos mode] at run
      exact ⟨_, run, fun no => (nomatch no), fun _ => ⟨mode, rfl⟩⟩
    | false =>
      rw [if_neg (by rw [mode]; exact Bool.false_ne_true)] at run
      obtain ⟨entered, cause, _⟩ := State.keeperEntered_keeperEnter running mode alive 6
      exact ⟨_, run, fun no => (nomatch no), fun _ => ⟨entered, cause⟩⟩

end Image

/-! ## The stack and the sections (15 R433) -/

theorem answers_hbmInitialisation {s : State} (loaded : s.fw.held = false) (unready : s.fw.ready = false) (untrained : s.clk.hbmUp = false) :
    Answers .hbmInitialisation s fun s' =>
      s'.clk.hbmUp = true ∧ (∀ c, (s'.cluster c).spill = []) ∧ { s' with clk := s.clk, clusters := s.clusters } = s := by
  refine ⟨_, if_neg (by simp [loaded, unready, untrained]), rfl, fun c => ?_, rfl⟩
  show ((Map.mapV (fun _ (cl : Cluster) => { cl with spill := [] }) s.clusters).getD c.toNat {}).spill = []
  rw [Map.getD, Map.find_mapV]
  cases s.clusters.find c.toNat <;> rfl

/-- A section that comes up: its record, its endpoints and its reset. -/
theorem State.sectionUp_spec (s : State) (n : BitVec 4) :
    ((s.sectionUp n).sect n).pstate = 3 ∧ (∀ m, m ≠ n → (s.sectionUp n).sect m = s.sect m) ∧ (s.sectionUp n).mem = s.mem ∧
      (s.sectionUp n).ctxs = s.ctxs := by
  have others (m : BitVec 4) (other : m ≠ n) : ((s.sectRamp n).sectLock n).sect m = s.sect m :=
    ((s.sectRamp n).sect_updSect_other other _).trans (s.sect_updSect_other other _)
  have rest : ((s.sectRamp n).sectLock n).offClk = s.offClk := rfl
  unfold State.sectionUp
  generalize (s.sectRamp n).sectLock n = a at others rest ⊢
  obtain ⟨sect, kept, _, off⟩ := a.sectRelease_spec n
  exact ⟨(congrArg Section.pstate sect :), fun m other => (kept m other).trans (others m other),
    (congrArg State.mem off :).trans (congrArg State.mem rest :), (congrArg State.ctxs off :).trans (congrArg State.ctxs rest :)⟩

/-- A section after it has been powered on and tested, or found failing. -/
def State.tested (s : State) (n : BitVec 4) (ok : Bool) : State :=
  if ok then ((s.sectionUp n).setEps n 0).updSect n fun x => { x with tried := true, svc := 0 }
  else s.updSect n fun x => { x with tried := true, svc := 4, req := false }

theorem State.tested_spec (s : State) (n : BitVec 4) (ok : Bool) :
    (((s.tested n ok).sect n).tried = true ∧ ((s.tested n ok).sect n).svc = (if ok then 0 else 4) ∧
      (ok = true → ((s.tested n ok).sect n).pstate = 3 ∧ ((s.tested n ok).router n).ep = [0, 0, 0, 0])) ∧
      (∀ m, m ≠ n → (s.tested n ok).sect m = s.sect m) ∧ (s.tested n ok).mem = s.mem ∧ (s.tested n ok).ctxs = s.ctxs := by
  cases ok with
  | true =>
    obtain ⟨up, others, mem, ctxs⟩ := s.sectionUp_spec n
    rw [State.tested, if_pos rfl]
    generalize s.sectionUp n = a at up others mem ctxs ⊢
    have sect := (a.setEps n 0).sect_updSect_same n fun x => { x with tried := true, svc := 0 }
    have router := a.router_updRouter_same n fun t => { t with ep := [0, 0, 0, 0], busy := false, epWait := [] }
    exact ⟨⟨(congrArg Section.tried sect :), (congrArg Section.svc sect :),
      fun _ => ⟨(congrArg Section.pstate sect :).trans up, (congrArg Router.ep router :)⟩⟩,
      fun m other => ((a.setEps n 0).sect_updSect_other other _).trans (others m other), mem, ctxs⟩
  | false =>
    rw [State.tested, if_neg Bool.false_ne_true]
    have sect := s.sect_updSect_same n fun x => { x with tried := true, svc := 4, req := false }
    exact ⟨⟨(congrArg Section.tried sect :), (congrArg Section.svc sect :), fun no => nomatch no⟩,
      fun m other => s.sect_updSect_other other _, rfl, rfl⟩

theorem answers_sectionStartup {s : State} {n : BitVec 4} {ok : Bool} (trained : s.clk.hbmUp = true) (loaded : s.fw.held = false)
    (unready : s.fw.ready = false) (untried : (s.sect n).tried = false) : Answers (.sectionStartup n ok) s fun s' =>
      (s'.sect n).tried = true ∧ (s'.sect n).svc = (if ok then 0 else 4) ∧ (ok = true → (s'.sect n).pstate = 3 ∧ (s'.router n).ep = [0, 0, 0, 0]) ∧
      (∀ m, m ≠ n → s'.sect m = s.sect m) ∧ s'.mem = s.mem ∧ s'.ctxs = s.ctxs := by
  have run : exec (.sectionStartup n ok) s =
      .next (if allSections.all fun k => ((s.tested n ok).sect k).tried then ((s.tested n ok).releaseDomain 4).updEth fun e => { e with phyRstN := true }
        else s.tested n ok) := if_neg (by simp [trained, loaded, unready, untried])
  refine ⟨_, run, ?_⟩
  obtain ⟨⟨tried, svc, up⟩, others, mem, ctxs⟩ := s.tested_spec n ok
  generalize s.tested n ok = a at tried svc up others mem ctxs ⊢
  split
  case isFalse => exact ⟨tried, svc, up, others, mem, ctxs⟩
  case isTrue =>
    have off := a.offCrossings_releaseDomain 4
    generalize a.releaseDomain 4 = b at off ⊢
    have sect (m : BitVec 4) : b.sect m = a.sect m := (congrArg (fun c : State => c.sect m) off :)
    have router : b.router n = a.router n := (congrArg (fun c : State => c.router n) off :)
    have kept (m : BitVec 4) : (b.updEth fun e => { e with phyRstN := true }).sect m = a.sect m := sect m
    have kept' : (b.updEth fun e => { e with phyRstN := true }).router n = a.router n := router
    refine ⟨by rw [kept]; exact tried, by rw [kept]; exact svc, fun good => by rw [kept, kept']; exact up good,
      fun m other => (kept m).trans (others m other), (congrArg State.mem off :).trans mem, (congrArg State.ctxs off :).trans ctxs⟩

/-! ## The firmware's report (15 R434) -/

theorem Map.mem_set_cases {α : Type} {m : Map α} {k : Nat} {v : α} {e : Nat × α} (listed : e ∈ m.set k v) : e = (k, v) ∨ e ∈ m := by
  induction m with
  | nil => exact .inl (List.mem_singleton.mp listed)
  | cons d m ih =>
    obtain ⟨j, w⟩ := d
    rw [Map.set] at listed
    split at listed
    case isTrue => exact List.mem_cons.mp listed
    case isFalse =>
      split at listed
      case isTrue => exact (List.mem_cons.mp listed).imp id (List.mem_cons_of_mem _)
      case isFalse =>
        obtain here | later := List.mem_cons.mp listed
        · exact .inr (here ▸ List.mem_cons_self)
        · exact (ih later).imp id (List.mem_cons_of_mem _)

/-- What holds of every listed value and of the default holds of every value read. -/
theorem Map.getD_of_forall {α : Type} {m : Map α} {P : α → Prop} (all : ∀ e ∈ m, P e.2) {d : α} (default : P d) (k : Nat) : P (m.getD k d) := by
  induction m with
  | nil => exact default
  | cons e m ih =>
    obtain ⟨j, w⟩ := e
    rw [Map.getD, Map.find]
    split
    case isTrue => exact all (j, w) List.mem_cons_self
    case isFalse => exact ih fun e listed => all e (List.mem_cons_of_mem _ listed)

theorem State.takeRecords_none {s : State} (none : s.hub.steward.recs = []) :
    s.takeRecords = s.updHub fun h => { h with steward := { h.steward with recs := [], ovf := false, first := 0 } } := by
  unfold State.takeRecords
  rw [none]
  rfl

theorem State.finishFlrs_none {s : State} (none : ∀ e ∈ s.hub.funcs, e.2.flr = false) : s.finishFlrs = s := by
  have empty : (s.hub.funcs.filter fun e => e.2.flr) = [] :=
    List.filter_eq_nil_iff.mpr fun e listed => Bool.eq_false_iff.mp (none e listed)
  rw [State.finishFlrs, empty]
  rfl

/-- The tables of start-up put no function into a reset, and leave the records waiting. -/
theorem State.startTables_spec {s : State} (none : ∀ e ∈ s.hub.funcs, e.2.flr = false) :
    (∀ e ∈ s.startTables.hub.funcs, e.2.flr = false) ∧ s.startTables.hub.steward = s.hub.steward ∧
      s.startTables.fw.ready = s.fw.ready ∧ s.startTables.mem = s.mem ∧ s.startTables.ctxs = s.ctxs := by
  refine ⟨fun e listed => ?_, rfl, rfl, rfl, rfl⟩
  obtain rfl | before := Map.mem_set_cases (m := s.hub.funcs) listed
  · exact Map.getD_of_forall (P := fun f : Func => f.flr = false) none rfl s.hub.admin.toNat
  · exact none e before

/-- The part as the firmware reports ready at the end of start-up. -/
def State.reported (s : State) : State :=
  ((s.updFw fun w => { w with ready := true }).startTables.updKeeper fun k =>
    { k with keeper := false, cause := 0, keeperAct := false, faultN := false, delayed := 0 }).drive

theorem State.reported_spec {s : State} (none : ∀ e ∈ s.hub.funcs, e.2.flr = false) :
    (∀ e ∈ s.reported.hub.funcs, e.2.flr = false) ∧ s.reported.hub.steward = s.hub.steward ∧ s.reported.fw.ready = true ∧
      s.reported.keeper.keeper = false ∧ s.reported.keeper.cause = 0 ∧ s.reported.keeper.faultN = false ∧ s.reported.mem = s.mem ∧
      s.reported.ctxs = s.ctxs := by
  obtain ⟨funcs, steward, ready, mem, ctxs⟩ := State.startTables_spec (s := s.updFw fun w => { w with ready := true }) none
  unfold State.reported
  generalize (s.updFw fun w => { w with ready := true }).startTables = a at funcs steward ready mem ctxs ⊢
  obtain ⟨d, l, driven⟩ := (a.updKeeper fun k => { k with keeper := false, cause := 0, keeperAct := false, faultN := false, delayed := 0 }).drive_eq
  rw [driven]
  exact ⟨funcs, steward, ready, rfl, rfl, rfl, mem, ctxs⟩

theorem answers_firmwareReady {s : State} (unpaused : s.fw.paused = 0) (started : s.startedUp = true) (unrecorded : s.hub.steward.recs = [])
    (none : ∀ e ∈ s.hub.funcs, e.2.flr = false) : Answers .firmwareReady s fun s' =>
      s'.fw.ready = true ∧ s'.keeper.keeper = false ∧ s'.keeper.cause = 0 ∧ s'.keeper.faultN = false ∧ s'.mem = s.mem ∧ s'.ctxs = s.ctxs := by
  have run : exec .firmwareReady s = .next s.reported.takeRecords.finishFlrs := by
    show Host.Outcome.next s.firmwareReady = _
    unfold State.firmwareReady
    rw [unpaused]
    exact congrArg Host.Outcome.next (if_pos started)
  obtain ⟨funcs, steward, ready, mode, cause, fault, mem, ctxs⟩ := State.reported_spec none
  refine ⟨_, run, ?_⟩
  generalize s.reported = a at funcs steward ready mode cause fault mem ctxs ⊢
  have taken := State.takeRecords_none (s := a) (by rw [steward]; exact unrecorded)
  have funcs' : ∀ e ∈ a.takeRecords.hub.funcs, e.2.flr = false := by
    rw [taken]
    exact funcs
  rw [State.finishFlrs_none funcs', taken]
  exact ⟨ready, mode, cause, fault, mem, ctxs⟩

/-- Settles O43: each step of start-up does its part and leaves the rest. -/
theorem startupGoesItsSteps : Obligations.StartupGoesItsSteps :=
  ⟨fun _ awake unlocked => answers_pllLock_safe awake unlocked, fun _ _ awake on => answers_pllLock_sect awake on,
    fun _ ok0 ok1 running unverified alive => answers_keeperImageVerify running unverified alive ok0 ok1,
    fun _ _ _ held unready verified awake noReset host running alive back =>
      ⟨exec_stewardImageLoad_barred held unready verified awake noReset host back,
        answers_stewardImageLoad held unready verified awake noReset host running alive back⟩,
    fun _ loaded unready untrained => answers_hbmInitialisation loaded unready untrained,
    fun _ _ _ trained loaded unready untried => answers_sectionStartup trained loaded unready untried,
    fun _ unpaused started unrecorded none => answers_firmwareReady unpaused started unrecorded none⟩

end Sys2Proof.Machine
end

section
/-! PROOFS. What the completion of a command leaves (13 R371), and the commands of the device, the firmware, the time, the keeper and
the routes (11 R329, 13 R382-R384, R393, 16 R451, R455). -/

namespace Sys2Proof.Machine

/-! ## A command that completes -/

theorem State.signalled_dmaOut (t : State) (f : FuncId) (out : Option (List Byte)) : t.Signalled (t.dmaOut f out).1 := by
  unfold State.dmaOut
  split
  case h_1 => exact .refl t
  case h_2 b =>
    dsimp only
    split
    · exact .refl t
    · exact t.signalled_emitFor f _

/-- A command that completes is answered OK, and behind that answer only rings, vectors and transfers change. -/
theorem State.signalled_completes {t : State} {f : FuncId} (waits : (t.mbox f).pend = true) (payload : List Byte)
    (out : Option (List Byte)) :
    ∃ (sent : State) (rsp : BitVec 2048), t.Signalled sent ∧ (sent.noted f OK rsp).Signalled (t.completes f payload out) := by
  have sent := t.signalled_dmaOut f out
  exact ⟨_, _, sent, State.signalled_answer ((congrArg Mbox.pend (sent.mbox f)).trans waits) OK _ payload⟩

/-- A command that completes shows DONE and OK, and leaves what lies outside the hub. -/
theorem State.completes_spec {t : State} {f : FuncId} (waits : (t.mbox f).pend = true) (payload : List Byte)
    (out : Option (List Byte)) :
    let s' := t.completes f payload out
    (s'.mbox f).pend = false ∧ (s'.mbox f).done = true ∧ (s'.mbox f).status = OK ∧ s'.offHub = t.offHub := by
  obtain ⟨sent, rsp, before, after⟩ := State.signalled_completes waits payload out
  have answered := after.mbox f
  rw [State.mbox_noted_same] at answered
  exact ⟨congrArg Mbox.pend answered, congrArg Mbox.done answered, congrArg Mbox.status answered,
    after.offHub.trans ((sent.offHub_noted f OK rsp).trans before.offHub)⟩

/-- A state that a command leaves when it completes: what holds of `t` outside the hub holds of it. -/
theorem answers_completes {s t : State} {i : Instr} {f : FuncId} {payload : List Byte} {out : Option (List Byte)} {P : State → Prop}
    (run : exec i s = .next (t.completes f payload out)) (waits : (t.mbox f).pend = true)
    (holds : ∀ s' : State, s'.offHub = t.offHub → (s'.mbox f).status = OK → P s') : Answers i s P := by
  obtain ⟨-, -, status, rest⟩ := State.completes_spec waits payload out
  exact ⟨_, run, holds _ rest status⟩

/-- The opcode that an accepted command carries. -/
theorem State.op_of_accepts {s : State} {f : FuncId} {op : Nat} (accepted : s.accepts f op = true) : s.arg f 0 2 = op := by
  simp only [State.accepts, Bool.and_eq_true, beq_iff_eq] at accepted
  obtain ⟨⟨⟨⟨_, _⟩, asks⟩, _⟩, _⟩ := accepted
  exact asks

/-- The firmware runs where a command is accepted. -/
theorem State.runs_of_accepts {s : State} {f : FuncId} {op : Nat} (accepted : s.accepts f op = true) : s.fwRuns = true := by
  simp only [State.accepts, Bool.and_eq_true] at accepted
  obtain ⟨⟨⟨⟨_, runs⟩, _⟩, _⟩, _⟩ := accepted
  exact runs

/-- The firmware does not run in keeper mode. -/
theorem State.normal_of_fwRuns {s : State} (runs : s.fwRuns = true) : s.keeper.keeper = false := by
  simp only [State.fwRuns, Bool.and_eq_true, Bool.not_eq_true'] at runs
  exact runs.2

/-! ## DEV_INFO and DEV_HEALTH -/

theorem exec_devInfo {s : State} {f : FuncId} (accepted : s.accepts f 0x0001 = true) :
    exec (.devInfo f) s = .next (s.completes f (s.devInfo f) none) := by
  show execDevInfo f s = _
  rw [execDevInfo, State.perform_accepts accepted, State.settle_ok]

theorem exec_devHealth {s : State} {f : FuncId} (accepted : s.accepts f 0x0002 = true) :
    exec (.devHealth f) s = .next (s.completes f (s.devHealth f) none) := by
  show execDevHealth f s = _
  rw [execDevHealth, State.perform_accepts accepted, State.settle_ok]

theorem State.length_devInfo (s : State) (f : FuncId) : (s.devInfo f).length = 48 := by
  simp [State.devInfo, le]

/-- The device and its revision, the caller and the administrator as DEV_INFO names them (13 R382). -/
theorem State.devInfo_names (s : State) (f : FuncId) :
    (s.devInfo f).take 3 = [0x64, 0x0C, 0xB0] ∧ (s.devInfo f).getD 8 0 = BitVec.setWidth 8 f ∧
      (s.devInfo f).getD 9 0 = BitVec.setWidth 8 s.hub.admin := by
  have byte (g : FuncId) : BitVec.ofNat 8 g.toNat = BitVec.setWidth 8 g := BitVec.eq_of_toNat_eq (by simp)
  refine ⟨?_, ?_, ?_⟩
  · simp [State.devInfo, le, leBytes]
  · rw [← byte f]; simp [State.devInfo, le, leBytes]
  · rw [← byte s.hub.admin]; simp [State.devInfo, le, leBytes]

/-! ## FW_STAGE and FW_ACTIVATE -/

/-- FW_STAGE of an image of up to 4 MB: the bank that does not run takes it where the verdict is 0 (13 R384). -/
theorem exec_fwStage {s : State} {f : FuncId} {b : List Byte} (accepted : s.accepts f 0x0003 = true)
    (len : b.length = s.arg f 0x18 4) (fits : b.length ≤ 0x400000) :
    exec (.fwStage f (.data b)) s = .next (if Config.fwVerdict b s.fw.fusedCounter s.fw.fusedKeeper = 0 then
        (s.updFw fun w =>
          { w with versions := w.versions.set (!w.bank).toNat (Config.fwVersion b),
                   keeperParts := w.keeperParts.set (!w.bank).toNat (Config.keeperPart (Config.fwVersion b)),
                   staged := some (Config.fwVersion b) }).completes f (leBytes 4 (Config.fwVersion b).toNat) none
      else s.settle f (.fail BAD_ARG 0xFFFF (Config.fwVerdict b s.fw.fusedCounter s.fw.fusedKeeper) 0 none)) := by
  show execFwStage f (.data b) s = _
  rw [execFwStage, State.perform_accepts accepted, if_neg (by omega), State.dmaIn_data len]
  dsimp only
  split
  case h_1 sound => rw [if_pos sound]; rfl
  case h_2 faulty => rw [if_neg faulty]

theorem answers_fwActivate {s : State} {f : FuncId} (accepted : s.accepts f 0x0004 = true) (staged : s.fw.staged.isSome = true) :
    Answers (.fwActivate f) s fun s' =>
      s'.fw.paused = 1 ∧ s'.fw.bank = (!s.fw.bank) ∧ s'.fw.activateAt = s.scnt ∧ (s'.mbox f).pend = true ∧ (s'.mbox f).begun = true ∧
      (∀ e ∈ s'.threads, isSteward (BitVec.ofNat 13 e.1) = false) ∧ s'.mem = s.mem ∧ s'.ctxs = s.ctxs := by
  let other := s.updFw fun w => { w with paused := 1, activating := some f, activateAt := s.scnt, bank := !w.bank }
  have run : exec (.fwActivate f) s = .next ((other.holdStewards true).goesOn f) := by
    show execFwActivate f s = _
    rw [execFwActivate, State.perform_accepts accepted,
      if_neg (by rw [Option.isNone_iff_eq_none, ← Option.not_isSome_iff_eq_none]; exact not_not_intro staged), State.settle_later]
  obtain ⟨threads, fw, mem, ctxs⟩ := other.holdStewards_spec true
  have mbox : ((other.holdStewards true).goesOn f).mbox f = { s.mbox f with begun := true } :=
    State.mbox_updMbox_same (other.holdStewards true) f fun m => { m with begun := true }
  exact ⟨_, run, (congrArg Fw.paused fw :), (congrArg Fw.bank fw :), (congrArg Fw.activateAt fw :),
    (congrArg Mbox.pend mbox).trans (State.pend_of_accepts accepted), congrArg Mbox.begun mbox, threads, mem, ctxs⟩

/-! ## TIME_SET, TIME_SOURCE and TICK_SET -/

theorem exec_timeSet {s : State} {f : FuncId} (accepted : s.accepts f 0x0601 = true) :
    exec (.timeSet f) s = .next (s.settle f (if s.tb.src ≠ 0 then .bad WRONG_STATE 0x08
      else .done (s.stepTb (BitVec.ofNat 64 (s.arg f 0x10 8) - s.tb.now)))) := by
  show execTimeSet f s = _
  rw [execTimeSet, State.perform_accepts accepted, State.timeSet]

/-- TIME_SOURCE to FREE: the servo starts anew at the trim given, and TB stands (13 R393). -/
theorem answers_timeSource_free {s : State} {f : FuncId} (accepted : s.accepts f 0x0602 = true) (source : s.arg f 0x10 1 = 0)
    (port : s.arg f 0x11 1 ≤ 3) (threshold : s.arg f 0x14 4 = 0) : Answers (.timeSource f) s fun s' =>
      s'.tb.src = 0 ∧ s'.tb.port = BitVec.ofNat 2 (s.arg f 0x11 1) ∧ s'.tb.holdover = false ∧ s'.tb.stepth = 100000 ∧
      s'.tb.rate = rateHeld (BitVec.ofNat 32 (s.arg f 0x18 4)) ∧ s'.tb.now = s.tb.now ∧ s'.mem = s.mem ∧ s'.ctxs = s.ctxs := by
  let free := s.updTb fun t =>
    { t with src := 0, port := BitVec.ofNat 2 (s.arg f 0x11 1), holdover := false, lastSample := s.scnt, stepth := 100000,
             rate := rateHeld (BitVec.ofNat 32 (s.arg f 0x18 4)) }
  have run : exec (.timeSource f) s = .next (free.completes f [] none) := by
    show execTimeSource f s = _
    rw [execTimeSource, State.perform_accepts accepted, State.timeSource,
      checked_none (by simp [firstBad, source, port, threshold]), source, threshold]
    rfl
  refine answers_completes run (State.pend_of_accepts accepted) fun s' rest _ => ?_
  exact ⟨(congrArg (·.tb.src) rest :), (congrArg (·.tb.port) rest :), (congrArg (·.tb.holdover) rest :),
    (congrArg (·.tb.stepth) rest :), (congrArg (·.tb.rate) rest :), (congrArg (·.tb.now) rest :), (congrArg State.mem rest :),
    (congrArg State.ctxs rest :)⟩

/-- A tick of up to 1 ms, in whole TICK cycles of 5 ns, is held exactly. -/
theorem ticks_held {ns : Nat} (whole : ns % 5 = 0) (high : ns ≤ 1000000) : 5 * (BitVec.ofNat 18 (ns / 5)).toNat = ns := by
  rw [BitVec.toNat_ofNat, Nat.mod_eq_of_lt (by omega)]
  omega

theorem answers_tickSet {s : State} {f : FuncId} (accepted : s.accepts f 0x0603 = true) (free : ∀ e ∈ s.ctxs, e.2.state = FREE)
    (whole : s.arg f 0x10 4 % 5 = 0) (low : 125 ≤ s.arg f 0x10 4) (high : s.arg f 0x10 4 ≤ 1000000) :
    Answers (.tickSet f) s fun s' =>
      s'.tkNs = s.arg f 0x10 4 ∧ s'.tb.tc = BitVec.ofNat 64 (s.tb.now.toNat / s.arg f 0x10 4) ∧ s'.tb.now = s.tb.now ∧
      s'.mem = s.mem := by
  have noCtx : ¬ (s.ctxs.any fun e => e.2.state != FREE) = true := by
    simpa using free
  have run : exec (.tickSet f) s = .next ((s.setTk (s.arg f 0x10 4)).completes f [] none) := by
    show execTickSet f s = _
    rw [execTickSet, State.perform_accepts accepted, State.tickSet, if_neg noCtx, if_neg (by omega)]
    rfl
  have held := ticks_held whole high
  refine answers_completes run (State.pend_of_accepts accepted) fun s' rest _ =>
    ⟨(congrArg State.tkNs rest).trans held, ?_, (congrArg (·.tb.now) rest :), (congrArg State.mem rest :)⟩
  calc s'.tb.tc = BitVec.ofNat 64 (s.tb.now.toNat / (5 * (BitVec.ofNat 18 (s.arg f 0x10 4 / 5)).toNat)) := (congrArg (·.tb.tc) rest :)
    _ = _ := by rw [held]

/-! ## KEEPER_TABLE_SET and KEEPER_ENTER -/

theorem exec_keeperTableSet {s : State} {f : FuncId} {b : List Byte} (accepted : s.accepts f 0x0A01 = true)
    (len : s.arg f 0x18 4 = 336) (size : b.length = 336) (sound : kprBad (BitVec.ofNat 2688 (leNat b)) = none) :
    exec (.keeperTableSet f (.data b)) s =
      .next (((s.keeperBack.updKeeper fun k => { k with table := some (BitVec.ofNat 2688 (leNat b)) }).drive).completes f [] none) := by
  show execKeeperTableSet f (.data b) s = _
  rw [execKeeperTableSet, State.perform_accepts accepted, State.dmaIn_data (size.trans len.symm), if_neg (not_not_intro size)]
  dsimp only
  rw [sound]
  rfl

/-! ### The mailboxes through entry into keeper mode -/

/-- The mailboxes and their tables. -/
def State.mboxes (s : State) : Map Mbox := s.hub.mbox

theorem State.mboxes_resetCluster (s : State) (c : ClusterId) : (s.resetCluster c).mboxes = s.mboxes := rfl

theorem State.mboxes_resetSection (s : State) (n : BitVec 4) : (s.resetSection n).mboxes = s.mboxes := by
  have clusters := foldl_keeps_view State.mboxes State.mboxes_resetCluster (sectClusters n) s
  unfold State.resetSection
  generalize sectClusters n = l at clusters ⊢
  exact clusters

theorem State.mboxes_loseContexts (s : State) : s.loseContexts.mboxes = s.mboxes := by
  have sections := foldl_keeps_view State.mboxes (fun a n => a.mboxes_resetSection n) allSections s
  unfold State.loseContexts
  generalize allSections = l at sections ⊢
  dsimp only [State.mboxes, State.abandon, State.updSpine, State.updHub, State.updEth] at sections ⊢
  exact sections

theorem State.mboxes_keeperHeld (s : State) : s.keeperHeld.mboxes = s.mboxes := State.mboxes_loseContexts _

theorem State.mboxes_keeperBack (s : State) : s.keeperBack.mboxes = s.mboxes := (congrArg State.mboxes s.keeperBack_offKeeper :)

theorem State.mbox_of_mboxes {s s' : State} (same : s'.mboxes = s.mboxes) (f : FuncId) : s'.mbox f = s.mbox f :=
  (congrArg (fun m : Map Mbox => m.getD f.toNat {}) same :)

theorem State.mbox_tellHosts (s : State) (f : FuncId) : s.tellHosts.mbox f = s.mbox f :=
  foldl_keeps_view (fun a : State => a.mbox f)
    (fun a p => by simp only [apply_ite (fun a : State => a.mbox f), State.mbox_raise, ite_self]) (List.range 4) s

/-- An answer leaves a mailbox where no command is pending. -/
theorem State.mbox_answer_idle {s : State} {f : FuncId} (idle : (s.mbox f).pend = false) (g : FuncId) (status : BitVec 16)
    (detail : DWord) (payload : List Byte) : (s.answer g status detail payload).mbox f = s.mbox f := by
  by_cases waits : (s.mbox g).pend = true
  · have other : f ≠ g := fun same => by rw [← same, idle] at waits; exact Bool.false_ne_true waits
    exact ((State.signalled_answer waits status detail payload).mbox f).trans (s.mbox_noted_other other status _)
  · rw [State.answer, if_pos waits]

theorem State.mbox_refuseCommands_idle {s : State} {f : FuncId} (idle : (s.mbox f).pend = false) :
    s.refuseCommands.mbox f = s.mbox f :=
  List.foldlRecOn (motive := fun a : State => a.mbox f = s.mbox f) s.hub.order _ rfl fun _ same g _ =>
    (State.mbox_answer_idle ((congrArg Mbox.pend same).trans idle) g KEEPER_MODE 0 []).trans same

/-- A mailbox whose command is answered stands through entry into keeper mode. -/
theorem State.mbox_keeperEnter_idle {s : State} {f : FuncId} (idle : (s.mbox f).pend = false) (running : s.keeper.running = true)
    (normal : s.keeper.keeper = false) (alive : s.clk.dead = false) (cause : Byte) : (s.keeperEnter cause).mbox f = s.mbox f := by
  have held := State.mbox_of_mboxes (s.keeperBack.mboxes_keeperHeld.trans s.mboxes_keeperBack) f
  rw [State.keeperEnter_eq running normal alive]
  generalize s.keeperBack.keeperHeld = h at held ⊢
  have told : (h.keeperMarked cause).tellHosts.mbox f = s.mbox f := (State.mbox_tellHosts _ f).trans held
  generalize (h.keeperMarked cause).tellHosts = t at told ⊢
  have refused := (State.mbox_refuseCommands_idle ((congrArg Mbox.pend told).trans idle)).trans told
  obtain ⟨d, l, driven⟩ := t.refuseCommands.drive_eq
  rw [driven]
  exact refused

/-- KEEPER_ENTER with its key: OK is answered, then keeper mode is entered with cause 5. -/
theorem exec_keeperEnter {s : State} {f : FuncId} (accepted : s.accepts f 0x0A02 = true) (key : s.arg f 0x10 4 = 0x4B454550) :
    exec (.keeperEnter f) s = .next ((s.completes f [] none).keeperEnter 5) := by
  have waits := State.pend_of_accepts accepted
  obtain ⟨pend, -, status, -⟩ := State.completes_spec waits [] none
  have performed : s.perform f 0x0A02 true (if s.arg f 0x10 4 == 0x4B454550 then .done s else .bad BAD_ARG 0x10) = s.completes f [] none := by
    rw [State.perform_accepts accepted, key]
    rfl
  show execKeeperEnter f s = _
  rw [execKeeperEnter, performed, waits, State.op_of_accepts accepted, pend, status, if_pos (by decide)]

theorem answers_keeperEnter {s : State} {f : FuncId} (accepted : s.accepts f 0x0A02 = true) (key : s.arg f 0x10 4 = 0x4B454550)
    (running : s.keeper.running = true) (alive : s.clk.dead = false) : Answers (.keeperEnter f) s fun s' =>
      (s'.mbox f).done = true ∧ (s'.mbox f).status = OK ∧ s'.keeper.keeper = true ∧ s'.keeper.cause = 5 := by
  obtain ⟨pend, done, status, rest⟩ := State.completes_spec (State.pend_of_accepts accepted) [] none
  have running' : (s.completes f [] none).keeper.running = true := (congrArg (·.keeper.running) rest :).trans running
  have normal := State.normal_of_fwRuns (State.runs_of_accepts accepted)
  have normal' : (s.completes f [] none).keeper.keeper = false := (congrArg (·.keeper.keeper) rest :).trans normal
  have alive' : (s.completes f [] none).clk.dead = false := (congrArg (·.clk.dead) rest :).trans alive
  have mbox := State.mbox_keeperEnter_idle pend running' normal' alive' 5
  obtain ⟨entered, cause, -⟩ := State.keeperEntered_keeperEnter running' normal' alive' 5
  exact ⟨_, exec_keeperEnter accepted key, (congrArg Mbox.done mbox).trans done, (congrArg Mbox.status mbox).trans status, entered, cause⟩

/-! ## ROUTE_EPOCH -/

theorem exec_routeEpoch {s : State} {f : FuncId} (accepted : s.accepts f 0x0805 = true) (fresh : s.stale = false)
    (clear : ((List.range 16).all fun r => (List.range 16).all fun d =>
      !(BitVec.ofNat 64 (s.arg f (0x10 + 8 * r) 8)).getLsbD (4 * d + 3)) = true)
    (sound : tablesOk (fun r => BitVec.ofNat 64 (s.arg f (0x10 + 8 * r) 8)) = true) :
    exec (.routeEpoch f) s = .next ((s.newTables fun r => BitVec.ofNat 64 (s.arg f (0x10 + 8 * r) 8)).completes f
      (leBytes 1 (if (s.newTables fun r => BitVec.ofNat 64 (s.arg f (0x10 + 8 * r) 8)).spine.cur then 1 else 0)) none) := by
  show execRouteEpoch f s = _
  rw [execRouteEpoch, State.perform_accepts accepted, State.routeEpoch]
  dsimp only
  rw [fresh, if_neg Bool.false_ne_true, if_pos (by rw [clear, sound]; rfl)]
  rfl

/-- Settles O46, command by command: each clause is the row's body at the checks that the hypotheses pass. -/
theorem deviceCommandsComplete : Obligations.DeviceCommandsComplete := by
  intro f s
  refine ⟨fun acc => ⟨exec_devInfo acc, s.length_devInfo f, s.devInfo_names f⟩, exec_devHealth,
    fun b acc len fits => exec_fwStage acc len fits, answers_fwActivate, fun acc => ⟨fun free => ?free, fun disciplined => ?disciplined⟩,
    answers_timeSource_free, answers_tickSet, fun b acc len size sound => exec_keeperTableSet acc len size sound, answers_keeperEnter,
    fun acc fresh => exec_routeEpoch acc fresh⟩
  case free => rw [exec_timeSet acc, if_neg (not_not_intro free)]; rfl
  case disciplined => rw [exec_timeSet acc, if_pos disciplined]

end Sys2Proof.Machine
end

section
/-! PROOFS. The commands of process I/O: rules, templates and gate lists (13 R394, 14 R406, R411, R414). -/

namespace Sys2Proof.Machine

/-! ## The rights on a slot -/

/-- The context of a command of process I/O that its caller owns or administers. -/
def State.ioMine (s : State) (f : FuncId) : Bool :=
  decide (s.arg f 0x12 2 < 8192) && (s.ctx (s.argCtx f 0x12)).state != FREE &&
    ((s.ctx (s.argCtx f 0x12)).owner == f || f == s.hub.admin)

/-- The checks of 13 R394 pass for the caller's own context, on a slot that is free, or its own or the administrator's to take, and
outside every deckle. -/
theorem State.ioTarget_passes {s : State} {f : FuncId} (mine : s.ioMine f = true) {slot : Option CtxId}
    (clear : ∀ y, slot = some y → (s.caux y).deckle = false ∧ (y = s.argCtx f 0x12 ∨ f = s.hub.admin)) (k : CtxId → Reply) :
    s.ioTarget f slot k = k (s.argCtx f 0x12) := by
  obtain ⟨live, may⟩ := Bool.and_eq_true_iff.mp mine
  have right : (!(f == s.hub.admin) && !(true && (s.ctx (s.argCtx f 0x12)).owner == f)) = false := by
    rcases Bool.or_eq_true_iff.mp may with own | adm
    · simp [own]
    · simp [adm]
  unfold State.ioTarget
  dsimp only
  rw [live, right]
  cases slot with
  | none => simp
  | some y =>
    obtain ⟨outside, own⟩ := clear y rfl
    have mineOrAdm : (!(f == s.hub.admin) && (y != s.argCtx f 0x12)) = false := by
      rcases own with same | adm
      · simp [same]
      · simp [adm]
    simp [outside, mineOrAdm]

/-! ## Rules -/

theorem firstBad_ok {ok : Bool} (good : ok = true) (o : Nat) (l : List (Bool × Nat)) : firstBad ((ok, o) :: l) = firstBad l := if_pos good

theorem answers_ioRuleSet {s : State} {f : FuncId} (accepted : s.accepts f 0x0701 = true) (mine : s.ioMine f = true)
    (clear : ∀ y, (s.argRule f).map (·.owner) = some y → (s.caux y).deckle = false ∧ (y = s.argCtx f 0x12 ∨ f = s.hub.admin))
    (op : s.arg f 0x10 1 = 0)
    (sound : firstBad (s.ruleChecks (s.argCtx f 0x12)
      { raw := BitVec.ofNat 512 (s.arg f 0x18 64), owner := s.argCtx f 0x12, lastSc := s.scnt }) = none) :
    Answers (.ioRuleSet f) s fun s' =>
      (∃ r, s'.eth.rules.find (s.arg f 8 2) = some r ∧ r.raw = BitVec.ofNat 512 (s.arg f 0x18 64) ∧ r.owner = s.argCtx f 0x12) ∧
        (s'.mbox f).status = OK ∧ { s' with eth := s.eth, hub := s.hub, out := s.out } = s := by
  let r : Rule := { raw := BitVec.ofNat 512 (s.arg f 0x18 64), owner := s.argCtx f 0x12, lastSc := s.scnt }
  let t := s.updEth fun e => { e with rules := e.rules.set (s.arg f 8 2) r }
  have run : exec (.ioRuleSet f) s = .next (t.completes f [] none) := by
    show execIoRuleSet f s = _
    rw [execIoRuleSet, State.perform_selected accepted (by rw [op]; rfl), State.ioTarget_passes mine clear,
      checked_none ((firstBad_ok (by rw [op]; rfl) _ _).trans sound)]
    rfl
  refine answers_completes run (State.pend_of_accepts accepted) fun s' rest status => ⟨⟨r, ?_, rfl, rfl⟩, status,
    (congrArg (fun a : State => { a with eth := s.eth, hub := s.hub, out := s.out }) rest :)⟩
  exact (congrArg (fun a : State => a.eth.rules.find (s.arg f 8 2)) rest).trans (Map.find_set_same _ _ _)

theorem answers_ioRuleClear {s : State} {f : FuncId} (accepted : s.accepts f 0x0701 = true) (mine : s.ioMine f = true)
    (clear : ∀ y, (s.argRule f).map (·.owner) = some y → (s.caux y).deckle = false ∧ (y = s.argCtx f 0x12 ∨ f = s.hub.admin))
    (op : s.arg f 0x10 1 = 1) : Answers (.ioRuleClear f) s fun s' =>
      s'.eth.rules.find (s.arg f 8 2) = none ∧ (s'.mbox f).status = OK ∧
        { s' with eth := s.eth, hub := s.hub, out := s.out } = s := by
  let t := s.updEth fun e => { e with rules := e.rules.erase (s.arg f 8 2) }
  have run : exec (.ioRuleClear f) s = .next (t.completes f [] none) := by
    show execIoRuleClear f s = _
    rw [execIoRuleClear, State.perform_selected accepted (by rw [op]; rfl), State.ioTarget_passes mine clear]
    rfl
  refine answers_completes run (State.pend_of_accepts accepted) fun s' rest status => ⟨?_, status,
    (congrArg (fun a : State => { a with eth := s.eth, hub := s.hub, out := s.out }) rest :)⟩
  exact (congrArg (fun a : State => a.eth.rules.find (s.arg f 8 2)) rest).trans (Map.find_erase_same _ _)

/-! ## Templates -/

theorem answers_ioTemplateSet {s : State} {f : FuncId} (accepted : s.accepts f 0x0702 = true) (mine : s.ioMine f = true)
    (clear : ∀ y, (s.argTemplate f).map (·.owner) = some y → (s.caux y).deckle = false ∧ (y = s.argCtx f 0x12 ∨ f = s.hub.admin))
    (op : s.arg f 0x10 1 = 0)
    (sound : firstBad (s.templateChecks (s.arg f 8 2)
      { raw := BitVec.ofNat 1024 (s.arg f 0x18 128), owner := s.argCtx f 0x12 }) = none) :
    Answers (.ioTemplateSet f) s fun s' =>
      (∃ t, s'.eth.templates.find (s.arg f 8 2) = some t ∧ t.raw = BitVec.ofNat 1024 (s.arg f 0x18 128) ∧
        t.owner = s.argCtx f 0x12 ∧ t.staged = none) ∧
        (s'.mbox f).status = OK ∧ { s' with eth := s.eth, hub := s.hub, out := s.out } = s := by
  let tpl (granted : Bool) : Template :=
    { raw := BitVec.ofNat 1024 (s.arg f 0x18 128), owner := s.argCtx f 0x12, granted := granted }
  let t (granted : Bool) := (s.updEth (·.discard fun k _ => k == s.arg f 8 2)).setTpl (s.arg f 8 2) (tpl granted)
  obtain ⟨granted, run⟩ : ∃ granted, exec (.ioTemplateSet f) s = .next ((t granted).completes f [] none) := by
    apply Exists.intro
    show execIoTemplateSet f s = _
    rw [execIoTemplateSet, State.perform_selected accepted (by rw [op]; rfl), State.ioTarget_passes mine clear]
    dsimp only
    rw [checked_none ((firstBad_ok (by rw [op]; rfl) _ _).trans sound)]
    rfl
  refine answers_completes run (State.pend_of_accepts accepted) fun s' rest status => ⟨⟨tpl granted, ?_, rfl, rfl, rfl⟩, status,
    (congrArg (fun a : State => { a with eth := s.eth, hub := s.hub, out := s.out }) rest :)⟩
  exact (congrArg (fun a : State => a.eth.templates.find (s.arg f 8 2)) rest).trans (Map.find_set_same _ _ _)

theorem answers_ioTemplateClear {s : State} {f : FuncId} (accepted : s.accepts f 0x0702 = true) (mine : s.ioMine f = true)
    (clear : ∀ y, (s.argTemplate f).map (·.owner) = some y → (s.caux y).deckle = false ∧ (y = s.argCtx f 0x12 ∨ f = s.hub.admin))
    (op : s.arg f 0x10 1 = 1) : Answers (.ioTemplateClear f) s fun s' =>
      s'.eth.templates.find (s.arg f 8 2) = none ∧ (s'.mbox f).status = OK ∧
        { s' with eth := s.eth, hub := s.hub, out := s.out } = s := by
  let n := s.arg f 8 2
  let t := (s.updEth (·.discard fun k _ => k == n)).updEth fun e => { e with templates := e.templates.erase n }
  have run : exec (.ioTemplateClear f) s = .next (t.completes f [] none) := by
    show execIoTemplateClear f s = _
    rw [execIoTemplateClear, State.perform_selected accepted (by rw [op]; rfl), State.ioTarget_passes mine clear]
    rfl
  refine answers_completes run (State.pend_of_accepts accepted) fun s' rest status => ⟨?_, status,
    (congrArg (fun a : State => { a with eth := s.eth, hub := s.hub, out := s.out }) rest :)⟩
  exact (congrArg (fun a : State => a.eth.templates.find n) rest).trans (Map.find_erase_same _ _)

/-! ## Gate lists -/

/-- Where `p` accepts no number looked at, none is found. -/
theorem leastFrom_eq_none {p : Nat → Bool} {n i : Nat} (none_ : ∀ k, k < i + n → p k = false) : leastFrom p n i = none := by
  induction n generalizing i with
  | zero => rfl
  | succ n ih =>
    rw [leastFrom, none_ i (by omega), if_neg Bool.false_ne_true]
    exact ih fun k below => none_ k (by omega)

theorem least_eq_none {p : Nat → Bool} {n : Nat} (none_ : ∀ k, k < n → p k = false) : least n p = none :=
  leastFrom_eq_none fun k below => none_ k (by omega)

/-- The first cycle start at or after both BASETIME and now (14 R414). -/
def State.gateStart (s : State) (f : FuncId) : DWord :=
  let base : DWord := BitVec.ofNat 64 (s.arg f 0x20 8)
  if 0 ≤ (base - s.tb.now).toInt then base else instantFrom base s.tb.now (s.arg f 0x28 4)

/-- The gate list that the command gives. -/
def State.gateList (s : State) (f : FuncId) (b : List Byte) : GateList :=
  { base := BitVec.ofNat 64 (s.arg f 0x20 8), cycle := BitVec.ofNat 32 (s.arg f 0x28 4),
    entries := (List.range (s.arg f 0x2C 2)).map (gateEntry b) }

/-- A list whose entries keep their rules, and fill the cycle, waits for its start. -/
theorem State.gateSet_ok {s : State} {f : FuncId} {b : List Byte} (low : 1000 ≤ s.arg f 0x28 4) (high : s.arg f 0x28 4 ≤ 1000000000)
    (some_ : 1 ≤ s.arg f 0x2C 2) (most : s.arg f 0x2C 2 ≤ 256) (size : b.length = 8 * s.arg f 0x2C 2)
    (sound : ∀ k, k < s.arg f 0x2C 2 → gateEntryOk b k = true)
    (full : (((List.range (s.arg f 0x2C 2)).map (gateEntry b)).map fun e => e.2.toNat).sum = s.arg f 0x28 4) :
    s.gateSet f b = .done (s.updEthPort (BitVec.ofNat 2 (s.arg f 8 1)) fun e =>
      { e with pendingList := some (s.gateList f b, s.gateStart f) }) := by
  have noBad : least (s.arg f 0x2C 2) (fun k => !gateEntryOk b k) = none :=
    least_eq_none fun k below => by rw [sound k below]; rfl
  unfold State.gateSet
  dsimp only
  rw [checked_none (by simp [firstBad, low, high, some_, most, size]), noBad]
  exact if_neg (not_not_intro full)

theorem answers_ioGateSet {s : State} {f : FuncId} {b : List Byte} (accepted : s.accepts f 0x0703 = true)
    (len : b.length = s.arg f 0x18 4) (low : 1000 ≤ s.arg f 0x28 4) (high : s.arg f 0x28 4 ≤ 1000000000)
    (some_ : 1 ≤ s.arg f 0x2C 2) (most : s.arg f 0x2C 2 ≤ 256) (size : b.length = 8 * s.arg f 0x2C 2)
    (sound : ∀ k, k < s.arg f 0x2C 2 → gateEntryOk b k = true)
    (full : (((List.range (s.arg f 0x2C 2)).map (gateEntry b)).map fun e => e.2.toNat).sum = s.arg f 0x28 4) :
    Answers (.ioGateSet f (.data b)) s fun s' =>
      (∃ l t, (s'.ethPort (BitVec.ofNat 2 (s.arg f 8 1))).pendingList = some (l, t) ∧
        l.entries = (List.range (s.arg f 0x2C 2)).map (gateEntry b) ∧
        l.cycle = BitVec.ofNat 32 (s.arg f 0x28 4) ∧ l.base = BitVec.ofNat 64 (s.arg f 0x20 8)) ∧ (s'.mbox f).status = OK ∧
        { s' with eth := s.eth, hub := s.hub, out := s.out } = s := by
  let p := BitVec.ofNat 2 (s.arg f 8 1)
  let waits (e : EthPort) : EthPort := { e with pendingList := some (s.gateList f b, s.gateStart f) }
  have run : exec (.ioGateSet f (.data b)) s = .next ((s.updEthPort p waits).completes f [] none) := by
    show execIoGateSet f (.data b) s = _
    rw [execIoGateSet, State.perform_accepts accepted, State.dmaIn_data len,
      State.gateSet_ok low high some_ most size sound full]
    rfl
  refine answers_completes run (State.pend_of_accepts accepted) fun s' rest status =>
    ⟨⟨s.gateList f b, s.gateStart f, ?_, rfl, rfl, rfl⟩, status,
      (congrArg (fun a : State => { a with eth := s.eth, hub := s.hub, out := s.out }) rest :)⟩
  calc (s'.ethPort p).pendingList = ((s.updEthPort p waits).ethPort p).pendingList :=
        (congrArg (fun a : State => (a.ethPort p).pendingList) rest :)
    _ = some (s.gateList f b, s.gateStart f) := by rw [State.ethPort_updEthPort_same]

/-- Settles O49: the rights on a slot by `State.ioTarget_passes`, and each row's write where its content checks pass. -/
theorem ethernetCommandsComplete : Obligations.EthernetCommandsComplete := by
  intro f s
  exact ⟨fun mine clear acc => ⟨fun op sound => answers_ioRuleSet acc mine clear op sound, fun op => answers_ioRuleClear acc mine clear op⟩,
    fun mine clear acc => ⟨fun op sound => answers_ioTemplateSet acc mine clear op sound,
      fun op => answers_ioTemplateClear acc mine clear op⟩,
    fun b acc len low high some_ most size sound full => answers_ioGateSet acc len low high some_ most size sound full⟩

end Sys2Proof.Machine
end

section
/-! PROOFS. The commands of a debugger (04 R118, R120, R122, 13 R399, R400). -/

namespace Sys2Proof.Machine

/-! ## Attaching -/

theorem exec_dbgAttach {s : State} {f : FuncId} (served : s.serves f = true) (accepted : s.accepts f 0x0B01 = true)
    (op : s.arg f 0x10 1 = 0) (free : (s.caux (s.argCtx f 8)).debugger = none ∨ (s.caux (s.argCtx f 8)).debugger = some f) :
    exec (.dbgAttach f) s = .next ((s.updAux (s.argCtx f 8) fun u => { u with debugger := some f }).completes f [] none) := by
  have noOther : ¬ ((s.caux (s.argCtx f 8)).debugger.isSome = true ∧ (s.caux (s.argCtx f 8)).debugger ≠ some f) := by
    rcases free with none_ | mine
    · simp [none_]
    · simp [mine]
  show execDbgAttach f s = _
  rw [execDbgAttach, State.perform_selected accepted (by rw [op]; rfl), State.ctxTarget_serves served, if_neg noOther,
    if_neg (not_not_intro op)]
  rfl

theorem exec_dbgDetach {s : State} {f : FuncId} (served : s.serves f = true) (accepted : s.accepts f 0x0B01 = true)
    (op : s.arg f 0x10 1 = 1) (mine : (s.caux (s.argCtx f 8)).debugger = some f) :
    exec (.dbgDetach f) s = .next ((s.detach (s.argCtx f 8)).completes f [] none) := by
  show execDbgDetach f s = _
  rw [execDbgDetach, State.perform_selected accepted (by rw [op]; rfl), State.ctxTarget_serves served, if_neg (not_not_intro mine)]
  rfl

/-- A debugger that is attached passes the checks on the context. -/
theorem State.dbgTarget_attached {s : State} {f : FuncId} (served : s.serves f = true)
    (mine : (s.caux (s.argCtx f 8)).debugger = some f) (k : CtxId → Reply) : s.dbgTarget f k = k (s.argCtx f 8) := by
  rw [State.dbgTarget, State.ctxTarget_serves served, if_pos mine]

/-! ## Stopping -/

/-- A task that leaves its ready list keeps its descriptor. -/
theorem State.task_unready (s : State) (c : ClusterId) (d : BitVec 10) : ((s.unready c d).cluster c).task d = (s.cluster c).task d := by
  simp [State.unready, State.emptySlots, Cluster.task]

/-- A task that no thread holds, stopped at once (13 R399). -/
def State.stopAlone (s : State) (c : ClusterId) (d : BitVec 10) : State :=
  (s.unready c d).updTask c d fun k => { k with state := STOPPEDT, prev := k.state }

theorem State.task_stopAlone (s : State) (c : ClusterId) (d : BitVec 10) :
    ((s.stopAlone c d).cluster c).task d =
      { (s.cluster c).task d with state := STOPPEDT, prev := ((s.cluster c).task d).state } := by
  rw [State.stopAlone, State.task_updTask_same, State.task_unready]

theorem State.mem_stopAlone (s : State) (c : ClusterId) (d : BitVec 10) : (s.stopAlone c d).mem = s.mem := by
  rw [State.stopAlone, State.updTask_mem, State.unready_mem]

theorem State.ctxs_stopAlone (s : State) (c : ClusterId) (d : BitVec 10) : (s.stopAlone c d).ctxs = s.ctxs := rfl

/-- DBG_STOP of one task that no thread holds stops it at once. -/
theorem State.dbgStop_alone {s : State} {f : FuncId} {x : CtxId} {c : ClusterId} {d : BitVec 10} (sel : s.arg f 0x10 1 = 0)
    (found : s.findTask x (BitVec.ofNat 16 (s.arg f 0x12 2)) = some (c, d)) (alone : s.threadOfTask c d = none)
    (running : ((s.cluster c).task d).state ≠ STOPPEDT) (sound : ((s.cluster c).task d).state ≠ FAULTED) :
    s.dbgStop f x = .done (s.stopAlone c d) := by
  have stops : s.dbgStopTask c d = s.stopAlone c d := by
    rw [State.dbgStopTask, if_neg (not_or.mpr ⟨running, sound⟩), alone]
    rfl
  have alone' : (s.stopAlone c d).threadOfTask c d = none := alone
  have stopped : (s.stopAlone c d).taskStopped c d = true := by
    rw [State.taskStopped, alone', State.task_stopAlone]
    rfl
  rw [State.dbgStop, sel, found]
  dsimp only
  rw [if_neg sound, stops, if_pos stopped]
  rfl

/-- The state in which DBG_STOP is performed: what had stopped before it is noted as it begins. -/
def State.stopNoted (s : State) (f : FuncId) (x : CtxId) : State :=
  if (s.mbox f).begun then s else s.updMbox f fun m => { m with stopped := s.stoppedWork x }

/-- The note changes the mailbox, and there neither the command nor that it waits. -/
theorem State.stopNoted_spec (s : State) (f : FuncId) (x : CtxId) :
    (s.stopNoted f x).offHub = s.offHub ∧ ((s.stopNoted f x).mbox f).pend = (s.mbox f).pend ∧
      ((s.stopNoted f x).mbox f).latched = (s.mbox f).latched := by
  unfold State.stopNoted
  split
  · exact ⟨rfl, rfl, rfl⟩
  · have noted := s.mbox_updMbox_same f fun m => { m with stopped := s.stoppedWork x }
    exact ⟨s.offHub_updMbox f _, (congrArg Mbox.pend noted :), (congrArg Mbox.latched noted :)⟩

theorem answers_dbgStop_alone {s : State} {f : FuncId} {c : ClusterId} {d : BitVec 10} (served : s.serves f = true)
    (mine : (s.caux (s.argCtx f 8)).debugger = some f) (accepted : s.accepts f 0x0B02 = true) (sel : s.arg f 0x10 1 = 0)
    (found : s.findTask (s.argCtx f 8) (BitVec.ofNat 16 (s.arg f 0x12 2)) = some (c, d)) (alone : s.threadOfTask c d = none)
    (running : ((s.cluster c).task d).state ≠ STOPPEDT) (sound : ((s.cluster c).task d).state ≠ FAULTED) :
    Answers (.dbgStop f) s fun s' =>
      ((s'.cluster c).task d).state = STOPPEDT ∧ ((s'.cluster c).task d).prev = ((s.cluster c).task d).state ∧
        (s'.mbox f).status = OK ∧ s'.mem = s.mem ∧ s'.ctxs = s.ctxs := by
  let x := s.argCtx f 8
  obtain ⟨rest, pend, latched⟩ := s.stopNoted_spec f x
  have run : exec (.dbgStop f) s = .next (s.settle f ((s.stopNoted f x).dbgStop f x)) := by
    show execDbgStop f s = _
    rw [execDbgStop, State.perform_accepts accepted, State.dbgTarget_attached served mine]
    rfl
  generalize s.stopNoted f x = noted at rest pend latched run
  have args (o n : Nat) : noted.arg f o n = s.arg f o n := by
    unfold State.arg Mbox.request
    rw [latched]
  have task : (noted.cluster c).task d = (s.cluster c).task d := (congrArg (fun a : State => (a.cluster c).task d) rest :)
  have found' : noted.findTask x (BitVec.ofNat 16 (noted.arg f 0x12 2)) = some (c, d) := by
    rw [args]
    exact (congrArg (·.findTask x (BitVec.ofNat 16 (s.arg f 0x12 2))) rest).trans found
  rw [State.dbgStop_alone ((args _ _).trans sel) found' ((congrArg (·.threadOfTask c d) rest).trans alone) (by rwa [task])
    (by rwa [task])] at run
  refine answers_completes (t := noted.stopAlone c d) (payload := []) (out := none) run
    (pend.trans (State.pend_of_accepts accepted)) fun s' same status => ?_
  have stopped : (s'.cluster c).task d = { (s.cluster c).task d with state := STOPPEDT, prev := ((s.cluster c).task d).state } := by
    rw [← task, ← noted.task_stopAlone]
    exact (congrArg (fun a : State => (a.cluster c).task d) same :)
  exact ⟨by rw [stopped], by rw [stopped], status,
    (congrArg State.mem same).trans ((noted.mem_stopAlone c d).trans (congrArg State.mem rest :)),
    (congrArg State.ctxs same).trans ((noted.ctxs_stopAlone c d).trans (congrArg State.ctxs rest :))⟩

/-! ## Resuming and reading -/

theorem exec_dbgResume_task {s : State} {f : FuncId} {c : ClusterId} {d : BitVec 10} (served : s.serves f = true)
    (mine : (s.caux (s.argCtx f 8)).debugger = some f) (accepted : s.accepts f 0x0B03 = true) (sel : s.arg f 0x10 1 = 0)
    (found : s.findTask (s.argCtx f 8) (BitVec.ofNat 16 (s.arg f 0x12 2)) = some (c, d))
    (stopped : ((s.cluster c).task d).state = STOPPEDT) :
    exec (.dbgResume f) s = .next ((s.resumeTask c d).completes f [] none) := by
  show execDbgResume f s = _
  rw [execDbgResume, State.perform_accepts accepted, State.dbgTarget_attached served mine, State.dbgResume, sel, found]
  dsimp only
  rw [if_neg (not_not_intro stopped)]
  rfl

theorem exec_dbgRead_task {s : State} {f : FuncId} {c : ClusterId} {d : BitVec 10} (served : s.serves f = true)
    (mine : (s.caux (s.argCtx f 8)).debugger = some f) (accepted : s.accepts f 0x0B04 = true) (what : s.arg f 0x20 1 = 0)
    (found : s.findTask (s.argCtx f 8) (BitVec.ofNat 16 (s.arg f 0x22 2)) = some (c, d)) (stopped : s.taskStopped c d = true) :
    exec (.dbgRead f) s = .next (s.completes f [] (some ((s.cluster c).descriptor d))) := by
  show execDbgRead f s = _
  rw [execDbgRead, State.perform_accepts accepted, State.dbgTarget_attached served mine, State.dbgRead, what, found]
  dsimp only
  rw [if_pos stopped]
  rfl

theorem length_flatMap_leBytes {α : Type} (l : List α) (n : Nat) (g : α → Nat) :
    (l.flatMap fun i => leBytes n (g i)).length = l.length * n := by
  simp [List.length_flatMap]

/-- A descriptor is 256 bytes (04 R118). -/
theorem Cluster.length_descriptor (cl : Cluster) (d : BitVec 10) : (cl.descriptor d).length = 256 := by
  simp only [Cluster.descriptor, bnkBytes, regBytes, List.length_append, length_leBytes, length_flatMap_leBytes, List.length_range]

/-- Settles O51, command by command: each clause is the row's body at the checks that the hypotheses pass. -/
theorem debuggersAttachStopReadAndResume : Obligations.DebuggersAttachStopReadAndResume := by
  intro f s served
  exact ⟨fun acc => ⟨exec_dbgAttach served acc, exec_dbgDetach served acc⟩,
    fun mine => ⟨fun c d acc sel found alone running sound => answers_dbgStop_alone served mine acc sel found alone running sound,
      fun c d acc sel found _ stopped => exec_dbgResume_task served mine acc sel found stopped,
      fun c d acc what found stopped => ⟨exec_dbgRead_task served mine acc what found stopped, Cluster.length_descriptor _ d⟩⟩⟩

end Sys2Proof.Machine
end

section
/-! PROOFS. The commands of observation, of section fences and repair, and of the background tests (11 R335, 13 R395-R398, 16 R444,
R450). -/

namespace Sys2Proof.Machine

/-! ## Bytes of a payload -/

theorem leNat_leBytes {n v : Nat} (small : v < 256 ^ n) : leNat (leBytes n v) = v := by
  induction n generalizing v with
  | zero => simp_all [leBytes, leNat]
  | succ n ih =>
    have rest : v / 256 < 256 ^ n := by rw [Nat.div_lt_iff_lt_mul (by decide)]; rwa [pow_succ] at small
    rw [leBytes, leNat, ih rest, BitVec.toNat_ofNat]
    omega

theorem rdLe_append_left {a b : List Byte} {o n : Nat} (inside : o + n ≤ a.length) : rdLe (a ++ b) o n = rdLe a o n := by
  rw [rdLe, rdLe, List.drop_append_of_le_length (by omega), List.take_append_of_le_length (by rw [List.length_drop]; omega)]

theorem rdLe_append_right (a b : List Byte) (o n : Nat) : rdLe (a ++ b) (a.length + o) n = rdLe b o n := by
  rw [rdLe, rdLe, List.drop_append, List.drop_eq_nil_of_le (by omega), List.nil_append, Nat.add_sub_cancel_left]

/-- Registers of 16 bits, one after the other. -/
def regTable (g : Nat → BitVec 16) (k : Nat) : List Byte := (List.range k).flatMap fun i => leBytes 2 (g i).toNat

@[simp] theorem length_regTable (g : Nat → BitVec 16) (k : Nat) : (regTable g k).length = 2 * k := by
  rw [regTable, length_flatMap_leBytes, List.length_range, Nat.mul_comm]

theorem rdLe_regTable {g : Nat → BitVec 16} {i k : Nat} (inside : i < k) : rdLe (regTable g k) (2 * i) 2 = (g i).toNat := by
  have more (k : Nat) : regTable g (k + 1) = regTable g k ++ leBytes 2 (g k).toNat := by
    simp [regTable, List.range_succ]
  induction k with
  | zero => exact absurd inside (Nat.not_lt_zero i)
  | succ k ih =>
    rw [more]
    rcases Nat.lt_succ_iff_lt_or_eq.mp inside with before | rfl
    · rw [rdLe_append_left (by rw [length_regTable]; omega), ih before]
    · have last := rdLe_append_right (regTable g i) (leBytes 2 (g i).toNat) 0 2
      rw [length_regTable, Nat.add_zero] at last
      rw [last, rdLe, List.drop_zero, List.take_of_length_le (length_leBytes 2 _).le, leNat_leBytes (g i).isLt]

/-! ## MON_READ -/

/-- The part without the ring oscillators' counts and the instants of conversions. -/
def State.offProc (s : State) : State := { s with free := 0, mon := { s.mon with proc := [], last := [] } }

theorem State.offProc_convertProc (s : State) : s.convertProc.offProc = s.offProc := by
  unfold State.convertProc
  (repeat' split) <;> rfl

/-- The payload of MON_READ: 38 temperatures, 24 voltages, 20 counts, and 4 bytes of zero (13 R396). -/
def State.readings (s : State) : List Byte := regTable s.tempOf 38 ++ regTable s.voltOf 24 ++ regTable s.procOf 20 ++ [0, 0, 0, 0]

theorem State.length_readings (s : State) : s.readings.length = 168 := by simp [State.readings]

theorem State.rdLe_readings (s : State) :
    (∀ i, i < 38 → rdLe s.readings (2 * i) 2 = (s.tempOf i).toNat) ∧ (∀ i, i < 24 → rdLe s.readings (76 + 2 * i) 2 = (s.voltOf i).toNat) ∧
      (∀ i, i < 20 → rdLe s.readings (124 + 2 * i) 2 = (s.procOf i).toNat) := by
  have split : s.readings = regTable s.tempOf 38 ++ (regTable s.voltOf 24 ++ (regTable s.procOf 20 ++ [0, 0, 0, 0])) := by
    simp only [State.readings, List.append_assoc]
  have behindTemps (o : Nat) (b : List Byte) : rdLe (regTable s.tempOf 38 ++ b) (76 + o) 2 = rdLe b o 2 := by
    have skip := rdLe_append_right (regTable s.tempOf 38) b o 2
    rwa [length_regTable] at skip
  have behindVolts (o : Nat) (b : List Byte) : rdLe (regTable s.voltOf 24 ++ b) (48 + o) 2 = rdLe b o 2 := by
    have skip := rdLe_append_right (regTable s.voltOf 24) b o 2
    rwa [length_regTable] at skip
  rw [split]
  refine ⟨fun i inside => ?temp, fun i inside => ?volt, fun i inside => ?proc⟩
  case temp => rw [rdLe_append_left (by rw [length_regTable]; omega), rdLe_regTable inside]
  case volt => rw [behindTemps, rdLe_append_left (by rw [length_regTable]; omega), rdLe_regTable inside]
  case proc =>
    rw [show 124 + 2 * i = 76 + (48 + 2 * i) by omega, behindTemps, behindVolts,
      rdLe_append_left (by rw [length_regTable]; omega), rdLe_regTable inside]

theorem exec_monRead {s : State} {f : FuncId} (accepted : s.accepts f 0x0901 = true) :
    exec (.monRead f) s = .next (s.convertProc.completes f s.convertProc.readings none) := by
  have accepted' : s.convertProc.accepts f 0x0901 = true := (congrArg (·.accepts f 0x0901) s.offProc_convertProc :).trans accepted
  show execMonRead f s = _
  rw [execMonRead]
  dsimp only
  rw [State.perform_accepts accepted']
  rfl

theorem monRead_answers {s : State} {f : FuncId} (accepted : s.accepts f 0x0901 = true) :
    ∃ p : List Byte, exec (.monRead f) s = .next (s.convertProc.completes f p none) ∧ p.length = 168 ∧
      (∀ i, i < 38 → rdLe p (2 * i) 2 = (s.tempOf i).toNat) ∧ (∀ i, i < 24 → rdLe p (76 + 2 * i) 2 = (s.voltOf i).toNat) ∧
      (∀ i, i < 20 → rdLe p (124 + 2 * i) 2 = (s.convertProc.procOf i).toNat) := by
  have rest := s.offProc_convertProc
  obtain ⟨temps, volts, procs⟩ := s.convertProc.rdLe_readings
  refine ⟨_, exec_monRead accepted, s.convertProc.length_readings, fun i inside => (temps i inside).trans ?_,
    fun i inside => (volts i inside).trans ?_, procs⟩
  · exact (congrArg (fun a : State => (a.tempOf i).toNat) rest :)
  · exact (congrArg (fun a : State => (a.voltOf i).toNat) rest :)

/-! ## STATS_READ, PROBE_SET, TRACE_READ and DIAG_READ -/

theorem exec_statsRead_ring {s : State} {f : FuncId} (accepted : s.accepts f 0x0902 = true) (scope : s.arg f 0x20 1 = 2)
    (zero : s.arg f 8 2 = 0) (inside : s.arg f 0x22 2 ≤ 63) :
    exec (.statsRead f) s = .next (s.settle f (s.statReply f (s.ringRegs f (BitVec.ofNat 6 (s.arg f 0x22 2))))) := by
  have body : s.statsRead f = s.statReply f (s.ringRegs f (BitVec.ofNat 6 (s.arg f 0x22 2))) := by
    rw [State.statsRead, scope, zero]
    exact (if_neg (not_not_intro rfl)).trans (if_neg (Nat.not_lt.mpr inside))
  show execStatsRead f s = _
  rw [execStatsRead, State.perform_accepts accepted, body]

theorem answers_probeSet {s : State} {f : FuncId} (accepted : s.accepts f 0x0903 = true) (fits : s.arg f 0x10 4 < 2 ^ 14)
    (mode : s.arg f 0x10 4 / 2 % 4 ≠ 3) :
    let v (o : Nat) : DWord := BitVec.ofNat 64 (s.arg f o 8)
    let pr : Probe := { cfg := BitVec.ofNat 14 (s.arg f 0x10 4), hdr := v 0x18, tag := v 0x20, tagm := v 0x28 }
    Answers (.probeSet f) s fun s' => s'.spine.probes.find (s.arg f 8 1) = some pr ∧ (s'.mbox f).status = OK ∧
      { s' with spine := s.spine, hub := s.hub, out := s.out } = s := by
  intro v pr
  have run : exec (.probeSet f) s = .next ((s.updProbe (s.arg f 8 1) fun _ => pr).completes f [] none) := by
    show execProbeSet f s = _
    rw [execProbeSet]
    dsimp only
    rw [State.perform_accepts accepted, if_neg (by omega)]
    rfl
  refine answers_completes run (State.pend_of_accepts accepted) fun s' rest status => ⟨?_, status,
    (congrArg (fun a : State => { a with spine := s.spine, hub := s.hub, out := s.out }) rest :)⟩
  exact (congrArg (fun a : State => a.spine.probes.find (s.arg f 8 1)) rest).trans (Map.find_set_same _ _ _)

/-- The records that TRACE_READ takes are those that it drops. -/
theorem drop_length_take {α : Type} (k : Nat) (l : List α) : l.drop (l.take k).length = l.drop k := by
  rw [List.length_take]
  rcases Nat.le_total k l.length with few | many
  · rw [Nat.min_eq_left few]
  · rw [Nat.min_eq_right many, List.drop_length, List.drop_of_length_le many]

theorem answers_traceRead_chip {s : State} {f : FuncId} (accepted : s.accepts f 0x0904 = true) (source : s.arg f 0x20 1 = 0)
    (probe : s.arg f 0x21 1 ≤ 31) (off : s.mon.traceOn = false) :
    let k := min (s.arg f 0x24 4) (s.arg f 0x18 4 / 32)
    Answers (.traceRead f) s fun s' =>
      s'.spine.trace = s.spine.trace.drop k ∧ s'.spine.wrap = false ∧ (s'.mbox f).status = OK ∧ s'.mem = s.mem := by
  intro k
  let recs := s.spine.trace.take k
  let taken := s.updSpine fun n => { n with trace := n.trace.drop recs.length, wrap := false }
  obtain ⟨payload, run⟩ : ∃ payload, exec (.traceRead f) s =
      .next (taken.completes f payload (some (recs.flatMap fun r => leBytes 32 r.toNat))) := by
    apply Exists.intro
    show execTraceRead f s = _
    rw [execTraceRead, State.perform_accepts accepted, State.traceRead, checked_none (by simp [firstBad, source, probe]), source, off]
    rfl
  refine answers_completes run (State.pend_of_accepts accepted) fun s' rest status => ⟨?_, (congrArg (·.spine.wrap) rest :), status,
    (congrArg State.mem rest :)⟩
  exact (congrArg (·.spine.trace) rest).trans (drop_length_take k s.spine.trace)

theorem exec_diagRead {s : State} {f : FuncId} {e : Nat} (accepted : s.accepts f 0x0905 = true)
    (range : rangeEnd (s.arg f 0x20 8) = some e) (aligned : s.arg f 0x20 8 % 8 = 0) (some_ : 1 ≤ s.arg f 0x28 4)
    (most : s.arg f 0x28 4 ≤ 8192) (inside : s.arg f 0x20 8 + 8 * s.arg f 0x28 4 ≤ e) :
    exec (.diagRead f) s = .next (s.takeFree.completes f [] (some ((List.range (s.arg f 0x28 4)).flatMap fun i =>
      leBytes 8 (s.diagWord (s.arg f 0x20 8 + 8 * i)).toNat))) := by
  show execDiagRead f s = _
  rw [execDiagRead, State.perform_accepts accepted, State.diagRead, range]
  dsimp only
  rw [if_neg (not_not_intro aligned), if_neg (by omega)]
  rfl

/-! ## BTE_CONFIG -/

theorem exec_bteConfig_rates {s : State} {f : FuncId} (accepted : s.accepts f 0x0804 = true) (sram : s.arg f 0x10 4 ≤ 65536)
    (hbm : s.arg f 0x14 4 ≤ 1000000) (keeps : s.arg f 0x18 1 = 0xFF) :
    exec (.bteConfig f) s = .next ((s.updFw fun w =>
      { w with sramRate := BitVec.ofNat 32 (s.arg f 0x10 4), hbmRate := BitVec.ofNat 32 (s.arg f 0x14 4) }).completes f [] none) := by
  have newSram : s.arg f 0x10 4 ≠ 0xFFFFFFFF := by omega
  have newHbm : s.arg f 0x14 4 ≠ 0xFFFFFFFF := by omega
  show execBteConfig f s = _
  rw [execBteConfig, State.perform_accepts accepted, checked_none (by simp [firstBad, sram, hbm, keeps]), if_pos keeps]
  simp only [if_neg newSram, if_neg newHbm]
  rfl

/-! ## SECTION_FENCE -/

/-- A section fence that begins: its job stands, its section is being fenced, and the mailboxes are as they were. -/
theorem State.governed_fenceSection_begins {s : State} {n : BitVec 4} (serves : (s.sect n).svc = 0) (idle : s.fw.fenceJob = none)
    (cause : Byte) (asker : Option FuncId) :
    (s.fenceSection n cause asker).fw.fenceJob = some (n, asker) ∧ (s.fenceSection n cause asker).clk = (s.leaveAdmission n).clk ∧
      (s.fenceSection n cause asker).hub.mbox = s.hub.mbox := by
  have told := (s.leaveAdmission n).governed_adminEvent 0x0100 n.toNat (BitVec.setWidth 64 cause)
  unfold State.fenceSection
  rw [if_neg (not_not_intro serves), idle, Option.isSome_none, if_neg Bool.false_ne_true]
  dsimp only
  generalize (s.leaveAdmission n).adminEvent 0x0100 n.toNat (BitVec.setWidth 64 cause) = a at told ⊢
  generalize hb : a.updFw _ = b
  generalize b.planMoves (sectClusters n) = p
  obtain ⟨plan, taken⟩ := b.governed_takePlan p
  refine ⟨(congrArg (·.1.fenceJob) taken).trans ?_, (congrArg (·.2.1) taken).trans ?_, (congrArg (·.2.2) taken).trans ?_⟩
  · rw [← hb]
    rfl
  · rw [← hb]
    exact (congrArg (·.2.1) told :)
  · rw [← hb]
    exact (congrArg (·.2.2) told :)

theorem answers_sectionFence {s : State} {f : FuncId} (accepted : s.accepts f 0x0801 = true)
    (serves : (s.sect (BitVec.ofNat 4 (s.arg f 8 1))).svc = 0) (idle : s.fw.fenceJob = none)
    (fits : ((s.leaveAdmission (BitVec.ofNat 4 (s.arg f 8 1))).planMoves (sectClusters (BitVec.ofNat 4 (s.arg f 8 1)))).failed = []) :
    Answers (.sectionFence f) s fun s' =>
      (s'.sect (BitVec.ofNat 4 (s.arg f 8 1))).svc = 1 ∧ s'.fw.fenceJob = some (BitVec.ofNat 4 (s.arg f 8 1), some f) ∧
        (s'.mbox f).pend = true := by
  have run : exec (.sectionFence f) s = .next ((s.fenceSection (BitVec.ofNat 4 (s.arg f 8 1)) 1 (some f)).goesOn f) := by
    show execSectionFence f s = _
    rw [execSectionFence, State.perform_accepts accepted, State.sectionFence, idle, if_neg (fun no => nomatch no),
      if_neg (not_not_intro serves), Option.isSome_none, if_neg Bool.false_ne_true, fits, List.isEmpty_nil,
      if_neg (by decide), State.settle_later]
  generalize BitVec.ofNat 4 (s.arg f 8 1) = n at run serves ⊢
  obtain ⟨job, clk, mbox⟩ := State.governed_fenceSection_begins serves idle 1 (some f)
  generalize s.fenceSection n 1 (some f) = t at run job clk mbox
  have waits : (t.mbox f).pend = true :=
    (congrArg (fun m : Map Mbox => (m.getD f.toNat {}).pend) mbox).trans (State.pend_of_accepts accepted)
  have fenced : (s.leaveAdmission n).sect n = { s.sect n with svc := 1 } := s.sect_updSect_same n fun x => { x with svc := 1 }
  refine ⟨_, run, ?_, job, (congrArg Mbox.pend (t.mbox_updMbox_same f _)).trans waits⟩
  calc (t.sect n).svc = ((s.leaveAdmission n).sect n).svc := (congrArg (fun c : Clk => (c.sections.getD n.toNat {}).svc) clk :)
    _ = 1 := by rw [fenced]

/-! ## SECTION_REPAIR and SECTION_RETURN -/

/-- A power-on leaves the spine and the mailboxes. -/
theorem State.sectionUp_keeps (s : State) (n : BitVec 4) :
    (s.sectionUp n).spine = s.spine ∧ ∀ f, (s.sectionUp n).mbox f = s.mbox f := by
  have rest : ((s.sectRamp n).sectLock n).offClk = s.offClk := rfl
  unfold State.sectionUp
  generalize (s.sectRamp n).sectLock n = a at rest ⊢
  obtain ⟨-, -, -, off⟩ := a.sectRelease_spec n
  exact ⟨(congrArg State.spine off :).trans (congrArg State.spine rest :), fun f =>
    (congrArg (fun a : State => a.mbox f) off :).trans (congrArg (fun a : State => a.mbox f) rest :)⟩

/-- A section in which the repair test runs: powered, with its endpoints OFF (16 R450). -/
def State.underRepair (s : State) (n : BitVec 4) : State :=
  ((s.setEps n 2).sectionUp n).updSect n fun x => { x with svc := 2 }

theorem State.underRepair_spec (s : State) (n : BitVec 4) :
    ((s.underRepair n).sect n).svc = 2 ∧ ((s.underRepair n).sect n).pstate = 3 ∧ ((s.underRepair n).router n).ep = [2, 2, 2, 2] ∧
      (∀ f, (s.underRepair n).mbox f = s.mbox f) ∧ (s.underRepair n).mem = s.mem := by
  have router := s.router_updRouter_same n fun t => { t with ep := [2, 2, 2, 2], busy := false, epWait := [] }
  obtain ⟨up, -, mem, -⟩ := (s.setEps n 2).sectionUp_spec n
  obtain ⟨spine, mbox⟩ := (s.setEps n 2).sectionUp_keeps n
  unfold State.underRepair
  generalize (s.setEps n 2).sectionUp n = a at up mem spine mbox ⊢
  have sect := a.sect_updSect_same n fun x => { x with svc := 2 }
  have ep : (a.router n).ep = ((s.setEps n 2).router n).ep :=
    (congrArg (fun p : Spine => (p.routers.getD n.toNat (Router.reset n.toNat)).ep) spine :)
  exact ⟨(congrArg Section.svc sect :), (congrArg Section.pstate sect :).trans up, ep.trans (congrArg Router.ep router :), mbox,
    mem.trans (s.setEps_mem n 2)⟩

theorem answers_sectionRepair {s : State} {f : FuncId} (accepted : s.accepts f 0x0802 = true)
    (fenced : (s.sect (BitVec.ofNat 4 (s.arg f 8 1))).svc = 1) (idle : s.fw.fenceJob = none)
    (off : (s.sect (BitVec.ofNat 4 (s.arg f 8 1))).pstate = 0) : Answers (.sectionRepair f) s fun s' =>
      (s'.sect (BitVec.ofNat 4 (s.arg f 8 1))).svc = 2 ∧ (s'.sect (BitVec.ofNat 4 (s.arg f 8 1))).pstate = 3 ∧
        (s'.router (BitVec.ofNat 4 (s.arg f 8 1))).ep = [2, 2, 2, 2] ∧ (s'.mbox f).status = OK ∧ s'.mem = s.mem := by
  have run : exec (.sectionRepair f) s = .next ((s.underRepair (BitVec.ofNat 4 (s.arg f 8 1))).completes f [] none) := by
    show execSectionRepair f s = _
    rw [execSectionRepair, State.perform_accepts accepted, State.sectionRepair]
    dsimp only
    rw [fenced, idle, if_neg (fun no => no.2.elim (absurd · (by decide)) (·.elim (absurd · (by decide)) (absurd · Bool.false_ne_true))),
      if_pos off, if_neg (not_not_intro off)]
    rfl
  generalize BitVec.ofNat 4 (s.arg f 8 1) = n at run ⊢
  obtain ⟨svc, pstate, ep, mbox, mem⟩ := s.underRepair_spec n
  generalize s.underRepair n = t at run svc pstate ep mbox mem
  refine answers_completes run ((congrArg Mbox.pend (mbox f)).trans (State.pend_of_accepts accepted)) fun s' rest status => ?_
  exact ⟨(congrArg (fun a : State => (a.sect n).svc) rest).trans svc, (congrArg (fun a : State => (a.sect n).pstate) rest).trans pstate,
    (congrArg (fun a : State => (a.router n).ep) rest).trans ep, status, (congrArg State.mem rest).trans mem⟩

/-- The clusters of a section that its return puts back into the reserve (16 R450). -/
def State.returned (s : State) (n : BitVec 4) : List ClusterId :=
  (sectClusters n).reverse.take (s.fw.reserve - s.fw.reserveSet.length)

/-- A section that is back in service: its endpoints are open, and nothing of its clusters is held against it. -/
def State.restored (s : State) (n : BitVec 4) : State :=
  ((s.setEps n 0).updSect n fun x => { x with svc := 0, gated := false }).updFw fun w =>
    { w with
      fencedClusters := w.fencedClusters.filter fun c => !(clusterSection c == n)
      reserveSet := w.reserveSet ++ s.returned n
      ueLog := w.ueLog.filter fun e => !(clusterSection e.1 == n)
      ceLog := w.ceLog.filter fun e => !(clusterSection e.1 == n)
      clusterFences := w.clusterFences.filter fun e => !(clusterSection e.1 == n) }

theorem State.restored_spec (s : State) (n : BitVec 4) :
    ((s.restored n).sect n).svc = 0 ∧ ((s.restored n).sect n).gated = false ∧ ((s.restored n).router n).ep = [0, 0, 0, 0] ∧
      ∀ c ∈ (s.restored n).fw.fencedClusters, clusterSection c ≠ n := by
  have router := s.router_updRouter_same n fun t => { t with ep := [0, 0, 0, 0], busy := false, epWait := [] }
  have sect := (s.setEps n 0).sect_updSect_same n fun x => { x with svc := 0, gated := false }
  exact ⟨(congrArg Section.svc sect :), (congrArg Section.gated sect :), (congrArg Router.ep router :),
    fun c kept => by simpa using (List.mem_filter.mp kept).2⟩

theorem answers_sectionReturn {s : State} {f : FuncId} (accepted : s.accepts f 0x0803 = true)
    (passed : (s.sect (BitVec.ofNat 4 (s.arg f 8 1))).svc = 3) : Answers (.sectionReturn f) s fun s' =>
      (s'.sect (BitVec.ofNat 4 (s.arg f 8 1))).svc = 0 ∧ (s'.sect (BitVec.ofNat 4 (s.arg f 8 1))).gated = false ∧
        (s'.router (BitVec.ofNat 4 (s.arg f 8 1))).ep = [0, 0, 0, 0] ∧
        (∀ c ∈ s'.fw.fencedClusters, clusterSection c ≠ BitVec.ofNat 4 (s.arg f 8 1)) ∧ (s'.mbox f).status = OK ∧ s'.mem = s.mem ∧
        s'.ctxs = s.ctxs := by
  obtain ⟨mask, run⟩ : ∃ mask, exec (.sectionReturn f) s = .next (((s.restored (BitVec.ofNat 4 (s.arg f 8 1))).adminEvent 0x0103
      (BitVec.ofNat 4 (s.arg f 8 1)).toNat mask).completes f [] none) := by
    apply Exists.intro
    show execSectionReturn f s = _
    rw [execSectionReturn, State.perform_accepts accepted, State.sectionReturn]
    dsimp only
    rw [if_neg (not_not_intro passed)]
    rfl
  generalize BitVec.ofNat 4 (s.arg f 8 1) = n at run ⊢
  obtain ⟨svc, gated, ep, cleared⟩ := s.restored_spec n
  have kept : (s.restored n).mem = s.mem ∧ (s.restored n).ctxs = s.ctxs ∧ (s.restored n).hub = s.hub := ⟨rfl, rfl, rfl⟩
  obtain ⟨mem, ctxs, hub⟩ := kept
  generalize s.restored n = t at run svc gated ep cleared mem ctxs hub
  have told : (t.adminEvent 0x0103 n.toNat mask).offHub = t.offHub := t.offHub_event t.hub.admin 0x0103 n.toNat mask
  have mbox : (t.adminEvent 0x0103 n.toNat mask).hub.mbox = t.hub.mbox := congrArg (·.2.2) (t.governed_adminEvent 0x0103 n.toNat mask)
  generalize t.adminEvent 0x0103 n.toNat mask = b at run told mbox
  have waits : (b.mbox f).pend = true :=
    (congrArg (fun m : Map Mbox => (m.getD f.toNat {}).pend) (mbox.trans (congrArg Hub.mbox hub))).trans (State.pend_of_accepts accepted)
  refine answers_completes run waits fun s' same status => ?_
  have rest := same.trans told
  have fw : s'.fw = t.fw := (congrArg State.fw rest :)
  refine ⟨(congrArg (fun a : State => (a.sect n).svc) rest).trans svc, (congrArg (fun a : State => (a.sect n).gated) rest).trans gated,
    (congrArg (fun a : State => (a.router n).ep) rest).trans ep, ?_, status, (congrArg State.mem rest).trans mem,
    (congrArg State.ctxs rest).trans ctxs⟩
  rw [fw]
  exact cleared

/-- Settles O50, command by command: each clause is the row's body at the checks that the hypotheses pass. -/
theorem observationAndRepairCommandsComplete : Obligations.ObservationAndRepairCommandsComplete := by
  intro f s
  exact ⟨monRead_answers, exec_statsRead_ring, answers_probeSet, answers_traceRead_chip,
    fun e acc range aligned some_ most inside => exec_diagRead acc range aligned some_ most inside, answers_sectionFence,
    fun acc _ fenced idle off => answers_sectionRepair acc fenced idle off, answers_sectionReturn, exec_bteConfig_rates⟩

end Sys2Proof.Machine
end

section
/-! PROOFS. The commands of the host family on flows and rings (03 R104, 05 R160, 12 R345, R355, 13 R389). -/

namespace Sys2Proof.Machine

/-! ## FLOW_DEFINE -/

/-- The record that the running image of a context gives flow `i`; none is a start at 0 with gap time 0 (log 137). -/
def State.flowStart (s : State) (x : CtxId) (i : Nat) : FlowRec := ((s.imageOf x).bind fun m => m.flows[i]?).getD ⟨0, 0⟩

/-- The quota that the command names, 16 where it names none. -/
def State.flowQuota (s : State) (f : FuncId) : Nat := if s.arg f 0x14 2 = 0 then 16 else s.arg f 0x14 2

/-- The ordered flow that the command defines (05 R160). -/
def State.flowMade (s : State) (f : FuncId) (x : CtxId) (v : Flow) : Flow :=
  { v with func := (s.ctx x).owner, ctx := x, next := (s.flowStart x (s.arg f 0x10 2)).first, ring := BitVec.ofNat 6 (s.arg f 0x12 1),
           valid := true, quota := BitVec.ofNat 9 (s.flowQuota f), gapto := (s.flowStart x (s.arg f 0x10 2)).gapto, items := [],
           granted := [], timer := 0, trun := false }

theorem State.flowDefine_ok {s : State} {f : FuncId} {x : CtxId}
    (state : (s.ctx x).state = ADMITTED ∨ (s.ctx x).state = RUNNING ∨ (s.ctx x).state = STOPPED)
    (named : s.arg f 0x10 2 < (s.ctx x).flowcnt.toNat)
    (undefined : (s.flow ((s.ctx x).flowbase + BitVec.ofNat 14 (s.arg f 0x10 2))).valid = false) (number : s.arg f 0x12 1 < 64)
    (unbound : s.flowOf (s.ctx x).owner (BitVec.ofNat 6 (s.arg f 0x12 1)) = none)
    (ring : ∃ g, s.ring (s.ctx x).owner (BitVec.ofNat 6 (s.arg f 0x12 1)) = some g ∧ g.kind = 1 ∧ g.fault = false)
    (small : s.flowQuota f ≤ 256) (room : s.quotas + s.flowQuota f ≤ 262144)
    (budget : s.budgetFor (s.ctx x).owner { reorder := s.flowQuota f } = true) :
    s.flowDefine f x = .ok (s.updFlow ((s.ctx x).flowbase + BitVec.ofNat 14 (s.arg f 0x10 2)) (s.flowMade f x))
      (leBytes 2 ((s.ctx x).flowbase + BitVec.ofNat 14 (s.arg f 0x10 2)).toNat) none := by
  obtain ⟨g, there, kind, plain⟩ := ring
  have small' : (if s.arg f 0x14 2 = 0 then 16 else s.arg f 0x14 2) ≤ 256 := small
  have over_ : ¬ (262144 < s.quotas + (if s.arg f 0x14 2 = 0 then 16 else s.arg f 0x14 2) ∨
      (!s.budgetFor (s.ctx x).owner { reorder := if s.arg f 0x14 2 = 0 then 16 else s.arg f 0x14 2 }) = true) := by
    rintro (more | refused)
    · exact absurd room (Nat.not_le.mpr more)
    · rw [show s.budgetFor (s.ctx x).owner { reorder := if s.arg f 0x14 2 = 0 then 16 else s.arg f 0x14 2 } = true from budget] at refused
      exact Bool.false_ne_true refused
  unfold State.flowDefine
  dsimp only
  rw [if_neg (by tauto), if_neg (Nat.not_le.mpr named), undefined, if_neg Bool.false_ne_true,
    checked_none (by simp [firstBad, number, unbound, there, kind, plain, small']), if_neg over_]
  rfl

theorem exec_flowDefine {s : State} {f : FuncId} (accepted : s.accepts f 0x0301 = true) (served : s.serves f = true) :
    exec (.flowDefine f) s = .next (s.settle f (s.flowDefine f (s.argCtx f 8))) := by
  show execFlowDefine f s = _
  rw [execFlowDefine, State.perform_served accepted served]

/-! ## RING_CREATE -/

/-- The ring that the command makes: its indices are 0 (12 R345). -/
def State.ringMade (s : State) (f : FuncId) : Ring :=
  let a := s.arg f
  let k := a 0x10 1
  let opt := a 0x13 1
  { kind := BitVec.ofNat 2 k, lsize := BitVec.ofNat 4 (a 0x11 1), holdm := k == 0 && opt == 1, fault := k == 1 && opt / 2 % 2 == 1,
    win := k == 1 && opt / 4 % 2 == 1, vec := BitVec.ofNat 6 (a 0x12 1), ctx := s.argCtx f 0x14, cring := BitVec.ofNat 6 (a 0x16 1),
    base := BitVec.ofNat 64 (a 0x18 8), shadow := BitVec.ofNat 64 (a 0x20 8),
    stage := if k = 1 then (if a 0x17 1 = 0 then 8 else a 0x17 1) else 0,
    count := if k = 1 then a 0x28 2 else 1, time := a 0x2A 2, firstSlot := BitVec.ofNat 6 (a 0x2C 1), h := 0, d := 0 }

/-- A ring number that is free, and a row whose checks pass, make the ring. -/
theorem State.ringCreate_ok {s : State} {f : FuncId} (absent : s.ring f (s.argRing f) = none) (free : s.claimed f (s.argRing f) = false)
    (oneFault : ¬ (s.arg f 0x10 1 = 1 ∧ s.arg f 0x13 1 / 2 % 2 = 1 ∧ (s.faultRing f).isSome = true))
    (mine : ¬ ((s.arg f 0x10 1 = 0 ∨ s.arg f 0x10 1 = 2) ∧ (!(decide (s.arg f 0x14 2 < 8192) && (s.ctx (s.argCtx f 0x14)).state != FREE &&
      (s.ctx (s.argCtx f 0x14)).owner == f)) = true))
    (sound : firstBad (s.ringChecks f (s.arg f 0x10 1)) = none)
    (room : ¬ (s.arg f 0x10 1 = 1 ∧ 16384 < s.stagingUsed + (if s.arg f 0x17 1 = 0 then 8 else s.arg f 0x17 1))) :
    s.ringCreate f = .done (s.setRing f (s.argRing f) (s.ringMade f)) := by
  unfold State.ringCreate
  dsimp only
  rw [absent, free, if_neg (by decide), if_neg oneFault, if_neg mine, checked_none sound, if_neg room]
  rfl

/-- The rings of a state whose command completes, but for what their core does not show. -/
theorem State.ringCore_completes {t : State} {f : FuncId} (waits : (t.mbox f).pend = true) (payload : List Byte) (h : FuncId) (q : RingId) :
    (t.completes f payload none).ringCore h q = t.ringCore h q := by
  show (t.answer f OK 0 payload).ringCore h q = t.ringCore h q
  rw [State.answer_eq waits]
  split
  · rw [State.ringCore_raise]
    rfl
  · rfl

theorem answers_ringCreate {s : State} {f : FuncId} (accepted : s.accepts f 0x0302 = true)
    (made : s.ringCreate f = .done (s.setRing f (s.argRing f) (s.ringMade f))) : Answers (.ringCreate f) s fun s' =>
      ∃ g, s'.ring f (s.argRing f) = some g ∧ g.core = (s.ringMade f).core ∧ (s'.mbox f).status = OK ∧ s'.mem = s.mem := by
  have run : exec (.ringCreate f) s = .next ((s.setRing f (s.argRing f) (s.ringMade f)).completes f [] none) := by
    show execRingCreate f s = _
    rw [execRingCreate, State.perform_accepts accepted, made]
    rfl
  have waits : ((s.setRing f (s.argRing f) (s.ringMade f)).mbox f).pend = true := State.pend_of_accepts accepted
  have core := (State.ringCore_completes waits [] f (s.argRing f)).trans (s.ringCore_setRing_same f (s.argRing f) (s.ringMade f))
  obtain ⟨g, ring, same⟩ := State.ring_of_ringCore core
  obtain ⟨-, -, status, rest⟩ := State.completes_spec waits [] none
  exact ⟨_, run, g, ring, same, status, (congrArg State.mem rest :)⟩

theorem answers_ringCreate_reel {s : State} {f : FuncId} (accepted : s.accepts f 0x0302 = true)
    (absent : s.ring f (s.argRing f) = none) (free : s.claimed f (s.argRing f) = false)
    (sound : firstBad (s.ringChecks f (s.arg f 0x10 1)) = none) (kind : s.arg f 0x10 1 = 1)
    (oneFault : s.arg f 0x13 1 / 2 % 2 = 1 → s.faultRing f = none)
    (room : s.stagingUsed + (if s.arg f 0x17 1 = 0 then 8 else s.arg f 0x17 1) ≤ 16384) : Answers (.ringCreate f) s fun s' =>
      ∃ g, s'.ring f (s.argRing f) = some g ∧ g.kind = 1 ∧ g.h = 0 ∧ g.d = 0 ∧ g.rfault = false ∧
        g.lsize = BitVec.ofNat 4 (s.arg f 0x11 1) ∧ g.base = BitVec.ofNat 64 (s.arg f 0x18 8) ∧ (s'.mbox f).status = OK ∧
        s'.mem = s.mem := by
  obtain ⟨s', run, g, ring, core, status, mem⟩ := answers_ringCreate accepted (State.ringCreate_ok absent free
    (fun no => by rw [oneFault no.2.1] at no; exact Bool.false_ne_true no.2.2)
    (fun no => by rw [kind] at no; exact absurd no.1 (by decide)) sound (fun no => absurd room (Nat.not_le.mpr no.2)))
  have made : (s.ringMade f).kind = 1 := (congrArg (BitVec.ofNat 2) kind :)
  exact ⟨s', run, g, ring, (congrArg Ring.kind core :).trans made, (congrArg Ring.h core :), (congrArg Ring.d core :),
    (congrArg Ring.rfault core :), (congrArg Ring.lsize core :), (congrArg Ring.base core :), status, mem⟩

theorem answers_ringCreate_headbox {s : State} {f : FuncId} (accepted : s.accepts f 0x0302 = true)
    (absent : s.ring f (s.argRing f) = none) (free : s.claimed f (s.argRing f) = false)
    (sound : firstBad (s.ringChecks f (s.arg f 0x10 1)) = none) (kind : s.arg f 0x10 1 = 0) (number : s.arg f 0x14 2 < 8192)
    (taken : (s.ctx (s.argCtx f 0x14)).state ≠ FREE) (own : (s.ctx (s.argCtx f 0x14)).owner = f) :
    Answers (.ringCreate f) s fun s' =>
      ∃ g, s'.ring f (s.argRing f) = some g ∧ g.kind = 0 ∧ g.h = 0 ∧ g.d = 0 ∧ g.ctx = s.argCtx f 0x14 ∧
        (s'.mbox f).status = OK ∧ s'.mem = s.mem := by
  have other : s.arg f 0x10 1 ≠ 1 := by rw [kind]; decide
  obtain ⟨s', run, g, ring, core, status, mem⟩ := answers_ringCreate accepted (State.ringCreate_ok absent free
    (fun no => other no.1) (fun no => by simp [number, taken, own] at no) sound (fun no => other no.1))
  have made : (s.ringMade f).kind = 0 := (congrArg (BitVec.ofNat 2) kind :)
  exact ⟨s', run, g, ring, (congrArg Ring.kind core :).trans made, (congrArg Ring.h core :), (congrArg Ring.d core :),
    (congrArg Ring.ctx core :), status, mem⟩

/-! ## RING_DESTROY and RING_REWIND -/

theorem exec_ringDestroy {s : State} {f : FuncId} {g : Ring} (accepted : s.accepts f 0x0303 = true)
    (ring : s.ring f (s.argRing f) = some g) (clear : g.fault = true → s.ctxsOf f = []) (kind : g.kind ≠ 1) :
    exec (.ringDestroy f) s = .next ((s.destroyRing f (s.argRing f)).completes f [] none) := by
  have unused : ¬ (g.fault = true ∧ (!(s.ctxsOf f).isEmpty) = true) := fun no => by simp [clear no.1] at no
  show execRingDestroy f s = _
  rw [execRingDestroy, State.perform_accepts accepted, ring]
  dsimp only
  rw [if_neg unused, if_neg fun no => kind no.1]
  rfl

/-- RING_REWIND of a headbox ring that has had a mark: the mark must still be valid, and the head entry must not wait. -/
theorem exec_ringRewind {s : State} {f : FuncId} {g : Ring} (accepted : s.accepts f 0x0304 = true)
    (ring : s.ring f (s.argRing f) = some g) (kind : g.kind = 0) (sound : g.rfault = false) (marked : g.markSet = true) :
    exec (.ringRewind f) s = .next (s.settle f (if ¬ g.markv = true then .bad MARK_LOST 0x08
      else if g.waiting.isSome then .later s else .done (s.rewind f (s.argRing f) g))) := by
  show execRingRewind f s = _
  rw [execRingRewind, State.perform_accepts accepted, ring]
  dsimp only
  rw [if_neg (not_not_intro kind), sound, if_neg Bool.false_ne_true, if_neg (not_not_intro marked)]

end Sys2Proof.Machine
end

section
/-! PROOFS. The commands of the host family on banks, windows, lock groups, functions, the administrative role and seal keys (02 R70,
10 R294, R298, R309, 12 R361, R362, 13 R390-R392). -/

namespace Sys2Proof.Machine

/-- A command that completes without a payload. -/
theorem State.settle_done (s t : State) (f : FuncId) : s.settle f (.done t) = t.completes f [] none := rfl

/-! ## BANK_ASSIGN -/

/-- The word that BANK_ASSIGN writes to BANK_OWNER: KIND, CLR and CTX (10 R298). -/
def bankOwnerWord (kind : Nat) (clr : Bool) (x : CtxId) : Word := BitVec.ofNat 32 (kind + (if clr then 4 else 0) + 16 * x.toNat)

theorem kind_bankOwnerWord (kind : Nat) (clr : Bool) (x : CtxId) :
    (bits (bankOwnerWord kind clr x) 0 2 : BitVec 2) = BitVec.ofNat 2 kind := by
  refine BitVec.eq_of_toNat_eq ?_
  simp only [bits, bankOwnerWord, BitVec.extractLsb'_toNat, BitVec.toNat_ofNat, Nat.shiftRight_zero]
  split <;> omega

theorem ctx_bankOwnerWord {kind : Nat} (small : kind ≤ 2) (clr : Bool) (x : CtxId) :
    (bits (bankOwnerWord kind clr x) 4 13 : BitVec 13) = x := by
  have bound := x.isLt
  refine BitVec.eq_of_toNat_eq ?_
  simp only [bits, bankOwnerWord, BitVec.extractLsb'_toNat, BitVec.toNat_ofNat, Nat.shiftRight_eq_div_pow]
  split <;> omega

theorem clr_bankOwnerWord {kind : Nat} (small : kind ≤ 2) (clr : Bool) (x : CtxId) :
    (bankOwnerWord kind clr x).getLsbD 2 = clr := by
  rw [bankOwnerWord, BitVec.getLsbD_ofNat, Nat.testBit_eq_decide_div_mod_eq]
  cases clr
  · simp; omega
  · simp; omega

/-- A bank that the command gives away: its accesses under way are waited for, and it is cleared where `clr` asks (10 R298). -/
def Bank.given (b : Bank) (kind : BitVec 2) (x : CtxId) (clr : Bool) (fc : Nat) : Bank :=
  { b with kind := kind, ctx := x, clring := b.clring || clr, clrDue := if clr then fc + 4096 else b.clrDue,
           pendDue := max ((b.taken.map (· + 6)).getD 0) ((b.takenB.map (· + 6)).getD 0), assigned := true }

/-- The state once bank `n` is given away. -/
def State.bankGiven (s : State) (n : Byte) (kind : Nat) (x : CtxId) : State :=
  (s.bankOwner n (bankOwnerWord kind ((s.bank n).kind == 2 || !(s.bank n).assigned) x)).updBank n fun b => { b with assigned := true }

theorem State.bankGiven_spec (s : State) (n : Byte) {kind : Nat} (small : kind ≤ 2) (x : CtxId) :
    let t := s.bankGiven n kind x
    t.bank n = (s.bank n).given (BitVec.ofNat 2 kind) x ((s.bank n).kind == 2 || !(s.bank n).assigned) (s.fc (bankCluster n)) ∧
      (∀ m, m ≠ n → t.bank m = s.bank m) ∧ { t with banks := s.banks } = s := by
  have real : (BitVec.ofNat 2 kind : BitVec 2) ≠ 3 := fun no => by
    have := congrArg BitVec.toNat no
    simp at this
    omega
  unfold State.bankGiven State.bankOwner
  dsimp only
  rw [kind_bankOwnerWord kind, if_neg real, ctx_bankOwnerWord small, clr_bankOwnerWord small]
  refine ⟨?_, fun m other => ?_, rfl⟩
  · rw [State.bank_updBank_same, State.bank_updBank_same]
    rfl
  · rw [State.bank_updBank_other _ other, State.bank_updBank_other _ other]

section BankAssign
variable {s : State} {f : FuncId} (accepted : s.accepts f 0x0401 = true) (fresh : (s.mbox f).begun = false)
  (opened : s.bankShut (BitVec.ofNat 8 (s.arg f 0x10 1)) = false)
  (target : (s.arg f 0x11 1 ≤ 1 ∧ s.arg f 0x12 2 = 0) ∨
    (s.arg f 0x11 1 = 2 ∧ s.arg f 0x12 2 < 8192 ∧ (s.ctx (s.argCtx f 0x12)).state ≠ FREE))
include accepted fresh opened target

theorem exec_bankAssign :
    let n : Byte := BitVec.ofNat 8 (s.arg f 0x10 1)
    let t := s.bankGiven n (s.arg f 0x11 1) (s.argCtx f 0x12)
    exec (.bankAssign f) s = .next (s.settle f (if ((t.bank n).clring || t.bankPend n) = true then .later t else .done t)) := by
  have there : ¬ (s.arg f 0x11 1 = 2 ∧ (8192 ≤ s.arg f 0x12 2 ∨ (s.ctx (s.argCtx f 0x12)).state = FREE)) := by
    rintro ⟨two, far | unused⟩
    · omega
    · rcases target with ⟨low, _⟩ | ⟨_, _, taken⟩
      · omega
      · exact taken unused
  show execBankAssign f s = _
  rw [execBankAssign, State.perform_accepts accepted, State.bankAssign]
  dsimp only
  rw [fresh, if_neg Bool.false_ne_true, if_neg there, opened, if_neg Bool.false_ne_true, if_neg (by omega), if_neg (by omega)]
  rfl

/-- A bank that was no context's and has been assigned before passes on at once where no access is under way. -/
theorem answers_bankAssign_done (unowned : (s.bank (BitVec.ofNat 8 (s.arg f 0x10 1))).kind ≠ 2)
    (known : (s.bank (BitVec.ofNat 8 (s.arg f 0x10 1))).assigned = true)
    (clean : (s.bank (BitVec.ofNat 8 (s.arg f 0x10 1))).clring = false)
    (quiet : ∀ q, (s.bank (BitVec.ofNat 8 (s.arg f 0x10 1))).taken = some q ∨ (s.bank (BitVec.ofNat 8 (s.arg f 0x10 1))).takenB = some q →
      q + 6 ≤ s.fc (bankCluster (BitVec.ofNat 8 (s.arg f 0x10 1)))) :
    let n : Byte := BitVec.ofNat 8 (s.arg f 0x10 1)
    Answers (.bankAssign f) s fun s' =>
      (s'.bank n).kind = BitVec.ofNat 2 (s.arg f 0x11 1) ∧ (s'.bank n).ctx = s.argCtx f 0x12 ∧ (s'.bank n).clring = false ∧
        (s'.mbox f).status = OK ∧ (∀ m, m ≠ n → s'.bank m = s.bank m) ∧ s'.mem = s.mem := by
  have run := exec_bankAssign accepted fresh opened target
  have small : s.arg f 0x11 1 ≤ 2 := by omega
  dsimp only at run ⊢
  generalize BitVec.ofNat 8 (s.arg f 0x10 1) = n at *
  obtain ⟨given_, others, rest⟩ := s.bankGiven_spec n small (s.argCtx f 0x12)
  have clear : ((s.bank n).kind == 2 || !(s.bank n).assigned) = false := by rw [known, beq_false_of_ne unowned]; rfl
  rw [clear] at given_
  have idle : (((s.bank n).taken.map (· + 6)).getD 0) ≤ s.fc (bankCluster n) ∧ (((s.bank n).takenB.map (· + 6)).getD 0) ≤ s.fc (bankCluster n) := by
    constructor
    · cases taken : (s.bank n).taken with
      | none => exact Nat.zero_le _
      | some q => exact quiet q (.inl taken)
    · cases taken : (s.bank n).takenB with
      | none => exact Nat.zero_le _
      | some q => exact quiet q (.inr taken)
  generalize s.bankGiven n (s.arg f 0x11 1) (s.argCtx f 0x12) = t at run given_ others rest
  have passed : (t.bank n).clring = false := by rw [given_, Bank.given, clean]; rfl
  have fc : t.fc (bankCluster n) = s.fc (bankCluster n) := (congrArg (fun a : State => a.fc (bankCluster n)) rest :)
  have still : t.bankPend n = false := by
    rw [State.bankPend, fc, given_]
    simpa [Bank.given] using fun _ => idle
  rw [passed, still, Bool.or_self, if_neg Bool.false_ne_true] at run
  have hub : t.hub = s.hub := (congrArg State.hub rest :)
  have waits : (t.mbox f).pend = true :=
    (congrArg (fun h : Hub => (h.mbox.getD f.toNat {}).pend) hub).trans (State.pend_of_accepts accepted)
  refine answers_completes (payload := []) (out := none) run waits fun s' same status => ?_
  have bank (m : Byte) : s'.bank m = t.bank m := (congrArg (fun a : State => a.bank m) same :)
  exact ⟨by rw [bank, given_]; rfl, by rw [bank, given_]; rfl, by rw [bank, passed], status, fun m other => (bank m).trans (others m other),
    (congrArg State.mem same :).trans (congrArg State.mem rest :)⟩

/-- A bank that was a context's, or has not been assigned since PORST_N, is cleared first (10 R298). -/
theorem answers_bankAssign_clears
    (dirty : (s.bank (BitVec.ofNat 8 (s.arg f 0x10 1))).kind = 2 ∨ (s.bank (BitVec.ofNat 8 (s.arg f 0x10 1))).assigned = false) :
    let n : Byte := BitVec.ofNat 8 (s.arg f 0x10 1)
    Answers (.bankAssign f) s fun s' =>
      (s'.bank n).kind = BitVec.ofNat 2 (s.arg f 0x11 1) ∧ (s'.bank n).ctx = s.argCtx f 0x12 ∧ (s'.bank n).clring = true ∧
        (s'.bank n).clrDue = s.fc (bankCluster n) + 4096 ∧ (s'.mbox f).begun = true ∧ (∀ m, m ≠ n → s'.bank m = s.bank m) ∧
        { s' with banks := s.banks, hub := s.hub } = s := by
  have run := exec_bankAssign accepted fresh opened target
  have small : s.arg f 0x11 1 ≤ 2 := by omega
  dsimp only at run ⊢
  generalize BitVec.ofNat 8 (s.arg f 0x10 1) = n at *
  obtain ⟨given_, others, rest⟩ := s.bankGiven_spec n small (s.argCtx f 0x12)
  have clear : ((s.bank n).kind == 2 || !(s.bank n).assigned) = true := by
    rcases dirty with kind | unknown
    · rw [kind]; rfl
    · rw [unknown]; exact Bool.or_true _
  rw [clear] at given_
  generalize s.bankGiven n (s.arg f 0x11 1) (s.argCtx f 0x12) = t at run given_ others rest
  have clears : (t.bank n).clring = true := by rw [given_]; exact Bool.or_true _
  rw [clears, Bool.true_or, if_pos rfl] at run
  have begun : ((t.goesOn f).mbox f).begun = true := (congrArg Mbox.begun (t.mbox_updMbox_same f fun m => { m with begun := true }) :)
  refine ⟨_, run, ?_, ?_, clears, ?_, begun, others, (congrArg (fun a : State => { a with hub := s.hub }) rest :)⟩
  · exact (congrArg Bank.kind given_ :)
  · exact (congrArg Bank.ctx given_ :)
  · exact (congrArg Bank.clrDue given_ :)

end BankAssign

/-! ## WINDOW_SET and LOCKGRP_RIGHTS -/

theorem exec_windowSet {s : State} {f : FuncId} (accepted : s.accepts f 0x0402 = true) (served : s.serves f = true)
    (number : s.arg f 0x10 1 ≤ 63)
    (sound : (BitVec.ofNat 128 (s.arg f 0x18 16)).getLsbD 48 = true → winWellFormed (BitVec.ofNat 128 (s.arg f 0x18 16)) = true ∧
      (f = s.hub.admin ∨ s.inOwnBanks (s.argCtx f 8) (BitVec.ofNat 128 (s.arg f 0x18 16)) = true)) :
    exec (.windowSet f) s = .next ((s.setWindow (s.argCtx f 8) (BitVec.ofNat 6 (s.arg f 0x10 1))
      (BitVec.ofNat 128 (s.arg f 0x18 16))).completes f [] none) := by
  show execWindowSet f s = _
  rw [execWindowSet]
  generalize BitVec.ofNat 128 (s.arg f 0x18 16) = raw at sound ⊢
  have formed : ¬ (raw.getLsbD 48 = true ∧ (!winWellFormed raw) = true) := fun no => by simp [(sound no.1).1] at no
  have mayOwn : ¬ (f ≠ s.hub.admin ∧ raw.getLsbD 48 = true ∧ (!s.inOwnBanks (s.argCtx f 8) raw) = true) := by
    rintro ⟨other, valid, outside⟩
    rcases (sound valid).2 with adm | inside
    · exact other adm
    · rw [inside] at outside
      exact Bool.false_ne_true outside
  rw [State.perform_served accepted served, if_neg (Nat.not_lt.mpr number), if_neg formed, if_neg mayOwn, State.settle_done]

theorem exec_lockgrpRights {s : State} {f : FuncId} (accepted : s.accepts f 0x0403 = true) (group : s.arg f 0x10 1 ≤ 63)
    (clusters : s.arg f 0x11 1 ≤ 7) :
    let row : LckGrp := { f0 := BitVec.ofNat 64 (s.arg f 0x18 8), f1 := BitVec.ofNat 64 (s.arg f 0x20 8), cl := BitVec.ofNat 3 (s.arg f 0x11 1) }
    let t : State := { s with locks := { s.locks with groups := s.locks.groups.set (s.arg f 0x10 1) row } }
    exec (.lockgrpRights f) s = .next (t.completes f [] none) := by
  show execLockgrpRights f s = _
  rw [execLockgrpRights, State.perform_accepts accepted, checked_none (by simp [firstBad, group, clusters])]
  rfl

/-! ## FUNC_SET -/

theorem exec_funcSet {s : State} {f : FuncId} (accepted : s.accepts f 0x0501 = true) (op : s.arg f 0x10 1 = 0)
    (keeps : s.arg f 0x11 1 % 2 = 1 ∨ BitVec.ofNat 7 (s.arg f 8 1) ≠ s.hub.admin)
    (sound : firstBad (budgetOk (BitVec.ofNat 64 (s.arg f 0x18 8)) (BitVec.ofNat 64 (s.arg f 0x20 8))
      (BitVec.ofNat 64 (s.arg f 0x28 8))) = none) :
    exec (.funcSet f) s = .next ((s.updFunc (BitVec.ofNat 7 (s.arg f 8 1)) fun e =>
      { e with en := s.arg f 0x11 1 % 2 == 1, dbg := s.arg f 0x11 1 / 4 % 2 == 1, pio := s.arg f 0x11 1 / 8 % 2 == 1,
               bud0 := BitVec.ofNat 64 (s.arg f 0x18 8), bud1 := BitVec.ofNat 64 (s.arg f 0x20 8),
               bud2 := BitVec.ofNat 64 (s.arg f 0x28 8), refuse := false }).completes f [] none) := by
  have adminOn : (s.arg f 0x11 1 % 2 == 1 || BitVec.ofNat 7 (s.arg f 8 1) != s.hub.admin) = true := by simpa using keeps
  have checks : firstBad ([(s.arg f 0x10 1 == 0, 0x10), (s.arg f 0x11 1 % 2 == 1 || BitVec.ofNat 7 (s.arg f 8 1) != s.hub.admin, 0x11)] ++
      budgetOk (BitVec.ofNat 64 (s.arg f 0x18 8)) (BitVec.ofNat 64 (s.arg f 0x20 8)) (BitVec.ofNat 64 (s.arg f 0x28 8))) = none :=
    (firstBad_ok (by rw [op]; rfl) _ _).trans ((firstBad_ok adminOn _ _).trans sound)
  show execFuncSet f s = _
  rw [execFuncSet]
  dsimp only
  rw [State.perform_selected accepted (by rw [op]; rfl), checked_none checks, State.settle_done]

/-- An image that is loaded passes to function `g`. -/
def Fw.giveImage (w : Fw) (h : BitVec 16) (g : FuncId) : Fw :=
  { w with images := match w.images.find h.toNat with
      | some m => w.images.set h.toNat { m with owner := g }
      | none => w.images }

theorem Fw.image_giveImage {w : Fw} {h : BitVec 16} {m : Image} (loaded : w.images.find h.toNat = some m) (g : FuncId) :
    (w.giveImage h g).images.find h.toNat = some { m with owner := g } := by
  unfold Fw.giveImage
  rw [loaded]
  exact Map.find_set_same _ _ _

/-- FUNC_SET with OP 1: the context passes to the function named, with the image that it runs (13 R391). -/
theorem answers_funcSetMoveContext {s : State} {f : FuncId} (accepted : s.accepts f 0x0501 = true) (op : s.arg f 0x10 1 = 1)
    (number : s.arg f 0x12 2 < 8192) (taken : (s.ctx (s.argCtx f 0x12)).state ≠ FREE)
    (outside : (s.caux (s.argCtx f 0x12)).deckle = false) (ring : (s.faultRing (BitVec.ofNat 7 (s.arg f 8 1))).isSome = true)
    (unbound : (s.hub.flows.anyV fun _ w => w.valid && w.ctx == s.argCtx f 0x12) = false)
    (alone : (s.ctxs.anyV fun n c => n != (s.argCtx f 0x12).toNat && c.state != FREE && c.owner == (s.ctx (s.argCtx f 0x12)).owner &&
      c.image == (s.ctx (s.argCtx f 0x12)).image) = false)
    (budget : BitVec.ofNat 7 (s.arg f 8 1) = (s.ctx (s.argCtx f 0x12)).owner ∨
      s.budgetFor (BitVec.ofNat 7 (s.arg f 8 1)) (s.ctx (s.argCtx f 0x12)).use = true) :
    Answers (.funcSetMoveContext f) s fun s' =>
      s'.ctx (s.argCtx f 0x12) = { s.ctx (s.argCtx f 0x12) with owner := BitVec.ofNat 7 (s.arg f 8 1) } ∧
        (∀ z, z ≠ s.argCtx f 0x12 → s'.ctx z = s.ctx z) ∧
        (∀ m, s.image (s.ctx (s.argCtx f 0x12)).image = some m →
          s'.image (s.ctx (s.argCtx f 0x12)).image = some { m with owner := BitVec.ofNat 7 (s.arg f 8 1) }) ∧
        (s'.mbox f).status = OK ∧ s'.mem = s.mem := by
  have performed : exec (.funcSetMoveContext f) s = .next (s.settle f (s.moveOwner f)) :=
    congrArg Host.Outcome.next (State.perform_selected accepted (by rw [op]; rfl) _)
  rw [State.moveOwner] at performed
  dsimp only at performed
  generalize s.argCtx f 0x12 = y at *
  generalize (BitVec.ofNat 7 (s.arg f 8 1) : FuncId) = g at *
  have noRing : ¬ (s.faultRing g).isNone = true := by
    rw [Option.isNone_iff_eq_none, ← Option.not_isSome_iff_eq_none]
    exact not_not_intro ring
  rw [if_neg (not_or.mpr ⟨Nat.not_le.mpr number, taken⟩), outside, if_neg Bool.false_ne_true, if_neg noRing, unbound, alone,
    if_neg (by decide), if_neg (fun no => budget.elim no.1 fun fits => by rw [fits] at no; exact Bool.false_ne_true no.2),
    State.settle_done] at performed
  have run : exec (.funcSetMoveContext f) s =
      .next (((s.updCtx y fun c => { c with owner := g }).updFw (·.giveImage (s.ctx y).image g)).completes f [] none) := performed
  refine answers_completes run (State.pend_of_accepts accepted) fun s' rest status => ?_
  have ctx (z : CtxId) : s'.ctx z = (s.updCtx y fun c => { c with owner := g }).ctx z :=
    (congrArg (fun a : State => a.ctx z) rest :)
  refine ⟨(ctx y).trans (s.ctx_updCtx_same y _), fun z other => (ctx z).trans (State.ctx_updCtx_other s other _), fun m loaded => ?_, status,
    (congrArg State.mem rest :)⟩
  exact (congrArg (fun a : State => a.image (s.ctx y).image) rest).trans (Fw.image_giveImage loaded g)

/-! ## ADMIN_MOVE -/

theorem exec_adminMove_offer {s : State} {f : FuncId} (accepted : s.accepts f 0x0502 = true) (number : s.arg f 8 8 ≤ 127)
    (adm : f = s.hub.admin) (other : (BitVec.ofNat 7 (s.arg f 8 8) : FuncId) ≠ f) :
    exec (.adminMove f) s = .next ((s.updHub fun h =>
      { h with offer := some (BitVec.ofNat 7 (s.arg f 8 8), s.scnt + scMs 10000) }).completes f [] none) := by
  show execAdminMove f s = _
  rw [execAdminMove, State.perform_accepts accepted, if_neg (Nat.not_lt.mpr number), if_pos adm, if_neg other]
  rfl

/-- The role and the offer of it, through the completion of a command. -/
theorem State.role_completes {t : State} {f : FuncId} (waits : (t.mbox f).pend = true) (payload : List Byte) :
    (t.completes f payload none).hub.admin = t.hub.admin ∧ (t.completes f payload none).hub.offer = t.hub.offer := by
  obtain ⟨sent, rsp, before, after⟩ := State.signalled_completes waits payload none
  exact ⟨(congrArg (·.hub.admin) after.rest :).trans (congrArg (·.hub.admin) before.rest :),
    (congrArg (·.hub.offer) after.rest :).trans (congrArg (·.hub.offer) before.rest :)⟩

/-- The function that the role has been offered to confirms within 10 s, and has it (12 R362). -/
theorem answers_adminMove_confirm {s : State} {f : FuncId} {due : Nat} (accepted : s.accepts f 0x0502 = true)
    (number : s.arg f 8 8 ≤ 127) (other : f ≠ s.hub.admin) (own : (BitVec.ofNat 7 (s.arg f 8 8) : FuncId) = f)
    (offered : s.hub.offer = some (f, due)) (live : s.scnt ≤ due) : Answers (.adminMove f) s fun s' =>
      s'.hub.admin = f ∧ s'.hub.offer = none ∧ (s'.mbox f).status = OK ∧ s'.mem = s.mem ∧ s'.ctxs = s.ctxs := by
  let taken := s.updHub fun h => { h with admin := f, offer := none }
  have run : exec (.adminMove f) s = .next ((taken.event s.hub.admin 0x0022 f.toNat 0).completes f [] none) := by
    show execAdminMove f s = _
    rw [execAdminMove, State.perform_accepts accepted, if_neg (Nat.not_lt.mpr number), if_neg other, offered,
      if_pos ⟨own, by simp [live]⟩]
    rfl
  have told := taken.signalled_event s.hub.admin 0x0022 f.toNat 0
  generalize taken.event s.hub.admin 0x0022 f.toNat 0 = t at run told
  have waits : (t.mbox f).pend = true := (congrArg Mbox.pend (told.mbox f)).trans (State.pend_of_accepts accepted)
  obtain ⟨admin, offer⟩ := State.role_completes waits []
  obtain ⟨-, -, status, rest⟩ := State.completes_spec waits [] none
  exact ⟨_, run, admin.trans (congrArg (·.hub.admin) told.rest :), offer.trans (congrArg (·.hub.offer) told.rest :), status,
    (congrArg State.mem rest :).trans told.mem, (congrArg State.ctxs rest :).trans told.ctxs⟩

/-! ## SEAL_KEY_SET -/

theorem exec_sealKeySet {s : State} {f : FuncId} (accepted : s.accepts f 0x0503 = true) (slot : s.arg f 0x10 1 ≤ 7)
    (op : s.arg f 0x11 1 = 0) (curve : onCurve (s.argKey f).1 (s.argKey f).2 = true) :
    exec (.sealKeySet f) s = .next ((s.updFw fun w =>
      { w with seals := w.seals.set (s.arg f 0x10 1) (BitVec.ofNat 768 ((s.argKey f).1 * 2 ^ 384 + (s.argKey f).2)) }).completes f [] none) := by
  show execSealKeySet f s = _
  rw [execSealKeySet]
  dsimp only
  rw [State.perform_selected accepted (by rw [op]; rfl), checked_none (by simp [firstBad, slot, op, curve])]
  rfl

theorem exec_sealKeyClear {s : State} {f : FuncId} (accepted : s.accepts f 0x0503 = true) (slot : s.arg f 0x10 1 ≤ 7)
    (op : s.arg f 0x11 1 = 1) (zero : s.argKey f = (0, 0)) :
    exec (.sealKeyClear f) s = .next ((s.updFw fun w => { w with seals := w.seals.erase (s.arg f 0x10 1) }).completes f [] none) := by
  show execSealKeyClear f s = _
  rw [execSealKeyClear, zero]
  dsimp only
  rw [State.perform_selected accepted (by rw [op]; rfl), checked_none (by simp [firstBad, slot])]
  rfl

/-- Settles O48, command by command: each clause is the row's body at the checks that the hypotheses pass. -/
theorem hostCommandsComplete : Obligations.HostCommandsComplete := by
  intro f s a x r
  refine ⟨?flow, fun acc absent free sound => ⟨answers_ringCreate_reel acc absent free sound,
      answers_ringCreate_headbox acc absent free sound⟩, ?destroy, ?rewind, ?bank, exec_windowSet, exec_lockgrpRights,
    fun acc => ⟨exec_funcSet acc, answers_funcSetMoveContext acc⟩,
    fun acc number => ⟨fun adm other => exec_adminMove_offer acc number adm other,
      fun due other own offered live => answers_adminMove_confirm acc number other own offered live⟩,
    fun acc slot => ⟨exec_sealKeySet acc slot, exec_sealKeyClear acc slot⟩⟩
  case flow =>
    intro acc served e n r k w state named undefined number unbound ring small room budget
    rw [exec_flowDefine acc served, State.flowDefine_ok state named undefined number unbound ring small room budget]
    rfl
  case destroy => exact fun g acc ring clear kind => ⟨exec_ringDestroy acc ring clear kind, s.ring_destroyRing_same f _⟩
  case rewind =>
    intro g acc ring kind sound marked
    rw [exec_ringRewind acc ring kind sound marked]
    refine ⟨fun valid free => ?_, fun lost => ?_⟩
    · rw [if_neg (not_not_intro valid), free, Option.isSome_none, if_neg Bool.false_ne_true]
      rfl
    · rw [lost, if_pos Bool.false_ne_true]
  case bank =>
    exact fun acc fresh opened target => ⟨answers_bankAssign_done acc fresh opened target, answers_bankAssign_clears acc fresh opened target⟩

end Sys2Proof.Machine
end
